-- ==== Sys2Proof/Word.lean ====
section
/-!
DEFINITION. The words the QKE3-M58 model is written in. Nothing here carries behaviour: every
operation on them stands under `Sys2Proof/Machine/`.
-/

namespace Sys2Proof

/-- A byte of memory or of a packet (R6, R7: bit 0 is the least significant bit). -/
abbrev Byte := BitVec 8

/-- A byte string, first byte first (R7: fields in it are little-endian). -/
abbrev Bytes := List Byte

/-- A value of the local timer, the 64-bit counter at 100 MHz (R11, R35). -/
abbrev Tick := BitVec 64

end Sys2Proof
end

