-- ==== Sys2Proof/Syntax.lean ====
section
/-!
DEFINITION. The commands of the block: one constructor of `Instr` per row of spec/opcode_table.json.
The rows that are Shorvo commands carry a `Packet` (R47); the other rows carry what the event brings.
-/

namespace Sys2Proof

/-- The two host networks (R27, R45). -/
inductive Network where
  | a
  | b
  deriving DecidableEq, Repr

/-- Where a datagram comes from or goes to: network, source address and UDP source port (R45), and the module's Ethernet
port on that network which carries it (R42); none where no rule says which of them. -/
structure Endpoint where
  network : Network
  addr : BitVec 128
  port : BitVec 16
  eth : Option (BitVec 3) := none
  deriving DecidableEq, Repr

/-- Whether two endpoints are one: the Ethernet port does not tell them apart (R42, R45). -/
def Endpoint.same (a b : Endpoint) : Bool := a.network == b.network && a.addr == b.addr && a.port == b.port

/-- A received Shorvo command datagram: the header words of R47 and the payload that starts at byte
offset 0x40. MAJOR and VARIANT are given by the constructor that carries the packet. The datagram's
length is 64 plus the payload's length. -/
structure Packet where
  src : Endpoint
  magic : BitVec 16
  version : BitVec 8
  hlen : BitVec 8
  flags : BitVec 15
  quiet : Bool
  resv : BitVec 6
  queue : BitVec 6
  inc : BitVec 8
  job : BitVec 12
  seq : BitVec 32
  timeout : BitVec 32
  plen : BitVec 32
  wait0 : BitVec 32
  wait1 : BitVec 32
  sig0 : BitVec 32
  sig1 : BitVec 32
  handle : BitVec 64
  tag : Bytes
  payload : Bytes
  deriving DecidableEq, Repr

/-- The Shorvo commands, one per opcode and variant of the Operation Catalogue. -/
inductive Op where
  | nop | fenceQueue | fenceJob | tieSignalAdd | tieSignalReset | tieWait | tieDump | echo
  | planLoad | planStart | quiesce | planUnload | jobAbort | jobNotice
  | copy | gather | scatter | scatterAdd | fill | rngFill | convert
  | matmul | hadamard | sparseForward | sparseDataGrad | sparseWeightGrad | spmm
  | riddleExact | riddleGuarded | riddleFree | mend | vexpr
  | reduceSum | reduceSumsq | reduceMax | reduceMin
  | distMinPlus | distMaxPlus | distL2 | distL1
  | route | dispatch | combine | dispatchGrad | combineGrad | expertCounts
  | reduceScatter | allGather | allReduce | norm | broadcast | send | recv
  | optimSweep | lossRead | lossLoad | stepCommit | stepRollback
  | reside | evict | checkpoint | restore | ownTake | ownGive
  | poolConfig | poolStatRecords | poolStatRequesters
  | bistStake | bistSide | bistModule | bistCheckers | crashDumpRead | logByNumber | logNewest
  | countersJob | countersModule | countersPort | countersArray | countersRouterHalf
  | traceSet | traceStart | traceStop | traceMark | hbmReadCheck | hbmPattern
  | spareStake | spareWeaveLane | spareHbmLane | spareDramRow | spareSramRow | spareMgmt
  | resetEngine | resetPartition | resetModule | resetPowerCycle
  | attestReport | attestChain | fwStageBegin | fwStageWrite
  | fwActivateTrial | fwActivateReset | fwActivateLock | policyPropose | policyCountersign
  deriving DecidableEq, Repr, Inhabited

/-- What orders commands: the control lane of a session, or one of the 64 queues (R51, R52). -/
inductive Lane where
  | control (sid : Nat)
  | queue (q : Nat)
  deriving DecidableEq, Repr

/-- A command that stands on a lane, by its lane and sequence number. -/
structure CmdId where
  lane : Lane
  seq : Nat
  deriving DecidableEq, Repr

/-- Who waits at a tie's home (R367): a command through WAIT0 (0), WAIT1 (1) or its payload tie (2),
a sequencer thread by its logical stake, or a command of another rank. -/
inductive WaiterId where
  | cmd (id : CmdId) (slot : Nat)
  | thread (stake thread : Nat)
  | far (rank : Nat) (id : CmdId)
  deriving DecidableEq, Repr

/-- A far tie request in the Weave request class (R374). -/
structure FarMsg where
  rank : Nat
  id : CmdId
  job : Nat
  inc : Nat
  ref : Nat
  reset : Bool
  amount : Int
  threshold : Nat
  deriving DecidableEq, Repr

/-- What the home of a far tie answers (R374, R376). -/
inductive FarAnswer where
  | ack
  | tableFull
  | badDescriptor
  | abandoned
  deriving DecidableEq, Repr

/-- The tag of a routed pair (Table 9.3, R261). -/
structure Tag where
  gate : BitVec 32
  held : Bool
  dropped : Bool
  replica : Bool
  last : Bool
  pad : Bool
  kslot : Nat
  expert : Nat
  token : Nat
  source : Nat
  inc : Nat
  deriving DecidableEq, Repr

/-- The kinds of exchange message (Table 9.5). -/
inductive ExKind where
  | counts | parcel | accept | hold | pull | result | tags | keep | grad | dgrad | spoil
  deriving DecidableEq, Repr

/-- An exchange message: the header granule of Table 9.4 and its body (R264). `entries` holds the
(TOTAL, SENT) pairs of COUNTS; `rows2` the ROW_IN rows of GRAD; `keep` the bitmap of KEEP. -/
structure ExMsg where
  job : Nat
  inc : Nat
  source : Nat
  exch : Nat
  group : Nat
  step : Nat
  lastGroup : Bool
  slot : Nat
  entries : List (Nat × Nat)
  tags : List Tag
  rows : List Bytes
  rows2 : List Bytes
  keep : List Bool
  held : Bool
  deriving DecidableEq, Repr

/-- The kinds of wale packet (Table 10.2). -/
inductive WaleKind where
  | chunk | ack | scales | gather | normUp | verdict | clear | sendData
  deriving DecidableEq, Repr

/-- A wale packet: the two header granules of R294 and its body. `vec` and `word` are the vector and
the verdict word of NORM_UP and VERDICT. For CLEAR and SEND_DATA, `step` is the match tag. -/
structure WaleMsg where
  job : Nat
  inc : Nat
  source : Nat
  bucket : Nat
  step : Nat
  shard : Nat
  chunk : Nat
  vfmt : Nat
  esc : Bool
  carried : Bool
  nonfinite : Bool
  last : Bool
  contrib : Nat
  missing : Nat
  body : Bytes
  vec : List (BitVec 32)
  word : BitVec 64
  count : Nat
  deriving DecidableEq, Repr

/-- A tray operation's OP (Table 13.4). -/
inductive TrayOp where
  | load | store | add | min | max | cas | fadd
  deriving DecidableEq, Repr

/-- A tray request packet (R422). `operand` is the operand word or the data of a STORE. -/
structure TrayReq where
  src : Nat
  job : Nat
  tag : Nat
  size : Nat
  fetch : Bool
  addr : BitVec 52
  operand : Bytes
  deriving DecidableEq, Repr

/-- A tray response (R425): result 0 OK, 1 ADDRESS, 2 NOT_OWNER; `bad` says that a word of it arrives uncorrectable
(R404). -/
structure TrayResp where
  tag : Nat
  result : Nat
  data : Bytes
  bad : Bool
  deriving DecidableEq, Repr

/-- A Weave packet in transit: its route granule (R403) and its operand words. `u` is the hash value
of R407 that a request-class packet routes by; `errs` the errors that its words met on the link, by word (R404). -/
structure WeavePkt where
  dest : BitVec 16
  src : BitVec 16
  cls : Nat
  vc : Nat
  ordered : Bool
  dateline : BitVec 3
  length : Nat
  first : Bool
  last : Bool
  pkt : Nat
  operand : BitVec 64
  u : Nat
  data : Bytes
  errs : List (Nat × BitVec 144) := []
  deriving DecidableEq, Repr

/-- What a TARGET_RESETTING or UNREACHABLE answer answers (R414). -/
inductive Answered where
  | exchange (job exch step rank : Nat)
  | wale (job bucket step shard chunk rank : Nat)
  | far (id : CmdId) (rank : Nat)
  | tray (tag : Nat) (rank : Nat)
  | steward (id : CmdId)
  | stream (id : CmdId) (rank : Nat)
  | gateway (job window rank : Nat)
  | join (x : Nat)
  deriving DecidableEq, Repr

/-- A notice record about a rank (R463), as JOB_NOTICE and relayed notices carry it. -/
structure NoticeRec where
  noticeId : Nat
  kind : Nat
  rank : Nat
  job : Nat
  inc : Nat
  record : Nat
  deriving DecidableEq, Repr

/-- A roster record (R436): state 0 ABSENT, 1 JOINING, 2 MEMBER, 3 QUARANTINED. -/
structure RosterRec where
  addr : Nat
  state : Nat
  digest : Bytes
  ipv4 : Nat
  ipv6 : Nat
  deriving DecidableEq, Repr

/-- A roster as a steward sends it (R436), with the steward's identity digest (R507). -/
structure RosterMsg where
  epoch : Nat
  records : List RosterRec
  steward : Bytes
  deriving DecidableEq, Repr

/-- Where an RDMA access points: a session's staging region, or a declared region by its key (R44). -/
inductive RdmaTarget where
  | staging (sid : Nat)
  | region (key : Nat)
  deriving DecidableEq, Repr

/-- A unit of R473 by UNIT_KIND and number. -/
structure UnitRef where
  kind : Nat
  num : Nat
  deriving DecidableEq, Repr

/-- An engine of R445: a stake's sequencer, transfer engine or vector engine (by physical stake), a
Slew engine or Pairing unit (by Side), a sweep unit, or a wale adder role (by physical stake). -/
inductive Engine where
  | sequencer (stake : Nat)
  | transfer (stake : Nat)
  | slew (side : Nat)
  | pairing (side : Nat)
  | sweep (unit : Nat)
  | adder (stake : Nat)
  deriving DecidableEq, Repr

/-- A lockstep pair (R450). -/
inductive LockPair where
  | side (n : Nat)
  | mgmt (border : Nat)
  deriving DecidableEq, Repr

/-- A clock whose lock can be lost (R450). -/
inductive Clock where
  | aclk (side : Nat)
  | nclkSide (side : Nat)
  | nclkBorder (border : Nat)
  | mclk (border : Nat)
  | fclk (border : Nat)
  | aoclk
  deriving DecidableEq, Repr

/-- A unit with duplicated state machines (R441, R450). -/
inductive DupUnit where
  | stake (phys : Nat)
  | sideUnit (side : Nat)
  | borderUnit (border : Nat)
  | router (border : Nat)
  | escalation
  deriving DecidableEq, Repr

/-- Where a residue check fails (R441): a vector engine, a wale adder working on a chunk, or a sweep
unit. `again` says that the re-run of the operation failed as well. -/
inductive ResidueAt where
  | vector (phys : Nat) (lane : Lane)
  | adder (job bucket step shard chunk : Nat)
  | sweep (unit : Nat)
  deriving DecidableEq, Repr

/-- A mailbox whose register is written (R387). -/
inductive Mailbox where
  | sideband
  | side (n : Nat)
  | small (stake : Nat)
  deriving DecidableEq, Repr

/-- A placed tensor as a placement table lists it (R421): ID, the bases of its extents in order (several for a
striped or planar one, R226, R329), whether they are the two planes of a swept tensor, and its length. -/
structure RemotePlace where
  tensor : Nat
  bases : List Nat
  planar : Bool
  length : Nat
  deriving DecidableEq, Repr

/-- What an attestation of a joining module showed (R505). -/
structure JoinReport where
  chainOk : Bool
  digest : Bytes
  m1 : Bytes
  deriving DecidableEq, Repr

/-- What link training found on one port (R399). -/
structure PortTrain where
  lanesFailed : List Nat
  neighbour : Nat
  neighbourPort : Nat
  deriving DecidableEq, Repr

/-- One command of the block: one constructor per row of the operation table. -/
inductive Instr where
  -- Shorvo commands
  | nop (p : Packet)
  | fenceQueue (p : Packet)
  | fenceJob (p : Packet)
  | tieSignalAdd (p : Packet)
  | tieSignalReset (p : Packet)
  | tieWait (p : Packet)
  | tieDump (p : Packet)
  | echo (p : Packet)
  | planLoad (p : Packet)
  | planStart (p : Packet)
  | quiesce (p : Packet)
  | planUnload (p : Packet)
  | jobAbort (p : Packet)
  | jobNotice (p : Packet)
  | copy (p : Packet)
  | gather (p : Packet)
  | scatter (p : Packet)
  | scatterAdd (p : Packet)
  | fill (p : Packet)
  | rngFill (p : Packet)
  | convert (p : Packet)
  | matmul (p : Packet)
  | hadamard (p : Packet)
  | sparseForward (p : Packet)
  | sparseDataGrad (p : Packet)
  | sparseWeightGrad (p : Packet)
  | spmm (p : Packet)
  | riddleExact (p : Packet)
  | riddleGuarded (p : Packet)
  | riddleFree (p : Packet)
  | mend (p : Packet)
  | vexpr (p : Packet)
  | reduceSum (p : Packet)
  | reduceSumsq (p : Packet)
  | reduceMax (p : Packet)
  | reduceMin (p : Packet)
  | distMinPlus (p : Packet)
  | distMaxPlus (p : Packet)
  | distL2 (p : Packet)
  | distL1 (p : Packet)
  | route (p : Packet)
  | dispatch (p : Packet)
  | combine (p : Packet)
  | dispatchGrad (p : Packet)
  | combineGrad (p : Packet)
  | expertCounts (p : Packet)
  | reduceScatter (p : Packet)
  | allGather (p : Packet)
  | allReduce (p : Packet)
  | norm (p : Packet)
  | broadcast (p : Packet)
  | send (p : Packet)
  | recv (p : Packet)
  | optimSweep (p : Packet)
  | lossRead (p : Packet)
  | lossLoad (p : Packet)
  | stepCommit (p : Packet)
  | stepRollback (p : Packet)
  | reside (p : Packet)
  | evict (p : Packet)
  | checkpoint (p : Packet)
  | restore (p : Packet)
  | ownTake (p : Packet)
  | ownGive (p : Packet)
  | poolConfig (p : Packet)
  | poolStatRecords (p : Packet)
  | poolStatRequesters (p : Packet)
  | bistStake (p : Packet)
  | bistSide (p : Packet)
  | bistModule (p : Packet)
  | bistCheckers (p : Packet)
  | crashDumpRead (p : Packet)
  | logByNumber (p : Packet)
  | logNewest (p : Packet)
  | countersJob (p : Packet)
  | countersModule (p : Packet)
  | countersPort (p : Packet)
  | countersArray (p : Packet)
  | countersRouterHalf (p : Packet)
  | traceSet (p : Packet)
  | traceStart (p : Packet)
  | traceStop (p : Packet)
  | traceMark (p : Packet)
  | hbmReadCheck (p : Packet)
  | hbmPattern (p : Packet)
  | spareStake (p : Packet)
  | spareWeaveLane (p : Packet)
  | spareHbmLane (p : Packet)
  | spareDramRow (p : Packet)
  | spareSramRow (p : Packet)
  | spareMgmt (p : Packet)
  | resetEngine (p : Packet)
  | resetPartition (p : Packet)
  | resetModule (p : Packet)
  | resetPowerCycle (p : Packet)
  | attestReport (p : Packet)
  | attestChain (p : Packet)
  | fwStageBegin (p : Packet)
  | fwStageWrite (p : Packet)
  | fwActivateTrial (p : Packet)
  | fwActivateReset (p : Packet)
  | fwActivateLock (p : Packet)
  | policyPropose (p : Packet)
  | policyCountersign (p : Packet)
  -- sideband requests, served from the latched request
  | getStatus
  | getIdentity
  | attestShort
  | claimWrite
  | claimCommit
  | bootControl
  | logTail
  | getPower
  | setPowerLimit
  | getThermal
  | getRails
  -- mailbox and sideband registers
  | sidebandRequest
  | sidebandCancel
  | ackValidClear
  | alertCauseClear (bits : BitVec 32)
  | alertMaskWrite (value : BitVec 32)
  | registerWrite (box : Mailbox) (offset : Nat) (value : BitVec 32)
  | sideMailboxRequest (side : Nat) (msg : Bytes)
  | smallMailboxSend (receiver sender channel : Nat) (msg : Bytes)
  | smallDoorbellClear (receiver channel : Nat)
  -- I3C
  | setdasa (addr : BitVec 7)
  | setnewda (addr : BitVec 7)
  | rstdaa
  | entdaa (addr : BitVec 7)
  | getbcr
  | getdcr
  | getstatus
  | enec (events : BitVec 8)
  | disec (events : BitVec 8)
  -- RDMA
  | rdmaRead (src : Endpoint) (qp : Nat) (target : RdmaTarget) (offset length : Nat)
  | rdmaWrite (src : Endpoint) (qp : Nat) (target : RdmaTarget) (offset : Nat) (data : Bytes)
  | rdmaUnsupported (src : Endpoint) (qp : Nat)
  -- sessions
  | init (src : Endpoint) (point chain nonce : Bytes)
  | finish (src : Endpoint) (confirm : Bytes)
  | handshakeTimeout (src : Endpoint)
  | sessionExpiry (sid : Nat)
  -- queues
  | queueHead (lane : Lane)
  | commandTimeout (lane : Lane)
  | reorderTimeout (lane : Lane) (seq : Nat)
  | retainExpiry (job tensor : Nat)
  | drainComplete (job : Nat)
  | segmentComplete (lane : Lane)
  -- ties
  | tieWaiterArrival (ref : Nat) (who : WaiterId) (threshold : Nat)
  | tieWaiterRemoval (ref : Nat) (who : WaiterId)
  | farTieSignal (m : FarMsg)
  | farTieWait (m : FarMsg)
  | farTieRelease (id : CmdId) (value : Nat)
  | farTieWithdraw (m : FarMsg)
  | farWaitRetry (id : CmdId)
  | farWaitDecisionTimeout (id : CmdId)
  -- withy pools
  | withyRequest (job pool place cls n r0 requester : Nat) (head : Bool)
  | withyRelease (job pool place cls index : Nat)
  | withyAddRef (job pool place cls index d : Nat)
  -- matrix arrays (a physical array is 4 times the physical stake plus the array number)
  | passIssue (arr : Nat) (id : CmdId)
  | reloadDone (arr : Nat)
  | lastRowFed (arr : Nat)
  | passChecksClean (arr : Nat)
  | rowBlockBoundary (arr : Nat)
  | dummyRowRun (arr : Nat)
  | rampDownDone (arr : Nat)
  | rampUpDone (arr : Nat)
  | limiterGapEnd (arr : Nat)
  | preemptRequest (stake : Nat)
  | passResume (arr : Nat)
  | arrayCheckFault (arr : Nat)
  | residencyFetchDone (job tensor : Nat)
  -- exchange messages
  | counts (m : ExMsg)
  | parcel (m : ExMsg)
  | accept (m : ExMsg)
  | hold (m : ExMsg)
  | pull (m : ExMsg)
  | result (m : ExMsg)
  | tags (m : ExMsg)
  | keep (m : ExMsg)
  | grad (m : ExMsg)
  | dgrad (m : ExMsg)
  | spoil (m : ExMsg)
  | forwardRound (job exch slot : Nat)
  | backwardRound (job exch slot : Nat)
  -- wale packets and deadlines
  | chunk (m : WaleMsg)
  | ack (m : WaleMsg)
  | scales (m : WaleMsg)
  | gatherChunk (m : WaleMsg)
  | normUp (m : WaleMsg)
  | verdict (m : WaleMsg)
  | clear (m : WaleMsg)
  | sendData (m : WaleMsg)
  | waleDeadline (job bucket step shard : Nat)
  | normDeadline (job step : Nat)
  | verdictRequest (job step rank : Nat)
  | verdictRequestRetry (id : CmdId)
  | rollbackWindowEnd (job : Nat)
  -- split requests
  | partStaged (id : CmdId) (part : Nat) (status : Nat)
  | splitCommit (id : CmdId) (part : Nat)
  | splitAbort (id : CmdId) (part : Nat)
  | commitAck (id : CmdId) (part : Nat)
  -- tray space
  | trayLoad (r : TrayReq)
  | trayStore (r : TrayReq)
  | trayAdd (r : TrayReq)
  | trayMin (r : TrayReq)
  | trayMax (r : TrayReq)
  | trayCas (r : TrayReq)
  | trayFadd (r : TrayReq)
  | trayResponse (r : TrayResp)
  | targetResettingAnswer (a : Answered)
  | unreachableAnswer (a : Answered)
  | weaveTransit (inPort : Nat) (op : Option TrayOp) (pkt : WeavePkt) (fclk : Nat)
  | placementTable (job inc rank : Nat) (places : List RemotePlace)
  | ownTakeRequest (id : CmdId) (owner job : Nat) (region : BitVec 31)
  | ownGiveRequest (id : CmdId) (owner job : Nat) (region : BitVec 31)
  | ownTakeRetry (id : CmdId)
  | stewardRetry (id : CmdId)
  | gatewayFlush (job inc rank tensor window block : Nat) (data : List (Nat × Byte))
  | gatewayFetch (job inc rank tensor window block : Nat)
  /-- `none`: a word of the block arrives uncorrectable (R404). -/
  | gatewayFetchData (job window block : Nat) (data : Option Bytes)
  | noticeRelay (n : NoticeRec)
  | stewardAssign (addr : Nat) (noticeId : Nat) (signature : Bytes)
  | roster (r : RosterMsg)
  | faultTableUpdate (links : List (Nat × Nat))
  | trayAttest (steward : Nat) (nonce : Bytes)
  | joinDecision (x : Nat) (report : Option JoinReport)
  | mark (port src : Nat) (markId : Nat)
  | markReply (port src : Nat) (markId : Nat)
  -- links
  | linkReplay (port : Nat) (uncorrectable : Bool)
  | fecWindowEnd (port : Nat) (lane corrected : Nat) (excess : Bool)
  | laneSwitch (port : Nat)
  | laneFailure (port lane : Nat)
  -- memory upkeep, timer, checks
  | laneTest (channel : Nat) (mismatch : Bool)
  | patrolScrub (granule : Nat)
  | timerCopyReload
  | timerCopyCompare (copy : Nat)
  | timerMismatch
  | clockLockLoss (clock : Clock)
  | lockstepMismatch (pair : LockPair)
  | dupStateMismatch (unit : DupUnit)
  | residueFault (at_ : ResidueAt) (again : Bool)
  | converterMismatch (stake : Nat)
  | progressWatchdog (engine : Engine)
  | firmwareWatchdog (border : Nat)
  | contextStopDone (engine : Engine)
  | replayVerdict (engine : Engine) (guilty : Bool)
  | escalationBoundExpiry (level unit : Nat)
  | moduleResetDone
  | noticeResend
  | rotatingTakeover (rib : Nat)
  | stakeTakeoverDone (rib : Nat)
  | selfTestDone (phys : Nat) (pass : Bool)
  | checkerInjection (unit : UnitRef) (reported : Bool)
  | logFlush
  | traceStream (records : Nat)
  -- power, pins and boot
  | inputApplied (mv : Nat)
  | bulkChargeDone
  | inputUndervoltage (mv : Nat)
  | pwrEnRise
  | railGroupInRegulation (group : Nat)
  | pwrGoodTimeout
  | pwrEnFall
  | pwrEnLow200ms
  | modRstNAssert (micros : Nat)
  | modRstNRelease (wakeLow b0ok b1ok : Bool)
  | wakeNFall
  | memoryTrainingDone (failedLanes : List (Nat × Nat))
  | bootBistDone (failedStakes : List Nat)
  | linkTrainingDone (ports : List PortTrain)
  | powerSample (mv ma arrays : Nat)
  | limiterUpdate
  | sensorRead (values : List Int)
  | shutdownHoldEnd
  | railFault (rail : Nat)
  | thermalLimitRaise
  | thermalLimitPersists
  -- added rows
  | commandPacketRefused (src : Endpoint) (datagram : Bytes)
  | sweepPage (unit : Nat)
  | farTieAnswer (id : CmdId) (a : FarAnswer)
  | stewardAnswer (id : CmdId) (stale full : Bool)
  | ownershipEntryCopy (region : BitVec 31) (owner : Option (Nat × Nat))
  | gatewayFlushAck (job window block : Nat)
  | notice (n : NoticeRec)
  | weaveLinkTrained (port : Nat) (t : PortTrain)
  | escalationLevelDone (level unit : Nat)
  | mgmtSelfTestDone (border : Nat) (pass : Bool)
  | tapTck (tms tdi trstN : Bool)
  deriving DecidableEq, Repr

end Sys2Proof
end

