-- ==== Sys2Proof/Machine/State.lean ====
section
/-!
DEFINITION. The state of the QKE3-M58 module as the spec gives it, as plain data, and its value at
reset. `Mod` is the module; `State` is the module with the queue of commands that wait.

A sparse table is a list of keyed entries; a missing entry reads as the value its docstring names.
-/

namespace Sys2Proof.Machine

/-- Memory: (address, byte) cells with strictly rising addresses, none of them zero; an unlisted
address reads as +0 (R240: training fills every tier with +0). -/
abbrev Memory := List Host.Cell

/-! ### Status codes and replies -/

/-- The status codes of R58. -/
inductive Status where
  | ok | okDegraded | okHeld | okDropped
  | refusedFit | refusedAuth | busyReducing | badPacket | badDescriptor
  | bounds | overlap | poolEmpty | quota | nonfinite
  | timeout | abandoned | spoiled | staleIncarnation | targetResetting
  | faultDetected | partFailed
  deriving DecidableEq, Repr, Inhabited

/-- A value as the engines take it: NaN (no payload, R82), an infinity, or `±man × 2^exp`. -/
inductive Val where
  | nan
  | inf (neg : Bool)
  | fin (neg : Bool) (man : Nat) (exp : Int)
  deriving DecidableEq, Repr, Inhabited

/-- A command's counter summary (R57). -/
structure Summary where
  nonfinite : Nat := 0
  underflow : Nat := 0
  corrected : Nat := 0
  saturated : Nat := 0
  esc : Bool := false
  degraded : Bool := false
  held : Bool := false
  dropped : Bool := false
  preempted : Bool := false
  throttled : Bool := false
  deriving DecidableEq, Repr, Inhabited

/-- A reply packet (R56). `tag` is its integrity tag; a stored reply has none yet, since each sending signs anew (R46, R53). -/
structure Reply where
  dst : Endpoint
  dup : Bool
  major : Nat
  variant : Nat
  job : Nat
  inc : Nat
  queue : Nat
  seq : Nat
  status : Status
  detail : Nat
  handle : Nat
  doneTime : Tick
  counters : Summary
  payload : Bytes
  tag : Bytes := []
  deriving DecidableEq, Repr

/-! ### Descriptors and plans -/

/-- A dimension record (Table 7.2). -/
structure DimRec where
  extent : Nat
  origin : Nat := 0
  ownStart : Nat := 0
  ownLen : Nat := 0
  stride : Int := 1
  deriving DecidableEq, Repr, Inhabited

/-- A tensor descriptor (R189). -/
structure Desc where
  format : Nat
  ndim : Nat
  remote : Bool := false
  sparse24 : Bool := false
  rank : Nat := 0
  tensor : Nat
  base : Int := 0
  auxBase : Nat := 0
  pad : Nat := 0
  dims : List DimRec
  deriving DecidableEq, Repr, Inhabited

/-- Where a tensor of a plan lies (R66 MEMORY). -/
inductive Tier where
  | a | b
  | stake (logical : Nat)
  | rim (side : Nat)
  deriving DecidableEq, Repr, Inhabited

/-- A MEMORY entry of a plan (R66, R73, R161, R226, R247, R427). `side` is the Side of the stakes that read an
unshared Tier A tensor (R29), `shared` the Sides of a SHARED one; `mask` the MASK regions as (offset, length). -/
structure TensorDecl where
  id : Nat
  tier : Tier
  side : Nat := 0
  shared : List Nat := []
  bytes : Nat
  host : Bool := false
  mask : List (Nat × Nat) := []
  retain : Bool := false
  residency : Bool := false
  trayShared : Bool := false
  adopt : Bool := false
  deriving DecidableEq, Repr, Inhabited

/-- The placed region of a tensor: one extent, the 2 MiB stripes of a SHARED tensor (R226), or the two
16-bit planes of a swept FP32 tensor (R329). -/
inductive Placement where
  | flat (base : Nat)
  | stripes (bases : List Nat)
  | planes (hi lo : Nat)
  deriving DecidableEq, Repr, Inhabited

/-- A placed tensor. -/
structure TensorPlace where
  decl : TensorDecl
  place : Placement
  deriving DecidableEq, Repr, Inhabited

/-- An array workload of a stake group (R110). -/
structure Workload where
  fmtA : Nat
  fmtB : Nat
  k : Nat
  n : Nat
  rows : Nat
  deriving DecidableEq, Repr, Inhabited

/-- A stake group of the STAKES section (R66, R110, R118). `gang` bounds the gang the placement
allows. -/
structure StakeGroup where
  id : Nat
  stakes : List Nat
  gang : Nat := 4
  workloads : List Workload := []
  chainBytes : Nat := 0
  deriving DecidableEq, Repr, Inhabited

/-- The kinds of cut (R417). -/
inductive CutKind where
  | expert | tensor | pipeline | data
  deriving DecidableEq, Repr, Inhabited

/-- A cut of the CUTS section (R417); `pin` is 0 NONE, 1 X, 2 Y, 3 Z, 4 TRUNK. -/
structure Cut where
  kind : CutKind
  size : Nat
  bytes : Nat
  pin : Nat := 0
  deriving DecidableEq, Repr, Inhabited

/-- The RANKS section: an explicit table, or AUTO with a box (R417). -/
inductive RankTable where
  | explicit (addrs : List Nat)
  | auto (origin extX extY extZ extH : Nat)
  deriving DecidableEq, Repr, Inhabited

/-- A tie of the TIES section (R362); `level` is true for LEVEL mode. -/
structure TieDecl where
  ref : Nat
  level : Bool
  value : Nat
  deriving DecidableEq, Repr, Inhabited

/-- Where a pool's members lie (Table 12.7). -/
inductive PoolPlace where
  | unit (n : Nat)
  | everyUnit
  | everyStake
  deriving DecidableEq, Repr, Inhabited

/-- A requester of a pool (Table 12.7): job, engine class, quota in 4 KiB units, HEAD permission. -/
structure Requester where
  job : Nat
  engine : Nat
  quota : Nat
  head : Bool
  deriving DecidableEq, Repr, Inhabited

/-- A pool of the POOLS section (Table 12.7). -/
structure PoolDecl where
  id : Nat
  name : String
  place : PoolPlace
  counts : List Nat
  reserves : List Nat
  requesters : List Requester
  deriving DecidableEq, Repr, Inhabited

/-- One command record of a round's body (R255): opcode, flags and payload; its descriptors name
tensors, or roles by the role numbers of `Config`. -/
structure BodyRec where
  op : Op
  flags : Nat
  payload : Bytes
  deriving DecidableEq, Repr, Inhabited

/-- An exchange of the EXCHANGE section (Table 9.1). `slotW` and `slotG` give each owned slot's weight
and weight-gradient tensors, `scratch` the scratch tensors that its bodies name (R255). -/
structure ExchangeDecl where
  id : Nat
  experts : Nat
  kTop : Nat
  owners : List (List Nat)
  drop : Bool := false
  capacity : Nat := 1
  sigmoid : Bool := false
  renorm : Bool := true
  noiseSigma : Nat := 0
  bias : Nat := 0
  rowInFmt : Nat
  rowInW : Nat
  rowOutFmt : Nat
  rowOutW : Nat
  withyClass : Nat
  ledgerPool : Nat
  recvPool : Nat
  emptyAbsent : Bool := false
  divisor : Nat := 0
  bodyFwd : List BodyRec := []
  bodyBwd : List BodyRec := []
  roundRows : Nat := 65536
  slotW : List (List Nat) := []
  slotG : List (List Nat) := []
  scratch : List Nat := []
  residencyShift : Nat := 3
  slotsPerSide : Nat := 0
  deriving DecidableEq, Repr, Inhabited

/-- A SLOT_BIND region of a bucket (R289). -/
structure SlotBind where
  first : Nat
  length : Nat
  exch : Nat
  expert : Nat
  deriving DecidableEq, Repr, Inhabited

/-- A bucket of the WALE section (Table 10.1). VFMT is 0 FP32, 1 BF16, 2 MXFP8, 3 ONEBIT. Tensor 0
stands for a region the bucket does not have. -/
structure BucketDecl where
  id : Nat
  group : Nat := 0
  len : Nat
  input : Nat
  inputOff : Nat := 0
  inputFmt : Nat
  shardOut : Nat
  shardFmt : Nat
  vfmt : Nat := 1
  mean : Bool := false
  deadline : Nat := 200000
  carryLate : Bool := false
  headroom : Nat := 1
  scaleInit : Nat := 0
  errorMem : Nat := 0
  carry : Nat := 0
  slotBind : List SlotBind := []
  gatherSrc : Nat := 0
  gatherSrcOff : Nat := 0
  gatherSrcFmt : Nat := 0
  gatherDst : Nat := 0
  gatherDstFmt : Nat := 0
  deriving DecidableEq, Repr, Inhabited

/-- The optimizers of Table 11.1. -/
inductive Optimizer where
  | adamw | sgd | nesterov | lion
  deriving DecidableEq, Repr, Inhabited

/-- A sweep range of the OPTIM section (Table 11.1). -/
structure RangeDecl where
  id : Nat
  optimizer : Optimizer
  scaled : Bool := false
  bucket : Nat
  weightHi : Nat
  weightHiOff : Nat := 0
  weightLo : Nat
  m : Nat
  v : Nat := 0
  clip : Bool := false
  deriving DecidableEq, Repr, Inhabited

/-- A policy of Table 11.3. -/
inductive WatchPolicy where
  | flag | skip | stop
  deriving DecidableEq, Repr, Inhabited

/-- The WATCH section (Table 11.3); `loss` names LOSS_SUM and LOSS_COUNT. -/
structure Watch where
  loss : Option (Nat × Nat) := none
  kSigma : Nat := 0x40C00000
  warmup : Nat := 64
  spike : WatchPolicy := .skip
  nonfinite : WatchPolicy := .skip
  degraded : WatchPolicy := .flag
  spikeLimit : Nat := 8
  deriving DecidableEq, Repr, Inhabited

/-- A node of a vector expression (Table 16.13). -/
structure VNode where
  op : Nat
  a : Nat
  b : Nat
  c : Nat
  imm : Nat
  deriving DecidableEq, Repr, Inhabited

/-- A vector expression (R536). -/
structure VExpr where
  id : Nat
  inputs : Nat
  outputs : Nat
  nodes : List VNode
  deriving DecidableEq, Repr, Inhabited

/-- A RIDDLE_ACT declaration (R176, R177): τ and δ as FP32 bits. -/
structure RiddleAct where
  tau : Nat
  delta : Nat
  deriving DecidableEq, Repr, Inhabited

/-- A gateway window (R432). -/
structure GatewayDecl where
  window : Nat
  proxy : Nat
  rank : Nat
  tensor : Nat
  length : Nat
  deriving DecidableEq, Repr, Inhabited

/-- A loaded plan (R65, R66): the header fields and the content of its sections. `dir` holds the
directory's section IDs in order; the arena sizes are those that the EXCHANGE section declares (R246). -/
structure Plan where
  cls : Nat
  job : Nat
  inc : Nat
  seed : BitVec 64
  rank : Nat
  ranks : Nat
  dir : List Nat
  ownerKey : Nat := 0
  powerShare : Nat := 1
  rankTable : RankTable := .explicit []
  cuts : List Cut := []
  stepTimeUs : Nat := 0
  groups : List StakeGroup := []
  queues : List (Nat × Nat) := []
  rdmaQps : Nat := 0
  tensors : List TensorDecl := []
  stored : List Desc := []
  extents : List (Nat × Nat) := []
  gateways : List GatewayDecl := []
  pools : List PoolDecl := []
  ties : List TieDecl := []
  exchanges : List ExchangeDecl := []
  arenaA : Option (List Nat) := none
  arenaB : Option Nat := none
  arenaStake : Option Nat := none
  groupsWale : List (Nat × List Nat) := []
  buckets : List BucketDecl := []
  normDeadline : Nat := 10000000
  shareAdders : Bool := false
  ranges : List RangeDecl := []
  watch : Option Watch := none
  vexprs : List VExpr := []
  riddleActs : List RiddleAct := []
  bytes : Bytes := []
  deriving DecidableEq, Repr, Inhabited

/-! ### Counters -/

/-- The 48-bit counters of the counter tables (R573, R138, R185, R210, R251, R288, R321, R357, R394,
R438, R480, R517), the counter R168 names, and the counts R43, R46, R53, R54, R62 and R462 name in
running text. -/
inductive Ctr where
  -- job scope
  | NONFINITE | UNDERFLOW | CORRECTED | SATURATED
  | RIDDLE_PREDICTED | RIDDLE_GUARD | RIDDLE_AUDITED | RIDDLE_SKIPPED | RIDDLE_MISSED
  | RIDDLE_MENDED | RIDDLE_DOWN_SKIPPED | NONTRANSPOSABLE_TILES
  | TRANSFER_ELEMENTS | PADDING_ELEMENTS | GATHER_COALESCED | OWN_CLIPPED | OVERLAP_REFUSED
  | SPLIT_ABORTED
  | RESIDE_FETCHES | RESIDE_LATE | RESIDE_EVICTIONS | RESIDE_BYTES | SCRUB_CORRECTED | ROWS_REMAPPED
  | EXCHANGE_STALE | EXCHANGE_PULLS | EXCHANGE_HELD_PAIRS | EXCHANGE_DROPPED_PAIRS
  | WALE_CHUNKS_SENT | WALE_SUBSTITUTED | WALE_LATE_CARRIED | WALE_LATE_DROPPED | WALE_STALE
  | WALE_ESCALATIONS | WALE_UNDERFLOW | WALE_UNDELIVERED
  | SWEEP_PAGES | SWEEP_STAMP_SKIPS | SWEEP_ROLLED_FORWARD | SWEEP_RECOMPUTED | SWEEPS_SKIPPED
  | TIE_SATURATIONS | TIE_SIGNALS_DISCARDED | TIE_FAR_RETRIES | TIE_FAR_LATE
  | POOL_REF_SATURATED | POOL_BAD_RELEASE
  -- module scope
  | MAILBOX_REJECTED | MAILBOX_OVERRUNS
  | QUARANTINE_DROPS | UNREACHABLE | GATEWAY_FLUSHES | GATEWAY_FETCHES
  | HANGS | REPLAYS | GUILTY_FOUND | ENGINE_RESETS | PARTITION_RESETS | MODULE_RESETS
  | TAKEOVERS_MGMT | SELF_TESTS | SELF_TEST_FAILS | SPARES_USED | STAKES_OUT | LOG_LOST
  | SESSIONS_OPENED | HANDSHAKES_REFUSED | POLICY_INSTALLS | POLICY_REFUSALS | TRIAL_FALLBACKS
  | QUARANTINES | TRACE_RECORDS | TRACE_LOST
  -- array scope
  | FED_ROWS | MASKED_ROWS | DUMMY_ROWS | RAMPS | LIMITER_CYCLES | PASSES_DONE | PASSES_DISCARDED
  | PREEMPTIONS
  -- port and router-half scope
  | FEC_CORRECTED | FEC_UNCORRECTABLE | RETRIES | LANE_SWAPS | TRANSIT_WORDS | INJECTED_WORDS
  | ATOMICS_COMBINED
  -- counts of discarded packets, which no COUNTERS_READ table lists
  | discardedLong | discardedNoSession | discardedSeq | discardedReorder | discardedReset
  | staleTraffic
  deriving DecidableEq, Repr, Inhabited

/-- A counter table: a missing entry reads 0. -/
abbrev Counters := List (Ctr × Nat)

/-! ### Ties and pools -/

/-- A waiter at a tie's home (R364): who waits and its threshold. -/
structure Waiter where
  who : WaiterId
  t : Nat
  deriving DecidableEq, Repr

/-- A declared tie: the state word of Table 12.3 and its waiters, oldest first. -/
structure Tie where
  ref : Nat
  job : Nat
  inc : Nat
  level : Bool
  abandoned : Bool := false
  overflow : Bool := false
  underflow : Bool := false
  value : Nat
  waiters : List Waiter := []
  deriving DecidableEq, Repr

/-- A withy that is not free (R383): its number, reference count and the requester that obtained it. -/
structure Withy where
  index : Nat
  refs : Nat
  requester : Nat
  deriving DecidableEq, Repr

/-- One size class of a pool at one place (R380, Table 12.8): `place` is a unit 0–5, or 0x100 plus a
logical stake. A withy not in `busy` is free. -/
structure PoolCell where
  job : Nat
  pool : Nat
  place : Nat
  cls : Nat
  total : Nat
  reserve : Nat
  busy : List Withy := []
  lowWater : Nat
  emptyFails : Nat := 0
  quotaFails : Nat := 0
  grants : Nat := 0
  deriving DecidableEq, Repr

/-- A loaded pool's requesters and the configuration that POOL_CONFIG holds for the next PLAN_START
(R385). -/
structure PoolState where
  job : Nat
  pool : Nat
  requesters : List Requester
  nextReserves : List Nat
  nextRequesters : List Requester
  deriving DecidableEq, Repr

/-! ### Commands on their lanes -/

/-- An accepted or held command. -/
structure Cmd where
  op : Op
  pkt : Packet
  sid : Nat
  /-- the local timer when its packet arrived (R500, R501) -/
  arrived : Nat := 0
  deriving DecidableEq, Repr

/-- What a started command that has not completed is doing. -/
inductive Work where
  /-- waits on its header ties: (tie reference, slot) not yet released (R49) -/
  | ties (left : List (Nat × Nat))
  /-- released and ready to start at its queue head -/
  | ready
  /-- TIE_WAIT on its payload tie (R373), local or far -/
  | tieWait (far : Bool)
  /-- a far TIE_SIGNAL whose home has not answered (R374) -/
  | farSignal
  /-- a far wait whose entry was refused because the far-waiter table was full (R374) -/
  | farRetry
  /-- a far wait that timed out and waits for the home's decision until the tick (R369) -/
  | farDecision (until_ : Nat)
  /-- array work: passes in all, passes issued and passes DONE (R114) -/
  | passes (total issued done : Nat) (reissue : List Nat)
  /-- segments in all and completed (R216), and the summary count of the first non-finite one -/
  | segments (total done : Nat) (bad : Bool)
  /-- a split scatter (R212): parts that have not staged, parts that failed, parts not yet committed -/
  | split (unstaged : List Nat) (failed : List (Nat × Nat)) (uncommitted : List Nat)
  /-- a command with tray operations outstanding (R421, R425): the bytes that arrived, and whether its
  own effect is done and it waits for acknowledgements alone (R50) -/
  | remote (got : List (Nat × Byte)) (acks : Bool)
  /-- a REMOTE access waits for the placement table of a rank (R421) -/
  | placement (rank : Nat)
  /-- FENCE waits for the tray operations with these tags and the flushes of these gateway blocks (R371,
  R433) -/
  | fence (tags : List Nat) (blocks : List (Nat × Nat))
  /-- an exchange command of this exchange and step: bytes that arrived from elsewhere, and the token groups
  signalled under GROUP_SIGNAL -/
  | exchange (exch step : Nat) (got : List (Nat × Byte)) (signalled : Nat)
  /-- REDUCE_SCATTER (and the first half of ALL_REDUCE) of this bucket and step -/
  | reduce (bucket step : Nat)
  /-- ALL_GATHER (and the second half of ALL_REDUCE) of this bucket and step; MISSING of the first half -/
  | gathering (bucket step missing : Nat)
  /-- BROADCAST (R313): bytes that arrived from elsewhere, whether they are all here, the chunks written here, those
  forwarded and not acknowledged, by child rank, and the number of chunks once the last one has come -/
  | broadcast (got : List (Nat × Byte)) (ready : Bool) (stored : List Nat) (unacked : List (Nat × Nat)) (total : Option Nat)
  /-- REDUCE_SCATTER of an MXFP8 bucket waits for agreed scales (R299) -/
  | scales (bucket step : Nat)
  /-- NORM waits for lane tests of these channels (R443) -/
  | normLanes (channels : List Nat)
  /-- NORM waits for its VERDICT of this step -/
  | norm (step : Nat)
  /-- SEND or RECV with its peer and match tag (R314): bytes that arrived from elsewhere, whether they are all here,
  whether CLEAR has come, and the chunks acknowledged or written -/
  | stream (peer tag : Nat) (got : List (Nat × Byte)) (ready clear : Bool) (chunks : List Nat)
  /-- OPTIM_SWEEP asks the root for the verdict (R339) -/
  | verdictAsk
  /-- OPTIM_SWEEP in its pages (R334): (range, unit, page) still to do, pages updated so far -/
  | sweep (left : List (Nat × Nat × Nat)) (pages : Nat)
  /-- STEP_COMMIT waits for sweeps (R352) -/
  | commitWait
  /-- STEP_ROLLBACK waits for the step's operations (R353) -/
  | rollbackWait
  /-- RESIDE waits for copies; EVICT waits for readers (R250) -/
  | residency (tensors : List Nat)
  /-- OWN_TAKE or OWN_GIVE: 0 the request is out, 1 the steward's queue was full, 2 the steward was resetting, 3 the
  region still has writes that are not acknowledged (R428, R429, R431) -/
  | steward (phase : Nat)
  /-- QUIESCE drains its job (R71); `before` counts the contributions substituted until it began -/
  | drain (before : Nat)
  /-- RESET of ENGINE or PARTITION waits for its level (R454) -/
  | level (level unit : Nat)
  /-- BIST_RUN STAKE, or SPARE_SWAP of a stake, waits for the takeover or the test (R471, R508) -/
  | takeover (phys : Nat)
  deriving DecidableEq, Repr

/-- An FP32 accumulator, with the index of the winner in the min-plus and max-plus modes (R137, R142). -/
abbrev PartAcc := BitVec 32 × Nat

/-- A partial row: one accumulator for each column of a pass. -/
abbrev PartRow := List PartAcc

/-- The command at the head of a lane (R52, R55); `started` says that it has begun. `cut` holds elements of a
destination block that a later chunk of a BROADCAST or RECV completes (R102), `fetched` the bytes that came from
elsewhere, `formed` the accumulators, by row and column, that the passes of the current segment which ended their chains
left (R117), `took` the passes of that segment which have been issued, `segs` the segments written so far (R215), and
`base` the passes of those segments. A split scatter counts when its parts have committed (R210): `owed` holds the job
counters and `owedSum` the summary that it adds then, `good` the segments that signal (R216). -/
structure Running where
  cmd : Cmd
  headAt : Nat
  work : Work
  started : Bool := false
  sum : Summary := {}
  cut : List (List Nat × Val) := []
  fetched : List (Nat × Byte) := []
  formed : List (Nat × Nat × PartAcc) := []
  took : List Nat := []
  segs : Nat := 0
  base : Nat := 0
  owed : List (Ctr × Nat) := []
  owedSum : Summary := {}
  good : Nat := 0
  deriving DecidableEq, Repr

/-- A lane's sequence state (R53) and its commands: held ones with their arrival time, accepted ones in
order, the one at the head, and the replies of the last 256 completed. `badHeld` holds the refusals of undefined
opcodes that wait in the reorder window: arrival time, session, reply. -/
structure LaneState where
  lane : Lane
  expected : BitVec 32 := 0
  held : List (Nat × Cmd) := []
  badHeld : List (Nat × Nat × Reply) := []
  accepted : List Cmd := []
  current : Option Running := none
  replies : List (Nat × Reply) := []
  deriving DecidableEq, Repr

/-- A registered own extent of a writing command in flight (R197): its owner, tensor, format, bases,
strides and box, and its byte range as local addresses. -/
structure Registered where
  id : CmdId
  job : Nat
  desc : Desc
  lo : Nat
  hi : Nat
  deriving DecidableEq, Repr

/-! ### Sessions, policy -/

/-- A session (R45, R46). `chain` is the host certificate chain of the handshake. -/
structure Session where
  sid : Nat
  ep : Endpoint
  key : Bytes
  chain : Bytes
  digest : Bytes
  inPkts : Nat := 0
  outPkts : Nat := 0
  openedAt : Nat
  integrityFails : Nat := 0
  staging : Memory := []
  deriving DecidableEq, Repr

/-- A handshake that waits for FINISH (R496). -/
structure Handshake where
  ep : Endpoint
  key : Bytes
  chain : Bytes
  confirm : Bytes
  replyAt : Nat
  deriving DecidableEq, Repr

/-- A RIGHTS entry of the policy (R498). -/
structure Right where
  digest : Bytes
  groups : Nat
  jobLo : Nat
  jobHi : Nat
  resetAny : Bool := false
  fwLock : Bool := false
  trace : Bool := false
  countersAll : Bool := false
  traySpace : Bool := false
  deriving DecidableEq, Repr

/-- The policy (Table 15.4). -/
structure Policy where
  bytes : Bytes
  epoch : Nat
  release : Bool := false
  ownerKey : Bytes
  custodianKey : Bytes
  noticeKey : Bytes := []
  hostAuth : List Bytes := []
  rights : List Right := []
  planKeys : List Nat := []
  images : List Bytes := []
  roster : List RosterRec := []
  rosterEpoch : Nat := 0
  endpoints : List Endpoint := []
  bootBist : Nat := 0
  deriving DecidableEq, Repr

/-- A pending policy proposal (R500). -/
structure Proposal where
  policy : Policy
  digest : Bytes
  expiry : Nat
  deriving DecidableEq, Repr

/-! ### Jobs -/

/-- The states of a job (R63); UNLOADED jobs stand in no list. -/
inductive JobPhase where
  | loaded | running | quiescing | quiesced | aborting
  deriving DecidableEq, Repr, Inhabited

/-- The loss statistics record (Table 11.6). -/
structure LossStats where
  mean : BitVec 32 := 0
  var : BitVec 32 := 0
  count : BitVec 32 := 0
  spikeRun : BitVec 8 := 0
  deriving DecidableEq, Repr, Inhabited

/-- The local verdict bits of R315, with the lowest rank known to have spoiled the step. -/
structure LocalVerdict where
  degraded : Bool := false
  spoiled : Bool := false
  nonfinite : Bool := false
  deriving DecidableEq, Repr, Inhabited

/-- A verdict record (R339): the verdict word and reduced vector of a step, with the job's incarnation (log 59). -/
structure VerdictRec where
  job : Nat
  inc : Nat
  step : Nat
  word : BitVec 64
  vec : List (BitVec 32)
  flushed : Bool := false
  deriving DecidableEq, Repr

/-- NORM in progress at this rank's node (R316): the vectors that have come by edge (0 own, 1 left, 2 right), the
verdict bits and lowest SPOILER so far, the edges taken as spoiled, the deadline, and whether the node has formed. -/
structure NormNode where
  step : Nat
  inputs : List (Nat × List (BitVec 32)) := []
  bits : LocalVerdict := {}
  spoiler : Option Nat := none
  gone : List Nat := []
  deadline : Option Nat := none
  formed : Bool := false
  deriving DecidableEq, Repr, Inhabited

/-- A chunk input that a wale node holds (R293): which edge (0 own, 1 left, 2 right), the chunk, its
FP32 values, count, MISSING and its MXFP8 scale codes. -/
structure WaleInput where
  edge : Nat
  chunk : Nat
  values : List (BitVec 32)
  contrib : Nat
  missing : Nat
  scales : List Nat := []
  deriving DecidableEq, Repr

/-- A chunk that a wale node has formed (R293): what it sent or wrote, and whether its parent has acknowledged or
refused it. -/
structure WaleFormed where
  chunk : Nat
  values : List (BitVec 32)
  contrib : Nat
  missing : Nat
  acked : Bool
  deriving DecidableEq, Repr

/-- A tree node of one (bucket, step, shard) on this rank (R292, R296, R305): its inputs, the chunks it has formed, its
deadline, the edges substituted at once and whether its parent takes no more (R463), and what it adds to the command's
summary. -/
structure WaleNode where
  bucket : Nat
  step : Nat
  shard : Nat
  inputs : List WaleInput := []
  formed : List WaleFormed := []
  deadline : Option Nat := none
  expired : Bool := false
  givenUp : Bool := false
  gone : List Nat := []
  parentGone : Bool := false
  stats : Summary := {}
  deriving DecidableEq, Repr

/-- A carried late contribution (R307, R308): the first step that uses it, the step that did, its node and edge, and the
sum of values and counts. -/
structure Carried where
  step : Nat
  usedAt : Option Nat := none
  bucket : Nat
  shard : Nat
  edge : Nat
  chunk : Nat
  values : List (BitVec 32)
  count : Nat
  deriving DecidableEq, Repr

/-- The agreed scale codes of one shard for a step (R299). -/
structure ScaleTable where
  bucket : Nat
  step : Nat
  shard : Nat
  codes : List Nat
  deriving DecidableEq, Repr

/-- What a RIDDLE of the job left beside a riddle mask tensor: the threshold of the layer (R176), and the rows and the
hidden width that the mask describes. -/
structure RiddleNote where
  tensor : Nat
  tau : BitVec 32
  rows : Nat
  hidden : Nat
  deriving DecidableEq, Repr

/-- A gather operation's chunks as they stand on this rank (R311, R313): stored chunks by shard, the chunks
forwarded and not yet acknowledged, elements of a block that a later chunk completes (R102), and what the stores
counted (R57). -/
structure GatherState where
  bucket : Nat
  step : Nat
  stored : List (Nat × Nat) := []
  unacked : List (Nat × Nat × Nat) := []
  cut : List (List Nat × Val) := []
  sum : Summary := {}
  deriving DecidableEq, Repr

/-- A ledger slot (R254, R262): its tag, ROW_IN and ROW_OUT rows, the gradient row that GRAD carries, the
data-gradient row that came back, and where its pair goes. -/
structure LedgerSlot where
  tag : Tag
  group : Nat
  rank : Nat
  slot : Nat
  rowIn : Option Bytes := none
  rowOut : Option Bytes := none
  gRow : Option Bytes := none
  dRow : Option Bytes := none
  deriving DecidableEq, Repr

/-- How far a sent parcel is (R269, R273, R276). -/
inductive ParcelPhase where
  | tagsSent | sent | accepted | held
  deriving DecidableEq, Repr, Inhabited

/-- A parcel this rank sent (R265). -/
structure ParcelOut where
  group : Nat
  rank : Nat
  slot : Nat
  phase : ParcelPhase
  wasHeld : Bool := false
  grad : Option ParcelPhase := none
  deriving DecidableEq, Repr

/-- How far a received parcel is (R270–R274): `resulted` once its RESULT has left and waits for its acknowledgement (R271). -/
inductive RecvPhase where
  | inWithies | held | pulled | resulted | run
  deriving DecidableEq, Repr, Inhabited

/-- A received parcel (R270, R280): `grad` for GRAD messages. `withies` are withy numbers of RECV_POOL. `acked` says
that ACCEPT or HOLD has been sent; `keep` marks the kept pairs of a parcel's tags under DROP (R276); `ran` counts
the rows that rounds have run, and a forward round's outputs stand in place of its rows (R271). -/
structure ParcelIn where
  source : Nat
  group : Nat
  slot : Nat
  grad : Bool
  count : Nat
  tags : List Tag
  rows : List Bytes
  rows2 : List Bytes
  phase : RecvPhase
  wasHeld : Bool
  withies : List Nat
  acked : Bool := false
  keep : Option (List Bool) := none
  ran : Nat := 0
  deriving DecidableEq, Repr

/-- A COUNTS message held (R265). -/
structure CountsIn where
  source : Nat
  group : Nat
  last : Bool
  entries : List (Nat × Nat)
  deriving DecidableEq, Repr

/-- One slot's progress in a step: forward and backward rounds run, pairs run backward, and the
weight-gradient accumulators kept between backward rounds (R283), one list per gradient tensor. -/
structure SlotProg where
  slot : Nat
  roundsFwd : Nat := 0
  roundsBwd : Nat := 0
  bwdNext : Nat := 0
  heldPairs : Nat := 0
  dropped : Nat := 0
  out : Nat := 0
  acc : List (List (BitVec 32)) := []
  carry : List (Tag × Bytes × Bytes) := []
  written : Bool := false
  deriving DecidableEq, Repr

/-- One step of an exchange on this rank: the tokens of ROUTE and those fed, the ledger and its withies, each
token's probabilities (R259), groups sent, combined, sent as gradients and summed by DISPATCH_GRAD; parcels and
count vectors; slots; and the rank that spoiled the step. -/
structure ExStep where
  job : Nat
  exch : Nat
  step : Nat
  tokens : Nat := 0
  fed : Nat := 0
  ledger : List LedgerSlot := []
  ledgerWithies : List Nat := []
  probs : List (Nat × List (BitVec 32)) := []
  nextGroup : Nat := 0
  sentAll : Bool := false
  combined : Nat := 0
  gradGroups : Nat := 0
  summed : Nat := 0
  parcelsOut : List ParcelOut := []
  counts : List CountsIn := []
  parcelsIn : List ParcelIn := []
  tagsIn : List ParcelIn := []
  slots : List SlotProg := []
  spoiled : Option Nat := none
  spoilSent : Bool := false
  deriving DecidableEq, Repr

/-- Residency of one RESIDENCY_MANAGED tensor (R247–R249): score with 16 fractional bits, and its copy. -/
structure Residency where
  tensor : Nat
  exch : Nat := 0
  expert : Nat := 0
  score : Nat := 0
  count : Nat := 0
  pinned : Bool := false
  valid : Bool := false
  fetching : Bool := false
  copyBase : Option Nat := none
  deriving DecidableEq, Repr

/-- A journal record of a sweep unit (Table 11.4): state 0 EMPTY, 1 WRITING, 2 COMPLETE, 3 APPLIED; the
new values of the page as (local address, byte) writes, with its page scales. -/
structure JournalRec where
  job : Nat
  unit : Nat
  step : Nat
  range : Nat
  page : Nat
  state : Nat
  writes : List (Nat × Byte)
  scales : Nat × Nat := (127, 127)
  deriving DecidableEq, Repr

/-- A page stamp (R331), with the time at which a sweep wrote it (R444): a missing entry reads
0xFFFF_FFFF_FFFF_FFFF. -/
structure Stamp where
  range : Nat
  unit : Nat
  page : Nat
  step : Nat
  wroteAt : Nat := 0
  deriving DecidableEq, Repr

/-- The scale codes of a page's m and v under BF16_SCALED (R335); a missing entry reads 127. -/
structure PageScale where
  range : Nat
  unit : Nat
  page : Nat
  m : Nat
  v : Nat
  deriving DecidableEq, Repr

/-- A staging or read block of a gateway window (R433, R434): its bytes by offset in the block, whether
its flush is under way, and the lanes whose commands wrote it. -/
structure GatewayBlock where
  window : Nat
  block : Nat
  data : List (Nat × Byte)
  flushing : Bool := false
  lanes : List Lane := []
  deriving DecidableEq, Repr

/-- An input that a node substituted (R306): step, bucket, the position that it would have come from, chunk. -/
structure Substituted where
  step : Nat
  bucket : Nat
  position : Nat
  chunk : Nat
  deriving DecidableEq, Repr

/-- A resident job (R60). `deadlines` counts the contributions substituted or taken as spoiled, `substituted` names them (R306). `arenas` holds the memory that it holds besides its tensors, as (base, length);
`fetching` names the gateway blocks asked for, by window and block, and `fetchers` the commands that wait for each; `slots` its Tier A copy slots, as (exchange, base) (R247); `owned` the regions that it owns from this module (R429). -/
structure Job where
  plan : Plan
  phase : JobPhase
  places : List TensorPlace := []
  step : BitVec 64 := 0
  loss : LossStats := {}
  local_ : LocalVerdict := {}
  normStarted : Bool := false
  norms : List NormNode := []
  counters : Counters := []
  bound : Nat := 0
  loadSid : Nat := 0
  exSteps : List ExStep := []
  waleNodes : List WaleNode := []
  heldWale : List (WaleKind × WaleMsg) := []
  deadlines : Nat := 0
  substituted : List Substituted := []
  carried : List Carried := []
  scales : List ScaleTable := []
  gathers : List GatherState := []
  residency : List Residency := []
  stamps : List Stamp := []
  pageScales : List PageScale := []
  sweepSpoiled : Bool := false
  sweepBlocked : List Nat := []
  stageBlocks : List GatewayBlock := []
  fetching : List (Nat × Nat) := []
  fetchers : List ((Nat × Nat) × CmdId) := []
  readBlocks : List GatewayBlock := []
  clears : List (Nat × Nat × Nat) := []
  placements : List (Nat × List RemotePlace) := []
  rollbackUntil : Option Nat := none
  copyReads : List (Nat × CmdId) := []
  arenas : List (Nat × Nat) := []
  slots : List (Nat × Nat) := []
  riddleNotes : List RiddleNote := []
  owned : List Nat := []
  deriving DecidableEq, Repr

/-- A retained MEMORY entry (R73). -/
structure Retained where
  job : Nat
  place : TensorPlace
  since : Nat
  deriving DecidableEq, Repr

/-- The record of a job ID's loads (R62): incarnation and unload time, newest first. -/
structure LoadRec where
  job : Nat
  inc : Nat
  unloadedAt : Option Nat
  deriving DecidableEq, Repr

/-! ### Arrays -/

/-- The pass state word of Table 4.3. -/
structure PassWord where
  job : Nat := 0
  inc : Nat := 0
  queue : Nat := 0
  seq : Nat := 0
  pass : Nat := 0
  nextRow : Nat := 0
  ktile : Nat := 0
  mode : Nat := 0
  gang : Nat := 0
  chainSide : Nat := 0
  reissued : Bool := false
  state : Nat := 0
  deriving DecidableEq, Repr, Inhabited

/-- The ramp of an array (R122): none, a ramp-down or a ramp-up, or clocks gated. -/
inductive Ramp where
  | none | down | gated | up
  deriving DecidableEq, Repr, Inhabited

/-- A stationary tile as an array holds it (R106, R131, R132): its values by k-row, the checksum column (the exact sum
of each k-row) and the checksum row (the exact sum of each column), both captured as the tile loads. -/
structure Tile where
  rows : List (List Val) := []
  column : List Val := []
  row : List Val := []
  deriving DecidableEq, Repr, Inhabited

/-- A pass of a command: its segment, its rows, the columns of its tile, the span of k that it adds, the depth of one
array's k-tile, its first k-tile, its chain and its place in it, and whether it ends the chain. -/
structure PassSpec where
  seg : Nat := 0
  lo : Nat := 0
  hi : Nat := 0
  cols : List Nat := []
  k0 : Nat := 0
  k1 : Nat := 0
  depth : Nat := 1
  ktile : Nat := 0
  link : Nat := 0
  last : Bool := true
  chain : Nat := 0
  deriving DecidableEq, Repr, Inhabited

/-- A pass as it stands on its array: its pass state word and what it computes, the units fed of the current row-block
(rows, or elements under HADAMARD, R134) and of the row NEXT_ROW, the rows of results that it has formed, and whether the
checks of its tile and rows have found no difference. -/
structure PassRun where
  word : PassWord := {}
  spec : PassSpec := {}
  fedIn : Nat := 0
  elem : Nat := 0
  out : List (Nat × PartRow) := []
  clean : Bool := true
  deriving DecidableEq, Repr, Inhabited

/-- The chain region of one chain of passes (R117, R118): the word of its latest pass, its number within the command, and
the partial rows in the two halves. It stands at the first array of the gang that runs the whole chain (R150). -/
structure Chain where
  word : PassWord
  chain : Nat
  even : List (Nat × PartRow) := []
  odd : List (Nat × PartRow) := []
  deriving DecidableEq, Repr

/-- A matrix array (R113): its current pass, the tile it holds, the earlier passes whose drain and checks have not ended,
oldest first (R107), the chains bound to it, the ramp with the eighths of its columns turned off (R122), a limiter gap
that stands before its next row-block, the gap under way with its job, whether a gap stood before the current pass's
reload (R124), a pre-emption request, and its pre-empted passes. A missing array reads as the reset value, IDLE with its
clocks gated. -/
structure ArrayState extends PassRun where
  arr : Nat
  tile : Tile := {}
  draining : List PassRun := []
  chains : List Chain := []
  ramp : Ramp := .gated
  eighths : Nat := 8
  gap : Nat := 0
  gapJob : Nat := 0
  inGap : Bool := false
  spaced : Bool := false
  preempt : Bool := false
  suspended : List PassRun := []
  counters : List (Nat × Ctr × Nat) := []
  deriving DecidableEq, Repr, Inhabited

/-! ### Fault log, escalation -/

/-- A fault log record (R473). -/
structure LogRec where
  time : Tick
  record : Nat
  cls : Nat
  outcome : Nat
  level : Nat := 0
  border : Nat := 0
  repeat_ : Nat := 0
  unit : UnitRef := ⟨0, 0⟩
  logical : Nat := 0xFF
  sub : Nat := 0
  job : Nat := 0
  inc : Nat := 0
  queue : Nat := 0
  seq : Nat := 0
  address : Nat := 0
  info0 : Nat := 0
  info1 : Nat := 0
  powerUps : Nat := 0
  flushed : Bool := false
  deriving DecidableEq, Repr

/-- A level in progress (R447, R448): level 1 Context, 2 Engine, 3 Partition, 4 Module, 5 Power cycle;
`unit` is a physical stake (2; 256 plus the rib for a rib), a Side (3) or 0; `noticeId` is that of its notices (R461). -/
structure Escalation where
  level : Nat
  unit : Nat
  started : Nat
  record : Nat
  noticeId : Nat := 0
  reply : Option CmdId := none
  deriving DecidableEq, Repr

/-- Replay isolation on an engine (R456–R458): the suspect jobs still to replay, innocent and guilty
ones, and the command whose timeout began it. -/
structure Isolation where
  engine : Engine
  started : Nat
  stopped : Bool
  left : List Nat
  innocent : List Nat
  guilty : List Nat
  cause : Option CmdId
  deriving DecidableEq, Repr

/-- A reset notice that the notice engine sends (R461). -/
structure Notice where
  kind : Nat
  scope : Nat
  side : Nat
  noticeId : Nat
  time : Tick
  record : Nat
  jobs : List (Nat × Nat × Nat)
  sent : Nat
  deriving DecidableEq, Repr

/-- A crash dump slot that holds a dump (R477); its bytes stand in extent 0xFF02. -/
structure Dump where
  slot : Nat
  complete : Bool
  deriving DecidableEq, Repr

/-- A spare of a rib (R40, R466): which slot is spare, whether it is under self-test or moving, and the
tick at which each active slot began to serve. -/
structure RibState where
  rib : Nat
  spare : Option Nat
  testing : Bool := false
  moving : Option (Nat × Nat) := none
  since : List (Nat × Nat) := []
  deriving DecidableEq, Repr

/-- A trace record (R513). -/
structure TraceRec where
  time : Tick
  kind : Nat
  unit : UnitRef := ⟨0, 0⟩
  job : Nat := 0
  inc : Nat := 0
  queue : Nat := 0
  seq : Nat := 0
  arg0 : Nat := 0
  arg1 : Nat := 0
  deriving DecidableEq, Repr

/-- The module's trace (R512–R514). `buffer` holds the records oldest first; `streamed` counts those
already sent; `base` is the buffer index of its first record; `at_` the address of
the buffer. -/
structure Trace where
  running : Bool := false
  sizeUnits : Nat := 0
  at_ : Nat := 0
  kinds : BitVec 32 := 0
  stop : Bool := false
  dest : Option Endpoint := none
  cap : Nat := 0
  sid : Nat := 0
  buffer : List TraceRec := []
  base : Nat := 0
  streamed : Nat := 0
  seq : Nat := 0
  deriving DecidableEq, Repr

/-! ### Fabric -/

/-- An atomic that waits in an output queue with those combined into it (R424): its packet, operation, SIZE, FETCH and
address, the FCLK cycle at which it entered, and the (source, tag, operand) of every part in order. -/
structure HeldAtomic where
  pkt : WeavePkt
  op : TrayOp
  size : Nat
  fetch : Bool
  addr : Nat
  entered : Nat
  parts : List (Nat × Nat × Nat)
  deriving DecidableEq, Repr

/-- A Weave port (R398, R402): state 0 DOWN, 1 TRAINING, 2 UP, 3 DEGRADED, 4 FENCED, 5 MISCABLED. -/
structure Port where
  neighbour : Nat := 0
  neighbourPort : Nat := 0
  state : Nat := 0
  width : Nat := 0
  spareFor : Nat := 0xF
  failed : List Nat := []
  training : Option Nat := none
  retries1s : Nat := 0
  retriesNow : Nat := 0
  counters : Counters := []
  queue : List HeldAtomic := []
  deriving DecidableEq, Repr, Inhabited

/-- A region's entry in the steward's ownership table (R428, R431). -/
structure OwnEntry where
  region : Nat
  owner : Option (Nat × Nat)
  stale : Bool := false
  deriving DecidableEq, Repr

/-- A take that waits at the steward (R428). -/
structure OwnTakeWait where
  region : Nat
  owner : Nat
  job : Nat
  id : CmdId
  deriving DecidableEq, Repr

/-- What a TARGET_RESETTING answer turns away (R414, R453). -/
inductive Bounced where
  | exchange (rank : Nat) (m : ExMsg)
  | wale (rank : Nat) (kind : WaleKind) (m : WaleMsg)
  | far (rank : Nat) (m : FarMsg)
  | tray (addr tag : Nat)
  | request (addr : Nat)
  deriving DecidableEq, Repr

/-- A datagram or message that leaves the module. -/
inductive Out where
  | reply (r : Reply)
  | handshake (dst : Endpoint) (result : Nat) (point nonce confirm : Bytes)
  | rdmaData (dst : Endpoint) (data : Bytes)
  | rdmaAck (dst : Endpoint)
  | rdmaInvalidNak (dst : Endpoint)
  | rdmaAccessNak (dst : Endpoint)
  | exchange (rank : Nat) (kind : ExKind) (m : ExMsg)
  | wale (rank : Nat) (kind : WaleKind) (m : WaleMsg)
  | far (rank : Nat) (m : FarMsg) (wait : Bool)
  | farRelease (rank : Nat) (id : CmdId) (value : Nat)
  | farWithdraw (rank : Nat) (m : FarMsg)
  | farAnswer (rank : Nat) (id : CmdId) (a : FarAnswer)
  | trayRequest (addr : Nat) (op : TrayOp) (r : TrayReq)
  | trayResponse (addr : Nat) (op : TrayOp) (r : TrayResp)
  | scatterWhole (rank : Nat) (id : CmdId) (op : Op) (payload : Bytes)
  | verdictAsk (rank : Nat) (job step : Nat)
  | verdictTell (rank : Nat) (job step : Nat) (word : BitVec 64) (vec : List (BitVec 32))
  | placementTable (rank : Nat) (job : Nat) (places : List RemotePlace)
  | ownTake (id : CmdId) (job region : Nat)
  | ownGive (id : CmdId) (job region : Nat)
  | stewardAnswer (addr : Nat) (id : CmdId) (stale full : Bool)
  | ownEntry (addr : Nat) (region : Nat) (owner : Option (Nat × Nat))
  | takeWaits (addr : Nat) (region : Nat)
  | gatewayFlush (rank : Nat) (job tensor window block : Nat) (data : List (Nat × Byte))
  | gatewayFlushAck (rank : Nat) (job window block : Nat)
  | gatewayFetch (rank : Nat) (job tensor window block : Nat)
  | gatewayFetchData (rank : Nat) (job window block : Nat) (data : Option Bytes)
  | notice (addr : Nat) (n : NoticeRec)
  | resetNotice (dst : Endpoint) (body : Bytes)
  | joinQuarantined (dst : Endpoint) (body : Bytes)
  | roster (addr : Nat) (r : RosterMsg)
  | attestChallenge (addr : Nat) (nonce : Bytes)
  | attestReport (addr : Nat) (report : Bytes)
  | transit (port : Nat) (p : WeavePkt)
  | unreachable (addr : Nat) (tag : Nat)
  | targetResetting (b : Bounced)
  | mark (port : Nat) (markId : Nat)
  | markReply (port : Nat) (markId : Nat)
  | trace (dst : Endpoint) (bytes : Bytes)
  | ibi (byte : Nat)
  | i3cData (bytes : Bytes)
  deriving DecidableEq, Repr

/-! ### Management side -/

/-- The SIDEBAND or a SIDE mailbox (Table 12.12). -/
structure MailboxRegs where
  mask : BitVec 32 := 0xFFFFFFFC#32
  cancel : Bool := false
  returnCode : BitVec 16 := 0
  ackSeq : BitVec 8 := 0
  valid : Bool := false
  overrun : Bool := false
  busy : Bool := false
  reqBuf : Memory := []
  latched : Bytes := []
  rspBuf : Bytes := []
  deriving DecidableEq, Repr, Inhabited

/-- A SMALL mailbox (Table 12.11) by its receiving sequencer's physical stake. `channels` holds the
messages, and `empty_` the channels whose senders have an EMPTY interrupt. -/
structure SmallMailbox where
  stake : Nat
  doorbell : BitVec 32 := 0
  mask : BitVec 32 := 0xFFFFFFFF#32
  wakeEn : BitVec 32 := 0
  channels : List (Nat × Bytes) := []
  empty_ : List Nat := []
  deriving DecidableEq, Repr, Inhabited

/-- The I3C target (R481). -/
structure I3c where
  dynamic : Option (BitVec 7) := none
  ibi : Bool := false
  deriving DecidableEq, Repr, Inhabited

/-- The states of the IEEE 1149.1 TAP controller (R510). -/
inductive TapState where
  | reset | idle
  | selDr | capDr | shiftDr | exit1Dr | pauseDr | exit2Dr | updDr
  | selIr | capIr | shiftIr | exit1Ir | pauseIr | exit2Ir | updIr
  deriving DecidableEq, Repr, Inhabited

/-- The test access port (R510): controller state, shift and instruction registers, the data register
being shifted, the boundary latches and TDO. -/
structure Tap where
  state : TapState := .reset
  shiftIr : BitVec 8 := 0
  ir : BitVec 8 := 0x01
  dr : List Bool := []
  boundary : List Bool := []
  tdo : Bool := false
  deriving DecidableEq, Repr, Inhabited

/-- Boot stages (R482). -/
inductive BootStage where
  | off | rails | powerGood | bootRom | memoryTraining | bist | linkTraining | ready | resetting
  | failed
  deriving DecidableEq, Repr, Inhabited

/-- A management complex (R455): running Pholer as active or standby, under self-test, or out. -/
inductive MgmtPhase where
  | active | standby | testing | out
  deriving DecidableEq, Repr, Inhabited

/-- Supply, rails, limits and sensors (chapter 17). `window` holds the newest 100 power samples in mW,
newest first; `lowSince` is when PWR_EN fell, `belowSince` since when the thermal limit has been below the power limit. -/
structure Power where
  inputMv : Nat := 0
  inputMa : Nat := 0
  arraysMw : Nat := 0
  window : List Nat := []
  inRange : Bool := false
  charged : Bool := false
  standby : Bool := false
  mainEnabled : Bool := false
  pwrEn : Bool := false
  groups : Nat := 0
  pwrGood : Bool := false
  cycleReq : Bool := false
  limit : Nat := 4800
  thermal : Nat := 4800
  gap : Nat := 0
  gapPrimary : List (Nat × Nat) := []
  atMaximum : Bool := false
  sensors : List Int := []
  throttling : Bool := false
  released : Bool := true
  holding : Option (Bool × Nat) := none
  lowSince : Option Nat := none
  belowSince : Option Nat := none
  deriving DecidableEq, Repr, Inhabited

/-- Boot, firmware and pins (chapter 15). `staging` says that FW_STAGE BEGIN stands and no takeover has ended it (R491);
`bistOnce` is BOOT_CONTROL's level; `fuse` and `fuseB1` the fuse counters of the blocks of B0 and B1; `wakes` counts edges of WAKE_N, `woken` names the
receivers whose domains doorbells powered up (R393). -/
structure Boot where
  stage : BootStage := .off
  modRst : Bool := true
  wakeLow : Bool := false
  stewardSel : Bool := false
  unclaimed : Bool := true
  quarantined : Bool := false
  noFirmware : Bool := true
  activeB1 : Bool := false
  mgmt : MgmtPhase × MgmtPhase := (.active, .standby)
  slot : Nat := 0
  staging : Bool := false
  bistOnce : Option Nat := none
  trainedOnce : Bool := false
  powerUps : Nat := 0
  resets : Nat := 0
  fuse : Nat := 0
  fuseB1 : Nat := 0
  wakes : Nat := 0
  woken : List UnitRef := []
  deriving DecidableEq, Repr, Inhabited

/-- An Ethernet port (R14, R27, R43): the Border whose MAC it is, whether its link is up, and its addresses under the roster. -/
structure EthPort where
  border : Nat
  up : Bool := false
  ipv4 : BitVec 32 := 0
  ipv6 : BitVec 128 := 0
  deriving DecidableEq, Repr, Inhabited

/-- The keep RAM of a Border (R31): the fault log, the verdict records, the dump summary and the trail of levels. -/
structure KeepRam where
  log : List LogRec := []
  verdicts : List VerdictRec := []
  summary : Bytes := []
  trail : List (Escalation × Option Nat) := []
  deriving DecidableEq, Repr, Inhabited

/-- A one-way link of a Side's network (R15, R19): out of the mesh router at a row and column towards the north (0), south (1),
west (2) or east (3), or over the mesh edge at a router, into or out of the mesh. -/
inductive Link where
  | mesh (side row col dir : Nat)
  | edge (side edge row col : Nat) (inward : Bool)
  deriving DecidableEq, Repr, Inhabited

/-- What a hardware thread of a sequencer does (R21, R24, R389): it has no work, is ready, waits on a tie, for the data of
accesses that left the stake, or for a full channel of a SMALL mailbox, by its receiver's physical stake. -/
inductive ThreadPhase where
  | idle | ready
  | tie (ref : Nat)
  | access (id : CmdId)
  | channel (receiver channel : Nat)
  deriving DecidableEq, Repr, Inhabited

/-- A sequencer (R24), by its logical stake: its 8 threads and the one that it runs. A missing one has 8 idle threads. -/
structure Sequencer where
  stake : Nat
  threads : List ThreadPhase := List.replicate 8 .idle
  current : Nat := 0
  deriving DecidableEq, Repr, Inhabited

/-- A module reset in progress (R452). -/
structure ModuleReset where
  started : Nat
  record : Nat
  noticeId : Nat
  deriving DecidableEq, Repr

/-- A tray operation that waits for its response (R422, R425): its tag, command, job and target rank, the
tray address, and the location from which a LOAD or a fetched old value enters the command's bytes. -/
structure TrayOut where
  tag : Nat
  id : CmdId
  job : Nat
  rank : Nat
  op : TrayOp
  addr : Nat
  size : Nat
  into : Option Nat
  deriving DecidableEq, Repr

/-- A request-class packet on its way whose answer has not come (R413): a tray operation by its tag, a far tie message or a
verdict request by its command, the flush or fetch of a gateway block. -/
inductive Sent where
  | tray (tag : Nat)
  | command (id : CmdId)
  | flush (job window block : Nat)
  | fetch (job window block : Nat)
  deriving DecidableEq, Repr

/-- What a part of a split SCATTER_ADD adds at one element (R208): its locations, whether they are those of a Tier A copy,
the SR word, and the FP32 addends in order. -/
structure StagedAdd where
  locs : List Nat
  copy : Bool
  sr : Nat
  addends : List (BitVec 32)
  deriving DecidableEq, Repr

/-- The share of one destination part of a split scatter (R212, R213): its staged withies, the staged
byte writes and additions, whether COMMIT is recorded, and whether the writes have reached memory since. -/
structure Staged where
  id : CmdId
  job : Nat
  part : Nat
  withies : List Nat
  conv : Nat
  format : Nat
  writes : List (Nat × Byte)
  adds : List StagedAdd
  recorded : Bool := false
  written : Bool := false
  deriving DecidableEq, Repr

/-- A Weave message that is not whole yet, by SRC, CLASS and MSG ID, with the packets that have come (R405). -/
structure Partial where
  src : Nat
  cls : Nat
  msgId : Nat
  packets : List WeavePkt
  deriving DecidableEq, Repr

/-- The module. -/
structure Mod where
  -- time
  timer : Tick := 0
  timerOn : Bool := false
  timerDev : List (Nat × Int) := []
  timerReload : Nat := 0
  free : Nat := 0
  -- supply, boot, sideband
  power : Power := {}
  boot : Boot := {}
  alertCause : BitVec 8 := 0
  alertMask : BitVec 8 := 0x01
  sideband : MailboxRegs := {}
  sideBoxes : List (Nat × MailboxRegs) := []
  small : List SmallMailbox := []
  i3c : I3c := {}
  tap : Tap := {}
  claim : Bytes := []
  -- security
  policy : Option Policy := none
  proposal : Option Proposal := none
  measures : List Bytes := List.replicate 8 (List.replicate 32 0#8)
  sessions : List Session := []
  nextSid : Nat := 0
  handshakes : List Handshake := []
  initTimes : List (BitVec 128 × Nat) := []
  -- memory
  mem : Memory := []
  memErrors : List (Nat × BitVec 144) := []
  linkErrors : List (Link × Nat × BitVec 144) := []
  rowHits : List ((Nat × Nat) × Nat × Nat) := []
  rowTable : List (Nat × Nat) := []
  deadRows : List (Nat × Nat) := []
  repairSpent : List Nat := []
  badChannels : List Nat := []
  laneTestAt : List (Nat × Nat) := []
  channelReads : List (Nat × Nat × CmdId × Nat × Bool) := []
  tierC : Memory := []
  flashErrors : List (Nat × BitVec 144) := []
  flashPages : List Nat := []
  hbmSpares : List (Nat × Nat) := []
  hbmBadLanes : List (Nat × Nat) := []
  sramList : List (Nat × Nat × Nat) := []
  sramRepairs : List (Nat × Nat × Nat) := []
  -- stakes and arrays
  stakeMap : List (Option Nat) := []
  ribs : List RibState := []
  outOfService : List Nat := []
  stakeFaults : List (Nat × Nat) := []
  arrays : List ArrayState := []
  sequencers : List Sequencer := []
  -- jobs and commands
  jobs : List Job := []
  retained : List Retained := []
  loads : List LoadRec := []
  lanes : List LaneState := []
  registry : List Registered := []
  closing : List Nat := []
  ties : List Tie := []
  farWaiters : Nat := 0
  pools : List PoolCell := []
  poolStates : List PoolState := []
  verdicts : List VerdictRec := []
  journals : List JournalRec := []
  -- counters, log, faults
  counters : Counters := []
  log : List LogRec := []
  nextRecord : BitVec 32 := 0
  escalations : List Escalation := []
  isolations : List Isolation := []
  notices : List Notice := []
  nextNotice : Nat := 0
  noticeIds : List Nat := []
  resetting : Option ModuleReset := none
  dumps : List Dump := []
  nextDump : Nat := 0
  summary : Bytes := []
  trail : List (Escalation × Option Nat) := []
  keepCopy : KeepRam := {}
  trace : Trace := {}
  -- fabric
  modAddr : Nat := 0
  ports : List Port := List.replicate 16 {}
  eth : List EthPort := (List.range 8).map fun p => { border := p / 4 }
  faultTable : List (Nat × Nat) := []
  halfCounters : List (Nat × Nat) := []
  nextTag : Nat := 0
  trayOps : List TrayOut := []
  stalled : List (Nat × List Sent) := []
  waitOut : List (Nat × Out) := []
  staged : List Staged := []
  homeOwners : List (Nat × Nat × Nat) := []
  ownTable : List OwnEntry := []
  ownWaits : List OwnTakeWait := []
  ownStale : Bool := false
  combined : List HeldAtomic := []
  assembly : List Partial := []
  injectedFrom : Nat := 0
  isSteward : Bool := false
  roster : List RosterRec := []
  rosterEpoch : Nat := 0
  joins : List (Nat × Nat × Bytes) := []
  -- what left the module, newest first
  out : List Out := []
  deriving DecidableEq, Repr

/-- The block's state: the module, and the commands that wait, first in, first out. -/
structure State where
  m : Mod
  pending : List Instr
  deriving DecidableEq, Repr

/-- Why a step stops with a fault. No rule of the spec stops this block for good (a fault is logged and
recovered, chapter 14), so no meaning raises one; safe, since a fault only ends a run. -/
inductive Fault where
  /-- an access outside the address map by the model itself; raised by no meaning; safe -/
  | unmapped (addr : Nat)
  /-- a stop the spec's words would have to name; raised by no meaning; safe -/
  | named (why : String)
  deriving DecidableEq, Repr

/-- Why a step refuses a command. -/
inductive Refusal where
  /-- the arm of a command that has no meaning yet; raised only by `exec`; safe -/
  | notModelled (mnemonic : String)
  /-- a unit whose behaviour the spec does not give; raised by no meaning; safe -/
  | unit (name : String)
  deriving DecidableEq, Repr

/-- The machine right after reset: every register at the reset value its table gives, no supply at J1,
and no command waiting. The power limit is 4,800 W after every power cycle (R556). -/
def State.reset : State := { m := {}, pending := [] }

end Sys2Proof.Machine
end

