-- ==== Sys2Proof/Config.lean ====
section
/-!
DEFINITION. What the manual leaves open or takes from another standard without its bytes. Every
constant here has no body: a statement holds for every value of it (log 30).
-/

namespace Sys2Proof.Config

open Sys2Proof.Machine

/-- A free number, applied to the model's counter `Mod.free` (log 30). -/
opaque freeNat : Nat → Nat

/-- A free truth value, applied to the model's counter `Mod.free` (log 30). -/
opaque freeBool : Nat → Bool

/-- Whether an engine's trace queue is full at its n-th record (R513; log 117). -/
opaque traceFull : Nat → Bool

/-- Free bytes of the given length, applied to the model's counter `Mod.free` (log 30). -/
opaque freeByte : Nat → Nat → Byte

/-- The CRC-32 of R473, whose polynomial the manual does not give (log 31). -/
opaque crc32 : Bytes → BitVec 32

/-- The content of a plan's sections: R66 names it, and no rule gives its bytes (log 32). -/
opaque planBody : Bytes → Plan

/-- Whether a section's length or content is at fault, as (directory index, byte offset) (R68, log 32). -/
opaque planFault : Bytes → Option (Nat × Nat)

/-- The shortfall in nodes of a VEXPR section that breaks a rule of R537: the manual names the unit and no
count (log 32). -/
opaque vexprExcess : List VExpr → Nat

/-- The shortfall in requesters of a pool that breaks another range of Table 12.7: the manual names the unit and no count
(R379, log 32). -/
opaque poolExcess : List PoolDecl → Nat

/-- The byte offset, within a plan, of the field at fault in a section, by the section's ID: no rule gives the
sections' bytes (log 32). -/
opaque planFieldAt : Bytes → Nat → Nat

/-- The content of a policy document: Table 15.4 names it, and no rule gives its bytes (log 33). -/
opaque policyOf : Bytes → Option Policy

/-- SM2 verification of a signature over a message under a public key (log 34). -/
opaque sm2Verify : Bytes → Bytes → Bytes → Bool

/-- The module's SM2 signature by its identity key: 64 bytes over a message and a nonce counter. -/
opaque sm2Sign : Bytes → Nat → Bytes

/-- Whether a host certificate chain verifies to one of the authority keys (R497, log 34). -/
opaque chainOk : Bytes → List Bytes → Bool

/-- The host certificate's 16-byte key digest (R498, log 34). -/
opaque certDigest : Bytes → Bytes

/-- The responder's side of the SM2 key exchange (R496): session key, ephemeral point, S_B, S_A. -/
opaque kexKey : Bytes → Bytes → Bytes → Nat → Bytes
opaque kexPoint : Nat → Bytes
opaque kexNonce : Nat → Bytes
opaque kexConfirmB : Bytes → Bytes → Bytes → Nat → Bytes
opaque kexConfirmA : Bytes → Bytes → Bytes → Nat → Bytes

/-- The module's identity (R493): public key digest, vendor chain, serial number. -/
opaque identityDigest : Bytes
opaque vendorChain : Bytes
opaque serial : BitVec 64

/-- The STEWARD_SEL strap, and whether a module of the tray at a lower X is strapped too (R435, log 71). -/
opaque stewardSel : Bool
opaque otherSteward : Bool

/-- The boot ROM's version bytes (M0, R494). -/
opaque romVersion : Bytes

/-- Whether a slot's signature and digest verify, from its header and image blocks (R489, log 34). -/
opaque slotVerifies : Bytes → Bytes → Bool

/-- The hardware thread of a sequencer that runs a command, and the one that Pholer binds to a channel of a SMALL mailbox: no
rule names them (R24, R388, log 99). -/
opaque commandThread : CmdId → Nat
opaque channelThread : Nat → Nat → Nat

/-- The edge port that an access takes at an attachment with several: no rule chooses (R19, log 99). -/
opaque edgePort : Nat → Nat

/-- A test's compressed response, and whether it equals the image's value (R508, log 35). -/
opaque bistSignature : Nat → BitVec 64
opaque bistPasses : Nat → Bool

/-- RDMA keys, virtual addresses and queue-pair numbers (R532, log 36). -/
opaque rdmaKey : Nat → Nat → BitVec 32
opaque rdmaVa : Nat → Nat → BitVec 64
opaque qpNumber : Nat → Nat → BitVec 24

/-- The I3C characteristics bytes and status (R481, log 37). -/
opaque i3cBcr : Bytes
opaque i3cDcr : Bytes
opaque i3cStatus : Nat → Bytes

/-- The adaptive choice among ports (R408): credit is not state of this model (log 38). -/
opaque portChoice : Nat → List Nat → Nat

/-- The extents of the x-, y- and z-ring that the module stands in: the cabling fixes them, and no register holds them
(R396, log 68). -/
opaque ringExtent : Nat → Nat

/-- The words of a Weave message whose body has no byte layout (R406, log 68). -/
opaque msgWords : Nat → Nat

/-- Whether the signature of a STEWARD_ASSIGN notice verifies: no rule names its key or form (R435, log 34). -/
opaque assignOk : Bytes → Nat → Nat → Bytes → Bool

/-- Bit errors that HBM_TRAFFIC finds on a lane of the selected range (R245, log 39). -/
opaque laneErrors : Nat → Nat → Nat

/-- What a failed HBM4 lane that stays in service delivers for a word: an error of its symbol (R243, log 108). -/
opaque laneSymbol : Nat → Nat → Nat

/-- The HBM4 lanes that fail the short training after a Module reset, as (pseudo-channel, lane) (R241, log 108). -/
opaque trainedLanes : Nat → List (Nat × Nat)

/-- The DRAM row that holds an address: no rule gives the size of a row (R242, log 61). -/
opaque dramRow : Nat → Nat

/-- The bank and row of a stake store or Rim slice that hold an address: no rule gives the mapping (R22, R472; log 61). -/
opaque sramRow : Nat → Nat × Nat

/-- The bytes of the crash-dump sections whose records have no layout: SUMMARY from the escalation trail, STAKE_MAP from
the map and the spares, and one entry of QUEUES from a job, an expected sequence number and a header (R478, log 62). -/
opaque dumpSummary : List (Escalation × Option Nat) → Bytes
opaque dumpStakes : List (Option Nat) → List RibState → Bytes
opaque dumpQueue : Nat → Nat → Bytes → Bytes

/-- The boundary cells that the TAP captures, and their number (R510, log 40). -/
opaque boundaryCell : Nat → Nat → Bool
opaque boundaryLength : Nat

/-- Where the scale plane of a 2:4 operand of an MX format lies: AUX_BASE names the metadata plane, and no
rule names the scale plane (R156, R189; log 42). -/
opaque sparseScalePlane : Nat → Nat → Nat

/-- Where the scale plane of a gather's source or destination in an MX format lies: the WALE section names a tensor and no
AUX_BASE (R311, log 102). It lies within the tensor's bytes. -/
opaque gatherPlane : Nat → Nat
def gatherScales (tensor len : Nat) : Nat := gatherPlane tensor % (len + 1)

/-- The metadata code that a padding group of a 2:4 destination receives: R194 gives the padding values and
no rule gives the code (log 46). -/
opaque sparsePadCode : Nat → Nat

/-- The threshold of a riddle mask that no RIDDLE of the job wrote: UP names the mask and no RIDDLE_ACT
(R181, log 48). -/
opaque riddleTau : Nat → BitVec 32

/-- The element whose random word rounds a value under SR that is converted once for many elements (R194, R201, log 107): no
rule says which of them it is. -/
opaque onceElem : Nat → Nat

/-- Role numbers by which a body's descriptors name tensors (R255, log 41). -/
def roleIn : Nat := 0xFFFF0000
def roleOut : Nat := 0xFFFF0001
def roleW (n : Nat) : Nat := 0xFFFF1000 + n
def roleGrad (n : Nat) : Nat := 0xFFFF2000 + n
def roleScratch (n : Nat) : Nat := 0xFFFF3000 + n

/-- The tensor ID by which a body's draws into ROUND_IN or ROUND_OUT count: a role has no ID (R255, R347, log 41). -/
opaque roleDraw : Nat → Nat

end Sys2Proof.Config
end

