-- ==== Sys2Proof/Machine/Num.lean ====
section
/-!
DEFINITION. Exact numbers, the scalar formats of Table 3.2 and the one rounding of R95–R101, and FP32
arithmetic as every engine does it (R88–R90, R140).
-/

namespace Sys2Proof.Machine

/-- The exact value +0. -/
def Val.zero : Val := .fin false 0 0

/-- The exact value −0, from which every accumulator starts (R139). -/
def Val.negZero : Val := .fin true 0 0

/-- An integer as an exact value. -/
def Val.ofInt (i : Int) : Val := .fin (decide (i < 0)) i.natAbs 0

def Val.isNan : Val → Bool
  | .nan => true
  | _ => false

def Val.isZero : Val → Bool
  | .fin _ 0 _ => true
  | _ => false

def Val.nonfinite : Val → Bool
  | .fin .. => false
  | _ => true

def Val.neg : Val → Val
  | .nan => .nan
  | .inf s => .inf (!s)
  | .fin s m e => .fin (!s) m e

def Val.abs : Val → Val
  | .nan => .nan
  | .inf _ => .inf false
  | .fin _ m e => .fin false m e

/-- The value times `2^k`, exactly. -/
def Val.scale (x : Val) (k : Int) : Val :=
  match x with
  | .fin s m e => .fin s m (e + k)
  | y => y

/-- A signed integer `i × 2^e` as a value; an exact zero is +0 (R88). -/
def Val.ofScaled (i : Int) (e : Int) : Val := .fin (decide (i < 0)) i.natAbs e

def Val.signed (neg : Bool) (m : Nat) : Int := if neg then -(m : Int) else m

/-- Exact sum (R88): opposite values give +0, two −0 give −0, opposite infinities NaN. -/
def Val.add : Val → Val → Val
  | .nan, _ => .nan
  | _, .nan => .nan
  | .inf a, .inf b => if a = b then .inf a else .nan
  | .inf a, .fin .. => .inf a
  | .fin .., .inf b => .inf b
  | .fin s1 m1 e1, .fin s2 m2 e2 =>
    if m1 = 0 ∧ m2 = 0 then .fin (s1 && s2) 0 0
    else if m1 = 0 then .fin s2 m2 e2
    else if m2 = 0 then .fin s1 m1 e1
    else
      let e := min e1 e2
      .ofScaled (signed s1 (m1 <<< (e1 - e).toNat) + signed s2 (m2 <<< (e2 - e).toNat)) e

def Val.sub (x y : Val) : Val := x.add y.neg

/-- Exact product: the sign is the exclusive OR, zero results included (R88). -/
def Val.mul : Val → Val → Val
  | .nan, _ => .nan
  | _, .nan => .nan
  | .inf a, .inf b => .inf (a ^^ b)
  | .inf a, .fin b m _ => if m = 0 then .nan else .inf (a ^^ b)
  | .fin a m _, .inf b => if m = 0 then .nan else .inf (a ^^ b)
  | .fin a m1 e1, .fin b m2 e2 => .fin (a ^^ b) (m1 * m2) (e1 + e2)

/-- The exact value aligned to exponent `e`, which must not exceed its own. -/
def Val.alignedInt (s : Bool) (m : Nat) (e1 e : Int) : Int := signed s (m <<< (e1 - e).toNat)

/-- Comparison of R89: `none` when unordered. -/
def Val.cmp : Val → Val → Option Ordering
  | .nan, _ => none
  | _, .nan => none
  | .inf a, .inf b => some (if a = b then .eq else if a then .lt else .gt)
  | .inf a, .fin .. => some (if a then .lt else .gt)
  | .fin .., .inf b => some (if b then .gt else .lt)
  | .fin s1 m1 e1, .fin s2 m2 e2 =>
    let e := min e1 e2
    some (compare (alignedInt s1 m1 e1 e) (alignedInt s2 m2 e2 e))

def Val.lt (x y : Val) : Bool := x.cmp y == some .lt
def Val.le (x y : Val) : Bool := x.cmp y == some .lt || x.cmp y == some .eq
def Val.eq (x y : Val) : Bool := x.cmp y == some .eq

/-- The sign bit. -/
def Val.negative : Val → Bool
  | .nan => false
  | .inf s => s
  | .fin s _ _ => s

/-- IEEE 754-2019 maximum (R90, Table 3.6). -/
def Val.max (x y : Val) : Val :=
  match x.cmp y with
  | none => .nan
  | some .lt => y
  | some .gt => x
  | some .eq => if x.negative then y else x

/-- IEEE 754-2019 minimum (R90, Table 3.6). -/
def Val.min (x y : Val) : Val :=
  match x.cmp y with
  | none => .nan
  | some .lt => x
  | some .gt => y
  | some .eq => if x.negative then x else y

/-! ### Scalar formats (R81) -/

/-- What the largest exponent field encodes (Table 3.2). -/
inductive Special where
  /-- infinity and NaN, as in FP32, BF16, FP16 and E5M2 -/
  | ieee
  /-- only the all-ones code is NaN, as in E4M3 -/
  | nanOnly
  /-- ordinary values, as in the MX element formats -/
  | none
  deriving DecidableEq, Repr, Inhabited

/-- A floating-point layout of Table 3.2: mantissa bits, exponent bits and bias. -/
structure FloatFmt where
  mbits : Nat
  ebits : Nat
  bias : Nat
  special : Special
  deriving DecidableEq, Repr, Inhabited

def fp32 : FloatFmt := ⟨23, 8, 127, .ieee⟩
def bf16 : FloatFmt := ⟨7, 8, 127, .ieee⟩
def fp16 : FloatFmt := ⟨10, 5, 15, .ieee⟩
def e4m3 : FloatFmt := ⟨3, 4, 7, .nanOnly⟩
def e5m2 : FloatFmt := ⟨2, 5, 15, .ieee⟩
def e3m2 : FloatFmt := ⟨2, 3, 3, .none⟩
def e2m3 : FloatFmt := ⟨3, 2, 1, .none⟩
def e2m1 : FloatFmt := ⟨1, 2, 1, .none⟩

/-- Bits of an element. -/
def FloatFmt.width (f : FloatFmt) : Nat := 1 + f.ebits + f.mbits

/-- The exponent of the smallest subnormal: every value is a multiple of `2^emin`. -/
def FloatFmt.emin (f : FloatFmt) : Int := 1 - (f.bias : Int) - f.mbits

/-- The largest exponent field of a finite value. -/
def FloatFmt.topField (f : FloatFmt) : Nat :=
  match f.special with
  | .ieee => 2 ^ f.ebits - 2
  | _ => 2 ^ f.ebits - 1

/-- The largest finite significand, with its implicit bit. -/
def FloatFmt.topMan (f : FloatFmt) : Nat :=
  match f.special with
  | .nanOnly => 2 ^ (f.mbits + 1) - 2
  | _ => 2 ^ (f.mbits + 1) - 1

/-- The exponent of the largest finite value's last place. -/
def FloatFmt.topExp (f : FloatFmt) : Int := (f.topField : Int) - 1 + f.emin

/-- The largest finite value (Table 3.2). -/
def FloatFmt.largest (f : FloatFmt) : Val := .fin false f.topMan f.topExp

/-- Reads a code of the format (R81). -/
def FloatFmt.decode (f : FloatFmt) (bits : Nat) : Val :=
  let m := bits % 2 ^ f.mbits
  let e := bits / 2 ^ f.mbits % 2 ^ f.ebits
  let s := decide (bits / 2 ^ (f.mbits + f.ebits) % 2 = 1)
  if f.special = .ieee ∧ e = 2 ^ f.ebits - 1 then
    if m = 0 then .inf s else .nan
  else if f.special = .nanOnly ∧ e = 2 ^ f.ebits - 1 ∧ m = 2 ^ f.mbits - 1 then .nan
  else if e = 0 then .fin s m f.emin
  else .fin s (m + 2 ^ f.mbits) (f.emin + e - 1)

/-- The code of `±m × 2^q`, where `m ≤ 2^(mbits+1)` and `q` is the last place that `quantum` gives. -/
def FloatFmt.encodeFinite (f : FloatFmt) (neg : Bool) (m : Nat) (q : Int) : Nat :=
  let s := if neg then 2 ^ (f.mbits + f.ebits) else 0
  if m < 2 ^ f.mbits then s + m
  else
    let field := (q - f.emin + 1).toNat
    if m = 2 ^ (f.mbits + 1) then s + (field + 1) * 2 ^ f.mbits
    else s + field * 2 ^ f.mbits + (m - 2 ^ f.mbits)

/-- The canonical NaN (R82, Table 3.2). -/
def FloatFmt.nanCode (f : FloatFmt) : Nat :=
  match f.special with
  | .nanOnly => 2 ^ (f.mbits + f.ebits) - 1
  | _ => (2 ^ f.ebits - 1) * 2 ^ f.mbits + 2 ^ (f.mbits - 1)

/-- The code of an infinity in a format that has one. -/
def FloatFmt.infCode (f : FloatFmt) (neg : Bool) : Nat :=
  (if neg then 2 ^ (f.mbits + f.ebits) else 0) + (2 ^ f.ebits - 1) * 2 ^ f.mbits

/-- The code of the largest finite value with the given sign. -/
def FloatFmt.maxCode (f : FloatFmt) (neg : Bool) : Nat := f.encodeFinite neg f.topMan f.topExp

/-! ### Rounding (R99–R101) -/

/-- The rounding modes of R96. -/
inductive Rnd where
  | rne | rtz | sr
  deriving DecidableEq, Repr, Inhabited

/-- A conversion control byte (R96, Table 3.8). -/
structure Conv where
  rnd : Rnd := .rne
  sat : Bool := false
  ceil : Bool := false
  deriving DecidableEq, Repr, Inhabited

/-- Reads a conversion control byte; `none` for a reserved bit or ROUND 3 (R96). -/
def Conv.ofByte (b : Nat) : Option Conv :=
  if 16 ≤ b then none
  else match b % 4 with
    | 0 => some ⟨.rne, b / 4 % 2 = 1, b / 8 = 1⟩
    | 1 => some ⟨.rtz, b / 4 % 2 = 1, b / 8 = 1⟩
    | 2 => some ⟨.sr, b / 4 % 2 = 1, b / 8 = 1⟩
    | _ => none

/-- `m × 2^e` rounded to an integer multiple of `2^q` under R99 and R100; `u` is the 16-bit random word. -/
def roundMag (r : Rnd) (u : Nat) (m : Nat) (e q : Int) : Nat :=
  if q ≤ e then m <<< (e - q).toNat
  else
    let d := (q - e).toNat
    let n := m >>> d
    let rest := m % 2 ^ d
    match r with
    | .rtz => n
    | .rne => if 2 ^ (d - 1) < rest ∨ (rest = 2 ^ (d - 1) ∧ n % 2 = 1) then n + 1 else n
    | .sr => if 65536 ≤ rest * 65536 / 2 ^ d + u then n + 1 else n

/-- The last place of a nonzero magnitude in a format, with an unbounded exponent above. -/
def FloatFmt.quantum (f : FloatFmt) (m : Nat) (e : Int) : Int :=
  Max.max f.emin (e + Nat.log2 m - f.mbits)

/-- What a conversion gives: the code, whether the value was set to a bound (SATURATED, R101), and
whether a NaN or infinity was produced (NONFINITE, R82). -/
structure Converted where
  code : Nat
  saturated : Bool := false
  nonfinite : Bool := false
  deriving DecidableEq, Repr, Inhabited

/-- Out-of-range values of Table 3.10. -/
def FloatFmt.overflow (f : FloatFmt) (c : Conv) (neg : Bool) : Converted :=
  if c.rnd = .rtz ∨ c.sat ∨ f.special = .none then ⟨f.maxCode neg, true, false⟩
  else if f.special = .nanOnly then ⟨f.nanCode, false, true⟩
  else ⟨f.infCode neg, false, true⟩

/-- Infinite sources of Table 3.10. -/
def FloatFmt.fromInf (f : FloatFmt) (c : Conv) (neg : Bool) : Converted :=
  if c.sat ∨ f.special = .none then ⟨f.maxCode neg, true, false⟩
  else if f.special = .nanOnly then ⟨f.nanCode, false, true⟩
  else ⟨f.infCode neg, false, true⟩

/-- The one rounding of a conversion into a scalar format (R97, R99–R101, Table 3.10). -/
def FloatFmt.convert (f : FloatFmt) (c : Conv) (u : Nat) (x : Val) : Converted :=
  match x with
  | .nan => ⟨f.nanCode, false, true⟩
  | .inf s => f.fromInf c s
  | .fin s m e =>
    if m = 0 then ⟨f.encodeFinite s 0 f.emin, false, false⟩
    else
      let q := f.quantum m e
      let n := roundMag c.rnd u m e q
      if Val.lt f.largest (.fin false n q) then f.overflow c s
      else ⟨f.encodeFinite s n q, false, false⟩

/-! ### FP32 arithmetic -/

/-- FP32 bits as a value. -/
def f32 (b : BitVec 32) : Val := fp32.decode b.toNat

/-- A value rounded once to FP32 under RNE; beyond the range, ±Inf (Table 5.1). -/
def rnd32 (x : Val) : BitVec 32 := BitVec.ofNat 32 (fp32.convert {} 0 x).code

/-- A value rounded once to FP32 under SR with the random word `u`; beyond the range, ±Inf (R141). -/
def rnd32sr (u : Nat) (x : Val) : BitVec 32 :=
  BitVec.ofNat 32 (fp32.convert { rnd := .sr } u x).code

def add32 (a b : BitVec 32) : BitVec 32 := rnd32 ((f32 a).add (f32 b))
def sub32 (a b : BitVec 32) : BitVec 32 := rnd32 ((f32 a).sub (f32 b))
def mul32 (a b : BitVec 32) : BitVec 32 := rnd32 ((f32 a).mul (f32 b))
def fma32 (a b c : BitVec 32) : BitVec 32 := rnd32 (((f32 a).mul (f32 b)).add (f32 c))
def max32 (a b : BitVec 32) : BitVec 32 := rnd32 ((f32 a).max (f32 b))
def min32 (a b : BitVec 32) : BitVec 32 := rnd32 ((f32 a).min (f32 b))
def neg32 (a : BitVec 32) : BitVec 32 := a ^^^ 0x80000000#32
def abs32 (a : BitVec 32) : BitVec 32 := a &&& 0x7FFFFFFF#32
def lt32 (a b : BitVec 32) : Bool := (f32 a).lt (f32 b)
def le32 (a b : BitVec 32) : Bool := (f32 a).le (f32 b)
def eq32 (a b : BitVec 32) : Bool := (f32 a).eq (f32 b)
def nonfinite32 (a : BitVec 32) : Bool := (f32 a).nonfinite
def nan32 : BitVec 32 := 0x7FC00000#32
def negZero32 : BitVec 32 := 0x80000000#32
def one32 : BitVec 32 := 0x3F800000#32

/-- An exact quotient carried to at least 64 bits, with a last bit that stands for the remainder, so
that rounding it once equals rounding the exact quotient. -/
def Val.div : Val → Val → Val
  | .nan, _ => .nan
  | _, .nan => .nan
  | .inf _, .inf _ => .nan
  | .inf a, .fin b _ _ => .inf (a ^^ b)
  | .fin a _ _, .inf b => .fin (a ^^ b) 0 0
  | .fin a m1 e1, .fin b m2 e2 =>
    if m2 = 0 then (if m1 = 0 then .nan else .inf (a ^^ b))
    else
      let k := 64 + Nat.log2 m2
      let n := m1 <<< k
      .fin (a ^^ b) (2 * (n / m2) + (if n % m2 = 0 then 0 else 1)) (e1 - e2 - k - 1)

/-- The integer square root, one result bit at a time from bit `i`. -/
def isqrtFrom (n : Nat) : Nat → Nat → Nat
  | 0, acc => acc
  | i + 1, acc =>
    let t := acc + 2 ^ i
    isqrtFrom n i (if t * t ≤ n then t else acc)

/-- The integer square root of `n`. -/
def isqrt (n : Nat) : Nat := isqrtFrom n (Nat.log2 n / 2 + 1) 0

/-- An exact square root carried to at least 64 bits with a remainder bit. -/
def Val.sqrt : Val → Val
  | .nan => .nan
  | .inf s => if s then .nan else .inf false
  | .fin s m e =>
    if m = 0 then .fin s 0 0
    else if s then .nan
    else
      let k := 128 + (e % 2).toNat
      let n := m <<< k
      let r := isqrt n
      .fin false (2 * r + (if r * r = n then 0 else 1)) ((e - k) / 2 - 1)

/-- An exact reciprocal square root carried to at least 64 bits with a remainder bit. -/
def Val.rsqrt : Val → Val
  | .nan => .nan
  | .inf s => if s then .nan else .fin false 0 0
  | .fin s m e =>
    if m = 0 then .inf s
    else if s then .nan
    else
      let m' := m <<< (e % 2).toNat
      let k := 80 + Nat.log2 m'
      let r := isqrt (2 ^ (2 * k) / m')
      .fin false (2 * r + (if r * r * m' = 2 ^ (2 * k) then 0 else 1))
        (-((e - e % 2) / 2) - k - 1)

def div32 (a b : BitVec 32) : BitVec 32 := rnd32 ((f32 a).div (f32 b))
def sqrt32 (a : BitVec 32) : BitVec 32 := rnd32 (f32 a).sqrt
def rsqrt32 (a : BitVec 32) : BitVec 32 := rnd32 (f32 a).rsqrt

/-- The exact sum of a list, term by term (R140): −0 only when every term is −0. -/
def exactSum : List Val → Val
  | [] => .zero
  | [x] => x
  | x :: xs => x.add (exactSum xs)

/-- A tree of additions over a list of 2^k values: at each level, element i is added to element
i + w (R151, R173, R174). The fuel is the number of levels. -/
def treeAdd : Nat → List (BitVec 32) → BitVec 32
  | 0, v => v.headD negZero32
  | k + 1, v =>
    let w := 2 ^ k
    treeAdd k ((v.take w).zipWith add32 (v.drop w))

/-- A list padded with −0 to `n` values. -/
def padNegZero (n : Nat) (v : List (BitVec 32)) : List (BitVec 32) :=
  v.take n ++ List.replicate (n - v.length) negZero32

end Sys2Proof.Machine
end

