-- ==== Sys2Proof/Machine/Formats.lean ====
section
/-!
DEFINITION. Format codes, block formats and their encoding (R80–R87, R91–R93, R98, R102–R104).
-/

namespace Sys2Proof.Machine

/-- The formats of Table 3.1. -/
inductive Fmt where
  | fp32 | bf16 | fp16 | e4m3 | e5m2
  | mx8e4m3 | mx8e5m2 | mx6e2m3 | mx6e3m2 | mx4 | w4
  | int8 | int32
  deriving DecidableEq, Repr, Inhabited

/-- Table 3.1; `none` for a code that it does not list (R80). -/
def Fmt.ofCode : Nat → Option Fmt
  | 0x00 => some .fp32
  | 0x01 => some .bf16
  | 0x02 => some .fp16
  | 0x10 => some .e4m3
  | 0x11 => some .e5m2
  | 0x20 => some .mx8e4m3
  | 0x21 => some .mx8e5m2
  | 0x22 => some .mx6e2m3
  | 0x23 => some .mx6e3m2
  | 0x24 => some .mx4
  | 0x30 => some .w4
  | 0x40 => some .int8
  | 0x41 => some .int32
  | _ => none

def Fmt.isInt : Fmt → Bool
  | .int8 | .int32 => true
  | _ => false

/-- The MX formats: two planes (R85). -/
def Fmt.isMx : Fmt → Bool
  | .mx8e4m3 | .mx8e5m2 | .mx6e2m3 | .mx6e3m2 | .mx4 => true
  | _ => false

/-- The block formats (R84). -/
def Fmt.isBlock (f : Fmt) : Bool := f.isMx || f == .w4

/-- The scalar layout, or the element layout of a block format (Table 3.2). -/
def Fmt.layout : Fmt → FloatFmt
  | .fp32 => Machine.fp32
  | .bf16 => Machine.bf16
  | .fp16 => Machine.fp16
  | .e4m3 => Machine.e4m3
  | .e5m2 => Machine.e5m2
  | .mx8e4m3 => Machine.e4m3
  | .mx8e5m2 => Machine.e5m2
  | .mx6e2m3 => Machine.e2m3
  | .mx6e3m2 => Machine.e3m2
  | .mx4 => Machine.e2m1
  | .w4 => Machine.e2m1
  | .int8 => Machine.fp32
  | .int32 => Machine.fp32

/-- Bytes per element of a scalar or integer format (Table 3.1). -/
def Fmt.size : Fmt → Nat
  | .fp32 | .int32 => 4
  | .bf16 | .fp16 => 2
  | _ => 1

/-- Bits per element as the arrays stream it. -/
def Fmt.bits : Fmt → Nat
  | .fp32 | .int32 => 32
  | .bf16 | .fp16 => 16
  | .mx6e2m3 | .mx6e3m2 => 6
  | .mx4 | .w4 => 4
  | _ => 8

/-- Bytes of a block in the element plane (R85, R86). -/
def Fmt.blockBytes : Fmt → Nat
  | .mx6e2m3 | .mx6e3m2 => 24
  | .mx4 => 16
  | .w4 => 18
  | _ => 32

/-- The rate class of R92: 4, 8 or 16 bits. -/
def Fmt.cls : Fmt → Nat
  | .mx4 | .w4 => 4
  | .bf16 | .fp16 => 16
  | _ => 8

/-- Operand pairs that the arrays accept (R91). -/
def Fmt.pairOk (a b : Fmt) : Bool :=
  let narrow (f : Fmt) : Bool := f == .e4m3 || f == .e5m2 || f.isBlock
  let wide (f : Fmt) : Bool := f == .bf16 || f == .fp16
  (narrow a && narrow b) || (wide a && wide b)

/-- Operand pairs of the fitch modes (R136). -/
def Fmt.fitchOk (a b : Fmt) : Bool :=
  let narrow (f : Fmt) : Bool := f == .e4m3 || f == .e5m2
  let wide (f : Fmt) : Bool := f == .bf16 || f == .fp16
  (narrow a && narrow b) || (wide a && wide b)

/-- FP32, BF16, FP16, E4M3 and E5M2. -/
def Fmt.isScalarFloat (f : Fmt) : Bool := !f.isInt && !f.isBlock

/-- The 16-bit formats and FP8, which the sparse gradients accept (R164). -/
def Fmt.sparseGradOk (f : Fmt) : Bool := f.isScalarFloat && f != .fp32

/-- A decoded or encoded block: its E8M0 scale code, its downshifts by sub-block and its 32 element
codes (R83, R86). -/
structure Block where
  scale : Nat
  shifts : List Nat := []
  elems : List Nat
  deriving DecidableEq, Repr, Inhabited

/-- Element `i` of a block, exactly (R83, R87). -/
def Block.value (f : Fmt) (b : Block) (i : Nat) : Val :=
  if b.scale = 0xFF then .nan
  else
    let shift : Nat := if f = .w4 then b.shifts.getD (i / 8) 0 else 0
    (f.layout.decode (b.elems.getD i 0)).scale ((b.scale : Int) - 127 - shift)

/-- What an encoding counts (R98, R103, R104, R82). -/
structure Counts where
  saturated : Nat := 0
  nonfinite : Nat := 0
  underflow : Nat := 0
  deriving DecidableEq, Repr, Inhabited

def Counts.add (a b : Counts) : Counts :=
  ⟨a.saturated + b.saturated, a.nonfinite + b.nonfinite, a.underflow + b.underflow⟩

/-- floor(log2 a) − emax of a sub-block's largest magnitude, raised by CEIL (R102). -/
def subExponent (f : FloatFmt) (ceil : Bool) (a : Val) : Option Int :=
  match a with
  | .fin _ m e =>
    if m = 0 then none
    else
      let emax : Int := f.topExp + f.mbits
      let x := e + Nat.log2 m - emax
      let q := f.quantum m (e - x)
      let n := roundMag .rne 0 m (e - x) q
      if ceil && Val.lt f.largest (.fin false n q) then some (x + 1) else some x
  | _ => none

/-- The element of largest magnitude. -/
def maxAbs (xs : List Val) : Val := xs.foldl (fun a x => if Val.lt a x.abs then x.abs else a) .zero

/-- The sub-blocks of 32 elements: one for MX, four of eight for W4. -/
def subBlocks (f : Fmt) (xs : List Val) : List (List Val) :=
  if f = .w4 then [xs.take 8, (xs.drop 8).take 8, (xs.drop 16).take 8, (xs.drop 24).take 8] else [xs]

/-- The encoder of R102 for 32 source values; `u i` is the random word of element i under SR. -/
def encodeBlock (f : Fmt) (c : Conv) (u : Nat → Nat) (xs : List Val) : Block × Counts :=
  let lay := f.layout
  let signCode (x : Val) : Nat := if x.negative then 2 ^ (lay.mbits + lay.ebits) else 0
  let zeros := if f = .w4 then [0, 0, 0, 0] else []
  if xs.any Val.nonfinite then
    (⟨0xFF, zeros, xs.map fun _ => 0⟩, { nonfinite := xs.countP Val.nonfinite })
  else if xs.all Val.isZero then (⟨0, zeros, xs.map signCode⟩, {})
  else
    let exps := (subBlocks f xs).map fun s => subExponent lay c.ceil (maxAbs s)
    let top := exps.foldl (fun (a : Option Int) x =>
      match a, x with
      | none, x => x
      | a, none => a
      | some a, some x => some (Max.max a x)) none
    let x : Int := Min.min 127 (Max.max (-127) (top.getD (-127)))
    let shifts : List Nat := if f = .w4 then
      exps.map fun e => match e with
        | none => 0
        | some e => (Min.min 3 (Max.max 0 (x - e))).toNat
      else []
    let conv := { c with sat := true }
    let out := xs.zipIdx.map fun (v, i) =>
      let s : Nat := shifts.getD (i / 8) 0
      (v, lay.convert conv (u i) (v.scale (-(x - s))))
    (⟨(x + 127).toNat, shifts, out.map fun p => p.2.code⟩,
      { saturated := out.countP fun p => p.2.saturated
        underflow := out.countP fun p => !p.1.isZero && (lay.decode p.2.code).isZero })

/-- `k` little-endian bytes of a number (R7). -/
def leBytes : Nat → Nat → Bytes
  | 0, _ => []
  | k + 1, n => BitVec.ofNat 8 n :: leBytes k (n / 256)

/-- The number that little-endian bytes hold (R7). -/
def leNat : Bytes → Nat
  | [] => 0
  | b :: bs => b.toNat + 256 * leNat bs

/-- Fields of `w` bits packed from bit 0. -/
def packBits (w : Nat) : List Nat → Nat
  | [] => 0
  | x :: xs => x % 2 ^ w + 2 ^ w * packBits w xs

/-- `n` fields of `w` bits from bit 0. -/
def unpackBits (w : Nat) : Nat → Nat → List Nat
  | 0, _ => []
  | k + 1, n => n % 2 ^ w :: unpackBits w k (n / 2 ^ w)

/-- The element-plane bytes of a block; for W4 the whole 18 bytes (R85, R86). -/
def Block.plane (f : Fmt) (b : Block) : Bytes :=
  let w := f.layout.width
  if f = .w4 then
    leBytes 16 (packBits 4 b.elems) ++ leBytes 1 b.scale ++ leBytes 1 (packBits 2 b.shifts)
  else leBytes f.blockBytes (packBits w b.elems)

/-- Reads a block from its plane bytes and, for MX, its scale byte. -/
def Block.ofBytes (f : Fmt) (plane : Bytes) (scale : Nat) : Block :=
  if f = .w4 then
    ⟨(plane.getD 16 0#8).toNat, unpackBits 2 4 (plane.getD 17 0#8).toNat,
      unpackBits 4 32 (leNat (plane.take 16))⟩
  else ⟨scale, [], unpackBits f.layout.width 32 (leNat plane)⟩

/-- INT32 or INT8 bits as a signed integer. -/
def signedOf (width n : Nat) : Int := (BitVec.ofNat width n).toInt

/-- An integer source in an integer destination (R98): the code, and whether it saturated. -/
def convertInt (dst : Fmt) (v : Int) : Nat × Bool :=
  if dst = .int8 then
    if v < -128 then (0x80, true)
    else if 127 < v then (0x7F, true)
    else ((BitVec.ofInt 8 v).toNat, false)
  else ((BitVec.ofInt 32 v).toNat, false)

end Sys2Proof.Machine
end

