-- ==== Sys2Proof/Machine/Flags.lean ====
section
/-!
DEFINITION. The status codes, DETAIL words and counter summaries of replies (R55–R58, R68, R382), the
word layouts that replies carry, and the status registers' computed bits (R402, R482).
-/

namespace Sys2Proof.Machine

/-- The code of a status (R58). -/
def Status.code : Status → Nat
  | .ok => 0x0000
  | .okDegraded => 0x0001
  | .okHeld => 0x0002
  | .okDropped => 0x0003
  | .refusedFit => 0x0010
  | .refusedAuth => 0x0011
  | .busyReducing => 0x0012
  | .badPacket => 0x0013
  | .badDescriptor => 0x0014
  | .bounds => 0x0020
  | .overlap => 0x0021
  | .poolEmpty => 0x0022
  | .quota => 0x0023
  | .nonfinite => 0x0024
  | .timeout => 0x0030
  | .abandoned => 0x0031
  | .spoiled => 0x0032
  | .staleIncarnation => 0x0033
  | .targetResetting => 0x0034
  | .faultDetected => 0x0040
  | .partFailed => 0x0041

/-- The classes of R58. -/
inductive StatusClass where
  | success | refusal | failure
  deriving DecidableEq, Repr, Inhabited

/-- The class of a status (R58). -/
def Status.cls : Status → StatusClass
  | .ok | .okDegraded | .okHeld | .okDropped => .success
  | .refusedFit | .refusedAuth | .busyReducing | .badPacket | .badDescriptor | .staleIncarnation =>
    .refusal
  | _ => .failure

/-- Whether the signal ties rise (R49). -/
def Status.signals (s : Status) : Bool := s.cls == .success

/-- The resource codes of R68, with R471's and R79's. -/
inductive Resource where
  | jobSlot | jobLoaded | jobState | incarnation | primarySlot | sections | queues | stakes
  | stakeStore | rim | tierA | tierB | tierC | ties | poolRequesters | vexpr | experts | ranks
  | links | rdma | spare | pools | fillerBound
  deriving DecidableEq, Repr, Inhabited

def Resource.code : Resource → Nat
  | .jobSlot => 0x01
  | .jobLoaded => 0x02
  | .jobState => 0x03
  | .incarnation => 0x04
  | .primarySlot => 0x05
  | .sections => 0x06
  | .queues => 0x07
  | .stakes => 0x08
  | .stakeStore => 0x09
  | .rim => 0x0A
  | .tierA => 0x0B
  | .tierB => 0x0C
  | .tierC => 0x0D
  | .ties => 0x0E
  | .poolRequesters => 0x0F
  | .vexpr => 0x10
  | .experts => 0x11
  | .ranks => 0x12
  | .links => 0x13
  | .rdma => 0x14
  | .spare => 0x15
  | .pools => 0x16
  | .fillerBound => 0x17

/-- The DETAIL of REFUSED_FIT (R68): code, directory index, saturated shortfall. -/
def fitDetail (r : Resource) (index : Option Nat) (shortfall : Nat) : Nat :=
  r.code * 2 ^ 56 + index.getD 0xFF * 2 ^ 48 + min shortfall (2 ^ 48 - 1)

/-- The DETAIL of a refusal outside the fit checks: no section, the given shortfall. -/
def refuseFit (r : Resource) (shortfall : Nat) : Status × Nat :=
  (.refusedFit, fitDetail r none shortfall)

/-- The DETAIL of BOUNDS (R196): role and linear index. -/
def boundsDetail (role index : Nat) : Nat := role * 2 ^ 60 + index % 2 ^ 60

/-- The DETAIL of POOL_EMPTY (R382). -/
def poolEmptyDetail (pool cls place n : Nat) : Nat :=
  pool * 2 ^ 56 + cls * 2 ^ 54 + place * 2 ^ 32 + n

/-- The DETAIL of QUOTA (R382). -/
def quotaDetail (pool requester cls place units : Nat) : Nat :=
  pool * 2 ^ 56 + requester * 2 ^ 50 + cls * 2 ^ 48 + place * 2 ^ 32 + units % 2 ^ 32

/-- The DETAIL of a TIMEOUT that ends a wait on a tie (R55). -/
def tieTimeoutDetail (far : Bool) (rank ref : Nat) : Nat :=
  2 ^ 63 + (if far then 2 ^ 62 else 0) + rank * 2 ^ 32 + ref

/-- The counter summary word (R57). -/
def Summary.word (s : Summary) : Nat :=
  let b (x : Bool) (i : Nat) : Nat := if x then 2 ^ i else 0
  min s.nonfinite 65535 * 2 ^ 48 + min s.underflow 65535 * 2 ^ 32 + min s.corrected 65535 * 2 ^ 16 +
    b s.esc 7 + b s.degraded 6 + b s.held 5 + b s.dropped 4 + b s.preempted 3 + b s.throttled 2

/-- Adds what an encoding counted. -/
def Summary.counts (s : Summary) (c : Counts) : Summary :=
  { s with
    nonfinite := s.nonfinite + c.nonfinite
    underflow := s.underflow + c.underflow
    saturated := s.saturated + c.saturated }

/-- VERDICT of the verdict word (R317): the highest-ranking bit that is set. -/
def verdictOf (degraded spoiled nonfinite spike : Bool) : Nat :=
  if spoiled then 4 else if nonfinite then 3 else if spike then 2 else if degraded then 1 else 0

/-- The verdict word (R317). -/
def verdictWord (step spoiler : Nat) (degraded spoiled nonfinite spike : Bool) : BitVec 64 :=
  let b (x : Bool) (i : Nat) : Nat := if x then 2 ^ i else 0
  BitVec.ofNat 64 (step % 2 ^ 32 * 2 ^ 32 + (if spoiled then spoiler % 65536 else 0) * 65536 +
    verdictOf degraded spoiled nonfinite spike * 32 + b spike 4 + b nonfinite 3 + b spoiled 2 +
    b degraded 1)

/-- Bit `i` of a word. -/
def wordBit (w : BitVec 64) (i : Nat) : Bool := w.toNat / 2 ^ i % 2 = 1

/-- The port status word (R402). -/
def Port.word (p : Port) : Nat :=
  p.neighbour * 2 ^ 48 + p.neighbourPort * 2 ^ 44 + p.state * 2 ^ 40 + p.width * 2 ^ 36 +
    p.spareFor * 2 ^ 32 + min p.retries1s 65535

/-- The pass state word (R127, Table 4.3). -/
def PassWord.word (w : PassWord) : Nat :=
  w.job * 2 ^ 116 + w.inc * 2 ^ 108 + w.queue * 2 ^ 102 + w.seq * 2 ^ 70 + w.pass * 2 ^ 50 +
    w.nextRow * 2 ^ 33 + w.ktile * 2 ^ 17 + w.mode * 2 ^ 15 + w.gang * 2 ^ 13 + w.chainSide * 2 ^ 12 +
    (if w.reissued then 2 ^ 11 else 0) + w.state * 2 ^ 8

/-- A tie's state word (Table 12.3). -/
def Tie.word (t : Tie) : Nat :=
  t.job * 2 ^ 52 + t.inc * 2 ^ 44 + (if t.level then 2 else 1) * 2 ^ 42 +
    (if t.abandoned then 2 ^ 41 else 0) + (if t.overflow then 2 ^ 40 else 0) +
    (if t.underflow then 2 ^ 39 else 0) + min t.waiters.length 127 * 2 ^ 32 + t.value

/-- The loss statistics record, 16 bytes (Table 11.6). -/
def LossStats.word (l : LossStats) : Nat :=
  l.mean.toNat * 2 ^ 96 + l.var.toNat * 2 ^ 64 + l.count.toNat * 2 ^ 32 + l.spikeRun.toNat * 2 ^ 24

/-- Reads a loss statistics record. -/
def LossStats.ofWord (n : Nat) : LossStats :=
  ⟨BitVec.ofNat 32 (n / 2 ^ 96), BitVec.ofNat 32 (n / 2 ^ 64), BitVec.ofNat 32 (n / 2 ^ 32),
    BitVec.ofNat 8 (n / 2 ^ 24)⟩

end Sys2Proof.Machine

namespace Sys2Proof

open Sys2Proof.Machine

/-- A routed tag (Table 9.3), without the reserved bits. -/
def Tag.word (t : Tag) : Nat :=
  let b (x : Bool) (i : Nat) : Nat := if x then 2 ^ i else 0
  t.gate.toNat * 2 ^ 80 + b t.held 79 + b t.dropped 78 + b t.replica 77 + b t.last 76 + b t.pad 75 +
    t.kslot * 2 ^ 72 + t.expert * 2 ^ 56 + t.token * 2 ^ 24 + t.source * 2 ^ 8 + t.inc

/-- Reads a tag. -/
def Tag.ofWord (n : Nat) : Tag :=
  let b (i : Nat) : Bool := n / 2 ^ i % 2 = 1
  { gate := BitVec.ofNat 32 (n / 2 ^ 80), held := b 79, dropped := b 78, replica := b 77, last := b 76
    pad := b 75, kslot := n / 2 ^ 72 % 8, expert := n / 2 ^ 56 % 65536, token := n / 2 ^ 24 % 2 ^ 32
    source := n / 256 % 65536, inc := n % 256 }

end Sys2Proof

namespace Sys2Proof.Machine

/-- The BOOT_STAGE code (Table 15.1). -/
def BootStage.code : BootStage → Nat
  | .off => 0
  | .rails => 1
  | .powerGood => 2
  | .bootRom => 3
  | .memoryTraining => 4
  | .bist => 5
  | .linkTraining => 6
  | .ready => 7
  | .resetting => 8
  | .failed => 0xF

/-- ALERT: a cause that the mask does not hide (Table 15.1, R483). -/
def Mod.alert (m : Mod) : Bool := m.alertCause &&& ~~~m.alertMask != 0

end Sys2Proof.Machine
end

