-- ==== Sys2Proof/Machine/Mem.lean ====
section
/-!
DEFINITION. Memory in canonical form, the address maps of chapter 8 (R218–R232), and the common code
(R234–R237).
-/

namespace Sys2Proof.Machine

/-! ### Cells -/

/-- The canonical form: strictly rising addresses and no +0 byte. -/
abbrev Memory.wf (m : Memory) : Prop :=
  m.Pairwise (fun a b => a.1 < b.1) ∧ ∀ c ∈ m, c.2 ≠ 0#8

/-- The byte at an address; +0 where nothing is listed (R240). -/
def Memory.get : Memory → Nat → Byte
  | [], _ => 0#8
  | (a, b) :: m, x => if a = x then b else if x < a then 0#8 else Memory.get m x

/-- Writes a byte. -/
def Memory.set : Memory → Nat → Byte → Memory
  | [], x, v => if v = 0#8 then [] else [(x, v)]
  | (a, b) :: m, x, v =>
    if a < x then (a, b) :: Memory.set m x v
    else if a = x then (if v = 0#8 then m else (a, v) :: m)
    else if v = 0#8 then (a, b) :: m
    else (x, v) :: (a, b) :: m

/-- Reads `n` bytes from an address. -/
def Memory.read (m : Memory) (a : Nat) : Nat → Bytes
  | 0 => []
  | n + 1 => m.get a :: m.read (a + 1) n

/-- Writes bytes from an address on. -/
def Memory.write (m : Memory) : Nat → Bytes → Memory
  | _, [] => m
  | a, b :: bs => (m.set a b).write (a + 1) bs

/-- Writes a list of (address, byte) pairs, in order. -/
def Memory.writeAll (m : Memory) (ws : List (Nat × Byte)) : Memory :=
  ws.foldl (fun m w => m.set w.1 w.2) m

/-- Fills the addresses from `a` up to `a + n − 1` with +0. -/
def Memory.clear (m : Memory) (a n : Nat) : Memory :=
  m.filter fun c => c.1 < a || a + n ≤ c.1

/-! ### Address map (R218, R220) -/

/-- 1 GiB (R9). -/
def gib : Nat := 2 ^ 30
def tierABase (side : Nat) : Nat := side * (192 * gib)
def tierBBase : Nat := 0x010000000000
def tierBEnd : Nat := 0x040000000000
def rimBase (side : Nat) : Nat := 0xE00000000000 + side * 0x4000000
def stakeBase (s : Nat) : Nat := 0xE10000000000 + s * 0x1000000

/-- What a local address decodes to (Table 8.1). -/
inductive Region where
  | tierA (side : Nat)
  | tierB
  | rim (side : Nat)
  | stake (logical : Nat)
  | mgmt
  | unmapped
  deriving DecidableEq, Repr, Inhabited

/-- Table 8.1. -/
def regionOf (a : Nat) : Region :=
  if a < 768 * gib then .tierA (a / (192 * gib))
  else if tierBBase ≤ a ∧ a < tierBEnd then .tierB
  else if 0xE00000000000 ≤ a ∧ a < 0xE00010000000 then .rim ((a - 0xE00000000000) / 0x4000000)
  else if 0xE10000000000 ≤ a ∧ a < 0xE100E0000000 then
    (if (a - 0xE10000000000) % 0x1000000 < 0x400000
      then .stake ((a - 0xE10000000000) / 0x1000000) else .unmapped)
  else if 0xF00000000000 ≤ a ∧ a < 0xF00100000000 then .mgmt
  else .unmapped

/-- Bit `i` of a number. -/
def bitOf (n i : Nat) : Nat := n / 2 ^ i % 2

/-- Bits [hi:lo] of a number. -/
def bitsOf (n hi lo : Nat) : Nat := n / 2 ^ lo % 2 ^ (hi + 1 - lo)

/-- Where a 256-byte unit of Tier A lies (R225): stack 0–11, channel, pseudo-channel, unit. -/
def hbmPlace (a : Nat) : Nat × Nat × Nat × Nat :=
  let n := a / (192 * gib)
  let u := (a - n * (192 * gib)) / 256
  let v := u / 3
  (3 * n + u % 3, bitsOf v 5 1 ^^^ bitsOf v 12 8 ^^^ bitsOf v 19 15,
    bitOf v 0 ^^^ bitOf v 7 ^^^ bitOf v 14, v / 64)

/-- The Tier B hash (R228): border, package 0–23, channel 0–95, unit within the channel. -/
def lpddrPlace (a : Nat) : Nat × Nat × Nat × Nat :=
  let u := (a - tierBBase) / 256
  let w := u / 3
  let border := bitOf w 0 ^^^ bitOf w 7 ^^^ bitOf w 14
  let p := bitsOf w 2 1 ^^^ bitsOf w 9 8 ^^^ bitsOf w 16 15
  let c := bitsOf w 4 3 ^^^ bitsOf w 11 10 ^^^ bitsOf w 18 17
  let package := 12 * border + 4 * (u % 3) + p
  (border, package, 4 * package + c, w / 32)

/-- The unit of R211 that an address lies in (R223). -/
def unitOf (a : Nat) : Nat :=
  match regionOf a with
  | .tierA s => s
  | .rim s => s
  | .stake l => l / 56
  | .tierB => 4 + (lpddrPlace a).1
  | _ => 6

/-- The Rim slice of an address (R18). -/
def rimSlice (a : Nat) : Nat :=
  let o := (a - 0xE00000000000) % 0x4000000
  bitsOf o 13 8 ^^^ bitsOf o 19 14 ^^^ bitsOf o 25 20

/-- The Border that carries traffic between two Sides (R26). -/
def sideBorder (a : Nat) : Nat := bitOf a 8

/-- The Tier C flash channel of block `i` of extent `x` (R232). -/
def flashChannel (x i : Nat) : Nat := (i + x) % 16

/-- The LPDDR6 channel whose lane test failed, or a DRAM channel of an HBM4 stack, as one number:
Tier B channels 0–95; HBM4 channels from 96 (stack × 32 + channel). -/
def channelOf (a : Nat) : Option Nat :=
  match regionOf a with
  | .tierB => some (lpddrPlace a).2.2.1
  | .tierA _ => let p := hbmPlace a; some (96 + 32 * p.1 + p.2.1)
  | _ => none

/-! ### The common code (R234, R235) -/

/-- Multiplication by α in GF(16), x⁴ + x + 1. -/
def gfDouble (a : Nat) : Nat := let d := 2 * a; if d < 16 then d else d ^^^ 0x13

/-- Product in GF(16). -/
def gfMul (a b : Nat) : Nat :=
  let t0 := if b % 2 = 1 then a else 0
  let a1 := gfDouble a
  let t1 := if b / 2 % 2 = 1 then a1 else 0
  let a2 := gfDouble a1
  let t2 := if b / 4 % 2 = 1 then a2 else 0
  let a3 := gfDouble a2
  let t3 := if b / 8 % 2 = 1 then a3 else 0
  t0 ^^^ t1 ^^^ t2 ^^^ t3

/-- A column of the check matrix. -/
structure Col where
  r0 : Nat
  r1 : Nat
  r2 : Nat
  r3 : Nat
  deriving DecidableEq, Repr, Inhabited

/-- Column `j` of H (R234); α is 2 and α³ is 8. -/
def hColumn (j : Nat) : Col :=
  if j < 32 then
    let a := j % 16
    let b := if j < 16 then 2 else 4
    ⟨1, a, b, gfMul a a ^^^ gfMul a b ^^^ gfMul 8 (gfMul b b)⟩
  else if j = 32 then ⟨1, 0, 0, 0⟩
  else if j = 33 then ⟨1, 1, 0, 1⟩
  else if j = 34 then ⟨1, 0, 1, 8⟩
  else ⟨0, 0, 0, 1⟩

def Col.scale (e : Nat) (c : Col) : Col := ⟨gfMul e c.r0, gfMul e c.r1, gfMul e c.r2, gfMul e c.r3⟩
def Col.xor (a b : Col) : Col := ⟨a.r0 ^^^ b.r0, a.r1 ^^^ b.r1, a.r2 ^^^ b.r2, a.r3 ^^^ b.r3⟩

/-- Symbol `i` of a 144-bit word. -/
def symbol (w : BitVec 144) (i : Nat) : Nat := w.toNat / 16 ^ i % 16

/-- H × w over the first `n` symbols. -/
def syndromeTo (w : BitVec 144) : Nat → Col
  | 0 => ⟨0, 0, 0, 0⟩
  | n + 1 => (syndromeTo w n).xor ((hColumn n).scale (symbol w n))

/-- The syndrome T := H × w (R235). -/
def syndrome (w : BitVec 144) : Col := syndromeTo w 36

/-- The encoder of R235: 128 data bits to a 144-bit code word. -/
def encodeWord (d : BitVec 128) : BitVec 144 :=
  let s := syndromeTo (d.setWidth 144) 32
  let c32 := s.r0 ^^^ s.r1 ^^^ s.r2
  let c35 := s.r3 ^^^ s.r1 ^^^ gfMul 8 s.r2
  BitVec.ofNat 144 (d.toNat + (c32 + 16 * s.r1 + 256 * s.r2 + 4096 * c35) * 2 ^ 128)

/-- What the decoder finds (R235). -/
inductive Decoded where
  | clean
  | corrected (sym err : Nat)
  | uncorrectable
  deriving DecidableEq, Repr, Inhabited

/-- The position and value that explain a syndrome, from position `i` on. -/
def explain (t : Col) : Nat → Nat → Decoded
  | 0, _ => .uncorrectable
  | n + 1, i =>
    match (List.range 16).find? fun e => e != 0 && (hColumn i).scale e == t with
    | some e => .corrected i e
    | none => explain t n (i + 1)

/-- The decoder of R235 on a received word. -/
def decodeWord (w : BitVec 144) : Decoded :=
  let t := syndrome w
  if t = ⟨0, 0, 0, 0⟩ then .clean else explain t 36 0

/-- A word with symbol `i` changed by `e`. -/
def flipSymbol (w : BitVec 144) (i e : Nat) : BitVec 144 := w ^^^ BitVec.ofNat 144 (e * 16 ^ i)

/-! ### Reads and writes of module memory -/

/-- The granule of an address (R12). -/
def granuleOf (a : Nat) : Nat := a / 16

/-- The HBM4 pseudo-channel of an address, 64 to a stack. -/
def pseudoOf (a : Nat) : Option Nat :=
  match regionOf a with
  | .tierA _ => let p := hbmPlace a; some (64 * p.1 + 2 * p.2.1 + p.2.2.1)
  | _ => none

/-- What the failed lanes that stay in service add to a word that is read: each spoils one symbol (R243). The value that such
a lane delivers is free. -/
def Mod.laneErrorsAt (m : Mod) (g : Nat) : BitVec 144 :=
  if m.hbmBadLanes.isEmpty then 0
  else (m.hbmBadLanes.filter fun x => pseudoOf (16 * g) == some x.1).foldl
    (fun w x => w ^^^ flipSymbol 0 (x.2 % 36) (Config.laneSymbol g x.2 % 16)) 0

/-- The error vector of a word as it is read; 0 for a word as it was written. The code is linear, so
the decoder's verdict on the word is its verdict on this vector. -/
def Mod.errorAt (m : Mod) (g : Nat) : BitVec 144 :=
  ((m.memErrors.find? fun p => p.1 == g).map (·.2)).getD 0 ^^^ m.laneErrorsAt g

def Mod.setError (m : Mod) (g : Nat) (e : BitVec 144) : Mod :=
  let rest := m.memErrors.filter fun p => p.1 != g
  { m with memErrors := if e = 0 then rest else (g, e) :: rest }

/-- Whether an address lies in a channel out of service (R238). -/
def Mod.badChannel (m : Mod) (a : Nat) : Bool :=
  match channelOf a with
  | some c => m.badChannels.contains c
  | none => false

/-- The DRAM row of an address: its HBM4 pseudo-channel (from 1,000 on) or LPDDR6 channel, and the row's number. -/
def rowOf (a : Nat) : Option (Nat × Nat) :=
  match regionOf a with
  | .tierB => some ((lpddrPlace a).2.2.1, Config.dramRow a)
  | .tierA _ => let p := hbmPlace a; some (1000 + 64 * p.1 + 2 * p.2.1 + p.2.2.1, Config.dramRow a)
  | _ => none

/-- Whether an address lies in a row that no spare row could take over (R242). -/
def Mod.deadRow (m : Mod) (a : Nat) : Bool :=
  match rowOf a with
  | some r => m.deadRows.contains r
  | none => false

/-- A byte as a read returns it: the stored byte, with whatever error the decoder leaves in place. -/
def Mod.byte (m : Mod) (a : Nat) : Byte :=
  let e := m.errorAt (granuleOf a)
  let left := match decodeWord e with
    | .corrected i x => flipSymbol e i x
    | _ => e
  m.mem.get a ^^^ BitVec.ofNat 8 (left.toNat / 256 ^ (a % 16))

/-- Reads `n` bytes. -/
def Mod.bytes (m : Mod) (a : Nat) : Nat → Bytes
  | 0 => []
  | n + 1 => m.byte a :: m.bytes (a + 1) n

/-- Writes bytes. A granule that is written whole loses its error vector. -/
def Mod.store (m : Mod) (ws : List (Nat × Byte)) : Mod :=
  let touched := (ws.map fun w => granuleOf w.1).eraseDups
  let whole (g : Nat) : Bool := (List.range 16).all fun i => ws.any fun w => w.1 == 16 * g + i
  { m with
    mem := m.mem.writeAll ws
    memErrors := m.memErrors.filter fun p => !(touched.contains p.1 && whole p.1) }

/-- Fills a range with +0 code words (R73, R240). -/
def Mod.zeroFill (m : Mod) (a n : Nat) : Mod :=
  { m with
    mem := m.mem.clear a n
    memErrors := m.memErrors.filter fun p => 16 * p.1 + 16 ≤ a || a + n ≤ 16 * p.1 }

/-- What a read of a set of granules meets (R237): words corrected, and the first granule that holds
an uncorrectable word. -/
structure ReadCheck where
  corrected : List Nat := []
  bad : Option Nat := none
  deriving DecidableEq, Repr, Inhabited

def Mod.readCheck (m : Mod) (granules : List Nat) : ReadCheck :=
  granules.foldl (fun r g =>
    match decodeWord (m.errorAt g) with
    | .clean => r
    | .corrected .. => { r with corrected := g :: r.corrected }
    | .uncorrectable => { r with bad := r.bad.or (some g) }) {}

/-- Writes corrected words back (R237). -/
def Mod.scrubWords (m : Mod) (granules : List Nat) : Mod :=
  granules.foldl (fun m g =>
    match decodeWord (m.errorAt g) with
    | .corrected i x => m.setError g (flipSymbol (m.errorAt g) i x)
    | _ => m) m

end Sys2Proof.Machine
end

