-- ==== Sys2Proof/Machine/Philox.lean ====
section
/-!
DEFINITION. Philox4x32-10 (R345–R347) and the random word of each use. The multipliers and key
constants are the published ones that R345 names without giving them (PRESUMED, log 21).
-/

namespace Sys2Proof.Machine

/-- The four 32-bit words of a counter or an output. -/
structure Words4 where
  w0 : BitVec 32
  w1 : BitVec 32
  w2 : BitVec 32
  w3 : BitVec 32
  deriving DecidableEq, Repr, Inhabited

/-- High and low half of a 32 × 32 product. -/
def mulHiLo (a b : BitVec 32) : BitVec 32 × BitVec 32 :=
  let p := a.toNat * b.toNat
  (BitVec.ofNat 32 (p / 2 ^ 32), BitVec.ofNat 32 p)

/-- One Philox4x32 round under the keys k0, k1. -/
def philoxRound (c : Words4) (k0 k1 : BitVec 32) : Words4 :=
  let (h0, l0) := mulHiLo 0xD2511F53#32 c.w0
  let (h1, l1) := mulHiLo 0xCD9E8D57#32 c.w2
  ⟨h1 ^^^ c.w1 ^^^ k0, l1, h0 ^^^ c.w3 ^^^ k1, l0⟩

/-- `n` rounds, the keys raised by the key constants between rounds. -/
def philoxRounds : Nat → Words4 → BitVec 32 → BitVec 32 → Words4
  | 0, c, _, _ => c
  | n + 1, c, k0, k1 => philoxRounds n (philoxRound c k0 k1) (k0 + 0x9E3779B9#32) (k1 + 0xBB67AE85#32)

/-- Philox4x32-10 under the key and counter of R345. -/
def philox (seed : BitVec 64) (step : Nat) (tensor stream e : Nat) : Words4 :=
  philoxRounds 10
    ⟨BitVec.ofNat 32 e, BitVec.ofNat 32 (stream % 65536 * 65536 + e / 2 ^ 32 % 65536),
      BitVec.ofNat 32 tensor, BitVec.ofNat 32 step⟩
    (seed.setWidth 32) ((seed >>> 32).setWidth 32)

/-- Output word `j mod 4`. -/
def Words4.get (w : Words4) (j : Nat) : BitVec 32 :=
  match j % 4 with
  | 0 => w.w0
  | 1 => w.w1
  | 2 => w.w2
  | _ => w.w3

/-- What a draw depends on: the job seed, its step and the tensor ID that the use names. -/
structure Draw where
  seed : BitVec 64
  step : Nat
  tensor : Nat
  deriving DecidableEq, Repr, Inhabited

/-- The 16-bit word of SR in conversion (stream 0x0003) for destination element `i` (R347). -/
def Draw.conv (d : Draw) (i : Nat) : Nat :=
  ((philox d.seed d.step d.tensor 3 (i / 4)).get i).toNat % 65536

/-- The 16-bit word of BF16_SCALED state (stream 0x0005) for element `i` (R335, R347). -/
def Draw.state (d : Draw) (i : Nat) : Nat :=
  ((philox d.seed d.step d.tensor 5 (i / 4)).get i).toNat % 65536

/-- The 16-bit word of the accumulator stream for group `g` of the output at position `p`, with
`T` blocks of 128 k (R147). -/
def Draw.acc (d : Draw) (p T g : Nat) : Nat :=
  let w := ((philox d.seed d.step d.tensor 1 (p * T + g / 8)).get (g % 8 / 2)).toNat
  if g % 2 = 0 then w % 65536 else w / 65536

/-- Word 0 of the audit stream for neuron `j` of group `g` (R178). -/
def Draw.audit (d : Draw) (g h j : Nat) : Nat :=
  (philox d.seed d.step d.tensor 4 (g * h + j)).w0.toNat

end Sys2Proof.Machine
end

