-- ==== Sys2Proof/Machine/Sm3.lean ====
section
/-!
DEFINITION. SM3 and HMAC-SM3 (R46, R490, R498). The manual names the published SM3 and gives none of
its constants; they are the published ones (PRESUMED, log 22).
-/

namespace Sys2Proof.Machine

/-- The eight chaining words of SM3. -/
structure Sm3Regs where
  a : BitVec 32
  b : BitVec 32
  c : BitVec 32
  d : BitVec 32
  e : BitVec 32
  f : BitVec 32
  g : BitVec 32
  h : BitVec 32
  deriving DecidableEq, Repr, Inhabited

def sm3Iv : Sm3Regs :=
  ⟨0x7380166F#32, 0x4914B2B9#32, 0x172442D7#32, 0xDA8A0600#32,
    0xA96F30BC#32, 0x163138AA#32, 0xE38DEE4D#32, 0xB0FB0E4E#32⟩

def sm3P0 (x : BitVec 32) : BitVec 32 := x ^^^ x.rotateLeft 9 ^^^ x.rotateLeft 17
def sm3P1 (x : BitVec 32) : BitVec 32 := x ^^^ x.rotateLeft 15 ^^^ x.rotateLeft 23

/-- The message words: `w` holds them newest first; each new word needs the last sixteen. -/
def sm3Expand : Nat → List (BitVec 32) → List (BitVec 32)
  | 0, w => w
  | n + 1, w =>
    let at_ (k : Nat) : BitVec 32 := w.getD (k - 1) 0#32
    let x := sm3P1 (at_ 16 ^^^ at_ 9 ^^^ (at_ 3).rotateLeft 15) ^^^ (at_ 13).rotateLeft 7 ^^^ at_ 6
    sm3Expand n (x :: w)

/-- One round `j` with the message words W[j] and W[j+4]. -/
def sm3Round (j : Nat) (w w4 : BitVec 32) (r : Sm3Regs) : Sm3Regs :=
  let t : BitVec 32 := if j < 16 then 0x79CC4519#32 else 0x7A879D8A#32
  let ss1 := (r.a.rotateLeft 12 + r.e + t.rotateLeft (j % 32)).rotateLeft 7
  let ss2 := ss1 ^^^ r.a.rotateLeft 12
  let ff := if j < 16 then r.a ^^^ r.b ^^^ r.c else (r.a &&& r.b) ||| (r.a &&& r.c) ||| (r.b &&& r.c)
  let gg := if j < 16 then r.e ^^^ r.f ^^^ r.g else (r.e &&& r.f) ||| (~~~r.e &&& r.g)
  let tt1 := ff + r.d + ss2 + (w ^^^ w4)
  let tt2 := gg + r.h + ss1 + w
  ⟨tt1, r.a, r.b.rotateLeft 9, r.c, sm3P0 tt2, r.e, r.f.rotateLeft 19, r.g⟩

/-- The rounds over the expanded words from round `j`. -/
def sm3Rounds : Nat → List (BitVec 32) → Sm3Regs → Sm3Regs
  | j, w :: ws, r => if j < 64 then sm3Rounds (j + 1) ws (sm3Round j w (ws.getD 3 0#32) r) else r
  | _, [], r => r

/-- A big-endian word of four bytes. -/
def be32 (b : Bytes) : BitVec 32 :=
  BitVec.ofNat 32 ((b.take 4).foldl (fun n x => n * 256 + x.toNat) 0)

/-- `n` big-endian words of a byte string. -/
def be32s : Nat → Bytes → List (BitVec 32)
  | 0, _ => []
  | n + 1, b => be32 b :: be32s n (b.drop 4)

/-- One compression of a 64-byte block. -/
def sm3Block (r : Sm3Regs) (b : Bytes) : Sm3Regs :=
  let w := (sm3Expand 52 (be32s 16 b).reverse).reverse
  let s := sm3Rounds 0 w r
  ⟨s.a ^^^ r.a, s.b ^^^ r.b, s.c ^^^ r.c, s.d ^^^ r.d, s.e ^^^ r.e, s.f ^^^ r.f, s.g ^^^ r.g,
    s.h ^^^ r.h⟩

def sm3Blocks : Nat → Bytes → Sm3Regs → Sm3Regs
  | 0, _, r => r
  | n + 1, b, r => sm3Blocks n (b.drop 64) (sm3Block r (b.take 64))

/-- The bytes of a big-endian number. -/
def beBytes : Nat → Nat → Bytes
  | 0, _ => []
  | k + 1, n => beBytes k (n / 256) ++ [BitVec.ofNat 8 n]

/-- The SM3 hash of a byte string, 32 bytes. -/
def sm3 (b : Bytes) : Bytes :=
  let z := (119 - b.length % 64) % 64
  let p := b ++ [0x80#8] ++ List.replicate z 0#8 ++ beBytes 8 (8 * b.length)
  let r := sm3Blocks (p.length / 64) p sm3Iv
  beBytes 4 r.a.toNat ++ beBytes 4 r.b.toNat ++ beBytes 4 r.c.toNat ++ beBytes 4 r.d.toNat ++
    beBytes 4 r.e.toNat ++ beBytes 4 r.f.toNat ++ beBytes 4 r.g.toNat ++ beBytes 4 r.h.toNat

/-- HMAC-SM3 with a 64-byte block. -/
def hmacSm3 (key msg : Bytes) : Bytes :=
  let k0 := if 64 < key.length then sm3 key else key
  let k := k0 ++ List.replicate (64 - k0.length) 0#8
  sm3 (k.map (· ^^^ 0x5C#8) ++ sm3 (k.map (· ^^^ 0x36#8) ++ msg))

/-- The 16-byte integrity tag of R46. -/
def tag16 (key msg : Bytes) : Bytes := (hmacSm3 key msg).take 16

end Sys2Proof.Machine
end

