-- ==== Sys2Proof/Machine/Ops.lean ====
section
/-!
DEFINITION. The shared operations on the module: time, free values, counters, the fault log and
ALERT_N, the trace, jobs, lanes, the sequence state of R53, and packets as bytes (R47, R56).
-/

namespace Sys2Proof.Machine

/-- A meaning: a change of the module that leaves the queue of commands alone. -/
def lift (f : Mod → Mod) (s : State) : Host.Outcome State Fault Refusal := .next { s with m := f s.m }

/-! ### Time and free values -/

/-- The local timer as a number of ticks. -/
def Mod.now (m : Mod) : Nat := m.timer.toNat

/-- Draws a fresh free number (log 30). -/
def Mod.freeNat (m : Mod) : Nat × Mod := (Config.freeNat m.free, { m with free := m.free + 1 })

/-- Draws a fresh free truth value (log 30). -/
def Mod.freeBool (m : Mod) : Bool × Mod := (Config.freeBool m.free, { m with free := m.free + 1 })

/-- Draws `n` fresh free bytes (log 30). -/
def Mod.freeBytes (m : Mod) (n : Nat) : Bytes × Mod :=
  ((List.range n).map (Config.freeByte m.free), { m with free := m.free + 1 })

/-! ### Counters -/

/-- The 48-bit maximum at which counters saturate. -/
def ctrMax : Nat := 2 ^ 48 - 1

/-- A counter's value; a missing entry reads 0. -/
def Counters.get (c : Counters) (k : Ctr) : Nat := ((c.find? fun p => p.1 == k).map (·.2)).getD 0

/-- Adds to a counter, saturating. -/
def Counters.bump (c : Counters) (k : Ctr) (n : Nat) : Counters :=
  if n = 0 then c
  else (k, min ctrMax (c.get k + n)) :: c.filter fun p => p.1 != k

/-- Adds to a module counter. -/
def Mod.count (m : Mod) (k : Ctr) (n : Nat := 1) : Mod := { m with counters := m.counters.bump k n }

/-! ### Sequencer threads (R21, R24) -/

/-- The sequencer of a logical stake. -/
def Mod.sequencer (m : Mod) (l : Nat) : Sequencer := (m.sequencers.find? fun s => s.stake == l).getD { stake := l }

def Mod.setSequencer (m : Mod) (s : Sequencer) : Mod :=
  { m with sequencers := s :: m.sequencers.filter fun x => x.stake != s.stake }

/-- Whether the clock of a sequencer is gated: none of its threads is ready. -/
def Sequencer.gated (s : Sequencer) : Bool := !s.threads.contains .ready

/-- The next ready thread, in rising order of number from the one that runs; the one that runs when none is ready (log 99). -/
def Sequencer.next (s : Sequencer) : Nat :=
  (((List.range 8).map fun i => (s.current + 1 + i) % 8).find? fun t => s.threads.getD t .idle == .ready).getD s.current

/-- A thread begins to wait; when it is the one that runs, the sequencer switches to the next ready one. -/
def Sequencer.park (s : Sequencer) (t : Nat) (ph : ThreadPhase) : Sequencer :=
  let s := { s with threads := s.threads.set t ph }
  if s.current == t then { s with current := s.next } else s

/-- A thread becomes ready; it runs when the clock was gated. -/
def Sequencer.wake (s : Sequencer) (t : Nat) : Sequencer :=
  { s with threads := s.threads.set t .ready, current := if s.gated then t else s.current }

def Mod.parkThread (m : Mod) (l t : Nat) (ph : ThreadPhase) : Mod := m.setSequencer ((m.sequencer l).park t ph)
def Mod.wakeThread (m : Mod) (l t : Nat) : Mod := m.setSequencer ((m.sequencer l).wake t)

/-- Wakes every thread whose phase `p` picks. -/
def Mod.wakeThreads (m : Mod) (p : ThreadPhase → Bool) : Mod :=
  let wake (s : Sequencer) : Sequencer :=
    ((List.range 8).filter fun t => p (s.threads.getD t .idle)).foldl Sequencer.wake s
  { m with sequencers := m.sequencers.map wake }

/-! ### Alert, log, trace -/

/-- Something leaves the module. -/
def Mod.emit (m : Mod) (o : Out) : Mod := { m with out := o :: m.out }

/-- Raises an in-band interrupt when the controller has enabled them (R482, R483). -/
def Mod.raiseIbi (m : Mod) (byte : Nat) : Mod := if m.i3c.ibi then m.emit (.ibi byte) else m

/-- Changes the alert registers, with the ALERT in-band interrupt on a change from 0 to 1 (R483). -/
def Mod.setAlert (m : Mod) (cause mask : BitVec 8) : Mod :=
  let m' := { m with alertCause := cause, alertMask := mask }
  if !m.alert && m'.alert then m'.raiseIbi 2 else m'

/-- Sets a cause bit of ALERT_CAUSE (Table 15.1). -/
def Mod.raiseCause (m : Mod) (bit : Nat) : Mod :=
  m.setAlert (m.alertCause ||| BitVec.ofNat 8 (2 ^ bit)) m.alertMask

/-- The Border of the active management complex (R31). -/
def Mod.activeBorder (m : Mod) : Nat := if m.boot.activeB1 then 1 else 0

/-- Extends a measurement register with an item (R494). -/
def Mod.extend (m : Mod) (i : Nat) (item : Bytes) : Mod :=
  { m with measures := m.measures.zipIdx.map fun (r, j) => if j = i then sm3 (r ++ sm3 item) else r }

/-- Copies the keep RAM in use into the other Border's (R31). -/
def Mod.mirror (m : Mod) : Mod :=
  { m with keepCopy := { log := m.log, verdicts := m.verdicts, summary := m.summary, trail := m.trail } }

/-- The logical number of a physical stake that serves one. -/
def Mod.logicalOf (m : Mod) (phys : Nat) : Option Nat :=
  (List.range 224).find? fun l => m.stakeMap.getD l none == some phys

/-- A unit as trace records name it: a stake by its logical number, 0xFFFF for a stake that serves none (R13, R513, log 99). -/
def Mod.traceUnit (m : Mod) (u : UnitRef) : UnitRef :=
  if u.kind = 1 then ⟨1, (m.logicalOf u.num).getD 0xFFFF⟩ else u

/-- A fault log record as its 64 bytes (R473), least significant granule first. -/
def LogRec.bytes (r : LogRec) : Bytes :=
  let g0 := r.time.toNat * 2 ^ 64 + r.record * 2 ^ 32 + r.cls * 2 ^ 24 + r.outcome * 2 ^ 21 +
    r.level * 2 ^ 18 + r.border * 2 ^ 17 + min r.repeat_ 65535
  let g1 := r.unit.kind * 2 ^ 120 + r.unit.num % 65536 * 2 ^ 104 + r.logical * 2 ^ 96 +
    r.sub % 2 ^ 32 * 2 ^ 64 + r.job * 2 ^ 52 + r.inc * 2 ^ 44 + r.queue * 2 ^ 38 + r.seq * 2 ^ 6
  let g2 := r.address % 2 ^ 48 * 2 ^ 64 + r.info0 % 2 ^ 64
  let g3 := r.info1 % 2 ^ 64 * 2 ^ 64 + r.powerUps % 2 ^ 32 * 2 ^ 32
  let crc := Config.crc32 (leBytes 16 g0 ++ leBytes 16 g1 ++ leBytes 16 g2 ++ (leBytes 16 g3).drop 4)
  leBytes 16 g0 ++ leBytes 16 g1 ++ leBytes 16 g2 ++ leBytes 16 (g3 + crc.toNat)

/-- The newest `n` of a list. -/
def lastN {α : Type} (n : Nat) (l : List α) : List α := l.drop (l.length - n)

/-- Writes a trace record when the trace runs and its kind is enabled, and the writer's queue is not full (R512, R513). -/
def Mod.trace_ (m : Mod) (r : TraceRec) : Mod :=
  let t := m.trace
  if !t.running || !t.kinds.getLsbD r.kind then m
  else
    let cap := t.sizeUnits * (64 * 2 ^ 20 / 32)
    let r := { r with time := m.timer }
    if Config.traceFull (m.counters.get .TRACE_RECORDS + m.counters.get .TRACE_LOST) then m.count .TRACE_LOST
    else if t.buffer.length < cap then
      { m with trace := { t with buffer := t.buffer ++ [r] } }.count .TRACE_RECORDS
    else if t.stop ∨ cap = 0 then m
    else
      let lost := if t.streamed = 0 then 1 else 0
      ({ m with trace := { t with buffer := (t.buffer.drop 1) ++ [r], base := t.base + 1
                                  streamed := t.streamed - 1 } }.count .TRACE_RECORDS).count .TRACE_LOST lost

/-- Writes a fault log record (R473–R475): numbered, stamped, merged into an equal one of the last
second when its outcome is MASKED or CORRECTED; it sets LOG for an outcome of 2 or higher and extends
M6 for CLASS RESET. INFO1 is free: the table says "Per CLASS", and no class gives it a content (log 63). -/
def Mod.addLog (m : Mod) (r : LogRec) : Mod :=
  let merge (o : LogRec) : Bool := r.outcome ≤ 1 && o.outcome ≤ 1 && o.cls == r.cls && o.unit == r.unit &&
    m.now - o.time.toNat < 100000000
  if m.log.any merge then
    { m with log := m.log.map fun o => if merge o then { o with repeat_ := o.repeat_ + 1 } else o }.mirror
  else
    let (x, m) := m.freeNat
    let r := { r with time := m.timer, record := m.nextRecord.toNat, border := m.activeBorder
                      repeat_ := 1, info1 := x % 2 ^ 64, powerUps := m.boot.powerUps }
    let full := decide (3072 ≤ m.log.length)
    let lost := if full && (m.log.head?.map (!·.flushed)).getD false then 1 else 0
    let m := { m with log := lastN 3071 m.log ++ [r], nextRecord := m.nextRecord + 1 }.mirror
    let m := (m.count .LOG_LOST lost).trace_ { time := 0, kind := 8, unit := m.traceUnit r.unit, arg0 := r.record }
    let m := if r.cls = 0x40 then m.extend 6 r.bytes else m
    if 2 ≤ r.outcome then m.raiseCause 0 else m

/-- Writes a record whose INFO0 has a content and no layout in Table 14.6: the word is free (log 63). -/
def Mod.addOpen (m : Mod) (r : LogRec) : Mod :=
  let (x, m) := m.freeNat
  m.addLog { r with info0 := x % 2 ^ 64 }

/-- The number that the next fault log record takes. -/
def Mod.record (m : Mod) : Nat := m.nextRecord.toNat

/-! ### Jobs -/

def Mod.job? (m : Mod) (id : Nat) : Option Job := m.jobs.find? fun j => j.plan.job == id

/-- Changes one job. -/
def Mod.updJob (m : Mod) (id : Nat) (f : Job → Job) : Mod :=
  { m with jobs := m.jobs.map fun j => if j.plan.job == id then f j else j }

/-- Adds to a job counter. -/
def Mod.countJob (m : Mod) (id : Nat) (k : Ctr) (n : Nat := 1) : Mod :=
  if n = 0 then m else m.updJob id fun j => { j with counters := j.counters.bump k n }

/-- A packet of another incarnation, or of no job, is stale traffic (R62). -/
def Mod.current? (m : Mod) (job inc : Nat) : Option Job :=
  (m.job? job).filter fun j => j.plan.inc == inc

/-- Whether packets of a job are answered TARGET_RESETTING: the module resets, or a Partition reset that affects the job is
under way (R414, R453). -/
def Mod.resettingFor (m : Mod) (job : Nat) : Bool :=
  m.resetting.isSome ||
    (m.escalations.any (fun e => e.level == 3) && ((m.job? job).map fun j => j.phase == .aborting).getD false)

/-- Turns a packet away with TARGET_RESETTING; a module that waits for its power cycle stays silent (R414, R460). -/
def Mod.turnAway (m : Mod) (b : Bounced) : Mod :=
  if m.resetting.isSome && m.power.cycleReq then m else m.emit (.targetResetting b)

/-- Whether replay isolation holds the work of an engine (R456, R457). -/
def Mod.stoppedAt (m : Mod) (e : Engine) : Bool := m.isolations.any fun i => i.engine == e && i.stopped

/-- The queues of a job. -/
def Plan.queueIds (p : Plan) : List Nat := p.queues.map (·.1)

/-- The stake group that a queue is bound to. -/
def Plan.groupOf (p : Plan) (q : Nat) : Option StakeGroup :=
  match p.queues.find? fun x => x.1 == q with
  | some (_, g) => p.groups.find? fun s => s.id == g
  | none => none

/-- The logical stakes that a plan places. -/
def Plan.stakes (p : Plan) : List Nat := (p.groups.flatMap (·.stakes)).eraseDups

/-- The module addresses of a plan's ranks (R417, R418). -/
def cutProduct : List Cut → Nat
  | [] => 1
  | c :: cs => c.size * cutProduct cs

/-- The coordinate of a rank along the cut at index `i` (R418). -/
def cutCoord (cuts : List Cut) (i rank : Nat) : Nat :=
  rank / cutProduct (cuts.take i) % ((cuts[i]?.map (·.size)).getD 1)

/-- The rank in which KINDs of equal BYTES stand (R418). -/
def CutKind.order : CutKind → Nat
  | .expert => 0
  | .tensor => 1
  | .pipeline => 2
  | .data => 3

/-- Insertion into a list sorted by `le`. -/
def insertBy {α : Type} (le : α → α → Bool) (x : α) : List α → List α
  | [] => [x]
  | y :: ys => if le x y then x :: y :: ys else y :: insertBy le x ys

/-- A stable insertion sort. -/
def sortBy {α : Type} (le : α → α → Bool) : List α → List α
  | [] => []
  | x :: xs => insertBy le x (sortBy le xs)

/-- The order in which AUTO placement takes the cuts (R418), with each cut's index. -/
def cutOrder (cuts : List Cut) : List (Cut × Nat) :=
  let ix := cuts.zipIdx
  let pinned := sortBy (fun a b => a.1.pin ≤ b.1.pin) (ix.filter fun c => c.1.pin != 0)
  let free := sortBy (fun a b =>
    b.1.bytes < a.1.bytes || (a.1.bytes == b.1.bytes && a.1.kind.order ≤ b.1.kind.order))
    (ix.filter fun c => c.1.pin == 0)
  pinned ++ free

/-- L of R418. -/
def autoL (cuts : List Cut) (rank : Nat) : Nat :=
  ((cutOrder cuts).foldl (fun (acc : Nat × Nat) c =>
    (acc.1 + cutCoord cuts c.2 rank * acc.2, acc.2 * c.1.size)) (0, 1)).1

/-- The module address of a rank (R395, R418). -/
def Plan.addrOf (p : Plan) (rank : Nat) : Nat :=
  match p.rankTable with
  | .explicit a => a.getD rank 0
  | .auto origin ex ey ez _ =>
    let l := autoL p.cuts rank
    origin + l % ex + 8 * (l / ex % ey) + 128 * (l / (ex * ey) % ez) + 4096 * (l / (ex * ey * ez))

/-- Whether two module addresses lie in one tray (R396). -/
def sameTray (a b : Nat) : Bool := a / 8 == b / 8

/-- X of a module address (R395): the SLOT of a tray address (R221). -/
def slotOf (a : Nat) : Nat := a % 8

/-- Other ranks of a plan. -/
def Plan.peers (p : Plan) : List Nat := (List.range p.ranks).filter (· != p.rank)

/-! ### Lanes -/

def Mod.lane? (m : Mod) (l : Lane) : Option LaneState := m.lanes.find? fun s => s.lane == l

def Mod.updLane (m : Mod) (l : Lane) (f : LaneState → LaneState) : Mod :=
  { m with lanes := m.lanes.map fun s => if s.lane == l then f s else s }

/-- The command at the head of a lane. -/
def Mod.running? (m : Mod) (l : Lane) : Option Running := (m.lane? l).bind (·.current)

def Mod.updRunning (m : Mod) (l : Lane) (f : Running → Running) : Mod :=
  m.updLane l fun s => { s with current := s.current.map f }

def Mod.setWork (m : Mod) (l : Lane) (w : Work) : Mod := m.updRunning l fun r => { r with work := w }

def Mod.updSum (m : Mod) (l : Lane) (f : Summary → Summary) : Mod :=
  m.updRunning l fun r => { r with sum := f r.sum }

/-- The running commands, with their lanes. -/
def Mod.runnings (m : Mod) : List (Lane × Running) :=
  m.lanes.filterMap fun s => s.current.map fun r => (s.lane, r)

/-- The job of a command's packet. -/
def Cmd.job (c : Cmd) : Nat := c.pkt.job.toNat

/-! ### Requests on the Weave (R413) -/

/-- The requests that are on their way, each with its destination. -/
def Mod.outstanding (m : Mod) : List (Nat × Sent) :=
  let window (j : Job) (w : Nat) : Nat :=
    ((j.plan.gateways.find? fun g => g.window == w).map fun g => j.plan.addrOf g.rank).getD 0
  (m.trayOps.map fun t => (((m.job? t.job).map fun j => j.plan.addrOf t.rank).getD 0, .tray t.tag)) ++
    (m.runnings.filterMap fun (l, r) => (m.job? r.cmd.job).bind fun j =>
      let id : CmdId := ⟨l, r.cmd.pkt.seq.toNat⟩
      match r.work with
      | .farSignal | .tieWait true => some (j.plan.addrOf (leNat (r.cmd.pkt.payload.take 8) / 2 ^ 32 % 65536), .command id)
      | .verdictAsk => some (j.plan.addrOf 0, .command id)
      | _ => none) ++
    m.jobs.flatMap fun j =>
      ((j.stageBlocks.filter (·.flushing)).map fun b => (window j b.window, .flush j.plan.job b.window b.block)) ++
        j.fetching.map fun f => (window j f.1, .fetch j.plan.job f.1 f.2)

/-- Requests that a changed path held back leave once nothing that went before the change is on its way. -/
def Mod.letGo (m : Mod) : Mod :=
  if m.stalled.isEmpty then m
  else
    let live := m.outstanding
    let stalled := (m.stalled.map fun (d, rs) => (d, rs.filter fun r => live.contains (d, r))).filter fun x => !x.2.isEmpty
    let stays (w : Nat × Out) : Bool := stalled.any fun s => s.1 == w.1
    (m.waitOut.filter fun w => !stays w).foldl (fun m w => m.emit w.2) { m with stalled := stalled, waitOut := m.waitOut.filter stays }

/-- A request-class packet leaves for a module; behind a path that a fault-table change has altered it waits for the
answers of the earlier ones. -/
def Mod.sendReq (m : Mod) (dest : Nat) (o : Out) : Mod :=
  let m := m.letGo
  if m.stalled.any fun s => s.1 == dest then { m with waitOut := m.waitOut.concat (dest, o) } else m.emit o

/-- The times at which a doorbell wakes its receiver (R393): start-up, BIST_RUN, and recovery by escalation. -/
def Mod.wakeable (m : Mod) : Bool :=
  (m.power.pwrGood && m.boot.stage != .ready && m.boot.stage != .failed) || m.escalations.any (fun e => 2 ≤ e.level) ||
    m.runnings.any fun x => [Op.bistStake, .bistSide, .bistModule, .bistCheckers].contains x.2.cmd.op

/-- A doorbell at a receiver: at such a time the always-on domain powers its domain up, if that is down (R393). Which domains
are down then no rule says: the model notes each receiver so woken (log 97). -/
def Mod.wakeUnit (m : Mod) (u : UnitRef) : Mod :=
  if m.wakeable && !m.boot.woken.contains u then { m with boot := { m.boot with woken := m.boot.woken.concat u } } else m

/-- The ID of a command in its lane. -/
def Cmd.id (c : Cmd) (l : Lane) : CmdId := ⟨l, c.pkt.seq.toNat⟩

/-- The running command with an ID. -/
def Mod.cmd? (m : Mod) (id : CmdId) : Option Running :=
  (m.running? id.lane).filter fun r => r.cmd.pkt.seq.toNat == id.seq

end Sys2Proof.Machine

namespace Sys2Proof

open Sys2Proof.Machine

/-- The timeout of a command in ticks (R47, R55): 50 ms by default. -/
def Packet.timeoutTicks (p : Packet) : Nat :=
  if p.timeout = 0 then 5000000 else p.timeout.toNat * 100

end Sys2Proof

namespace Sys2Proof.Machine

def Mod.session? (m : Mod) (sid : Nat) : Option Session := m.sessions.find? fun s => s.sid == sid

def Mod.updSession (m : Mod) (sid : Nat) (f : Session → Session) : Mod :=
  { m with sessions := m.sessions.map fun s => if s.sid == sid then f s else s }

end Sys2Proof.Machine

namespace Sys2Proof

open Sys2Proof.Machine

/-- FLAGS_OP bit `k` (R524). -/
def Packet.flag (p : Packet) (k : Nat) : Bool := p.flags.getLsbD k

def Packet.segSignal (p : Packet) : Bool := p.flag 13
def Packet.groupSignal (p : Packet) : Bool := p.flag 12
def Packet.maskOut (p : Packet) : Bool := p.flag 11
def Packet.accSr (p : Packet) : Bool := p.flag 10
def Packet.addTo (p : Packet) : Bool := p.flag 9
def Packet.transpose (p : Packet) : Bool := p.flag 8
def Packet.nfFail (p : Packet) : Bool := p.flag 5

/-- The little-endian payload field of `n` bytes at a payload offset (R518). -/
def Packet.u (p : Packet) (off n : Nat) : Nat := leNat ((p.payload.drop off).take n)

end Sys2Proof

namespace Sys2Proof.Machine

/-! ### Packets as bytes (R47, R56) -/

end Sys2Proof.Machine

namespace Sys2Proof

open Sys2Proof.Machine

/-- The header words of a command with the given opcode, with the tag field zero (R46, R47). -/
def Packet.header (major variant : Nat) (p : Packet) : Bytes :=
  leBytes 4 (p.magic.toNat + p.version.toNat * 2 ^ 16 + p.hlen.toNat * 2 ^ 24) ++
  leBytes 4 (major % 256 + variant % 256 * 256 + (if p.quiet then 65536 else 0) + p.flags.toNat * 2 ^ 17) ++
  leBytes 4 (p.job.toNat + p.inc.toNat * 2 ^ 12 + p.queue.toNat * 2 ^ 20 + p.resv.toNat * 2 ^ 26) ++
  leBytes 4 p.seq.toNat ++ leBytes 4 p.timeout.toNat ++ leBytes 4 p.plen.toNat ++
  leBytes 4 p.wait0.toNat ++ leBytes 4 p.wait1.toNat ++ leBytes 4 p.sig0.toNat ++
  leBytes 4 p.sig1.toNat ++ leBytes 8 p.handle.toNat ++ List.replicate 16 0#8

end Sys2Proof

namespace Sys2Proof.Machine

/-- The 32-bit word at a byte offset of a datagram. -/
def word32 (b : Bytes) (off : Nat) : Nat := leNat ((b.drop off).take 4)

end Sys2Proof.Machine

namespace Sys2Proof

open Sys2Proof.Machine

/-- Reads a datagram of at least 64 bytes as a packet from `src` (R47). -/
def Packet.ofBytes (src : Endpoint) (b : Bytes) : Packet :=
  let w0 := word32 b 0
  let w1 := word32 b 4
  let w2 := word32 b 8
  { src := src
    magic := BitVec.ofNat 16 w0
    version := BitVec.ofNat 8 (w0 / 2 ^ 16)
    hlen := BitVec.ofNat 8 (w0 / 2 ^ 24)
    flags := BitVec.ofNat 15 (w1 / 2 ^ 17)
    quiet := decide (w1 / 65536 % 2 = 1)
    resv := BitVec.ofNat 6 (w2 / 2 ^ 26)
    queue := BitVec.ofNat 6 (w2 / 2 ^ 20)
    inc := BitVec.ofNat 8 (w2 / 2 ^ 12)
    job := BitVec.ofNat 12 w2
    seq := BitVec.ofNat 32 (word32 b 12)
    timeout := BitVec.ofNat 32 (word32 b 16)
    plen := BitVec.ofNat 32 (word32 b 20)
    wait0 := BitVec.ofNat 32 (word32 b 24)
    wait1 := BitVec.ofNat 32 (word32 b 28)
    sig0 := BitVec.ofNat 32 (word32 b 32)
    sig1 := BitVec.ofNat 32 (word32 b 36)
    handle := BitVec.ofNat 64 (leNat ((b.drop 40).take 8))
    tag := (b.drop 48).take 16
    payload := b.drop 64 }

/-- A datagram: the header with its tag, then the payload (R47). -/
def Packet.toBytes (major variant : Nat) (p : Packet) : Bytes :=
  (p.header major variant).take 48 ++ p.tag ++ p.payload

end Sys2Proof

namespace Sys2Proof.Machine

/-- The bytes that a reply's tag covers: the reply with its tag field zero (R46, R56). -/
def Reply.bytes (r : Reply) : Bytes :=
  leBytes 4 (0x5153 + 2 ^ 16 + 5 * 2 ^ 24) ++
  leBytes 4 (r.major % 256 + r.variant % 256 * 256 + (if r.dup then 65536 else 0)) ++
  leBytes 4 (r.job + r.inc * 2 ^ 12 + r.queue * 2 ^ 20) ++
  leBytes 4 r.seq ++ leBytes 4 r.status.code ++ leBytes 4 r.payload.length ++
  leBytes 8 r.detail ++ leBytes 8 r.handle ++ leBytes 8 r.doneTime.toNat ++
  leBytes 8 r.counters.word ++ leBytes 8 0 ++ List.replicate 16 0#8 ++ r.payload

/-- A reply with its integrity tag under a session's key (R46). -/
def Reply.signed (key : Bytes) (r : Reply) : Reply := { r with tag := tag16 key r.bytes }

/-- A reply's datagram: the tag stands at byte offset 0x40 (R56). -/
def Reply.toBytes (r : Reply) : Bytes := r.bytes.take 64 ++ r.tag ++ r.payload

end Sys2Proof.Machine
end

