-- ==== Sys2Proof/Machine/Mesh.lean ====
section
/-!
DEFINITION. The Side meshes, their edge ports, the seam switches, and the paths between units (R15–R19, R22–R29, R236).
-/

namespace Sys2Proof.Machine

/-! ### Routers and edge ports (R15, R18, R19) -/

/-- The place of a mesh router: row and column. -/
structure Router where
  row : Nat
  col : Nat
  deriving DecidableEq, Repr, Inhabited

/-- The router of a physical stake: that of slot s in rib r stands at row r, column s. -/
def routerOf (phys : Nat) : Router := ⟨phys % 64 / 8, phys % 8⟩

/-- The router beside a Rim slice: row b[5:3], column b[2:0]. -/
def sliceRouter (b : Nat) : Router := ⟨bitsOf b 5 3, bitsOf b 2 0⟩

/-- What Table 1.2 attaches to the edge of a mesh. -/
inductive Attachment where
  | stack (local_ : Nat)
  | slew
  | pairing
  | controller
  | seam (border : Nat)
  deriving DecidableEq, Repr, Inhabited

/-- The edge ports of an attachment (Table 1.2): the edge (0 north, 1 south, 2 west, 3 east) and the router beside it. -/
def Attachment.ports : Attachment → List (Nat × Router)
  | .stack 0 => (List.range 4).map fun c => (0, ⟨0, c⟩)
  | .stack 1 => (List.range 4).map fun c => (0, ⟨0, 4 + c⟩)
  | .stack _ => (List.range 4).map fun c => (1, ⟨7, c⟩)
  | .slew => [(1, ⟨7, 4⟩), (1, ⟨7, 5⟩)]
  | .pairing => [(1, ⟨7, 6⟩)]
  | .controller => [(1, ⟨7, 7⟩)]
  | .seam b => (List.range 5).map fun r => if b = 0 then (2, ⟨r, 0⟩) else (3, ⟨r, 7⟩)

/-- The attachments of a Side. -/
def attachments : List Attachment := [.stack 0, .stack 1, .stack 2, .slew, .pairing, .controller, .seam 0, .seam 1]

/-! ### Flits (R15, R236) -/

/-- A flit: 512 bytes as 32 code words. -/
def flitOf (b : Bytes) : List (BitVec 144) :=
  (List.range 32).map fun i => encodeWord (BitVec.ofNat 128 (leNat ((b.drop (16 * i)).take 16)))

/-- The bytes of a flit's words. -/
def flitBytes (f : List (BitVec 144)) : Bytes := f.flatMap fun w => leBytes 16 (w.toNat % 2 ^ 128)

/-- A flit as it leaves a link with an error in one of its words. -/
def flitHit (f : List (BitVec 144)) (i : Nat) (e : BitVec 144) : List (BitVec 144) :=
  f.zipIdx.map fun (w, j) => if j = i then w ^^^ e else w

/-- A router or seam port decodes a flit: the words as they go on, and the numbers of words corrected and uncorrectable. -/
def flitCheck (f : List (BitVec 144)) : List (BitVec 144) × Nat × Nat :=
  let fix (w : BitVec 144) : BitVec 144 := match decodeWord w with
    | .corrected i x => flipSymbol w i x
    | _ => w
  (f.map fix, f.countP (fun w => !(decodeWord w == .clean || decodeWord w == .uncorrectable)),
    f.countP fun w => decodeWord w == .uncorrectable)

/-! ### Routes (R17, R25, R26) -/

/-- The links of a mesh out of one router towards a column of its row. -/
def rowLinks (side row from_ to_ : Nat) : List Link :=
  if from_ < to_ then (List.range (to_ - from_)).map fun i => .mesh side row (from_ + i) 3
  else (List.range (from_ - to_)).map fun i => .mesh side row (from_ - i) 2

/-- The links out of one router towards a row of its column. -/
def colLinks (side col from_ to_ : Nat) : List Link :=
  if from_ < to_ then (List.range (to_ - from_)).map fun i => .mesh side (from_ + i) col 1
  else (List.range (from_ - to_)).map fun i => .mesh side (from_ - i) col 0

/-- The route of a flit: along its row to the destination column, then along that column (R17). -/
def meshRoute (side : Nat) (a b : Router) : List Link :=
  rowLinks side a.row a.col b.col ++ colLinks side b.col a.row b.row

/-- Where a path begins or ends: a router of a Side, an attachment of a Side's mesh, or the units of a Border. -/
inductive Port3 where
  | router (side : Nat) (r : Router)
  | edge (side : Nat) (a : Attachment)
  | border (b : Nat)
  deriving DecidableEq, Repr, Inhabited

/-- The edge port of an attachment that an access takes: no rule chooses among several (R19, log 99). -/
def portFor (a : Attachment) (key : Nat) : Nat × Router :=
  a.ports.getD (Config.edgePort key % a.ports.length) (0, ⟨0, 0⟩)

/-- The router at which a path enters or leaves a Side, with the link over the mesh edge. -/
def enterSide (key : Nat) (inward : Bool) : Port3 → Router × List Link
  | .router _ r => (r, [])
  | .edge s a => let p := portFor a key; (p.2, [.edge s p.1 p.2.row p.2.col inward])
  | .border _ => (⟨0, 0⟩, [])

/-- The Side of a place on a mesh. -/
def Port3.side : Port3 → Option Nat
  | .router s _ => some s
  | .edge s _ => some s
  | .border _ => none

/-- The links from one place to another for an address (R17, R25, R26, R29): within a Side the mesh alone; to or from a
Border its seam; between two Sides the seams of the Border that bit 8 of the address picks. -/
def pathOf (key : Nat) (a b : Port3) : List Link :=
  let leave (x : Port3) (s border : Nat) : List Link :=
    let i := enterSide key true x
    let o := enterSide key false (.edge s (.seam border))
    i.2 ++ meshRoute s i.1 o.1 ++ o.2
  let arrive (x : Port3) (s border : Nat) : List Link :=
    let i := enterSide key true (.edge s (.seam border))
    let o := enterSide key false x
    i.2 ++ meshRoute s i.1 o.1 ++ o.2
  match a.side, b.side with
  | some s, some t =>
    if s = t then
      let i := enterSide key true a
      let o := enterSide key false b
      i.2 ++ meshRoute s i.1 o.1 ++ o.2
    else leave a s (sideBorder key) ++ arrive b t (sideBorder key)
  | some s, none => match b with
    | .border x => leave a s x
    | _ => []
  | none, some t => match a with
    | .border x => arrive b t x
    | _ => []
  | none, none => []

/-! ### Where units stand (R14, R26, R27) -/

/-- The Border that holds a Weave port, an Ethernet port or a flash channel (R27, Table 1.1; log 99 for the numbers of the
last two). -/
def borderOfPort (w : Nat) : Nat := w % 2
def borderOfEth (p : Nat) : Nat := p / 4
def borderOfFlash (c : Nat) : Nat := c / 8

/-- The connector on which the lanes of a Border leave the module (R27): J2 or J3. -/
def connectorOf (border : Nat) : Nat := 2 + border

/-- The position of a lane on its Border's connector (R565): lane `l` of Weave port `w`, and of Ethernet port `p`. -/
def weavePosition (w l : Nat) : Nat := 9 * (w / 2) + l
def ethPosition (p l : Nat) : Nat := 72 + 2 * (p % 4) + l

/-- The column of a lane position, and its rows: P and N of the pair that the module sends on, then of the one it receives on
(R565, Table 17.5). -/
def pinColumn (n : Nat) : Nat := n / 3 + 1
def pinRows (n : Nat) : (Char × Char) × (Char × Char) :=
  match n % 3 with
  | 0 => (('A', 'B'), ('D', 'E'))
  | 1 => (('G', 'H'), ('K', 'L'))
  | _ => (('N', 'P'), ('U', 'V'))

/-- What a pin of J1 carries (R564): row A the supply, row B its return, in columns 1 to 4. -/
def j1Pin (row : Char) (col : Nat) : Option String :=
  if col = 0 ∨ 4 < col then none else if row = 'A' then some "+54V" else if row = 'B' then some "RETURN" else none

/-- The signal at a pin of J4 (R567, Table 17.7); rows A to D and columns 1 to 8. -/
def j4Pin (row : Char) (col : Nat) : Option String :=
  let names : Option (List String) := match row with
    | 'A' => some ["SCL", "SDA", "GND", "PWR_EN", "MOD_RST_N", "ALERT_N", "PWR_CYCLE_REQ_N", "GND"]
    | 'B' => some ["WAKE_N", "STEWARD_SEL", "GND", "TCK", "TMS", "TDI", "TDO", "TRST_N"]
    | 'C' => some ["PRESENT_N", "GND", "VREF_SB", "GND", "GND", "GND", "GND", "GND"]
    | 'D' => some (List.replicate 8 "NC")
    | _ => none
  if col = 0 then none else names.bind fun ns => ns[col - 1]?

/-- A crossing of clock domains (R33): the entries of its queue each way, and the cycles that it adds, of the first clock and
of the second. -/
structure Crossing where
  domains : String × String
  entries : Nat
  cycles : Nat × Nat
  deriving DecidableEq, Repr

/-- The crossings of Table 1.5. Each keeps the order of its entries, drops none and doubles none (R34), so no result shows them
and State holds no queue for them (log 95). -/
def crossings : List Crossing :=
  [⟨("ACLK", "NCLK"), 16, (2, 3)⟩, ⟨("NCLK", "HBM4"), 32, (3, 3)⟩, ⟨("NCLK", "NCLK"), 64, (0, 4)⟩, ⟨("NCLK", "FCLK"), 32, (3, 3)⟩,
   ⟨("FCLK", "LANE"), 0, (8, 0)⟩, ⟨("NCLK", "LPDDR6"), 32, (3, 3)⟩, ⟨("MCLK", "NCLK"), 8, (3, 3)⟩, ⟨("AOCLK", "MCLK"), 0, (3, 3)⟩]

/-- The Ethernet group, hence the host network, of a Border's MACs (R27, R45). -/
def networkOf (border : Nat) : Network := if border = 0 then .a else .b

/-- Where a local address is read or written: the HBM4 controller of its stack, the Border of its channel, the router beside
its Rim slice or its stake (R18, R26, R225, R228). -/
def Mod.homeOf (m : Mod) (a : Nat) : Port3 :=
  match regionOf a with
  | .tierA s => .edge s (.stack ((hbmPlace a).1 % 3))
  | .tierB => .border (lpddrPlace a).1
  | .rim s => .router s (sliceRouter (rimSlice a))
  | .stake l => let p := (m.stakeMap.getD l none).getD 0; .router (p / 64) (routerOf p)
  | _ => .border m.activeBorder

/-- The links from an address to a physical stake: the way of the data that the stake reads (R23, R29). A stake reads its own
store without the mesh. -/
def Mod.readPath (m : Mod) (a phys : Nat) : List Link :=
  match regionOf a with
  | .stake l =>
    if m.stakeMap.getD l none == some phys then [] else pathOf a (m.homeOf a) (.router (phys / 64) (routerOf phys))
  | _ => pathOf a (m.homeOf a) (.router (phys / 64) (routerOf phys))

/-! ### Errors on links (R236, R441) -/

/-- The router and port at which an error on a link is found: the Side or Border, with the link's place. -/
def Link.unit : Link → UnitRef
  | .mesh s _ _ _ => ⟨3, s⟩
  | .edge s _ _ _ _ => ⟨3, s⟩

/-- Flits cross some links: words with an error of one symbol are corrected at the next router, and a word with more is
uncorrectable there. Answers the number of words corrected, and a link with an uncorrectable one. -/
def Mod.cross (m : Mod) (ls : List Link) : Mod × Nat × Option Link :=
  let hits := m.linkErrors.filter fun x => ls.contains x.1
  let verdict (x : Link × Nat × BitVec 144) : Nat × Nat :=
    let f := flitCheck (flitHit (flitOf []) x.2.1 x.2.2)
    (f.2.1, f.2.2)
  ({ m with linkErrors := m.linkErrors.filter fun x => !ls.contains x.1 }, (hits.map fun x => (verdict x).1).sum,
    (hits.find? fun x => (verdict x).2 != 0).map (·.1))

/-- The physical stake that reads for a command: the first of its queue's group. -/
def Mod.readerStake (m : Mod) (c : Cmd) : Option Nat :=
  match m.job? c.job with
  | none => none
  | some j => ((((j.plan.groupOf c.pkt.queue.toNat).map (·.stakes)).getD []).filterMap fun l => m.stakeMap.getD l none).head?

/-- The data that a command reads crosses the meshes and seams to its stake: the words corrected, and the number of the fault
log record (CODE_NOC) of an uncorrectable one. -/
def Mod.crossFor (m : Mod) (c : Cmd) (locs : List Nat) : Mod × Nat × Option Nat :=
  if m.linkErrors.isEmpty then (m, 0, none)
  else match m.readerStake c with
  | none => (m, 0, none)
  | some p =>
    match m.cross ((locs.map (· / 256 * 256)).eraseDups.flatMap fun a => m.readPath a p) with
    | (m, n, none) => (m, n, none)
    | (m, n, some l) =>
      let rec_ := m.record
      (m.addOpen { time := 0, record := 0, cls := 0x04, outcome := 2, unit := l.unit, job := c.job, inc := c.pkt.inc.toNat
                   queue := c.pkt.queue.toNat, seq := c.pkt.seq.toNat }, n, some rec_)

end Sys2Proof.Machine
end

