-- ==== Sys2Proof/Machine/Catalogue.lean ====
section
/-!
DEFINITION. The Operation Catalogue as data: opcode, lane, group, flags and payload layout of each
operation (R51, R518–R546).
-/

namespace Sys2Proof

open Sys2Proof.Machine

/-- The major opcode of an operation (R530–R546). -/
def Op.major : Op → Nat
  | .nop => 0x01
  | .fenceQueue | .fenceJob => 0x02
  | .tieSignalAdd | .tieSignalReset => 0x03
  | .tieWait => 0x04
  | .tieDump => 0x05
  | .echo => 0x06
  | .planLoad => 0x10
  | .planStart => 0x11
  | .quiesce => 0x12
  | .planUnload => 0x13
  | .jobAbort => 0x14
  | .jobNotice => 0x15
  | .copy => 0x20
  | .gather => 0x21
  | .scatter => 0x22
  | .scatterAdd => 0x23
  | .fill => 0x25
  | .rngFill => 0x26
  | .convert => 0x27
  | .matmul | .hadamard => 0x30
  | .sparseForward | .sparseDataGrad | .sparseWeightGrad => 0x31
  | .spmm => 0x32
  | .riddleExact | .riddleGuarded | .riddleFree => 0x33
  | .mend => 0x34
  | .vexpr => 0x35
  | .reduceSum | .reduceSumsq | .reduceMax | .reduceMin => 0x36
  | .distMinPlus | .distMaxPlus | .distL2 | .distL1 => 0x37
  | .route => 0x40
  | .dispatch => 0x41
  | .combine => 0x42
  | .dispatchGrad => 0x43
  | .combineGrad => 0x44
  | .expertCounts => 0x45
  | .reduceScatter => 0x50
  | .allGather => 0x51
  | .allReduce => 0x52
  | .norm => 0x53
  | .broadcast => 0x54
  | .send => 0x55
  | .recv => 0x56
  | .optimSweep => 0x60
  | .lossRead | .lossLoad => 0x61
  | .stepCommit => 0x62
  | .stepRollback => 0x63
  | .reside => 0x70
  | .evict => 0x71
  | .checkpoint => 0x72
  | .restore => 0x73
  | .ownTake => 0x74
  | .ownGive => 0x75
  | .poolConfig => 0x80
  | .poolStatRecords | .poolStatRequesters => 0x81
  | .bistStake | .bistSide | .bistModule | .bistCheckers => 0xE0
  | .crashDumpRead => 0xE1
  | .logByNumber | .logNewest => 0xE2
  | .countersJob | .countersModule | .countersPort | .countersArray | .countersRouterHalf => 0xE3
  | .traceSet | .traceStart | .traceStop | .traceMark => 0xE4
  | .hbmReadCheck | .hbmPattern => 0xE5
  | .spareStake | .spareWeaveLane | .spareHbmLane | .spareDramRow | .spareSramRow | .spareMgmt => 0xE6
  | .resetEngine | .resetPartition | .resetModule | .resetPowerCycle => 0xE7
  | .attestReport | .attestChain => 0xF0
  | .fwStageBegin | .fwStageWrite => 0xF1
  | .fwActivateTrial | .fwActivateReset | .fwActivateLock => 0xF2
  | .policyPropose => 0xF3
  | .policyCountersign => 0xF4

/-- The VARIANT of an operation (R529–R546). HBM_TRAFFIC's MODE and SPARE_SWAP's KIND are payload
fields, so their rows share a variant. -/
def Op.variant : Op → Nat
  | .nop | .fenceQueue => 0
  | .fenceJob => 1
  | .tieSignalAdd => 0
  | .tieSignalReset => 1
  | .tieWait | .tieDump | .echo | .planLoad | .planStart | .quiesce | .planUnload | .jobAbort
  | .jobNotice | .copy | .gather | .scatter | .scatterAdd | .fill | .rngFill | .convert
  | .matmul => 0
  | .hadamard => 1
  | .sparseForward => 0
  | .sparseDataGrad => 1
  | .sparseWeightGrad => 2
  | .spmm | .riddleExact => 0
  | .riddleGuarded => 1
  | .riddleFree => 2
  | .mend | .vexpr | .reduceSum => 0
  | .reduceSumsq => 1
  | .reduceMax => 2
  | .reduceMin => 3
  | .distMinPlus => 0
  | .distMaxPlus => 1
  | .distL2 => 2
  | .distL1 => 3
  | .route | .dispatch | .combine | .dispatchGrad | .combineGrad | .expertCounts
  | .reduceScatter | .allGather | .allReduce | .norm | .broadcast | .send | .recv | .optimSweep
  | .lossRead => 0
  | .lossLoad => 1
  | .stepCommit | .stepRollback | .reside | .evict | .checkpoint | .restore | .ownTake
  | .ownGive | .poolConfig | .poolStatRecords => 0
  | .poolStatRequesters => 1
  | .bistStake => 0
  | .bistSide => 1
  | .bistModule => 2
  | .bistCheckers => 3
  | .crashDumpRead | .logByNumber => 0
  | .logNewest => 1
  | .countersJob => 0
  | .countersModule => 1
  | .countersPort => 2
  | .countersArray => 3
  | .countersRouterHalf => 4
  | .traceSet => 0
  | .traceStart => 1
  | .traceStop => 2
  | .traceMark => 3
  | .hbmReadCheck | .hbmPattern | .spareStake | .spareWeaveLane | .spareHbmLane | .spareDramRow
  | .spareSramRow | .spareMgmt | .resetEngine => 0
  | .resetPartition => 1
  | .resetModule => 2
  | .resetPowerCycle => 3
  | .attestReport => 0
  | .attestChain => 1
  | .fwStageBegin => 0
  | .fwStageWrite => 1
  | .fwActivateTrial => 0
  | .fwActivateReset => 1
  | .fwActivateLock => 2
  | .policyPropose | .policyCountersign => 0

/-- Chooses between the operations that share a major and a variant by their payload's selector byte:
HBM_TRAFFIC's MODE and SPARE_SWAP's KIND (R244, R471). A selector that names none leaves `op`. -/
def Op.actual (op : Op) (p : Packet) : Op :=
  if op.major = 0xE5 then (match p.u 1 1 with | 0 => .hbmReadCheck | 1 => .hbmPattern | _ => op)
  else if op.major = 0xE6 then
    (match p.u 0 1 with
      | 0 => .spareStake | 1 => .spareWeaveLane | 2 => .spareHbmLane | 3 => .spareDramRow
      | 4 => .spareSramRow | 5 => .spareMgmt | _ => op)
  else op

/-- The operations of the groups Control, Jobs and Transfer (R530–R546). -/
def Op.opsA : List Op :=
  [.nop, .fenceQueue, .fenceJob, .tieSignalAdd, .tieSignalReset, .tieWait, .tieDump, .echo,
   .planLoad, .planStart, .quiesce, .planUnload, .jobAbort, .jobNotice,
   .copy, .gather, .scatter, .scatterAdd, .fill, .rngFill, .convert]

/-- The operations of the groups Compute (R530–R546). -/
def Op.opsB : List Op :=
  [.matmul, .hadamard, .sparseForward, .sparseDataGrad, .sparseWeightGrad, .spmm,
   .riddleExact, .riddleGuarded, .riddleFree, .mend, .vexpr,
   .reduceSum, .reduceSumsq, .reduceMax, .reduceMin,
   .distMinPlus, .distMaxPlus, .distL2, .distL1]

/-- The operations of the groups Experts to Pools (R530–R546). -/
def Op.opsC : List Op :=
  [.route, .dispatch, .combine, .dispatchGrad, .combineGrad, .expertCounts,
   .reduceScatter, .allGather, .allReduce, .norm, .broadcast, .send, .recv,
   .optimSweep, .lossRead, .lossLoad, .stepCommit, .stepRollback,
   .reside, .evict, .checkpoint, .restore, .ownTake, .ownGive,
   .poolConfig, .poolStatRecords, .poolStatRequesters]

/-- The operations of the groups Maintenance and Security (R530–R546). -/
def Op.opsD : List Op :=
  [.bistStake, .bistSide, .bistModule, .bistCheckers, .crashDumpRead, .logByNumber, .logNewest,
   .countersJob, .countersModule, .countersPort, .countersArray, .countersRouterHalf,
   .traceSet, .traceStart, .traceStop, .traceMark, .hbmReadCheck,
   .spareStake, .resetEngine, .resetPartition, .resetModule, .resetPowerCycle,
   .attestReport, .attestChain, .fwStageBegin, .fwStageWrite,
   .fwActivateTrial, .fwActivateReset, .fwActivateLock, .policyPropose, .policyCountersign]

/-- The operations of the catalogue, in its order. -/
def Op.all : List Op := Op.opsA ++ Op.opsB ++ Op.opsC ++ Op.opsD

/-- The operation of an opcode and variant; `none` for an undefined one (R529). -/
def Op.ofCode (major variant : Nat) : Option Op :=
  Op.all.find? fun o => o.major == major && o.variant == variant

/-- The groups of the catalogue in its order: Control 0, Jobs 1, Transfer 2, Compute 3, Experts 4,
Collectives 5, Training 6, Memory 7, Pools 8, Maintenance 9, Security 10. -/
def Op.group (op : Op) : Nat :=
  let m := op.major
  if m < 0x10 then 0 else if m < 0x20 then 1 else if m < 0x30 then 2 else if m < 0x40 then 3
  else if m < 0x50 then 4 else if m < 0x60 then 5 else if m < 0x70 then 6 else if m < 0x80 then 7
  else if m < 0xE0 then 8 else if m < 0xF0 then 9 else 10

/-- Commands of the control lane (R51): Jobs, Maintenance, Security and POOL_CONFIG. -/
def Op.control (op : Op) : Bool :=
  op.group == 1 || op.group == 9 || op.group == 10 || op == .poolConfig

/-- Whether payload byte 0 is the conversion control byte (R519). -/
def Op.hasConv (op : Op) : Bool :=
  op.group == 2 ||
    [.matmul, .hadamard, .sparseForward, .sparseDataGrad, .sparseWeightGrad, .spmm, .mend, .vexpr,
     .reduceSum, .reduceSumsq, .reduceMax, .reduceMin, .distMinPlus, .distMaxPlus, .distL2, .distL1,
     .dispatch, .combine, .dispatchGrad, .combineGrad, .broadcast, .recv].contains op

/-- SEG_SIGNAL is defined (Tables 16.8 and 16.10). -/
def Op.segOk (op : Op) : Bool := op.group == 2 || (op.group == 3 && op != .mend)

/-- NF_FAIL is defined: the summary lists NONFINITE (R524). -/
def Op.nfOk (op : Op) : Bool :=
  op.group == 2 ||
    (op.group == 3 && op != .riddleExact && op != .riddleGuarded && op != .riddleFree) ||
    op == .combine || op == .dispatchGrad || op == .combineGrad

def Op.isMatmulSparse (op : Op) : Bool :=
  op == .sparseForward || op == .sparseDataGrad || op == .sparseWeightGrad

def Op.isDistance (op : Op) : Bool :=
  op == .distMinPlus || op == .distMaxPlus || op == .distL2 || op == .distL1

def Op.isRiddle (op : Op) : Bool := op == .riddleExact || op == .riddleGuarded || op == .riddleFree

def Op.isReduceLocal (op : Op) : Bool :=
  op == .reduceSum || op == .reduceSumsq || op == .reduceMax || op == .reduceMin

/-- Commands that run as passes on the arrays (R112). -/
def Op.isArray (op : Op) : Bool :=
  op == .matmul || op == .hadamard || op == .mend || op.isMatmulSparse || op.isDistance || op.isRiddle

/-- The commands that a round's body may hold: MATMUL, MATMUL_SPARSE, RIDDLE, MEND and VEXPR (R255). -/
def Op.inBody (op : Op) : Bool :=
  op == .matmul || op == .hadamard || op.isMatmulSparse || op.isRiddle || op == .mend || op == .vexpr

/-- Whether FLAGS_OP bit `k` is defined for an operation (Table 16.2). -/
def Op.flagOk (op : Op) (k : Nat) : Bool :=
  match k with
  | 14 => true
  | 13 => op.segOk
  | 12 => op == .route || op == .combine || op == .dispatchGrad
  | 11 => op == .matmul || op == .hadamard || op == .sparseForward || op == .sparseDataGrad ||
      op.isDistance || op == .combine || op == .dispatchGrad
  | 10 => op == .matmul || op.isMatmulSparse || op == .mend || op.isDistance
  | 9 => op == .combine || op == .dispatchGrad
  | 8 => op == .copy
  | 7 => op == .checkpoint
  | 6 => op == .echo
  | 5 => op.nfOk
  | 0 => op.major == 0xE7
  | _ => false

/-- Rounds up to a multiple of 16. -/
def up16 (n : Nat) : Nat := (n + 15) / 16 * 16

/-- The operand entries of an operation's payload (R520, Tables 16.9–16.22): payload offset, role of
R196, and whether the entry is optional. -/
def Op.entries (op : Op) (p : Packet) : List (Nat × Nat × Bool) :=
  match op with
  | .copy | .convert => [(0x10, 0, false), (0x20, 1, false)]
  | .gather | .scatter | .scatterAdd => [(0x10, 0, false), (0x20, 1, false), (0x30, 2, false)]
  | .fill | .rngFill => [(0x10, 0, false)]
  | .matmul => [(0x20, 1, false), (0x30, 3, false), (0x40, 0, false), (0x50, 2, true)]
  | .hadamard => [(0x20, 1, false), (0x30, 3, false), (0x40, 0, false), (0x50, 2, true)]
  | .sparseForward | .sparseDataGrad =>
    [(0x20, 1, false), (0x30, 3, false), (0x40, 0, false), (0x50, 2, true)]
  | .sparseWeightGrad => [(0x20, 1, false), (0x30, 3, false), (0x40, 0, false), (0x50, 3, false)]
  | .spmm => [(0x10, 0, false), (0x20, 2, false), (0x30, 2, false), (0x40, 1, false), (0x50, 3, false)]
  | .riddleExact | .riddleGuarded | .riddleFree =>
    [(0x10, 0, false), (0x20, 1, false), (0x30, 3, false), (0x40, 2, true)]
  | .mend => [(0x10, 1, false), (0x20, 3, false), (0x30, 0, false), (0x40, 2, true)]
  | .vexpr => (List.range (p.u 1 1)).map fun i => (0x10 + 16 * i, if i = 0 then 1 else 3, false)
  | .reduceSum | .reduceSumsq | .reduceMax | .reduceMin =>
    [(0x10, 0, false), (0x20, 1, false), (0x30, 2, true)]
  | .distMinPlus | .distMaxPlus | .distL2 | .distL1 =>
    [(0x20, 1, false), (0x30, 3, false), (0x40, 0, false), (0x50, 2, true), (0x60, 2, true)]
  | .route =>
    [(0x10, 1, false), (0x20, 2, true), (0x30, 0, false), (0x40, 0, false), (0x50, 0, false),
     (0x60, 0, false), (0x70, 0, false)]
  | .dispatch => [(0x10, 1, false), (0x20, 2, false)]
  | .combine => [(0x10, 2, false), (0x20, 1, false), (0x30, 0, false)]
  | .dispatchGrad => [(0x10, 2, false), (0x20, 0, false)]
  | .combineGrad =>
    [(0x10, 2, false), (0x20, 3, false), (0x30, 1, false), (0x40, 0, false), (0x50, 0, true)]
  | .expertCounts => [(0x10, 0, false)]
  | .broadcast => [(0x10, 1, true), (0x20, 0, false)]
  | .send => [(0x10, 1, false)]
  | .recv => [(0x10, 0, false)]
  | .ownTake | .ownGive => [(0x10, 1, false)]
  | _ => []

/-- Whether the entry at a payload offset is a destination: role 0, and the winner index of REDUCE_LOCAL and
DISTANCE, which has role 2 under R196 and is written (R153, R522). -/
def Op.isDest (op : Op) (off role : Nat) : Bool :=
  role == 0 || (op.isReduceLocal && off == 0x30) || (op.isDistance && off == 0x60)

/-- The listed fields of an operation's fixed part besides its operand entries, as (offset, length,
mask of each byte) (Tables 16.4–16.28). -/
def Op.fields (op : Op) (p : Packet) : List (Nat × Nat × Nat) :=
  match op with
  | .nop | .fenceQueue | .fenceJob => []
  | .tieSignalAdd | .tieSignalReset | .tieWait => [(0, 1, 0xFF), (1, 1, 0x0F), (2, 1, 0xE0), (3, 3, 0xFF), (7, 1, 0x80), (8, 4, 0xFF)]
  | .tieDump => [(0, 1, 0xFF), (1, 1, 0x0F), (2, 1, 0xE0), (3, 3, 0xFF)]
  | .echo => [(0, p.payload.length, 0xFF)]
  | .planLoad => [(0, 12, 0xFF)]
  | .planStart | .quiesce | .planUnload | .jobAbort => []
  | .jobNotice =>
    (List.range (p.payload.length / 32)).flatMap fun i =>
      [(32 * i + 4, 4, 0xFF), (32 * i + 21, 1, 0xF0), (32 * i + 22, 4, 0xFF),
       (32 * i + 27, 5, 0xFF)]
  | .copy | .convert => [(0, 1, 0x0F)]
  | .gather | .scatter | .scatterAdd => [(0, 1, 0x0F), (1, 1, 0xFF)]
  | .fill => [(0, 1, 0x0F), (4, 4, 0xFF)]
  | .rngFill => [(0, 1, 0x0F), (1, 3, 0xFF), (4, 8, 0xFF)]
  | .matmul | .hadamard | .sparseForward | .sparseDataGrad | .sparseWeightGrad =>
    [(0, 1, 0x0F), (1, 1, 0xFF), (4, 4, 0xFF)]
  | .spmm => [(0, 1, 0x0F)]
  | .riddleExact | .riddleGuarded | .riddleFree => [(0, 4, 0xFF)]
  | .mend => [(0, 1, 0x0F), (4, 8, 0xFF), (0x50, 4 * min (p.u 8 4) 2032, 0xFF)]
  | .vexpr => [(0, 1, 0x0F), (1, 7, 0xFF)]
  | .reduceSum | .reduceSumsq | .reduceMax | .reduceMin => [(0, 1, 0x0F), (1, 1, 0xFF)]
  | .distMinPlus | .distMaxPlus | .distL2 | .distL1 => [(0, 1, 0x0F)]
  | .route => [(2, 2, 0xFF)]
  | .dispatch => [(0, 1, 0x0F), (2, 6, 0xFF)]
  | .combine | .dispatchGrad | .combineGrad => [(0, 1, 0x0F), (2, 2, 0xFF)]
  | .expertCounts => [(2, 2, 0xFF), (8, 8, 0xFF)]
  | .reduceScatter | .allReduce => [(0, 2, 0xFF), (4, 4, 0xFF)]
  | .allGather => [(0, 2, 0xFF)]
  | .norm => [(0, 1, 0xFF), (1, 1, 0x01), (0x10, 64, 0xFF)]
  | .broadcast => [(0, 1, 0x0F), (2, 4, 0xFF)]
  | .send => [(2, 6, 0xFF)]
  | .recv => [(0, 1, 0x0F), (2, 6, 0xFF)]
  | .optimSweep => [(0, 2, 0xFF), (8, 44, 0xFF), (0x40, 2 * min (p.u 0 2) 4064, 0xFF)]
  | .lossRead => []
  | .lossLoad => [(3, 13, 0xFF)]
  | .stepCommit | .stepRollback => [(0, 8, 0xFF)]
  | .reside | .evict => [(0, 2, 0xFF), (8, 4 * min (p.u 0 2) 2032, 0xFF)]
  | .checkpoint => [(0, 3, 0xFF), (8, 4 * p.u 2 1, 0xFF)]
  | .restore => [(0, 2, 0xFF)]
  | .ownTake | .ownGive => [(0, 4, 0xFF)]
  | .poolConfig =>
    (0, 2, 0xFF) :: (List.range (p.u 1 1)).flatMap fun i => [(8 + 8 * i, 4, 0xFF), (14 + 8 * i, 2, 0xFF)]
  | .poolStatRecords | .poolStatRequesters => [(0, 1, 0xFF), (4, 4, 0xFF)]
  | .bistStake | .bistSide | .bistModule | .bistCheckers => [(0, 2, 0xFF)]
  | .crashDumpRead => [(0, 1, 0xFF), (4, 12, 0xFF)]
  | .logByNumber | .logNewest => [(0, 6, 0xFF)]
  | .countersJob | .countersModule | .countersPort | .countersArray | .countersRouterHalf =>
    [(0, 3, 0xFF), (4, 2, 0xFF)]
  | .traceSet => [(0, 3, 0xFF), (4, 5, 0xFF), (10, 2, 0xFF), (16, 16, 0xFF)]
  | .traceStart | .traceStop => []
  | .traceMark => [(0, 4, 0xFF)]
  | .hbmReadCheck | .hbmPattern => [(0, 3, 0xFF), (4, 2, 0xFF), (8, 16, 0xFF)]
  | .spareStake | .spareWeaveLane | .spareHbmLane | .spareDramRow | .spareSramRow | .spareMgmt =>
    [(0, 1, 0xFF), (4, 6, 0xFF), (16, 8, 0xFF)]
  | .resetEngine | .resetPartition | .resetModule | .resetPowerCycle => [(0, 2, 0xFF)]
  | .attestReport => [(0, 32, 0xFF)]
  | .attestChain => [(0, 4, 0xFF)]
  | .fwStageBegin | .fwActivateTrial | .fwActivateReset | .fwActivateLock => []
  | .fwStageWrite => [(0, 6, 0xFF), (8, p.u 4 2, 0xFF)]
  | .policyPropose => [(0, 2, 0xFF), (8, p.u 0 2, 0xFF), (up16 (8 + p.u 0 2), 64, 0xFF)]
  | .policyCountersign => [(0, 96, 0xFF)]

/-- The end of the fixed part (R518): the end of the last listed field, rounded up to 16 but for ECHO
and the layouts marked PLEN 0. -/
def Op.fixedEnd (op : Op) (p : Packet) : Nat :=
  if op == .echo then p.payload.length
  else if op == .jobNotice then 32 * Nat.max 1 (p.payload.length / 32)
  else
    let ends := (op.fields p).map (fun f => f.1 + f.2.1) ++ (op.entries p).map (fun e => e.1 + 16)
    let pad := match op with
      | .tieDump | .planLoad | .logByNumber | .logNewest => 16
      | _ => 0
    up16 (ends.foldl Nat.max pad)

/-- The mask of the bits of payload byte `o` that a listed field or an operand entry covers. -/
def Op.byteMask (op : Op) (p : Packet) (o : Nat) : Nat :=
  match (op.fields p).find? fun f => f.1 ≤ o ∧ o < f.1 + f.2.1 with
  | some f => f.2.2
  | none =>
    match (op.entries p).find? fun e => e.1 ≤ o ∧ o < e.1 + 16 with
    | some e => let k := o - e.1; if k = 0 ∨ k = 4 ∨ k = 5 ∨ 8 ≤ k then 0xFF else 0
    | none => 0

end Sys2Proof
end

