-- ==== Sys2Proof/Machine/Operands.lean ====
section
/-!
DEFINITION. Operand entries and tensor descriptors (R189–R198, R520–R523): resolving them, the rules
of Table 7.3, addressing of elements, reading and writing elements, own extents, bounds and overlaps.
-/

namespace Sys2Proof.Machine

/-! ### Resolving an operand entry (R520, R521) -/

/-- An operand: its entry's payload offset, its role under R196, where its inline descriptor starts in
the payload, and its resolved descriptor. -/
structure Opnd where
  off : Nat
  role : Nat
  at_ : Option Nat
  desc : Desc
  deriving DecidableEq, Repr, Inhabited

/-- Signed value of a little-endian field of `n` bytes. -/
def leInt (b : Bytes) (n : Nat) : Int := signedOf (8 * n) (leNat (b.take n))

/-- Reads a descriptor of 176 bytes (Tables 7.1 and 7.2). -/
def Desc.parse (b : Bytes) : Desc :=
  let u (o n : Nat) : Nat := leNat ((b.drop o).take n)
  let w0 := u 0 4
  let nd := w0 / 2 ^ 21 % 8
  { format := w0 / 2 ^ 24
    ndim := nd
    remote := w0 / 2 ^ 20 % 2 = 1
    sparse24 := w0 / 2 ^ 19 % 2 = 1
    rank := w0 % 65536
    tensor := u 4 4
    base := u 8 8
    auxBase := u 16 8
    pad := u 24 4
    dims := (List.range (min nd 6)).map fun k =>
      let o := 0x20 + 24 * k
      { extent := u o 4, origin := u (o + 4) 4, ownStart := u (o + 8) 4, ownLen := u (o + 12) 4
        stride := leInt (b.drop (o + 16)) 8 } }

/-- The described dimensions. -/
def Desc.used (d : Desc) : List DimRec := d.dims.take d.ndim

def Desc.fmt? (d : Desc) : Option Fmt := Fmt.ofCode d.format
def Desc.fmt (d : Desc) : Fmt := d.fmt?.getD .fp32
def Desc.ext (d : Desc) (k : Nat) : Nat := (d.dims.getD k default).extent
def Desc.stride (d : Desc) (k : Nat) : Int := (d.dims.getD k default).stride

/-- What resolving an entry finds: FORM NONE, a fault of the entry, or an operand. -/
inductive Resolved where
  | absent
  | bad
  | ok (o : Opnd)
  deriving DecidableEq, Repr, Inhabited

/-- Resolves the entry at a payload offset (R521). -/
def resolveEntry (plan : Plan) (op : Op) (p : Packet) (off role : Nat) : Resolved :=
  let form := p.u off 1
  let ix := p.u (off + 4) 2
  let delta := leInt (p.payload.drop (off + 8)) 8
  if form = 0 then .absent
  else if form = 1 then
    if ix = 0 then .bad
    else match plan.stored[ix - 1]? with
      | none => .bad
      | some d =>
        if delta ≠ 0 ∧ (d.fmt.isBlock ∨ d.sparse24) then .bad
        else .ok { off := off, role := role, at_ := none, desc := { d with base := d.base + delta } }
  else if form = 2 then
    if delta ≠ 0 ∨ 16 * ix < op.fixedEnd p ∨ p.payload.length < 16 * ix + 176 then .bad
    else
      .ok { off := off, role := role, at_ := some (16 * ix)
            desc := Desc.parse ((p.payload.drop (16 * ix)).take 176) }
  else .bad

/-- The operand of the entry at a payload offset. -/
def operand? (plan : Plan) (op : Op) (p : Packet) (off : Nat) : Option Opnd :=
  match (op.entries p).find? fun e => e.1 == off with
  | none => none
  | some (_, role, _) =>
    match resolveEntry plan op p off role with
    | .ok o => some o
    | _ => none

/-- The packet offset of a field of an operand's descriptor: the field itself when inline, the operand
entry when stored (R521, R572). -/
def Opnd.field (o : Opnd) (f : Nat) : Nat :=
  match o.at_ with
  | some a => 0x40 + a + f
  | none => 0x40 + o.off

/-! ### The rules of Table 7.3 (R192) -/

/-- The dimensions that the aliasing test takes, as (dimension, |stride|, extent). -/
def Desc.aliasDims (d : Desc) : List (Nat × Nat × Nat) :=
  ((d.used.zipIdx).map fun (r, k) =>
    if k = 0 ∧ d.fmt.isBlock then (k, 1, (r.extent + 31) / 32) else (k, r.stride.natAbs, r.extent)).filter
    fun t => 1 < t.2.2

/-- The first dimension whose |STRIDE| does not exceed the sum over the dimensions before it. -/
def aliasFault : Nat → List (Nat × Nat × Nat) → Option Nat
  | _, [] => none
  | acc, (k, s, e) :: rest => if s ≤ acc then some k else aliasFault (acc + s * (e - 1)) rest

/-- The fields of a descriptor that break a rule of Table 7.3, by their offset in the descriptor. `dest`
tells a destination descriptor, `rankOk` and `tensorOk` what the plan says of RANK and TENSOR. -/
def Desc.faults (d : Desc) (dest rankOk tensorOk : Bool) : List Nat :=
  let g (c : Bool) (o : Nat) : List Nat := if c then [o] else []
  let f := d.fmt
  let blk := d.fmt?.isSome && f.isBlock
  let ndOk := 1 ≤ d.ndim && d.ndim ≤ 6
  let dims := if ndOk then d.used.zipIdx else []
  g ((!d.remote && d.rank != 0) || (d.remote && !rankOk)) 0 ++ g (!ndOk) 2 ++ g d.fmt?.isNone 3 ++
  g (d.tensor == 0 || !tensorOk) 4 ++
  g ((f == .w4 && d.base % 16 != 0) || (d.fmt?.isSome && !f.isBlock && d.base % f.size != 0)) 8 ++
  g (d.auxBase != 0 && !(blk && f.isMx) && !d.sparse24) 0x10 ++ g (!dest && d.pad != 0) 0x18 ++
  dims.flatMap (fun (r, k) =>
    let o := 0x20 + 24 * k
    let stop := r.ownStart + (if r.ownLen = 0 then r.extent - r.ownStart else r.ownLen)
    g (r.extent == 0 || 2 ^ 32 ≤ r.extent) o ++
    (if dest then
      g (r.extent ≤ r.ownStart || (k == 0 && blk && r.ownStart % 32 != 0)) (o + 8) ++
      g (r.extent < r.ownStart + r.ownLen || (k == 0 && blk && stop % 32 != 0 && stop != r.extent)) (o + 12)
    else g (r.origin != 0) (o + 4) ++ g (r.ownStart != 0) (o + 8) ++ g (r.ownLen != 0) (o + 12)) ++
    g (r.stride < -(2 ^ 47) || 2 ^ 47 ≤ r.stride || (k == 0 && (blk || d.sparse24) && r.stride != 1)) (o + 16)) ++
  (if dest && ndOk then
    match aliasFault 0 (sortBy (fun a b => a.2.1 ≤ b.2.1) d.aliasDims) with
    | some k => [0x20 + 24 * k + 16]
    | none => []
  else [])

/-- Whether RANK names a rank of the job in this module's tray (R190). -/
def Plan.rankInTray (p : Plan) (rank : Nat) : Bool :=
  rank < p.ranks && sameTray (p.addrOf p.rank) (p.addrOf rank)

/-- Whether a plan declares a tensor: an entry of MEMORY, or the proxy of a gateway window. -/
def Plan.declares (p : Plan) (t : Nat) : Bool :=
  p.tensors.any (fun x => x.id == t) || p.gateways.any fun g => g.proxy == t

/-- The fields of an operand that break a rule of Table 7.3 (R192). -/
def Opnd.faults (plan : Plan) (dest : Bool) (o : Opnd) : List Nat :=
  o.desc.faults dest (plan.rankInTray o.desc.rank) (o.desc.remote || plan.declares o.desc.tensor)

/-! ### Index boxes -/

/-- The indices of a box given as (start, length) by dimension, dimension 0 fastest. -/
def boxIdx : List (Nat × Nat) → List (List Nat)
  | [] => [[]]
  | (s, n) :: rest => (boxIdx rest).flatMap fun t => (List.range n).map fun i => (s + i) :: t

/-- The own extent (R195). -/
def Desc.ownBox (d : Desc) : List (Nat × Nat) :=
  d.used.map fun r => (r.ownStart, if r.ownLen = 0 then r.extent - r.ownStart else r.ownLen)

/-- The full extents as a box. -/
def Desc.fullBox (d : Desc) : List (Nat × Nat) := d.used.map fun r => (0, r.extent)

/-- Linear index over the full extents, dimension 0 fastest (R196, R202). -/
def Desc.linear (d : Desc) (idx : List Nat) : Nat :=
  ((idx.zip d.used).foldl (fun (a : Nat × Nat) p => (a.1 + p.1 * a.2, a.2 * p.2.extent)) (0, 1)).1

/-- Whether an index lies within a box. -/
def inBox (box : List (Nat × Nat)) (idx : List Nat) : Bool :=
  (box.zip idx).all fun (b, i) => b.1 ≤ i && i < b.1 + b.2

/-- Restricts one dimension of a box to the indices from `lo` up to `hi − 1`. -/
def clampDim (box : List (Nat × Nat)) (k lo hi : Nat) : List (Nat × Nat) :=
  box.zipIdx.map fun (b, j) =>
    if j = k then
      let s := Nat.max b.1 lo
      let e := Nat.min (b.1 + b.2) hi
      (s, e - s)
    else b

/-! ### Where a tensor lies -/

/-- Where the bytes of an operand's tensor lie: on this module, in another module of the tray, or behind
a gateway window. -/
inductive VPlace where
  | here (p : Placement)
  | tray (slot : Nat) (p : Placement)
  | window (w : Nat)
  deriving DecidableEq, Repr, Inhabited

/-- One number for each byte an operand can name: a local address, a tray address from 2^60, an offset in
a gateway window from 2^62. -/
def trayLoc (a : Nat) : Nat := 2 ^ 60 + a
def winLoc (w off : Nat) : Nat := 2 ^ 62 + w * 2 ^ 48 + off
def isLocal (a : Nat) : Bool := a < 2 ^ 60
def isTray (a : Nat) : Bool := 2 ^ 60 ≤ a && a < 2 ^ 62
def isWin (a : Nat) : Bool := 2 ^ 62 ≤ a

/-- The stripe length of a SHARED tensor (R226). -/
def stripe : Nat := 2 ^ 21

/-- The local address of byte `off` of a placed region (R226, R329). -/
def Placement.addr (p : Placement) (off : Nat) : Nat :=
  match p with
  | .flat base => base + off
  | .stripes bases => bases.getD (off / stripe) 0 + off % stripe
  | .planes hi lo => if off % 4 < 2 then lo + off / 4 * 2 + off % 4 else hi + off / 4 * 2 + (off % 4 - 2)

/-- An operand with the place of its tensor, the region's length, a valid Tier A copy that a write also writes, and the copy
that the command reads: the one that was valid at its start (R247). -/
structure View where
  o : Opnd
  fmt : Fmt
  len : Nat
  place : VPlace
  copy : Option Nat := none
  from_ : Option Nat := none
  deriving DecidableEq, Repr, Inhabited

def View.d (v : View) : Desc := v.o.desc

/-- The location of byte `off` of the region. -/
def View.loc (v : View) (off : Nat) : Nat :=
  match v.place with
  | .here p => p.addr off
  | .tray slot p => trayLoc (slot * 2 ^ 48 + p.addr off)
  | .window w => winLoc w off

/-- The placed tensor of a job. -/
def Job.place? (j : Job) (t : Nat) : Option TensorPlace := j.places.find? fun x => x.decl.id == t

/-- The base of a valid Tier A copy of a RESIDENCY_MANAGED tensor. -/
def Job.copyOf (j : Job) (t : Nat) : Option Nat :=
  match j.residency.find? fun r => r.tensor == t && r.valid with
  | some r => r.copyBase
  | none => none

/-- The base of the copy from which a command reads a tensor: it stays while the command runs (R247, R249). -/
def Job.copyFor (j : Job) (id : CmdId) (t : Nat) : Option Nat :=
  if j.copyReads.contains (t, id) then (j.residency.find? fun r => r.tensor == t).bind (·.copyBase) else none

/-- A job as a running command reads it: of each managed tensor, the copy that was valid at the command's start (R247). -/
def Job.readBy (j : Job) (id : CmdId) : Job :=
  { j with residency := j.residency.map fun r => { r with valid := j.copyReads.contains (r.tensor, id) } }

end Sys2Proof.Machine

namespace Sys2Proof

open Sys2Proof.Machine

/-- The placement that an entry of a placement table gives. -/
def RemotePlace.placement (p : RemotePlace) : Placement :=
  match p.bases with
  | [b] => .flat b
  | bs => if p.planar then .planes (bs.getD 0 0) (bs.getD 1 0) else .stripes bs

end Sys2Proof

namespace Sys2Proof.Machine

/-- What a look-up of an operand's place finds. -/
inductive Found where
  | ok (v : View)
  | waits (rank : Nat)
  | missing
  deriving DecidableEq, Repr, Inhabited

/-- Looks up where an operand's tensor lies (R190, R221, R421, R432). -/
def Job.find (j : Job) (o : Opnd) : Found :=
  let t := o.desc.tensor
  let base : View := { o := o, fmt := o.desc.fmt, len := 0, place := .window 0 }
  if o.desc.remote && o.desc.rank != j.plan.rank then
    match j.placements.find? fun p => p.1 == o.desc.rank with
    | none => .waits o.desc.rank
    | some (_, ps) =>
      match ps.find? fun p => p.tensor == t with
      | some p => .ok { base with len := p.length, place := .tray (slotOf (j.plan.addrOf o.desc.rank)) p.placement }
      | none => .missing
  else
    match j.plan.gateways.find? fun g => g.proxy == t with
    | some g => .ok { base with len := g.length, place := .window g.window }
    | none =>
      match j.place? t with
      | some p => .ok { base with len := p.decl.bytes, place := .here p.place, copy := j.copyOf t, from_ := j.copyOf t }
      | none => .missing

/-! ### Addressing (R191) -/

/-- Σ i_k × STRIDE_k over the dimensions from `k` on. -/
def strideSum : List Nat → List DimRec → Int
  | i :: is, r :: rs => (i : Int) * r.stride + strideSum is rs
  | _, _ => 0

/-- The block that holds an element (R191). -/
def Desc.blockNo (d : Desc) (idx : List Nat) : Int :=
  (idx.headD 0 / 32 : Nat) + strideSum (idx.drop 1) (d.used.drop 1)

/-- The byte offset of the scale byte of a block: AUX_BASE, or for a SPARSE24 operand of an MX format the
place the manual leaves open (log 42). -/
def Desc.scaleBase (d : Desc) : Nat := if d.sparse24 then Config.sparseScalePlane d.auxBase d.tensor else d.auxBase

/-- The byte offsets of the block `b`: its element plane, and its scale byte. -/
def Desc.blockOffs (d : Desc) (b : Int) : List Int :=
  (List.range d.fmt.blockBytes).map (fun i => d.base + d.fmt.blockBytes * b + i) ++
    (if d.fmt.isMx then [(d.scaleBase : Int) + b] else [])

/-- The byte offsets that hold an element (R191). -/
def Desc.elemOffs (d : Desc) (idx : List Nat) : List Int :=
  if d.fmt.isBlock then d.blockOffs (d.blockNo idx)
  else (List.range d.fmt.size).map fun i => d.base + d.fmt.size * strideSum idx d.used + i

/-- The linear index of the first element that is out of bounds (R196). -/
def View.firstBad (v : View) : List (List Nat) → Option Nat
  | [] => none
  | i :: is =>
    if (v.d.elemOffs i).all fun o => 0 ≤ o && o < v.len then v.firstBad is else some (v.d.linear i)

/-- The locations that hold an element. -/
def View.locs (v : View) (idx : List Nat) : List Nat := (v.d.elemOffs idx).map fun o => v.loc o.toNat

/-- The operand in its valid copy. -/
def View.inCopy (v : View) : View :=
  match v.copy with
  | some b => { v with place := .here (.flat b) }
  | none => v

/-- For a read of a tensor from its copy: the same element in the copy (R247). -/
def View.forRead (v : View) : View :=
  match v.from_ with
  | some b => { v with place := .here (.flat b) }
  | none => v

/-! ### Reading elements -/

/-- The bytes at given offsets of a region. -/
def View.fetch (v : View) (rd : Nat → Byte) (offs : List Int) : Bytes := offs.map fun o => rd (v.loc o.toNat)

/-- The exact value of an element (R81, R83, R87). -/
def View.value (v : View) (rd : Nat → Byte) (idx : List Nat) : Val :=
  let bs := v.fetch rd (v.d.elemOffs idx)
  match v.fmt with
  | .int8 => Val.ofInt (signedOf 8 (leNat bs))
  | .int32 => Val.ofInt (signedOf 32 (leNat bs))
  | f =>
    if f.isBlock then
      (Block.ofBytes f (bs.take f.blockBytes) (bs.getD f.blockBytes 0#8).toNat).value f (idx.headD 0 % 32)
    else f.layout.decode (leNat bs)

/-- An element of an integer tensor. -/
def View.int (v : View) (rd : Nat → Byte) (idx : List Nat) : Int :=
  signedOf (8 * v.fmt.size) (leNat (v.fetch rd (v.d.elemOffs idx)))

/-- Widens to FP32 (R95): the bits, and whether a finite value lay beyond the FP32 range. -/
def widen (x : Val) : BitVec 32 × Bool :=
  let b := rnd32 x
  (b, !x.nonfinite && nonfinite32 b)

/-- The integer that an integer element's value is. -/
def Val.toInt : Val → Int
  | .fin s m e => if 0 ≤ e then signed s (m <<< e.toNat) else signed s (m >>> (-e).toNat)
  | _ => 0

/-! ### Writing elements -/

/-- What a write produces: byte writes, what the encoding counts, and the bytes of partly written blocks
that it reads. -/
structure Put where
  writes : List (Nat × Byte) := []
  counts : Counts := {}
  reads : List Nat := []
  deriving DecidableEq, Repr, Inhabited

def Put.add (a b : Put) : Put := ⟨a.writes ++ b.writes, a.counts.add b.counts, a.reads ++ b.reads⟩

/-- Bytes written at byte offsets of a region, and at the valid Tier A copy (R247). -/
def View.writesAt (v : View) (offs : List Int) (bs : Bytes) : List (Nat × Byte) :=
  (offs.zip bs).flatMap fun (o, b) =>
    (v.loc o.toNat, b) :: match v.copy with
      | some c => [(c + o.toNat, b)]
      | none => []

/-- Writes one element of a scalar or integer destination (R97, R98). -/
def View.putScalar (v : View) (c : Conv) (u : Nat → Nat) (idx : List Nat) (x : Val) : Put :=
  let offs := v.d.elemOffs idx
  if v.fmt.isInt then
    let (code, sat) := convertInt v.fmt x.toInt
    { writes := v.writesAt offs (leBytes v.fmt.size code), counts := { saturated := if sat then 1 else 0 } }
  else
    let r := v.fmt.layout.convert c (u (v.d.linear idx)) x
    { writes := v.writesAt offs (leBytes v.fmt.size r.code)
      counts := { saturated := if r.saturated then 1 else 0, nonfinite := if r.nonfinite then 1 else 0 } }

/-- Writes one block: the new values at the given positions, the stored value elsewhere within EXTENT0,
+0 beyond it (R84, R204). `key` is the block's index with the block number in dimension 0. -/
def View.putBlock (v : View) (rd : Nat → Byte) (c : Conv) (u : Nat → Nat) (key : List Nat)
    (vals : List (Nat × Val)) : Put :=
  let first := 32 * key.headD 0
  let at_ (e : Nat) : List Nat := (first + e) :: key.drop 1
  let old (e : Nat) : Val := v.value rd (at_ e)
  let new (e : Nat) : Option Val := ((vals.reverse).find? fun p => p.1 == e).map (·.2)
  let xs := (List.range 32).map fun e =>
    if v.d.ext 0 ≤ first + e then .zero else (new e).getD (old e)
  let offs := v.d.elemOffs (at_ 0)
  let partly := (List.range 32).any fun e => first + e < v.d.ext 0 && (new e).isNone
  let (b, n) := encodeBlock v.fmt c (fun e => u (v.d.linear (at_ e))) xs
  { writes := v.writesAt offs (b.plane v.fmt ++ if v.fmt.isMx then [BitVec.ofNat 8 b.scale] else [])
    counts := n
    reads := if partly then v.locs (at_ 0) else [] }

/-- Writes elements (R95–R104, R195, R204). For an element written twice the later value stands. -/
def View.put (v : View) (rd : Nat → Byte) (c : Conv) (u : Nat → Nat) (vals : List (List Nat × Val)) : Put :=
  if v.fmt.isBlock then
    let keyOf (i : List Nat) : List Nat := (i.headD 0 / 32) :: i.drop 1
    let keys := (vals.map fun p => keyOf p.1).eraseDups
    keys.foldl (fun a k =>
      a.add (v.putBlock rd c u k
        ((vals.filter fun p => keyOf p.1 == k).map fun p => (p.1.headD 0 % 32, p.2)))) {}
  else vals.foldl (fun a p => a.add (v.putScalar c u p.1 p.2)) {}

/-- Splits elements that wait to be written into those that can be and those of a block that lacks values still: a
block is encoded once, from its 32 source values (R102). -/
def View.ripe (v : View) (vals : List (List Nat × Val)) : List (List Nat × Val) × List (List Nat × Val) :=
  if v.fmt.isBlock then
    vals.partition fun p => (List.range 32).all fun e =>
      let i := 32 * (p.1.headD 0 / 32) + e
      v.d.ext 0 ≤ i || vals.any fun q => q.1 == i :: p.1.drop 1
  else (vals, [])

/-- The locations of every byte of a box of elements. -/
def View.boxLocs (v : View) (box : List (Nat × Nat)) : List Nat := (boxIdx box).flatMap v.locs

/-- The draw by which a job's device streams read their random words (R345, R347). -/
def Job.draw (j : Job) (tensor : Nat) : Draw :=
  ⟨j.plan.seed, j.step.toNat, if Config.roleIn ≤ tensor then Config.roleDraw tensor else tensor⟩

/-- The SR words of a destination's elements (R100, R347). -/
def Job.srWord (j : Job) (d : Desc) : Nat → Nat := (j.draw d.tensor).conv

/-! ### Overlapping destinations (R197, R198, R522) -/

/-- The byte offset of the metadata code of group `q` of column `n` of a 2:4 operand (R156). -/
def Desc.codeOff (d : Desc) (q n : Nat) : Nat := d.auxBase + (n * (d.ext 0 / 4) + q) / 2

/-- The bytes of an own extent, as offsets in the region; of a 2:4 operand the kept values and the metadata
codes of its groups. -/
def Desc.ownOffs (d : Desc) : List Int :=
  if d.sparse24 then
    (boxIdx d.ownBox).flatMap fun i =>
      let k := i.headD 0
      let rest := i.drop 1
      if k % 4 = 0 then
        d.elemOffs ((k / 2) :: rest) ++ d.elemOffs ((k / 2 + 1) :: rest) ++ [(d.codeOff (k / 4) (rest.headD 0) : Int)]
      else []
  else (boxIdx d.ownBox).flatMap d.elemOffs

/-- The byte range of an own extent, as offsets in the region. -/
def Desc.byteRange (d : Desc) : Nat × Nat :=
  let os := d.ownOffs
  match os with
  | [] => (0, 0)
  | o :: _ => ((os.foldl min o).toNat, (os.foldl max o).toNat)

/-- Whether two boxes meet in every dimension. -/
def boxesMeet (a b : List (Nat × Nat)) : Bool :=
  (a.zip b).all fun (x, y) => x.1 < y.1 + y.2 && y.1 < x.1 + x.2

/-- A descriptor as the rank `own` resolves it: REMOTE = 1 with its own rank names its own tensor (R190). -/
def Desc.seenBy (d : Desc) (own : Nat) : Desc := if d.remote && d.rank == own then { d with remote := false, rank := 0 } else d

/-- Whether two registered own extents overlap (R197). Different tensors share no byte (log 43). -/
def Registered.overlaps (a b : Registered) : Bool :=
  let same := a.job == b.job && a.desc.tensor == b.desc.tensor && a.desc.remote == b.desc.remote &&
    a.desc.rank == b.desc.rank
  let layout := a.desc.format == b.desc.format && a.desc.base == b.desc.base &&
    a.desc.auxBase == b.desc.auxBase && a.desc.used.map (·.stride) == b.desc.used.map (·.stride)
  same && (if layout then boxesMeet a.desc.ownBox b.desc.ownBox else a.lo ≤ b.hi && b.lo ≤ a.hi)

/-- Whether the own extents of two operands of the rank `own` share a byte (R522). -/
def Opnd.shares (own : Nat) (a b : Opnd) : Bool :=
  let d := a.desc.seenBy own
  let e := b.desc.seenBy own
  d.tensor == e.tensor && d.remote == e.remote && d.rank == e.rank &&
    (let x := a.desc.ownOffs
     b.desc.ownOffs.any fun o => x.contains o)

/-! ### Row masks (R523) -/

/-- Whether row `i` is fed: the mask's bit, or true when no mask is named. -/
def fedRow (mask : Option View) (rd : Nat → Byte) (i : Nat) : Bool :=
  match mask with
  | none => true
  | some v => (v.int rd [i / 8]).emod 256 / 2 ^ (i % 8) % 2 = 1

/-- The locations of the mask bytes of `rows` rows. -/
def maskLocs (mask : Option View) (rows : Nat) : List Nat :=
  match mask with
  | none => []
  | some v => (List.range ((rows + 7) / 8)).flatMap fun i => v.locs [i]

end Sys2Proof.Machine
end

