-- ==== Sys2Proof/Machine/Ties.lean ====
section
/-!
DEFINITION. Ties (R359–R378), and the completion of a command, which raises its signal ties, may
release waiting commands and so complete further ones (R49, R52, R56–R58, R315).
-/

namespace Sys2Proof.Machine

/-! ### References (R359–R361) -/

def noTie : Nat := 0xFFFFFFFF
def tieLevel (r : Nat) : Nat := r / 2 ^ 29
def tieSide (r : Nat) : Nat := r / 2 ^ 27 % 4
def tieStake (r : Nat) : Nat := r / 2 ^ 21 % 64
def tieIndex (r : Nat) : Nat := r % 4096

/-- The global logical stake of a stake tie. -/
def tieLogical (r : Nat) : Nat := 56 * tieSide r + tieStake r

/-- Whether a logical stake is present (R39). -/
def Mod.present (m : Mod) (logical : Nat) : Bool := ((m.stakeMap.getD logical none).isSome)

/-- Whether a logical stake is on its way to a spare (R40). -/
def Mod.inMove (m : Mod) (l : Nat) : Bool := m.ribs.any fun r => (r.moving.map (·.1)) == some l

/-- A logical stake that no work runs on: its state moves, or its stake left service and it waits for its spare (R464, R469). -/
def Mod.movingStake (m : Mod) (l : Nat) : Bool := m.inMove l || ((m.stakeMap.getD l none).any m.outOfService.contains)

/-- The fields of a reference lie within Table 12.1 and its stake is present (R359, R360). -/
def Mod.tieInRange (m : Mod) (r : Nat) : Bool :=
  match tieLevel r with
  | 0 => tieStake r < 56 && tieIndex r < 512 && m.present (tieLogical r)
  | 1 => tieStake r == 0
  | 2 => tieSide r == 0 && tieStake r == 0 && tieIndex r < 1024
  | _ => false

def Plan.declaresTie (p : Plan) (r : Nat) : Bool := p.ties.any fun t => t.ref == r

/-- A local reference that the job may use (R360). -/
def Mod.tieOk (m : Mod) (p : Plan) (r : Nat) : Bool := m.tieInRange r && p.declaresTie r

/-- A tie in a 64-bit payload field (R361): whether it is far, the rank, the local reference. A far
reference that names this module's own rank acts as a local one. -/
structure TieRef where
  far : Bool
  rank : Nat
  ref : Nat
  deriving DecidableEq, Repr, Inhabited

def Plan.tieRef (p : Plan) (w : Nat) : TieRef :=
  let far := w / 2 ^ 63 % 2 = 1
  let rank := w / 2 ^ 32 % 65536
  { far := far && rank != p.rank, rank := rank, ref := w % 2 ^ 32 }

/-- Whether a payload tie reference is valid at receipt (R360, R361). A far tie's declaration is checked by
its own module (R374). -/
def Mod.payloadTieOk (m : Mod) (p : Plan) (w : Nat) : Bool :=
  let far := w / 2 ^ 63 % 2 = 1
  let rank := w / 2 ^ 32 % 65536
  let r := w % 2 ^ 32
  if !far then rank == 0 && m.tieOk p r
  else if p.ranks ≤ rank then false
  else if rank = p.rank then m.tieOk p r
  else
    match tieLevel r with
    | 0 => tieStake r < 56 && tieIndex r < 512
    | 1 => tieStake r == 0
    | 2 => tieSide r == 0 && tieStake r == 0 && tieIndex r < 1024
    | _ => false

/-! ### The state word's operations (R364–R366) -/

/-- COUNT mode: releases oldest waiters while VALUE allows; gives the value, the waiters left, and the
released ones with VALUE right after each release (R364). -/
def countServe : Nat → List Waiter → Nat × List Waiter × List (Waiter × Nat)
  | v, [] => (v, [], [])
  | v, w :: ws =>
    if w.t ≤ v then
      let (v', rest, rel) := countServe (v - w.t) ws
      (v', rest, (w, v - w.t) :: rel)
    else (v, w :: ws, [])

/-- Serves a tie's waiters in its own mode (R364, R365). -/
def Tie.serve (t : Tie) : Tie × List (Waiter × Nat) :=
  if t.level then
    ({ t with waiters := t.waiters.filter fun w => t.value < w.t },
      (t.waiters.filter fun w => w.t ≤ t.value).map fun w => (w, t.value))
  else
    let (v, rest, rel) := countServe t.value t.waiters
    ({ t with value := v, waiters := rest }, rel)

/-- Adds a signed amount with the clamps of R366; tells whether it clamped. -/
def Tie.add (t : Tie) (amount : Int) : Tie × Bool :=
  let x := (t.value : Int) + amount
  if x < 0 then ({ t with value := 0, underflow := true }, true)
  else if 2 ^ 32 ≤ x then ({ t with value := 2 ^ 32 - 1, overflow := true }, true)
  else ({ t with value := x.toNat }, false)

/-- TIE_SIGNAL RESET (R366). -/
def Tie.reset (t : Tie) (value : Nat) : Tie :=
  { t with value := value, overflow := false, underflow := false, abandoned := false }

def Mod.tie? (m : Mod) (r : Nat) : Option Tie := m.ties.find? fun t => t.ref == r

def Mod.setTie (m : Mod) (t : Tie) : Mod :=
  { m with ties := m.ties.map fun o => if o.ref == t.ref then t else o }

/-! ### Completion -/

/-- What is still to happen: an addition at a tie, service of a tie's waiters, the end of a command. -/
inductive Todo where
  | add (ref : Nat) (amount : Int)
  | serve (ref : Nat)
  | done (id : CmdId) (st : Status) (detail : Nat) (payload : Bytes)
  deriving DecidableEq, Repr

/-- Removes a command's waiters from every local tie; the ties whose oldest waiter may have changed. -/
def Mod.dropWaiters (m : Mod) (id : CmdId) : Mod × List Nat :=
  let mine (w : Waiter) : Bool :=
    match w.who with
    | .cmd i _ => i == id
    | _ => false
  ({ m with ties := m.ties.map fun t => { t with waiters := t.waiters.filter fun w => !mine w } },
    (m.ties.filter fun t => t.waiters.any mine).map (·.ref))

/-- The reply to a command (R56). -/
def Cmd.reply (c : Cmd) (now : Tick) (st : Status) (detail : Nat) (sum : Summary) (payload : Bytes) : Reply :=
  { dst := c.pkt.src, dup := false, major := c.op.major, variant := c.op.variant, job := c.pkt.job.toNat
    inc := c.pkt.inc.toNat, queue := c.pkt.queue.toNat, seq := c.pkt.seq.toNat, status := st
    detail := detail, handle := c.pkt.handle.toNat, doneTime := now, counters := sum, payload := payload }

/-- Sends a reply, signed under its session's key (R46): QUIET suppresses one whose status is OK (R526); it counts in its
session (R45). A session that has ended has no key to sign a reply with. -/
def Mod.sendReply (m : Mod) (sid : Nat) (quiet : Bool) (r : Reply) : Mod :=
  if quiet && r.status == .ok then m
  else match m.session? sid with
    | none => m
    | some ss => (m.emit (.reply (r.signed ss.key))).updSession sid fun s => { s with outPkts := s.outPkts + 1 }

/-- Enters a reply into the store of the last 256 of its lane (R53). -/
def Mod.storeReply (m : Mod) (l : Lane) (r : Reply) : Mod :=
  m.updLane l fun s => { s with replies := lastN 256 (s.replies ++ [(r.seq, r)]) }

/-- The local verdict bits that a command's end sets (R315). -/
def LocalVerdict.after (v : LocalVerdict) (st : Status) (sum : Summary) : LocalVerdict :=
  { degraded := v.degraded || st == .okDegraded
    spoiled := v.spoiled || (st.cls == .failure && st != .nonfinite)
    nonfinite := v.nonfinite || st == .nonfinite || sum.nonfinite != 0 }

/-- The signals that a command's success raises (R49, R216). -/
def Cmd.signals (c : Cmd) (segmented : Bool) : List Todo :=
  let s0 := c.pkt.sig0.toNat
  let s1 := c.pkt.sig1.toNat
  (if s0 = noTie || segmented then [] else [.add s0 1]) ++ (if s1 = noTie then [] else [.add s1 1])

/-- Ends the command at the head of a lane: reply, reply store, job counters (R573), local verdict
(R315), trace, registry (R197), waiters. -/
def Mod.finish (m : Mod) (id : CmdId) (st : Status) (detail : Nat) (payload : Bytes) : Mod × List Todo :=
  match m.cmd? id with
  | none => (m, [])
  | some r =>
    let c := r.cmd
    let rep := c.reply m.timer st detail r.sum payload
    let segmented := match r.work with
      | .segments .. => c.pkt.segSignal || c.pkt.groupSignal
      | _ => false
    let m := (m.updLane id.lane fun s => { s with current := none }).storeReply id.lane rep
    let m := m.sendReply c.sid c.pkt.quiet rep
    let m := m.updJob c.job fun j =>
      { j with
        local_ := j.local_.after st r.sum
        counters := ((((j.counters.bump .NONFINITE r.sum.nonfinite).bump .UNDERFLOW r.sum.underflow).bump
          .CORRECTED r.sum.corrected).bump .SATURATED r.sum.saturated)
        copyReads := j.copyReads.filter fun p => p.2 != id }
    let m := { m with registry := m.registry.filter fun x => x.id != id }.wakeThreads (fun ph => ph == ThreadPhase.access id)
    let m := m.trace_ { time := 0, kind := 2, job := c.job, inc := c.pkt.inc.toNat
                        queue := c.pkt.queue.toNat, seq := c.pkt.seq.toNat, arg0 := st.code, arg1 := detail }
    let (m, served) := m.letGo.dropWaiters id
    (m, served.map .serve ++ if st.signals then c.signals segmented else [])

/-- A waiter is released: a header wait may make its command ready, a TIE_WAIT completes with VALUE, a thread becomes ready,
a far waiter's release is sent (R24, R49, R367–R374). -/
def Mod.release (m : Mod) (ref : Nat) (w : Waiter) (value : Nat) : Mod × List Todo :=
  match w.who with
  | .cmd id slot =>
    match m.cmd? id with
    | none => (m, [])
    | some r =>
      match r.work with
      | .ties left =>
        let left' := left.filter fun p => p != (ref, slot)
        (m.setWork id.lane (if left'.isEmpty then .ready else .ties left'), [])
      | .tieWait _ => (m, [.done id .ok 0 (leBytes 8 value)])
      | _ => (m, [])
  | .thread l t => (m.wakeThread l t, [])
  | .far rank id => ({ m with farWaiters := m.farWaiters - 1 }.emit (.farRelease rank id value), [])

/-- Releases a list of waiters in order. -/
def Mod.releaseAll (m : Mod) (ref : Nat) : List (Waiter × Nat) → Mod × List Todo
  | [] => (m, [])
  | (w, v) :: ws =>
    let (m, t) := m.release ref w v
    let (m, ts) := m.releaseAll ref ws
    (m, t ++ ts)

/-- Serves the waiters of one tie. -/
def Mod.serveTie (m : Mod) (ref : Nat) : Mod × List Todo :=
  match m.tie? ref with
  | none => (m, [])
  | some t =>
    let (t', rel) := t.serve
    (m.setTie t').releaseAll ref rel

/-- An addition reaches a tie's home (R366, R376). -/
def Mod.addTie (m : Mod) (ref : Nat) (amount : Int) : Mod × List Todo :=
  match m.tie? ref with
  | none => (m, [])
  | some t =>
    if t.abandoned then (m.countJob t.job .TIE_SIGNALS_DISCARDED, [])
    else
      let (t', clamped) := t.add amount
      let m := m.countJob t.job .TIE_SATURATIONS (if clamped then 1 else 0)
      (m.setTie t', [.serve ref])

/-- Works off a list of what is still to happen. -/
def Mod.settleFuel : Nat → Mod → List Todo → Mod
  | 0, m, _ => m
  | _ + 1, m, [] => m
  | n + 1, m, t :: ts =>
    let (m', more) := match t with
      | .add ref a => m.addTie ref a
      | .serve ref => m.serveTie ref
      | .done id st d p => m.finish id st d p
    settleFuel n m' (ts ++ more)

/-- Works off everything: each lane's command ends at most once, and each end, addition and service adds a
bounded number of entries. -/
def Mod.settle (m : Mod) (ts : List Todo) : Mod :=
  m.settleFuel (2 * ts.length + 16 * (m.lanes.length + 1)) ts

/-- Completes the command at the head of a lane (R52, R58). -/
def Mod.complete (m : Mod) (id : CmdId) (st : Status) (detail : Nat) (payload : Bytes := []) : Mod :=
  m.settle [.done id st detail payload]

/-- Completes several commands with one status. -/
def Mod.completeAll (m : Mod) (ids : List CmdId) (st : Status) (detail : Nat) : Mod :=
  m.settle (ids.map fun i => .done i st detail [])

/-- Adds to a local tie. -/
def Mod.signalTie (m : Mod) (ref : Nat) (amount : Int) : Mod :=
  if ref = noTie then m else m.settle [.add ref amount]

/-! ### Waiting -/

/-- Registers a waiter and serves its tie (R364, R365). -/
def Mod.addWaiter (m : Mod) (ref : Nat) (w : Waiter) : Mod :=
  match m.tie? ref with
  | none => m
  | some t => (m.setTie { t with waiters := t.waiters ++ [w] }).settle [.serve ref]

/-- Removes a waiter and serves its tie (R364, R369). -/
def Mod.removeWaiter (m : Mod) (ref : Nat) (who : WaiterId) : Mod :=
  match m.tie? ref with
  | none => m
  | some t => (m.setTie { t with waiters := t.waiters.filter fun w => w.who != who }).settle [.serve ref]

/-! ### Abandoned ties (R375, R376) -/

/-- What ends when a waiter is released with status ABANDONED. -/
def Mod.abandonWaiter (m : Mod) (ref : Nat) (w : Waiter) : Mod × List Todo :=
  match w.who with
  | .cmd id _ => (m, [.done id .abandoned ref []])
  | .thread l t => (m.wakeThread l t, [])
  | .far rank id =>
    ({ m with farWaiters := m.farWaiters - 1 }.emit (.farAnswer rank id .abandoned), [])

/-- Sets ABANDONED on the ties that `p` picks and releases their waiters with that status. -/
def Mod.abandonTies (m : Mod) (p : Tie → Bool) : Mod :=
  let ws := (m.ties.filter p).flatMap fun t => t.waiters.map fun w => (t.ref, w)
  let m := { m with ties := m.ties.map fun t => if p t then { t with abandoned := true, waiters := [] } else t }
  let (m, todo) := ws.foldl (fun (acc : Mod × List Todo) x =>
    let (m', t) := acc.1.abandonWaiter x.1 x.2
    (m', acc.2 ++ t)) (m, [])
  m.settle todo

/-- Sets a job's ties to their declared initial values (R362). -/
def Mod.initTies (m : Mod) (p : Plan) : Mod :=
  let fresh := p.ties.map fun t =>
    ({ ref := t.ref, job := p.job, inc := p.inc, level := t.level, value := t.value } : Tie)
  { m with ties := m.ties.filter (fun t => t.job != p.job) ++ fresh }

/-- Sets a job's ties afresh as a PLAN_START of the QUIESCED job does; waiters that wait at them are then served, as after a
RESET (R362, R378). -/
def Mod.renewTies (m : Mod) (p : Plan) : Mod :=
  let renew (t : Tie) : Tie :=
    match p.ties.find? fun (d : TieDecl) => t.job == p.job && d.ref == t.ref with
    | some d => t.reset d.value
    | none => t
  { m with ties := m.ties.map renew }.settle (p.ties.map fun (d : TieDecl) => .serve d.ref)

/-! ### Commands on ties -/

/-- The timeout of the command at a lane's head has expired (R55). -/
def Mod.expired (m : Mod) (r : Running) : Bool := decide (r.headAt + r.cmd.pkt.timeoutTicks ≤ m.now)

/-- What a far request carries for a command (R374). -/
def farMsg (p : Plan) (id : CmdId) (ref : Nat) (reset : Bool) (amount : Int) (threshold : Nat) : FarMsg :=
  { rank := p.rank, id := id, job := p.job, inc := p.inc, ref := ref, reset := reset, amount := amount
    threshold := threshold }

/-- TIE_SIGNAL (R366, R372, R374, R376). -/
def Mod.startTieSignal (m : Mod) (id : CmdId) (c : Cmd) (j : Job) (reset : Bool) : Mod :=
  let t := j.plan.tieRef (c.pkt.u 0 8)
  let amount : Int := if reset then c.pkt.u 8 4 else leInt (c.pkt.payload.drop 8) 4
  if t.far then
    (m.sendReq (j.plan.addrOf t.rank) (.far t.rank (farMsg j.plan id t.ref reset amount 0) false)).setWork id.lane .farSignal
  else
    match m.tie? t.ref with
    | none => m.complete id .badDescriptor 0x40
    | some tie =>
      if reset then (m.setTie (tie.reset amount.toNat)).settle [.serve t.ref, .done id .ok 0 []]
      else if tie.abandoned then
        (m.countJob tie.job .TIE_SIGNALS_DISCARDED).complete id .abandoned t.ref
      else m.settle [.add t.ref amount, .done id .ok 0 []]

/-- TIE_WAIT (R373, R374). -/
def Mod.startTieWait (m : Mod) (id : CmdId) (c : Cmd) (j : Job) : Mod :=
  let t := j.plan.tieRef (c.pkt.u 0 8)
  let threshold := c.pkt.u 8 4
  if t.far then
    (m.sendReq (j.plan.addrOf t.rank) (.far t.rank (farMsg j.plan id t.ref false 0 threshold) true)).setWork id.lane (.tieWait true)
  else
    match m.tie? t.ref with
    | none => m.complete id .badDescriptor 0x40
    | some tie =>
      if tie.abandoned then m.complete id .abandoned t.ref
      else (m.setWork id.lane (.tieWait false)).addWaiter t.ref ⟨.cmd id 2, threshold⟩

/-- TIE_DUMP's records (R377). -/
def tieRecords (ts : List Tie) : Bytes :=
  ts.flatMap fun t =>
    leBytes 16 (t.ref * 2 ^ 96 + ((t.waiters.head?.map (·.t)).getD 0) * 2 ^ 64 + t.word)

/-- TIE_DUMP (R377). -/
def Mod.startTieDump (m : Mod) (id : CmdId) (c : Cmd) : Mod :=
  let first := c.pkt.u 0 4
  let mine := sortBy (fun a b => a.ref ≤ b.ref) (m.ties.filter fun t => t.job == c.job && first ≤ t.ref)
  m.complete id .ok 0 (tieRecords (mine.take (c.pkt.u 4 2)))

/-! ### Far ties (R367, R369, R374) -/

/-- A far signal reaches the tie's module: checked against the job's plan, then applied. -/
def Mod.farSignal (m : Mod) (f : FarMsg) : Mod :=
  let answer (a : FarAnswer) (m : Mod) : Mod := m.emit (.farAnswer f.rank f.id a)
  if m.resettingFor f.job then m.turnAway (.far f.rank f)
  else match m.job? f.job with
  | none => answer .abandoned m
  | some j =>
    if j.plan.inc != f.inc then m.count .staleTraffic
    else if !m.tieOk j.plan f.ref then answer .badDescriptor m
    else
      match m.tie? f.ref with
      | none => answer .badDescriptor m
      | some t =>
        if f.reset then answer .ack ((m.setTie (t.reset f.amount.toNat)).settle [.serve f.ref])
        else if t.abandoned then answer .abandoned (m.countJob t.job .TIE_SIGNALS_DISCARDED)
        else answer .ack (m.settle [.add f.ref f.amount])

/-- A far wait reaches the tie's module: it takes an entry of the far-waiter table of 2,048, or is
refused when the table is full. -/
def Mod.farWait (m : Mod) (f : FarMsg) : Mod :=
  let answer (a : FarAnswer) (m : Mod) : Mod := m.emit (.farAnswer f.rank f.id a)
  if m.resettingFor f.job then m.turnAway (.far f.rank f)
  else match m.job? f.job with
  | none => answer .abandoned m
  | some j =>
    if j.plan.inc != f.inc then m.count .staleTraffic
    else if !m.tieOk j.plan f.ref then answer .badDescriptor m
    else
      match m.tie? f.ref with
      | none => answer .badDescriptor m
      | some t =>
        if t.abandoned then answer .abandoned m
        else if 2048 ≤ m.farWaiters then answer .tableFull m
        else
          { m with farWaiters := m.farWaiters + 1 }.addWaiter f.ref ⟨.far f.rank f.id, f.threshold⟩

/-- A withdrawal reaches the tie's home (R369); one of a stale incarnation is discarded (R62). -/
def Mod.farWithdraw (m : Mod) (f : FarMsg) : Mod :=
  match m.current? f.job f.inc with
  | none => m.count .staleTraffic
  | some _ =>
    match m.tie? f.ref with
    | none => m
    | some t =>
      if t.waiters.any fun w => w.who == .far f.rank f.id then
        ({ m with farWaiters := m.farWaiters - 1 }.removeWaiter f.ref (.far f.rank f.id)).emit
          (.farAnswer f.rank f.id .ack)
      else m

/-- A far command at this module and its reference, when it is one that waits on a far tie. -/
def Mod.farCmd? (m : Mod) (id : CmdId) : Option (Running × Plan × TieRef) :=
  match m.cmd? id with
  | none => none
  | some r =>
    match m.job? r.cmd.job with
    | none => none
    | some j =>
      match r.work with
      | .farSignal | .tieWait true | .farRetry | .farDecision _ =>
        some (r, j.plan, j.plan.tieRef (r.cmd.pkt.u 0 8))
      | _ => none

/-- A far release reaches the waiting module; one that comes too late is counted (R369). -/
def Mod.farReleased (m : Mod) (id : CmdId) (value : Nat) : Mod :=
  match m.farCmd? id with
  | some _ => m.complete id .ok 0 (leBytes 8 value)
  | none =>
    match m.lane? id.lane with
    | some s =>
      match s.replies.find? fun p => p.1 == id.seq with
      | some p => m.countJob p.2.job .TIE_FAR_LATE
      | none => m
    | none => m

/-- The home's answer to a far command (R374, R376). The acknowledgement of a withdrawal ends the command
with TIMEOUT (R369). -/
def Mod.farAnswered (m : Mod) (id : CmdId) (a : FarAnswer) : Mod :=
  match m.farCmd? id with
  | none => m
  | some (r, _, t) =>
    match r.work, a with
    | .farDecision _, .ack | .farDecision _, .tableFull =>
      m.complete id .timeout (tieTimeoutDetail true t.rank t.ref)
    | .farSignal, .ack => m.complete id .ok 0
    | _, .ack => m
    | .farSignal, .tableFull => m
    | _, .tableFull => m.setWork id.lane .farRetry
    | _, .badDescriptor => m.complete id .badDescriptor 0x40
    | _, .abandoned => m.complete id .abandoned t.ref

/-- A refused far wait is sent again (R374). -/
def Mod.farRetried (m : Mod) (id : CmdId) : Mod :=
  match m.farCmd? id with
  | some (r, p, t) =>
    if r.work = .farRetry then
      ((m.countJob p.job .TIE_FAR_RETRIES).sendReq (p.addrOf t.rank)
        (.far t.rank (farMsg p id t.ref false 0 (r.cmd.pkt.u 8 4)) true)).setWork id.lane (.tieWait true)
    else m
  | none => m

/-- No decision arrived within 1 ms of a far waiter's expiry (R369). -/
def Mod.farUndecided (m : Mod) (id : CmdId) : Mod :=
  match m.farCmd? id with
  | some (r, _, t) =>
    match r.work with
    | .farDecision until_ =>
      if until_ ≤ m.now then m.complete id .timeout (tieTimeoutDetail true t.rank t.ref) else m
    | _ => m
  | none => m

end Sys2Proof.Machine
end

