-- ==== Sys2Proof/Machine/Body.lean ====
section
/-!
DEFINITION. How a data command's effect reaches memory: the bytes it reads, through the common code
(R237, R238), tray space (R421–R426) and gateway windows (R432–R434), its writes and their
acknowledgements (R50, R370), its end (R525) and its row segments (R215–R217).
-/

namespace Sys2Proof.Machine

/-- What a data command does: the locations it reads, stage by stage (a later stage may depend on the bytes
of an earlier one), what it writes and counts, further non-finite values counted (R95), job counters, how
it fails, after how many of its stages it knows that (none: after all of them), and its reply payload. A command that
fails writes nothing. -/
structure Effect where
  stages : List (List Nat) := []
  put : Put := {}
  nonfinite : Nat := 0
  ctrs : List (Ctr × Nat) := []
  fail : Option (Status × Nat × Bytes) := none
  failAt : Option Nat := none
  payload : Bytes := []
  deriving DecidableEq, Repr, Inhabited

/-! ### Reading -/

/-- The byte of a gateway window as the job's read blocks hold it (R434). -/
def Job.windowByte (j : Job) (a : Nat) : Byte :=
  let w := (a - 2 ^ 62) / 2 ^ 48
  let o := (a - 2 ^ 62) % 2 ^ 48
  match j.readBlocks.find? fun b => b.window == w && b.block == o / 65536 with
  | some b => ((b.data.find? fun p => p.1 == o % 65536).map (·.2)).getD 0#8
  | none => 0#8

/-- The bytes that a command reads: local memory, bytes from elsewhere that it holds, gateway read blocks. -/
def Mod.reader (m : Mod) (j : Job) (got : List (Nat × Byte)) (a : Nat) : Byte :=
  if isLocal a then m.byte a
  else match got.find? fun p => p.1 == a with
  | some p => p.2
  | none => if isTray a then 0#8 else j.windowByte a

/-- The locations that are not on this module yet. -/
def Job.missing (j : Job) (got : List (Nat × Byte)) (locs : List Nat) : List Nat :=
  (locs.filter fun a =>
    if isTray a then !(got.any fun p => p.1 == a)
    else if isWin a then
      !(got.any fun p => p.1 == a) && !(j.readBlocks.any fun b => b.window == (a - 2 ^ 62) / 2 ^ 48 && b.block == (a - 2 ^ 62) % 2 ^ 48 / 65536)
    else false).eraseDups

/-- The aligned 4-byte words of tray locations: the transfer engines move REMOTE bytes in tray operations
of SIZE 0 (log 44). -/
def trayWords (locs : List Nat) : List Nat := (locs.map fun a => (a - 2 ^ 60) / 4 * 4).eraseDups

/-- The rank of a job whose module stands at a SLOT of this module's tray. -/
def Plan.rankAt (p : Plan) (slot : Nat) : Nat :=
  ((List.range p.ranks).find? fun r => sameTray (p.addrOf p.rank) (p.addrOf r) && slotOf (p.addrOf r) == slot).getD 0

/-- Issues one tray operation for a command (R422). -/
def Mod.issueTray (m : Mod) (j : Job) (id : CmdId) (op : TrayOp) (size : Nat) (fetch : Bool) (addr : Nat)
    (operand : Bytes) (into : Option Nat) : Mod :=
  let rank := j.plan.rankAt (addr / 2 ^ 48)
  let m := { m with
    nextTag := m.nextTag + 1
    trayOps := m.trayOps.concat { tag := m.nextTag, id := id, job := j.plan.job, rank := rank, op := op
                                  addr := addr, size := size, into := into } }
  m.sendReq (j.plan.addrOf rank) (.trayRequest (j.plan.addrOf rank) op
    { src := m.modAddr, job := j.plan.job, tag := m.nextTag - 1, size := size, fetch := fetch
      addr := BitVec.ofNat 52 addr, operand := operand })

/-- Flushes the open staging blocks of a job that `p` picks (R433). -/
def Mod.flushBlocks (m : Mod) (job : Nat) (p : GatewayBlock → Bool) : Mod :=
  match m.job? job with
  | none => m
  | some j =>
    let bs := j.stageBlocks.filter fun b => !b.flushing && p b
    let m := bs.foldl (fun m b =>
      match j.plan.gateways.find? fun g => g.window == b.window with
      | some g => m.sendReq (j.plan.addrOf g.rank) (.gatewayFlush g.rank job g.tensor b.window b.block b.data)
      | none => m) m
    (m.updJob job fun j =>
      { j with stageBlocks := j.stageBlocks.map fun b => if !b.flushing && p b then { b with flushing := true } else b }).count
      .GATEWAY_FLUSHES bs.length

/-- The threads that run a command on its group's stakes wait for accesses that left the stake (R24). -/
def Mod.parkCommand (m : Mod) (j : Job) (id : CmdId) : Mod :=
  match id.lane with
  | .control _ => m
  | .queue q =>
    (((j.plan.groupOf q).map (·.stakes)).getD []).foldl (fun m l => m.parkThread l (Config.commandThread id % 8) (.access id)) m

/-- Asks for the locations that are missing and not asked for yet: LOADs of tray words, and fetches of
gateway blocks, whose open staging is flushed first (R434). -/
def Mod.ask (m : Mod) (j : Job) (id : CmdId) (locs : List Nat) : Mod :=
  let m := m.parkCommand j id
  let words := (trayWords (locs.filter isTray)).filter fun w =>
    !(m.trayOps.any fun t => t.id == id && t.into == some (trayLoc w))
  let m := words.foldl (fun m w => m.issueTray j id .load 0 false w [] (some (trayLoc w))) m
  let asked := ((m.job? j.plan.job).map fun j => j.fetching).getD []
  let lacked := ((locs.filter isWin).map fun a => ((a - 2 ^ 62) / 2 ^ 48, (a - 2 ^ 62) % 2 ^ 48 / 65536)).eraseDups
  let m := m.updJob j.plan.job fun j => { j with fetchers := (lacked.map fun b => (b, id)) ++ j.fetchers.filter fun f => f.2 != id }
  let blocks := lacked.filter fun b => !asked.contains b
  blocks.foldl (fun m wb =>
    let m := m.flushBlocks j.plan.job fun b => b.window == wb.1 && b.block == wb.2
    match j.plan.gateways.find? fun g => g.window == wb.1 with
    | some g =>
      let m := m.updJob j.plan.job fun j => { j with fetching := wb :: j.fetching }
      (m.sendReq (j.plan.addrOf g.rank) (.gatewayFetch g.rank j.plan.job g.tensor wb.1 wb.2)).count .GATEWAY_FETCHES
    | none => m) m

/-! ### The common code at a read (R237, R238) -/

/-- The unit and class of a fault log record about an address (R473, R474). -/
def Mod.memUnit (m : Mod) (a : Nat) : Nat × UnitRef × Nat :=
  match regionOf a with
  | .tierA _ => let p := hbmPlace a; (0x05, ⟨4, p.1⟩, p.2.1)
  | .tierB => let p := lpddrPlace a; (0x07, ⟨5, p.2.1⟩, p.2.2.1)
  | .stake l => (0x03, ⟨1, (m.stakeMap.getD l none).getD 0⟩, 0)
  | .rim s => (0x03, ⟨3, s⟩, 0)
  | _ => (0x03, ⟨15, 0⟩, 0)

/-- A syndrome as a number, row 0 lowest. -/
def Col.num (c : Col) : Nat := c.r0 + 16 * c.r1 + 256 * c.r2 + 4096 * c.r3

/-- The fault log record of a read that fails: of a lost channel or row, by its class, or of a word (R237, R442). -/
def Mod.logRead (m : Mod) (a : Nat) (lost : Option Nat) (c : Option Cmd) : Mod :=
  let (cls, unit, sub) := m.memUnit a
  m.addLog
    { time := 0, record := 0, cls := lost.getD cls, outcome := 2, unit := unit, sub := sub
      job := (c.map fun c => c.job).getD 0, inc := (c.map fun c => c.pkt.inc.toNat).getD 0
      queue := (c.map fun c => c.pkt.queue.toNat).getD 0, seq := (c.map fun c => c.pkt.seq.toNat).getD 0
      address := a, info0 := if lost.isSome then 0 else (syndrome (m.errorAt (granuleOf a))).num }

/-! ### Spare rows (R242) -/

/-- The extents of a placement. -/
def Placement.extents (p : Placement) (bytes : Nat) : List (Nat × Nat) :=
  match p with
  | .flat b => [(b, bytes)]
  | .stripes bs => bs.map fun b => (b, stripe)
  | .planes hi lo => [(hi, bytes / 2), (lo, bytes / 2)]

def TensorPlace.extents (t : TensorPlace) : List (Nat × Nat) := t.place.extents t.decl.bytes

/-- The job that holds an address: in its tensors, its arenas or its copy slots (R251). -/
def Mod.ownerOf (m : Mod) (a : Nat) : Option Nat :=
  let holds (e : Nat × Nat) : Bool := e.1 ≤ a && a < e.1 + e.2
  (m.jobs.find? fun j => j.arenas.any holds || j.places.any fun p => p.extents.any holds).map (·.plan.job)

def Mod.countOwner (m : Mod) (a : Nat) (k : Ctr) : Mod :=
  match m.ownerOf a with
  | some j => m.countJob j k
  | none => m

/-- The device of a row's channel: an HBM4 stack 0–11, or 100 and a package. -/
def rowDevice (r : Nat × Nat) : Nat := if r.1 < 1000 then 100 + r.1 / 4 else (r.1 - 1000) / 64

/-- Whether a channel's table of 32 spare rows is full. -/
def Mod.tableFull (m : Mod) (ch : Nat) : Bool := 32 ≤ m.rowTable.countP fun x => x.1 == ch

/-- A channel whose table is full while its device's repair resources are spent: Pholer writes a fault log record and asserts
ALERT_N (R242). -/
def Mod.sparesGone (m : Mod) (r : Nat × Nat) : Mod :=
  if m.tableFull r.1 && m.repairSpent.contains (rowDevice r) then
    let unit : UnitRef := if r.1 < 1000 then ⟨5, r.1 / 4⟩ else ⟨4, (r.1 - 1000) / 64⟩
    let sub := if r.1 < 1000 then r.1 else (r.1 - 1000) % 64 / 2
    (m.addLog { time := 0, record := 0, cls := 0x09, outcome := 6, unit := unit, sub := sub, info0 := 32 }).raiseCause 1
  else m

/-- A row goes to a spare row of its channel's table of 32. Behind a full table a row stays where it is; once the repair
resources are spent too, it is lost to every reader. -/
def Mod.moveRow (m : Mod) (a : Nat) : Mod :=
  match rowOf a with
  | none => m
  | some r =>
    if m.rowTable.contains r || m.deadRows.contains r then m
    else if m.tableFull r.1 then
      if m.repairSpent.contains (rowDevice r) then { m with deadRows := m.deadRows.concat r } else m
    else
      let (_, unit, sub) := m.memUnit a
      let used := m.rowTable.countP fun x => x.1 == r.1
      let m := { m with rowHits := m.rowHits.filter fun h => h.1 != r, rowTable := m.rowTable.concat r }
      (((m.addLog { time := 0, record := 0, cls := 0x09, outcome := 5, unit := unit, sub := sub, address := a, info0 := used }).countOwner
        a .ROWS_REMAPPED).count .SPARES_USED).sparesGone r

/-- A read uses the read blocks of gateway windows; the list of a job holds the least recently used first (R434). -/
def Mod.touchBlocks (m : Mod) (job : Nat) (locs : List Nat) : Mod :=
  let bs := ((locs.filter isWin).map fun a => ((a - 2 ^ 62) / 2 ^ 48, (a - 2 ^ 62) % 2 ^ 48 / 65536)).eraseDups
  if bs.isEmpty then m
  else m.updJob job fun j =>
    { j with readBlocks := (j.readBlocks.filter fun b => !bs.contains (b.window, b.block)) ++
        j.readBlocks.filter fun b => bs.contains (b.window, b.block) }

/-- Reads local locations for a command, over the meshes and seams to its stake (R236): corrected words are counted and written back to DRAM; an
uncorrectable word, or a channel out of service, gives the number of a fault log record, and such a word's row moves (R242). -/
def Mod.checkLocal (m : Mod) (c : Option Cmd) (locs : List Nat) : Mod × Nat × Option Nat :=
  let here := locs.filter isLocal
  let m := match c with
    | some c => m.touchBlocks c.job locs
    | none => m
  match here.find? fun a => m.badChannel a || m.deadRow a with
  | some a => (m.logRead a (some (if m.badChannel a then 0x08 else 0x09)) c, 0, some m.record)
  | none =>
    let gs := (here.map granuleOf).eraseDups
    let r := m.readCheck gs
    let dram := r.corrected.filter fun g => (channelOf (16 * g)).isSome
    let m' := m.scrubWords dram
    match r.bad with
    | some g => ((m'.logRead (16 * g) none c).moveRow (16 * g), r.corrected.length, some m'.record)
    | none => match c with
      | none => (m', r.corrected.length, none)
      | some c =>
        let (m', n, bad) := m'.crossFor c here
        (m', r.corrected.length + n, bad)

/-- A write to a channel that is out of service fails, as every access to it does: the number of its record (R238). -/
def Mod.checkWrite (m : Mod) (c : Option Cmd) (locs : List Nat) : Mod × Option Nat :=
  match locs.find? fun a => isLocal a && m.badChannel a with
  | some a => (m.logRead a (some 0x08) c, some m.record)
  | none => (m, none)

/-- Reads some locations for a command that then writes others. -/
def Mod.checkAccess (m : Mod) (c : Option Cmd) (reads writes : List Nat) : Mod × Nat × Option Nat :=
  let (m, corrected, bad) := m.checkLocal c reads
  if bad.isSome then (m, corrected, bad)
  else
    let (m, bad) := m.checkWrite c writes
    (m, corrected, bad)

/-- Notes which LPDDR6 channels a command reads, for the window of R443. -/
def Mod.noteReads (m : Mod) (id : CmdId) (job : Nat) (sweep : Bool) (locs : List Nat) : Mod :=
  let chans := ((locs.filter fun a => isLocal a && regionOf a == .tierB).map fun a =>
    (lpddrPlace a).2.2.1).eraseDups
  { m with channelReads := chans.map (fun c => (c, m.now, id, job, sweep)) ++ m.channelReads }

/-! ### Writing -/

/-- A store into a gateway window (R433): it opens the staging block or merges into it, and updates a
cached read block. -/
def Mod.stageByte (m : Mod) (job : Nat) (lane : Lane) (a : Nat) (v : Byte) : Mod :=
  let w := (a - 2 ^ 62) / 2 ^ 48
  let o := (a - 2 ^ 62) % 2 ^ 48
  let blk := o / 65536
  let off := o % 65536
  match m.job? job with
  | none => m
  | some j =>
    let isOpen (b : GatewayBlock) : Bool := b.window == w && b.block == blk && !b.flushing
    let m :=
      if j.stageBlocks.any isOpen then m
      else
        let opened := j.stageBlocks.filter fun b => b.window == w && !b.flushing
        let m := if 16 ≤ opened.length then
            m.flushBlocks job fun b => b.window == w && some b.block == (opened.head?.map (·.block))
          else m
        m.updJob job fun j =>
          { j with stageBlocks := j.stageBlocks.concat { window := w, block := blk, data := [] } }
    let put (d : List (Nat × Byte)) : List (Nat × Byte) := (off, v) :: d.filter fun p => p.1 != off
    let m := m.updJob job fun j =>
      { j with
        stageBlocks := j.stageBlocks.map fun b =>
          if isOpen b then { b with data := put b.data, lanes := (lane :: b.lanes).eraseDups } else b
        readBlocks := j.readBlocks.map fun b =>
          if b.window == w && b.block == blk then { b with data := put b.data } else b }
    m.flushBlocks job fun b => isOpen b && 65536 ≤ b.data.length

/-- Stores the writes of a command: local bytes, STOREs of whole tray words, gateway windows. -/
def Mod.land (m : Mod) (j : Job) (id : CmdId) (rd : Nat → Byte) (ws : List (Nat × Byte)) : Mod :=
  let m := m.store (ws.filter fun w => isLocal w.1)
  let tray := ws.filter fun w => isTray w.1
  let m := (trayWords (tray.map (·.1))).foldl (fun m w =>
    let data := (List.range 4).map fun i =>
      ((tray.reverse.find? fun p => p.1 == trayLoc (w + i)).map (·.2)).getD (rd (trayLoc (w + i)))
    m.issueTray j id .store 0 false w data none) m
  (ws.filter fun w => isWin w.1).foldl (fun m w => m.stageByte j.plan.job id.lane w.1 w.2) m

/-- The tray words that a command writes only in part, which it reads first. -/
def partWords (ws : List (Nat × Byte)) : List Nat :=
  let tray := (ws.filter fun w => isTray w.1).map (·.1)
  (trayWords tray).flatMap fun w =>
    let all := (List.range 4).map fun i => trayLoc (w + i)
    if all.all tray.contains then [] else all

/-- Whether every remote write of a command has been acknowledged (R50). -/
def Mod.acked (m : Mod) (id : CmdId) (job : Nat) : Bool :=
  !(m.trayOps.any fun t => t.id == id) &&
    (match m.job? job with
      | some j => !(j.stageBlocks.any fun b => b.lanes.contains id.lane)
      | none => true)

/-- Whether a command names a signal tie. -/
def Cmd.namesSignal (c : Cmd) : Bool := c.pkt.sig0.toNat != noTie || c.pkt.sig1.toNat != noTie

/-- The status with which a command that has written everything ends (R525). -/
def Running.ending (r : Running) : Status × Nat :=
  if r.cmd.pkt.nfFail && r.sum.nonfinite != 0 then (.nonfinite, r.sum.nonfinite) else (.ok, 0)

/-! ### Running an effect -/

/-- Adds what an effect counts to the command's summary and the job's counters. -/
def Mod.tally (m : Mod) (id : CmdId) (job : Nat) (e : Effect) : Mod :=
  let m := m.updSum id.lane fun s =>
    let s := s.counts e.put.counts
    { s with nonfinite := s.nonfinite + e.nonfinite }
  e.ctrs.foldl (fun m c => m.countJob job c.1 c.2) m

/-- What an effect reads, stage by stage: a command that fails reads no further than it must, and nothing of its
destination (R205). -/
def Effect.reads (e : Effect) : List (List Nat) :=
  match e.fail, e.failAt with
  | none, _ => e.stages ++ [e.put.reads]
  | some _, some n => e.stages.take n
  | some _, none => e.stages

/-- The first stage of an effect that needs bytes which are not on this module yet. -/
def Effect.needs (e : Effect) (j : Job) (got : List (Nat × Byte)) : Option (List Nat) :=
  ((e.reads ++ (if e.fail.isSome then [] else [partWords e.put.writes])).map (j.missing got)).find? fun l => !l.isEmpty

/-- The outcome of an effect's reads and writes. -/
inductive Ran where
  | waits (m : Mod)
  | failed (m : Mod) (st : Status) (detail : Nat) (payload : Bytes)
  | wrote (m : Mod)
  deriving Repr

/-- Runs an effect once: waits for bytes from elsewhere, fails, or writes (R196, R237, R425). A write to a channel that is
out of service fails as a read of it does (R238). -/
def Mod.runEffect (m : Mod) (id : CmdId) (r : Running) (j : Job) (got : List (Nat × Byte))
    (body : (Nat → Byte) → Effect) : Ran :=
  let rd := m.reader j got
  let e := body rd
  match e.needs j got with
  | some locs => .waits ((m.ask j id locs).setWork id.lane (.remote got false))
  | none =>
    let locs := e.reads.flatten
    let (m, corrected, bad) := m.checkAccess (some r.cmd) locs (if e.fail.isSome then [] else e.put.writes.map (·.1))
    let m := (m.updSum id.lane fun s => { s with corrected := s.corrected + corrected }).noteReads id r.cmd.job false locs
    match bad with
    | some n => .failed m .faultDetected n []
    | none =>
      match e.fail with
      | some (st, d, p) => .failed m st d p
      | none => .wrote ((m.land j id rd e.put.writes).tally id r.cmd.job e)

/-- Ends a command that has written everything, once its signals may rise (R50, R370). -/
def Mod.endBody (m : Mod) (id : CmdId) (got : List (Nat × Byte)) (payload : Bytes) : Mod :=
  match m.cmd? id with
  | none => m
  | some r =>
    if r.cmd.namesSignal && !m.acked id r.cmd.job then m.setWork id.lane (.remote got true)
    else
      let (st, d) := r.ending
      m.complete id st d payload

/-! ### Segments (R215–R217) -/

def segRows : Nat := 65536

/-- The number of segments of `rows` rows (R215). -/
def Cmd.segments (c : Cmd) (rows : Nat) : Nat :=
  if c.op.segOk && segRows < rows then (rows + segRows - 1) / segRows else 1

/-- The rows of segment `s`, as (first, end). -/
def segRange (rows s : Nat) : Nat × Nat := (segRows * s, min (segRows * (s + 1)) rows)

/-- Raises SIG0 for a segment that has completed (R216, R525). -/
def Mod.segmentSignal (m : Mod) (c : Cmd) (bad : Bool) : Mod :=
  if bad then m else m.signalTie c.pkt.sig0.toNat 1

end Sys2Proof.Machine
end

