-- ==== Sys2Proof/Machine/Pools.lean ====
section
/-!
DEFINITION. Withy pools (R379–R386): instances, requests, releases, reference counts, resets, and the
records of POOL_STAT.
-/

namespace Sys2Proof.Machine

/-- Bytes of a size class in 4 KiB units: 1, 16, 256 and 4,096 (R379). -/
def classUnits (c : Nat) : Nat := 16 ^ c

/-- FREE of a cell: withies that are not handed out. -/
def PoolCell.free (c : PoolCell) : Nat := c.total - c.busy.length

/-- The lowest `n` free withies from number `i` on, within `fuel` withies (R380). -/
def lowestFree (busy : List Nat) : Nat → Nat → Nat → List Nat
  | 0, _, _ => []
  | _, _, 0 => []
  | fuel + 1, i, n + 1 =>
    if busy.contains i then lowestFree busy fuel (i + 1) (n + 1) else i :: lowestFree busy fuel (i + 1) n

def PoolCell.is (c : PoolCell) (job pool place cls : Nat) : Bool :=
  c.job == job && c.pool == pool && c.place == place && c.cls == cls

def Mod.cell? (m : Mod) (job pool place cls : Nat) : Option PoolCell :=
  m.pools.find? fun c => c.is job pool place cls

def Mod.updCell (m : Mod) (job pool place cls : Nat) (f : PoolCell → PoolCell) : Mod :=
  { m with pools := m.pools.map fun c => if c.is job pool place cls then f c else c }

def Mod.poolState? (m : Mod) (job pool : Nat) : Option PoolState :=
  m.poolStates.find? fun s => s.job == job && s.pool == pool

/-- A requester's held bytes in 4 KiB units, summed over the pool's instances (Table 12.9). -/
def Mod.held (m : Mod) (job pool requester : Nat) : Nat :=
  ((m.pools.filter fun c => c.job == job && c.pool == pool).map fun c =>
    (c.busy.filter fun w => w.requester == requester).length * classUnits c.cls).sum

/-- What a request meets (R381, R382). -/
inductive Grant where
  | granted (withies : List Nat)
  | failed (st : Status) (detail : Nat)
  deriving DecidableEq, Repr, Inhabited

/-- A request decided in the order of R381. A requester number beyond the list has no quota (log 45). -/
def Mod.poolRequest (m : Mod) (job pool place cls n r0 requester : Nat) (head : Bool) : Mod × Grant :=
  let units := n * classUnits cls
  let who := ((m.poolState? job pool).map (·.requesters)).getD []
  let r := who[requester]?
  let quota := (r.map (·.quota)).getD 0
  let head := head && (r.map (·.head)).getD false
  let heldNow := m.held job pool requester
  match m.cell? job pool place cls with
  | none => (m, .failed .poolEmpty (poolEmptyDetail pool cls place n))
  | some c =>
    if quota < heldNow + units then
      (m.updCell job pool place cls fun c => { c with quotaFails := min ctrMax (c.quotaFails + 1) },
        .failed .quota (quotaDetail pool requester cls place (heldNow + units)))
    else if c.free < n ∨ (head = false ∧ c.free - n < c.reserve) then
      (m.updCell job pool place cls fun c => { c with emptyFails := min ctrMax (c.emptyFails + 1) },
        .failed .poolEmpty (poolEmptyDetail pool cls place n))
    else
      let ws := lowestFree (c.busy.map (·.index)) c.total 0 n
      (m.updCell job pool place cls fun c =>
        let c := { c with busy := c.busy ++ ws.map (fun i => (⟨i, r0, requester⟩ : Withy)) }
        { c with lowWater := min c.lowWater c.free, grants := min ctrMax (c.grants + n) },
        .granted ws)

/-- The fault log record of a misuse (R383, R388). -/
def Mod.logMisuse (m : Mod) (job : Nat) (unit : UnitRef) (sub : Nat) : Mod :=
  m.addLog { time := 0, record := 0, cls := 0x41, outcome := 2, unit := unit, sub := sub, job := job }

/-- RELEASE (R383). -/
def Mod.poolRelease (m : Mod) (job pool place cls index : Nat) : Mod :=
  match m.cell? job pool place cls with
  | none => m
  | some c =>
    if c.busy.any fun w => w.index == index then
      m.updCell job pool place cls fun c =>
        let lowered := c.busy.map fun w => if w.index == index then { w with refs := w.refs - 1 } else w
        { c with busy := lowered.filter fun w => w.refs != 0 }
    else (m.countJob job .POOL_BAD_RELEASE).logMisuse job ⟨if place < 4 then 3 else 9, place⟩ index

/-- ADD_REF (R383). -/
def Mod.poolAddRef (m : Mod) (job pool place cls index d : Nat) : Mod :=
  match m.cell? job pool place cls with
  | none => m
  | some c =>
    match c.busy.find? fun w => w.index == index with
    | none => m
    | some w =>
      if 65535 < w.refs + d then m.countJob job .POOL_REF_SATURATED
      else m.updCell job pool place cls fun c =>
        { c with busy := c.busy.map fun w => if w.index == index then { w with refs := w.refs + d } else w }

/-- Releases several withies of one cell. -/
def Mod.poolReleaseAll (m : Mod) (job pool place cls : Nat) (ws : List Nat) : Mod :=
  ws.foldl (fun m i => m.poolRelease job pool place cls i) m

/-- Frees every withy of the instances that `p` picks by place (R384). -/
def Mod.freePlaces (m : Mod) (p : Nat → Bool) : Mod :=
  { m with pools := m.pools.map fun c => if p c.place then { c with busy := [] } else c }

/-- The pool of a plan with a name (Table 12.7). -/
def Plan.poolNamed (p : Plan) (name : String) : Option PoolDecl := p.pools.find? fun d => d.name == name

/-- The index of a job's requester of an engine class; the number of requesters when there is none. -/
def Mod.requesterOf (m : Mod) (job pool engine : Nat) : Nat :=
  match m.poolState? job pool with
  | some s => s.requesters.findIdx fun r => r.job == job && r.engine == engine
  | none => 0

/-- The places of a pool's instances (Table 12.7). -/
def PoolDecl.places (d : PoolDecl) (stakes : List Nat) : List Nat :=
  match d.place with
  | .unit n => [n]
  | .everyUnit => List.range 6
  | .everyStake => stakes.map (0x100 + ·)

/-- The instances of a plan's pools, with every withy free (R70, R379). -/
def Plan.poolCells (p : Plan) (reserves : Nat → List Nat) : List PoolCell :=
  p.pools.flatMap fun d =>
    (d.places p.stakes).flatMap fun pl =>
      (List.range 4).filterMap fun c =>
        let n := d.counts.getD c 0
        if n = 0 then none
        else some { job := p.job, pool := d.id, place := pl, cls := c, total := n
                    reserve := (reserves d.id).getD c 0, lowWater := n }

/-- Sets a job's pools to their declared state under the configuration that POOL_CONFIG has left for it
(R70, R385). -/
def Mod.initPools (m : Mod) (p : Plan) : Mod :=
  let states := m.poolStates.map fun s => if s.job == p.job then { s with requesters := s.nextRequesters } else s
  let reserves (id : Nat) : List Nat :=
    ((states.find? fun s => s.job == p.job && s.pool == id).map (·.nextReserves)).getD []
  { m with poolStates := states, pools := (m.pools.filter fun c => c.job != p.job) ++ p.poolCells reserves }

/-- Removes a job's pools (R73). -/
def Mod.dropPools (m : Mod) (job : Nat) : Mod :=
  { m with pools := m.pools.filter (fun c => c.job != job)
           poolStates := m.poolStates.filter fun s => s.job != job }

/-! ### POOL_CONFIG (R385) -/

/-- The packet offset of the first CHANGE that POOL_CONFIG refuses. -/
def poolConfigFault (s : PoolState) (counts : List Nat) (p : Packet) : Option Nat :=
  let bad (i : Nat) : Option Nat :=
    let o := 8 + 8 * i
    let kind := p.u (o + 7) 1
    let ix := p.u (o + 6) 1
    let v := p.u o 4
    if kind = 0 then
      (if 4 ≤ ix then some (o + 6) else if 255 < v ∨ counts.getD ix 0 ≤ v then some o else none)
    else if kind = 1 then
      (if s.requesters.length ≤ ix then some (o + 6) else if 2 ^ 22 ≤ v then some o else none)
    else if kind = 2 then
      (if s.requesters.length ≤ ix then some (o + 6) else if 1 < v then some o else none)
    else some (o + 7)
  ((List.range (p.u 1 1)).findSome? bad).map (0x40 + ·)

/-- Applies a CHANGE to the configuration of the next PLAN_START. -/
def PoolState.change (s : PoolState) (kind ix v : Nat) : PoolState :=
  let setAt (f : Requester → Requester) : List Requester :=
    s.nextRequesters.zipIdx.map fun (r, i) => if i = ix then f r else r
  match kind with
  | 0 => { s with nextReserves := (s.nextReserves ++ List.replicate (ix + 1 - s.nextReserves.length) 0).set ix v }
  | 1 => { s with nextRequesters := setAt fun r => { r with quota := v } }
  | _ => { s with nextRequesters := setAt fun r => { r with head := v == 1 } }

/-- POOL_CONFIG's effect. -/
def Mod.startPoolConfig (m : Mod) (id : CmdId) (c : Cmd) : Mod :=
  let p := c.pkt
  let apply (s : PoolState) : PoolState :=
    (List.range (p.u 1 1)).foldl (fun s i => s.change (p.u (15 + 8 * i) 1) (p.u (14 + 8 * i) 1) (p.u (8 + 8 * i) 4)) s
  let states := m.poolStates.map fun (s : PoolState) => if s.job == c.job && s.pool == p.u 0 1 then apply s else s
  { m with poolStates := states }.complete id .ok 0

/-! ### POOL_STAT (R386) -/

/-- A record of Table 12.8. -/
def PoolCell.record (c : PoolCell) : Bytes :=
  leBytes 32 (c.pool * 2 ^ 248 + c.cls * 2 ^ 240 + c.place * 2 ^ 224 + c.total * 2 ^ 200 + c.free * 2 ^ 176 +
    c.lowWater * 2 ^ 152 + c.reserve * 2 ^ 144 + c.emptyFails * 2 ^ 96 + c.quotaFails * 2 ^ 48 + c.grants)

/-- An entry of Table 12.9. -/
def Mod.requesterRecord (m : Mod) (job pool i : Nat) (r : Requester) : Bytes :=
  leBytes 8 (r.job * 2 ^ 52 + r.engine * 2 ^ 48 + (if r.head then 2 ^ 47 else 0) + r.quota % 2 ^ 22 * 2 ^ 22 +
    m.held job pool i % 2 ^ 22)

/-- POOL_STAT with records (VARIANT 0x00). -/
def Mod.poolRecords (m : Mod) (job pool first : Nat) : Bytes :=
  (((m.pools.filter fun c => c.job == job && (pool == 0 || c.pool == pool)).drop first).take 253).flatMap
    PoolCell.record

/-- POOL_STAT with requesters (VARIANT 0x01). -/
def Mod.poolRequesters (m : Mod) (job pool first : Nat) : Bytes :=
  let rs := (m.poolStates.filter fun s => s.job == job && (pool == 0 || s.pool == pool)).flatMap fun s =>
    s.requesters.zipIdx.map fun (r, i) => m.requesterRecord job s.pool i r
  ((rs.drop first).take 1014).flatten

def Mod.startPoolStat (m : Mod) (id : CmdId) (c : Cmd) (requesters : Bool) : Mod :=
  let pool := c.pkt.u 0 1
  let first := c.pkt.u 4 4
  m.complete id .ok 0 (if requesters then m.poolRequesters c.job pool first else m.poolRecords c.job pool first)

/-- An engine's request and reference counts as commands of the block. -/
def execWithyRequest (job pool place cls n r0 requester : Nat) (head : Bool) (s : State) :
    Host.Outcome State Fault Refusal :=
  lift (fun m =>
    if 1 ≤ n ∧ n ≤ 65535 ∧ 1 ≤ r0 ∧ r0 ≤ 65535 then (m.poolRequest job pool place cls n r0 requester head).1 else m) s

/-- ADD_REF by an engine of the owning job (R383). -/
def execWithyAddRef (job pool place cls index d : Nat) (s : State) : Host.Outcome State Fault Refusal :=
  lift (fun m => m.poolAddRef job pool place cls index d) s

end Sys2Proof.Machine
end

