-- ==== Sys2Proof/Machine/Checks.lean ====
section
/-!
DEFINITION. Check 13 of R54 for commands with operand entries: what every such command obeys
(R96, R161, R192, R199, R328, R520–R523), and the shared pieces of the opcodes' own rules.
-/

namespace Sys2Proof.Machine

/-- A broken rule: where its field stands in the order of the check, and the DETAIL that names it. -/
structure Viol where
  key : Nat
  detail : Nat
  deriving DecidableEq, Repr, Inhabited

/-- The DETAIL of the first broken rule in payload order. -/
def firstViol : List Viol → Option Nat
  | [] => none
  | v :: vs => some (vs.foldl (fun a b => if b.key < a.key then b else a) v).detail

/-- The order of a field at check 13: descriptors in payload order and the fields of each in increasing offset (R54,
R192). Field 0 of an operand is its entry. -/
def violKey (off f : Nat) : Nat := 256 * off + f

/-- A rule about a field of the fixed part. -/
def fieldRule (bad : Bool) (off : Nat) : List Viol := if bad then [⟨violKey off 0, 0x40 + off⟩] else []

/-- A rule about a field of an operand's descriptor. -/
def Opnd.rule (o : Opnd) (bad : Bool) (f : Nat) : List Viol := if bad then [⟨violKey o.off (f + 1), o.field f⟩] else []

/-- A rule whose DETAIL names the operand entry. -/
def Opnd.entryRule (o : Opnd) (bad : Bool) : List Viol := if bad then [⟨violKey o.off 0, 0x40 + o.off⟩] else []

/-- A rule about bytes that two descriptors share, tested once every descriptor obeys its own rules (R522). -/
def Opnd.sharedRule (o : Opnd) (bad : Bool) : List Viol := if bad then [⟨2 ^ 30 + o.off, 0x40 + o.off⟩] else []

/-- The offset of a field of dimension record `k`. -/
def dimField (k f : Nat) : Nat := 0x20 + 24 * k + f

end Sys2Proof.Machine

namespace Sys2Proof

open Sys2Proof.Machine

/-- The conversion control byte of a command (R96, R519). -/
def Op.conv (op : Op) (p : Packet) : Conv := if op.hasConv then (Conv.ofByte (p.u 0 1)).getD {} else {}

/-- The operand entries of a command with their roles. The outputs of a vector expression follow its inputs
(R534). -/
def Op.roles (op : Op) (plan : Plan) (p : Packet) : List (Nat × Nat × Bool) :=
  match op with
  | .vexpr =>
    let n := ((plan.vexprs.find? fun e => e.id == p.u 2 2).map (·.inputs)).getD 16
    (op.entries p).map fun e => if n ≤ (e.1 - 0x10) / 16 then (e.1, 0, e.2.2) else e
  | _ => op.entries p

/-- The operands of a command, in payload order. -/
def Op.opnds (op : Op) (plan : Plan) (p : Packet) : List Opnd :=
  (op.roles plan p).filterMap fun e =>
    match resolveEntry plan op p e.1 e.2.1 with
    | .ok o => some o
    | _ => none

/-- The operands that a command writes. -/
def Op.dests (op : Op) (plan : Plan) (p : Packet) : List Opnd := (op.opnds plan p).filter fun o => op.isDest o.off o.role

end Sys2Proof

namespace Sys2Proof.Machine

/-- The faults of the operand entries themselves and of their descriptors (R192, R520, R521). -/
def entryViols (op : Op) (plan : Plan) (p : Packet) : List Viol :=
  (op.roles plan p).flatMap fun (off, role, optional) =>
    match resolveEntry plan op p off role with
    | .absent => fieldRule (!optional) off
    | .bad => fieldRule true off
    | .ok o => (o.faults plan (op.isDest off role)).flatMap fun f => o.rule true f

/-- Inline descriptors that overlap without starting together (R521). -/
def inlineViols (os : List Opnd) : List Viol :=
  os.flatMap fun b =>
    let clash := os.any fun a =>
      match a.at_, b.at_ with
      | some x, some y => a.off < b.off && x != y && x < y + 176 && y < x + 176
      | _, _ => false
    fieldRule clash b.off

/-- Whether a destination meets a MASK region (R161) or state that only sweeps write (R328). -/
def Opnd.guarded (o : Opnd) (plan : Plan) : Bool :=
  let t := o.desc.tensor
  !(o.desc.seenBy plan.rank).remote &&
    ((plan.tensors.any fun x => x.id == t && x.mask.any fun (a, n) =>
        o.desc.ownOffs.any fun b => a ≤ b && b < a + n) ||
      plan.ranges.any fun r => r.weightLo == t || r.m == t || (r.v == t && t != 0))

/-- What every command with operand entries obeys at check 13. -/
def commonViols (op : Op) (j : Job) (p : Packet) : List Viol :=
  let os := op.opnds j.plan p
  let ds := os.filter fun o => op.isDest o.off o.role
  let ss := os.filter fun o => !op.isDest o.off o.role
  let locked := j.phase == .running || j.phase == .quiescing
  let sparseOk (o : Opnd) : Bool := op == .copy || (op.isMatmulSparse && (o.off == 0x30 || o.off == 0x40))
  let same (a b : Opnd) : Bool := op == .vexpr && a.desc == { b.desc with pad := a.desc.pad }
  fieldRule (op.hasConv && (Conv.ofByte (p.u 0 1)).isNone) 0 ++ entryViols op j.plan p ++ inlineViols os ++
    os.flatMap (fun o => o.rule (o.desc.sparse24 && !sparseOk o) 2) ++
    ds.flatMap (fun d => fieldRule (locked && d.guarded j.plan) d.off) ++
    ds.flatMap (fun d => d.sharedRule
      (ss.any (fun s => !same d s && d.shares j.plan.rank s) ||
        ds.any (fun e => e.off < d.off && d.shares j.plan.rank e)))

/-- An integer format paired with a floating-point one (R98): FORMAT of the later descriptor. -/
def pairRule (a b : Opnd) : List Viol :=
  let later := if a.off < b.off then b else a
  later.rule (a.desc.fmt.isInt != b.desc.fmt.isInt) 3

/-- A row mask (R523): INT8, NDIM 1, an extent of at least ceil(rows / 8). -/
def maskRule (mask : Option Opnd) (rows : Nat) : List Viol :=
  match mask with
  | none => []
  | some o =>
    o.rule (o.desc.fmt != .int8) 3 ++ o.rule (o.desc.ndim != 1) 2 ++
      o.rule (o.desc.ext 0 < (rows + 7) / 8) (dimField 0 0)

/-- NDIM of an operand. -/
def Opnd.ndimRule (o : Opnd) (n : Nat) : List Viol := o.rule (o.desc.ndim != n) 2

/-- FORMAT of an operand. -/
def Opnd.fmtRule (o : Opnd) (ok : Fmt → Bool) : List Viol := o.rule (!ok o.desc.fmt) 3

/-- EXTENT of dimension `k` of an operand. -/
def Opnd.extRule (o : Opnd) (k n : Nat) : List Viol := o.rule (o.desc.ext k != n) (dimField k 0)

/-- ORIGIN and PAD_VALUE that an opcode does not take. -/
def Opnd.noOrigin (o : Opnd) : List Viol :=
  o.rule (o.desc.pad != 0) 0x18 ++
    (List.range o.desc.ndim).flatMap fun k => o.rule ((o.desc.dims.getD k default).origin != 0) (dimField k 4)

/-- The number of elements of a descriptor's full extents. -/
def Desc.volume (d : Desc) : Nat := (d.used.map (·.extent)).prod

/-- R346 for SR in conversion: the product of the full extents stays below 2^50. -/
def srLimit (c : Conv) (d : Opnd) : List Viol :=
  d.entryRule (c.rnd == .sr && !d.desc.fmt.isInt && 2 ^ 50 ≤ d.desc.volume)

/-- R346 for the accumulator stream: rows × N × ceil(K / 128) stays below 2^48. -/
def accLimit (on : Bool) (rows n k : Nat) (d : Opnd) : List Viol :=
  d.entryRule (on && 2 ^ 48 ≤ rows * n * ((k + 127) / 128))

/-! ### Views of a started command -/

/-- A started data command: its command, job, its operands where they lie, the bytes that came from elsewhere, and for
a command of the arrays the accumulators that its passes have formed (none: no pass runs, and they are formed at
once). `wrote` counts the segments written (R215). -/
structure Data where
  c : Cmd
  j : Job
  vs : List View
  got : List (Nat × Byte) := []
  formed : Option (List (Nat × Nat × PartAcc)) := none
  wrote : Nat := 0
  deriving Repr

/-- The operand of the entry at a payload offset. -/
def Data.v? (x : Data) (off : Nat) : Option View := x.vs.find? fun v => v.o.off == off
def Data.v (x : Data) (off : Nat) : View := (x.v? off).getD default
def Data.conv (x : Data) : Conv := x.c.op.conv x.c.pkt

/-- The destination's own extent within the rows of a segment; `row` is the row dimension (R195, R215). -/
def View.part (v : View) (row lo hi : Nat) : List (Nat × Nat) := clampDim v.d.ownBox row lo hi

/-- Finds every operand's place. -/
def findAll (j : Job) : List Opnd → Except (Option Nat × Opnd) (List View)
  | [] => .ok []
  | o :: os =>
    match j.find o with
    | .waits r => .error (some r, o)
    | .missing => .error (none, o)
    | .ok v =>
      match findAll j os with
      | .ok vs => .ok (v :: vs)
      | .error e => .error e

/-- The unit numbers of R211 that a list of locations lies in. -/
def partsOf (locs : List Nat) : List Nat := ((locs.filter isLocal).map unitOf).eraseDups

end Sys2Proof.Machine
end

