-- ==== Sys2Proof/Machine/Real.lean ====
section
/-!
DEFINITION. The real functions that R202 and R538 name, rounded once. Each is computed to far more
bits than FP32 holds, in integers scaled by `2^320`, with a last bit that stands for the rest; R538's
"rounds it once under RNE" is read as correct rounding (DEDUCED, log 20).
-/

namespace Sys2Proof.Machine

/-- The scale of the fixed-point values here. -/
def fxBits : Nat := 320

def fxOne : Int := 2 ^ fxBits

def fxMul (a b : Int) : Int := a * b / fxOne

/-- Floor of a value as a fixed-point number. -/
def fxOf (m : Int) (e : Int) : Int :=
  if 0 ≤ e + fxBits then m <<< (e + fxBits).toNat else m >>> (-(e + fxBits)).toNat

/-- A nonzero fixed-point result as a value with a remainder bit, so that RNE rounds it as the real. -/
def fxNum (x : Int) : Val := .fin (decide (x < 0)) (2 * x.natAbs + 1) (-(fxBits : Int) - 1)

/-- The sum of `term` and its successors, each formed from the one before by `next k`. -/
def fxSeries (next : Nat → Int → Int) : Nat → Nat → Int → Int
  | 0, _, _ => 0
  | n + 1, k, t => t + fxSeries next n (k + 1) (next k t)

/-- `2 × atanh z` for a fixed-point `z` of magnitude at most 1/3. -/
def fxAtanh2 (z : Int) : Int :=
  let z2 := fxMul z z
  2 * (List.range 120).foldr (fun k acc => fxOne / (2 * (k : Int) + 1) + fxMul z2 acc) 0 * z / fxOne

/-- ln 2. -/
def fxLn2 : Int := fxAtanh2 (fxOne / 3)

/-- arctan of the reciprocal of `n`. -/
def fxAtanInv (n : Int) : Int :=
  (List.range 250).foldr (fun k acc => fxOne / (2 * (k : Int) + 1) - acc / (n * n)) 0 / n

/-- π, by Machin's formula. -/
def fxPi : Int := 16 * fxAtanInv 5 - 4 * fxAtanInv 239

/-- `e^r` for a fixed-point `0 ≤ r < 1`. -/
def fxExp (r : Int) : Int := fxSeries (fun k t => fxMul t r / ((k : Int) + 1)) 90 0 fxOne

/-- `e^x` for a finite x with |x| below 2^20, as (significand, exponent). -/
def expFloat (s : Bool) (m : Nat) (e : Int) : Int × Int :=
  let x := fxOf (Val.signed s m) e
  let k := x / fxLn2
  (fxExp (x - k * fxLn2), k - fxBits)

/-- EXP (R538). -/
def realExp : Val → Val
  | .nan => .nan
  | .inf s => if s then .zero else .inf false
  | .fin s m e =>
    if m = 0 then .fin false 1 0
    else if Val.lt (.fin false 1024 0) (.fin false m e) then
      (if s then .fin false 1 (-1000) else .fin false 1 1000)
    else
      let (y, k) := expFloat s m e
      .fin false (2 * y.natAbs + 1) (k - 1)

/-- LOG, the natural logarithm (R538). -/
def realLn : Val → Val
  | .nan => .nan
  | .inf s => if s then .nan else .inf false
  | .fin s m e =>
    if m = 0 then .inf true
    else if s then .nan
    else
      let l := Nat.log2 m
      if m = 2 ^ l ∧ e + l = 0 then .zero
      else
        let y := fxOf m (-(l : Int))
        fxNum (fxAtanh2 ((y - fxOne) * fxOne / (y + fxOne)) + (e + l) * fxLn2)

/-- sine (`0`) or cosine (`1`) of a fixed-point angle below π/2. -/
def fxTrig (cosine : Bool) (a : Int) : Int :=
  let a2 := fxMul a a
  if cosine then
    fxSeries (fun k t => -(fxMul t a2) / ((2 * (k : Int) + 1) * (2 * k + 2))) 60 0 fxOne
  else fxSeries (fun k t => -(fxMul t a2) / ((2 * (k : Int) + 2) * (2 * k + 3))) 60 0 a

/-- cos or sin of `2π × n × 2^-24` (R202). Quarter turns are exact. -/
def realTurn (cosine : Bool) (n : Nat) : Val :=
  let quarter : Nat := (n / 2 ^ 22 + (if cosine then 1 else 0)) % 4
  let f : Nat := n % 2 ^ 22
  -- sin(quarter × π/2 + a), with a = 2π f / 2^24
  let neg := 2 ≤ quarter
  if f = 0 then
    if quarter % 2 = 0 then .zero else .fin (decide neg) 1 0
  else
    let a : Int := 2 * fxPi * (f : Int) / 16777216
    let y := fxTrig (decide (quarter % 2 = 1)) a
    fxNum (if neg then -y else y)

/-- A quotient of positive integers with a remainder bit, times `2^e`. -/
def ratio (neg : Bool) (a b : Int) (e : Int) : Val :=
  .fin neg (2 * ((a <<< 200) / b).natAbs + 1) (e - 201)

/-- TANH (R538). -/
def realTanh : Val → Val
  | .nan => .nan
  | .inf s => .fin s 1 0
  | .fin s m e =>
    if m = 0 then .fin s 0 0
    else if Val.lt (.fin false m e) (.fin false 1 (-40)) then .fin s (m * 2 ^ 60 - 1) (e - 60)
    else if Val.lt (.fin false 32 0) (.fin false m e) then .fin s (2 ^ 100 - 1) (-100)
    else
      let (y, k) := expFloat false m (e + 1)
      -- e^{2|x|} = y 2^k with k ≥ -fxBits
      let one : Int := 2 ^ (-k).toNat
      ratio s (y - one) (y + one) 0

/-- SIGMOID (R538). -/
def realSigmoid : Val → Val
  | .nan => .nan
  | .inf s => if s then .zero else .fin false 1 0
  | .fin s m e =>
    if m = 0 then .fin false 1 (-1)
    else if Val.lt (.fin false 512 0) (.fin false m e) then
      (if s then .fin false 1 (-700) else .fin false (2 ^ 100 - 1) (-100))
    else
      let (y, k) := expFloat true m e
      let one : Int := 2 ^ (-k).toNat
      if s then ratio false (y <<< 800) (y + one) (-800) else ratio false one (y + one) 0

/-- ERF (R538). -/
def realErf : Val → Val
  | .nan => .nan
  | .inf s => .fin s 1 0
  | .fin s m e =>
    if m = 0 then .fin s 0 0
    else if Val.lt (.fin false 4 0) (.fin false m e) then .fin s (2 ^ 100 - 1) (-100)
    else
      let x := fxOf m e
      let x2 := fxMul x x
      let sum := (List.range 200).foldr
        (fun (k : Nat) (acc : Int) => fxOne / (2 * (k : Int) + 1) - fxMul x2 acc / ((k : Int) + 1)) 0
      let rootPi : Int := isqrt (fxPi.toNat * 2 ^ fxBits)
      let y := 2 * fxMul x sum * fxOne / rootPi
      fxNum (if s then -y else y)

def exp32 (a : BitVec 32) : BitVec 32 := rnd32 (realExp (f32 a))
def ln32 (a : BitVec 32) : BitVec 32 := rnd32 (realLn (f32 a))
def tanh32 (a : BitVec 32) : BitVec 32 := rnd32 (realTanh (f32 a))
def sigmoid32 (a : BitVec 32) : BitVec 32 := rnd32 (realSigmoid (f32 a))
def erf32 (a : BitVec 32) : BitVec 32 := rnd32 (realErf (f32 a))

end Sys2Proof.Machine
end

