-- ==== Sys2Proof/Machine/Transfer.lean ====
section
/-!
DEFINITION. The transfer commands (R193–R210): their rules at check 13, what they test, read and write,
and split scatters (R211–R214).
-/

namespace Sys2Proof.Machine

/-! ### Check 13 -/

/-- The row dimension of a transfer: the destination's dimension NDIM − 1 (R215). -/
def Desc.rowDim (d : Desc) : Nat := d.ndim - 1

/-- The rules of a 2:4 operand in COPY (R156, R199). -/
def sparseCopyViols (tr : Bool) (d s : Opnd) : List Viol :=
  if !d.desc.sparse24 && !s.desc.sparse24 then []
  else
    let first := if d.desc.sparse24 then d else s
    let four (o : Opnd) : List Viol :=
      o.ndimRule 2 ++ o.rule (o.desc.ext 0 % 4 != 0) (dimField 0 0) ++ o.rule (o.desc.ext 1 % 4 != 0) (dimField 1 0)
    first.rule (tr || !(d.desc.sparse24 && s.desc.sparse24)) 2 ++ s.rule (d.desc.format != s.desc.format) 3 ++
      four d ++ four s ++ d.rule ((d.desc.dims.getD 0 default).origin % 4 != 0) (dimField 0 4)

/-- The source's extent that meets destination dimension `k`, after the swap of TRANSPOSE (R193). -/
def Desc.swapExt (s : Desc) (tr : Bool) (k : Nat) : Nat := s.ext (if tr then (if k = 0 then 1 else if k = 1 then 0 else k) else k)

/-- COPY and CONVERT (R193, R203). -/
def copyViols (convert tr : Bool) (d s : Opnd) : List Viol :=
  pairRule d s ++ s.rule (d.desc.ndim != s.desc.ndim || (tr && s.desc.ndim < 2)) 2 ++
    (List.range d.desc.ndim).flatMap fun k =>
      let o := (d.desc.dims.getD k default).origin
      if convert then d.rule (d.desc.ext k != s.desc.ext k) (dimField k 0) ++ d.rule (o != 0) (dimField k 4)
      else d.rule (d.desc.ext k < o + s.desc.swapExt tr k) (dimField k 4)

/-- GATHER, SCATTER and SCATTER_ADD (R204, R208). -/
def gatherViols (op : Op) (p : Packet) (d s i : Opnd) : List Viol :=
  let k := p.u 1 1
  let blk := d.desc.fmt.isBlock || s.desc.fmt.isBlock
  let ext := if op == .gather then d.desc.ext k else s.desc.ext k
  fieldRule (d.desc.ndim ≤ k || (k == 0 && blk)) 1 ++ pairRule d s ++
    s.rule (d.desc.ndim != s.desc.ndim) 2 ++ d.noOrigin ++
    d.rule (op == .scatterAdd && (d.desc.fmt.isBlock || d.desc.fmt.isInt)) 3 ++
    i.fmtRule Fmt.isInt ++ i.ndimRule 1 ++ i.extRule 0 ext

/-- RNG_FILL (R202, R98). -/
def rngViols (p : Packet) (d : Opnd) : List Viol :=
  let dist := p.u 1 1
  let p0 := f32 (BitVec.ofNat 32 (p.u 4 4))
  fieldRule (p.u 0 1 % 4 == 2) 0 ++ fieldRule (2 < dist) 1 ++ fieldRule (p.u 2 2 < 0x100) 2 ++
    fieldRule ((dist == 0 && p.u 4 4 != 0) ||
      (dist == 1 && !(Val.zero.le p0 && p0.le (Val.ofInt 1)))) 4 ++
    fieldRule (dist != 2 && p.u 8 4 != 0) 8 ++ d.rule d.desc.fmt.isInt 3

end Sys2Proof.Machine

namespace Sys2Proof

open Sys2Proof.Machine

/-- The operand of a payload offset among resolved operands. -/
def Op.at_ (os : List Opnd) (off : Nat) : Opnd := (os.find? fun o => o.off == off).getD default

end Sys2Proof

namespace Sys2Proof.Machine

/-- The transfer commands' own rules. -/
def transferViols (op : Op) (p : Packet) (os : List Opnd) : List Viol :=
  let d := Op.at_ os 0x10
  let s := Op.at_ os 0x20
  let i := Op.at_ os 0x30
  match op with
  | .copy => sparseCopyViols p.transpose d s ++ copyViols false p.transpose d s
  | .convert => copyViols true false d s
  | .gather | .scatter | .scatterAdd => gatherViols op p d s i
  | .rngFill => rngViols p d
  | _ => []

/-- R346 for transfers. -/
def transferLimits (op : Op) (p : Packet) (os : List Opnd) : List Viol :=
  let d := Op.at_ os 0x10
  if op == .rngFill then d.entryRule ((if p.u 1 1 = 2 then 2 ^ 49 else 2 ^ 50) ≤ d.desc.volume)
  else srLimit (op.conv p) d

/-! ### Mapping (R193) -/

/-- Exchanges the first two entries. -/
def swap01 {α : Type} : List α → List α
  | a :: b :: r => b :: a :: r
  | l => l

/-- The source element that a destination element maps to; `none` for a padding element (R193). -/
def mapSource (tr : Bool) (d s : Desc) (idx : List Nat) : Option (List Nat) :=
  let rel := (idx.zip d.used).map fun p => (p.1 : Int) - (p.2.origin : Int)
  let rel := if tr then swap01 rel else rel
  if (rel.zip s.used).all fun (x, r) => 0 ≤ x && x < r.extent then some (rel.map Int.toNat) else none

/-- PAD_VALUE as a value (R194). -/
def Desc.padVal (d : Desc) : Val :=
  if d.fmt.isInt then Val.ofInt (signedOf 32 d.pad) else fp32.decode d.pad

/-- The conversion of data elements: none between equal scalar formats (R95), so an infinity stays one. -/
def dataConv (c : Conv) (s d : View) : Conv := if s.fmt = d.fmt ∧ !d.fmt.isBlock then {} else c

/-- The random word of a value that is converted once for many elements (R194, R201). -/
def Job.onceWord (j : Job) (d : Desc) : Nat → Nat := fun _ => j.srWord d (Config.onceElem d.tensor)

/-- The first element of the source block that a whole destination block takes element by element, when there is one. -/
def View.sameBlock (d : View) (key : List Nat) (ps : List (List Nat × List Nat)) : Option (List Nat) :=
  let at_ (e : Nat) : List Nat := (32 * key.headD 0 + e) :: key.drop 1
  match ps.find? fun p => p.1 == at_ 0 with
  | none => none
  | some (_, src) =>
    if src.headD 0 % 32 == 0 && (List.range 32).all fun e =>
        d.d.ext 0 ≤ 32 * key.headD 0 + e || ps.any fun p => p.1 == at_ e && p.2 == (src.headD 0 + e) :: src.drop 1
    then some src else none

/-- Copies a block as it stands: equal formats are not converted (R95, R97, R199). -/
def View.putRaw (d s : View) (rd : Nat → Byte) (key src : List Nat) : Put :=
  let vals := (List.range 32).map fun e =>
    if d.d.ext 0 ≤ 32 * key.headD 0 + e then Val.zero else s.value rd ((src.headD 0 + e) :: src.drop 1)
  { writes := d.writesAt (d.d.elemOffs ((32 * key.headD 0) :: key.drop 1)) (s.fetch rd (s.d.elemOffs src))
    counts := { nonfinite := vals.countP Val.nonfinite } }

/-- Writes elements taken from a source, as (destination, source) pairs, and padding elements (R194, R195, R199). A block of
equal formats that comes whole from one source block is copied; any other block is encoded once (R102). -/
def View.putPairs (d s : View) (rd : Nat → Byte) (c : Conv) (u once : Nat → Nat) (pairs : List (List Nat × List Nat))
    (pads : List (List Nat)) : Put :=
  if d.fmt.isBlock then
    let keyOf (i : List Nat) : List Nat := (i.headD 0 / 32) :: i.drop 1
    let keys := ((pairs.map fun p => keyOf p.1) ++ pads.map keyOf).eraseDups
    keys.foldl (fun a k =>
      let ps := pairs.filter fun p => keyOf p.1 == k
      a.add (match if s.fmt = d.fmt then d.sameBlock k ps else none with
        | some src => d.putRaw s rd k src
        | none => d.putBlock rd c u k (ps.map (fun p => (p.1.headD 0 % 32, s.value rd p.2)) ++
            (pads.filter fun i => keyOf i == k).map fun i => (i.headD 0 % 32, d.d.padVal)))) {}
  else
    (d.put rd (dataConv c s d) u (pairs.map fun p => (p.1, s.value rd p.2))).add
      (d.put rd c once (pads.map fun i => (i, d.d.padVal)))

/-! ### Bodies: `lo` and `hi` bound the destination's rows -/

/-- The counters of elements written (R210). -/
def wrote (n pads : Nat) : List (Ctr × Nat) := [(.TRANSFER_ELEMENTS, n), (.PADDING_ELEMENTS, pads)]

/-- The elements that a COPY moves: (destination, source) pairs and padding elements. -/
def copyPairs (tr : Bool) (d s : View) (lo hi : Nat) : List (List Nat × List Nat) × List (List Nat) :=
  let idx := boxIdx (d.part d.d.rowDim lo hi)
  (idx.filterMap fun i => (mapSource tr d.d s.d i).map fun j => (i, j),
    idx.filter fun i => (mapSource tr d.d s.d i).isNone)

/-- CONVERT's reply payload: the largest finite magnitude, and the NaN and infinity counts (R203). -/
def convertStats (vals : List Val) : BitVec 32 × Nat × Nat :=
  let big := vals.foldl (fun (a : Val) v => if v.nonfinite then a else if a.lt v.abs then v.abs else a) .zero
  ((widen big).1, vals.countP Val.isNan, vals.countP fun v => v.nonfinite && !v.isNan)

/-- COPY and CONVERT of dense tensors (R199, R203). -/
def copyBody (convert : Bool) (x : Data) (lo hi : Nat) (rd : Nat → Byte) : Effect :=
  let d := x.v 0x10
  let s := (x.v 0x20).forRead
  let tr := !convert && x.c.pkt.transpose
  let (pairs, pads) := copyPairs tr d s lo hi
  let (big, nans, infs) := convertStats (pairs.map fun p => s.value rd p.2)
  { stages := [pairs.flatMap fun p => s.locs p.2]
    put := d.putPairs s rd x.conv (x.j.srWord d.d) (x.j.onceWord d.d) pairs pads
    nonfinite := if convert && nonfinite32 big then 1 else 0
    ctrs := wrote (pairs.length + pads.length) pads.length
    payload := if convert then leBytes 4 big.toNat ++ leBytes 4 nans ++ leBytes 4 infs ++ leBytes 4 0 else [] }

/-- A 2:4 operand's values plane as a dense tensor of extent K / 2 (R156). -/
def View.compressed (v : View) : View :=
  { v with o := { v.o with desc := { v.o.desc with
      dims := v.o.desc.dims.zipIdx.map fun (r, k) => if k = 0 then { r with extent := r.extent / 2 } else r } } }

/-- The metadata code of a group (R156). -/
def View.code (v : View) (rd : Nat → Byte) (q n : Nat) : Nat :=
  let b := (rd (v.loc (v.d.codeOff q n))).toNat
  if (n * (v.d.ext 0 / 4) + q) % 2 = 0 then b % 16 else b / 16

/-- Whether a code is valid: P0 < P1 (R158). -/
def codeOk (c : Nat) : Bool := decide (c % 4 < c / 4)

/-- The locations of a group's kept values and code. -/
def View.groupLocs (v : View) (q n : Nat) : List Nat :=
  v.locs [2 * q, n] ++ v.locs [2 * q + 1, n] ++ [v.loc (v.d.codeOff q n)]

/-- The DETAIL of an invalid code: the dense index of the group's first position (R158). -/
def View.groupDetail (v : View) (q n : Nat) : Nat := n * v.d.ext 0 + 4 * q

/-- The groups (q, n) of a box of dense indices, by their first position. -/
def groupsOf (box : List (Nat × Nat)) : List (Nat × Nat) :=
  (boxIdx box).filterMap fun i => if i.headD 0 % 4 = 0 then some (i.headD 0 / 4, (i.drop 1).headD 0) else none

/-- Writes metadata codes, two to a byte. -/
def View.putCodes (v : View) (rd : Nat → Byte) (codes : List ((Nat × Nat) × Nat)) : Put :=
  let num (g : Nat × Nat) : Nat := g.2 * (v.d.ext 0 / 4) + g.1
  let offs := (codes.map fun c => v.d.codeOff c.1.1 c.1.2).eraseDups
  let nib (o half old : Nat) : Nat :=
    ((codes.reverse.find? fun c => v.d.codeOff c.1.1 c.1.2 == o && num c.1 % 2 == half).map (·.2)).getD old
  let byte (o : Nat) : Byte :=
    let b := (rd (v.loc o)).toNat
    BitVec.ofNat 8 (nib o 0 (b % 16) + 16 * nib o 1 (b / 16))
  let partly := offs.filter fun o => (codes.filter fun c => v.d.codeOff c.1.1 c.1.2 == o).length < 2
  { writes := v.writesAt (offs.map fun o => (o : Int)) (offs.map byte), reads := partly.map v.loc }

/-- COPY of 2:4 operands: the values plane and the metadata plane together (R199). -/
def sparseCopyBody (x : Data) (lo hi : Nat) (rd : Nat → Byte) : Effect :=
  let d := x.v 0x10
  let s := (x.v 0x20).forRead
  let groups := groupsOf (d.part d.d.rowDim lo hi)
  let src (g : Nat × Nat) : Option (Nat × Nat) :=
    (mapSource false d.d s.d [4 * g.1, g.2]).map fun i => (i.headD 0 / 4, (i.drop 1).headD 0)
  let pairs := groups.filterMap fun g => (src g).map fun h => (g, h)
  let pads := groups.filter fun g => (src g).isNone
  let kept (g : Nat × Nat) : List (List Nat) := [[2 * g.1, g.2], [2 * g.1 + 1, g.2]]
  let vals := pairs.flatMap fun (g, h) => (kept g).zip (kept h)
  let padVals := pads.flatMap kept
  let codes := pairs.map (fun (g, h) => (g, s.code rd h.1 h.2)) ++
    pads.map fun g => (g, Config.sparsePadCode (d.groupDetail g.1 g.2) % 16)
  let bad := pairs.find? fun p => !codeOk (s.code rd p.2.1 p.2.2)
  { stages := [pairs.flatMap fun p => s.groupLocs p.2.1 p.2.2]
    put := (d.compressed.putPairs s.compressed rd x.conv (x.j.srWord d.d) (x.j.onceWord d.d) vals padVals).add
      (d.putCodes rd codes)
    ctrs := wrote (vals.length + padVals.length) padVals.length
    fail := bad.map fun p => (.bounds, s.groupDetail p.2.1 p.2.2, []) }

/-- FILL (R201): the value is converted once, and every block is the same. -/
def fillBody (x : Data) (lo hi : Nat) (rd : Nat → Byte) : Effect :=
  let d := x.v 0x10
  let v := if d.fmt.isInt then Val.ofInt (signedOf 32 (x.c.pkt.u 4 4)) else fp32.decode (x.c.pkt.u 4 4)
  let idx := boxIdx (d.part d.d.rowDim lo hi)
  { put := d.put rd x.conv (x.j.onceWord d.d) (idx.map fun i => (i, v)), ctrs := wrote idx.length 0 }

/-- RNE(r × c) of the NORMAL distribution from two Philox words (R202). -/
def normalDeviate (w : Words4) (i : Nat) : BitVec 32 :=
  let n1 := (w.get 0).toNat / 256 + 1
  let n2 := (w.get 1).toNat / 256
  let l := f32 (rnd32 (realLn (.fin false n1 (-24))))
  let r := rnd32 (((Val.ofInt (-2)).mul l).sqrt)
  let c := rnd32 (realTurn (i % 2 = 0) n2)
  mul32 r c

/-- The value of RNG_FILL for the element of linear index `i` (R202). -/
def rngValue (seed : BitVec 64) (step tensor : Nat) (p : Packet) (i : Nat) : Val :=
  let dist := p.u 1 1
  let stream := p.u 2 2
  let p0 := BitVec.ofNat 32 (p.u 4 4)
  let p1 := BitVec.ofNat 32 (p.u 8 4)
  if dist = 2 then
    f32 (add32 p0 (mul32 p1 (normalDeviate (philox seed step tensor stream (i / 2)) i)))
  else
    let w := (philox seed step tensor stream (i / 4)).get (i % 4)
    if dist = 0 then .fin false (w.toNat / 256) (-24)
    else
      match (f32 p0).scale 32 with
      | .fin _ m e => if w.toNat < (if 0 ≤ e then m <<< e.toNat else m >>> (-e).toNat) then Val.ofInt 1 else .zero
      | _ => .zero

/-- RNG_FILL (R202). -/
def rngBody (x : Data) (lo hi : Nat) (rd : Nat → Byte) : Effect :=
  let d := x.v 0x10
  let idx := boxIdx (d.part d.d.rowDim lo hi)
  let vals := idx.map fun i => (i, rngValue x.j.plan.seed x.j.step.toNat d.d.tensor x.c.pkt (d.d.linear i))
  { put := d.put rd x.conv (x.j.srWord d.d) vals, ctrs := wrote idx.length 0 }

/-! ### Gather and scatter (R204–R208) -/

/-- The indices of an index tensor. -/
def View.ints (v : View) (rd : Nat → Byte) : List Int := (List.range (v.d.ext 0)).map fun j => v.int rd [j]

/-- The first index out of range fails the command (R205). -/
def indexFail (ix : List Int) (ext : Nat) : Option (Status × Nat × Bytes) :=
  (ix.zipIdx.find? fun p => p.1 < 0 || (ext : Int) ≤ p.1).map fun p => (.bounds, boundsDetail 2 p.2, [])

/-- Whether every index but the one in dimension `k` lies within a descriptor's extents (R204). -/
def pairsWith (d : Desc) (k : Nat) (idx : List Nat) : Bool :=
  (idx.zip d.used).zipIdx.all fun ((i, r), j) => j == k || i < r.extent

/-- Whether an index lies within the indexed extent. -/
def indexOk (ext : Nat) (i : Int) : Bool := 0 ≤ i && i < ext

/-- The first source element out of bounds among those that R204 pairs with the own extent (R196). The device tests the
descriptor ranges before the indices themselves (R205). -/
def pairedFail (s : View) (src : List (List Nat)) : Option (Status × Nat × Bytes) :=
  (s.firstBad (sortBy (fun a b => s.d.linear a ≤ s.d.linear b) src)).map fun n => (.bounds, boundsDetail s.o.role n, [])

/-- Reads saved by coalescing (R206): over the aligned runs of 256 positions from `lo` to `hi − 1`. -/
def coalesced (ix : List Int) (lo hi : Nat) : Nat :=
  ((List.range ((hi + 255) / 256)).map fun r =>
    let a := Nat.max lo (256 * r)
    let b := Nat.min hi (256 * (r + 1))
    let run := (ix.take b).drop a
    run.length - run.eraseDups.length).sum

/-- GATHER (R204–R206). -/
def gatherBody (x : Data) (lo hi : Nat) (rd : Nat → Byte) : Effect :=
  let d := x.v 0x10
  let s := (x.v 0x20).forRead
  let i := (x.v 0x30).forRead
  let k := x.c.pkt.u 1 1
  let ix := i.ints rd
  let box := d.part d.d.rowDim lo hi
  let srcOf (t : List Nat) : List Nat := t.set k (ix.getD (t.getD k 0) 0).toNat
  let pairs := ((boxIdx box).map fun t => (t, srcOf t)).filter fun p => pairsWith s.d k p.2
  let tested := ((boxIdx d.d.ownBox).filter fun t => indexOk (s.d.ext k) (ix.getD (t.getD k 0) 0)).map srcOf
  let run := box.getD k (0, 0)
  let once := k = d.d.rowDim ∨ lo = 0
  { stages := [i.boxLocs i.d.fullBox, pairs.flatMap fun p => s.locs p.2]
    put := d.putPairs s rd x.conv (x.j.srWord d.d) (x.j.srWord d.d) pairs []
    ctrs := wrote pairs.length 0 ++ [(.GATHER_COALESCED, if once then coalesced ix run.1 (run.1 + run.2) else 0)]
    fail := (pairedFail s (tested.filter (pairsWith s.d k))).or (indexFail ix (s.d.ext k))
    failAt := some 1 }

/-- The pairs of a scatter in increasing position (R204): (destination, source) pairs within the own
extent's rows `lo` to `hi − 1`, and the number of clipped ones (R207). -/
def scatterPairs (d s : View) (k : Nat) (ix : List Int) (lo hi : Nat) : List (List Nat × List Nat) × Nat :=
  let all := (boxIdx s.d.fullBox).filterMap fun j =>
    let t := j.set k (ix.getD (j.getD k 0) 0).toNat
    if pairsWith d.d k t && lo ≤ t.getD d.d.rowDim 0 && t.getD d.d.rowDim 0 < hi then some (t, j) else none
  (all.filter fun p => inBox d.d.ownBox p.1, all.countP fun p => !inBox d.d.ownBox p.1)

/-- The source elements that a scatter pairs with its whole own extent. -/
def scatterSources (d s : View) (k : Nat) (ix : List Int) : List (List Nat) :=
  ((scatterPairs d s k ix 0 (d.d.ext d.d.rowDim)).1.map (·.2)).filter fun j => indexOk (d.d.ext k) (ix.getD (j.getD k 0) 0)

/-- For each destination element the last source (R207). -/
def lastWins (ps : List (List Nat × List Nat)) : List (List Nat × List Nat) :=
  ps.foldr (fun p acc => if acc.any fun q => q.1 == p.1 then acc else p :: acc) []

/-- For each destination element its sources in order (R208). -/
def grouped (ps : List (List Nat × List Nat)) : List (List Nat × List (List Nat)) :=
  (ps.map (·.1)).eraseDups.map fun t => (t, (ps.filter fun p => p.1 == t).map (·.2))

/-- SCATTER (R204, R205, R207). -/
def scatterBody (x : Data) (lo hi : Nat) (rd : Nat → Byte) : Effect :=
  let d := x.v 0x10
  let s := (x.v 0x20).forRead
  let i := (x.v 0x30).forRead
  let ix := i.ints rd
  let (pairs, clipped) := scatterPairs d s (x.c.pkt.u 1 1) ix lo hi
  let last := lastWins pairs
  { stages := [i.boxLocs i.d.fullBox, pairs.flatMap fun p => s.locs p.2]
    put := d.putPairs s rd x.conv (x.j.srWord d.d) (x.j.srWord d.d) last []
    ctrs := wrote last.length 0 ++ [(.OWN_CLIPPED, clipped)]
    fail := (pairedFail s (scatterSources d s (x.c.pkt.u 1 1) ix)).or (indexFail ix (d.d.ext (x.c.pkt.u 1 1)))
    failAt := some 1 }

/-- The sum of SCATTER_ADD at one element (R208). -/
def addUp (acc : BitVec 32) (xs : List (BitVec 32)) : BitVec 32 := xs.foldl add32 acc

/-- SCATTER_ADD (R208). -/
def scatterAddBody (x : Data) (lo hi : Nat) (rd : Nat → Byte) : Effect :=
  let d := x.v 0x10
  let s := (x.v 0x20).forRead
  let i := (x.v 0x30).forRead
  let ix := i.ints rd
  let (pairs, clipped) := scatterPairs d s (x.c.pkt.u 1 1) ix lo hi
  let groups := grouped pairs
  let srcs := pairs.map fun p => widen (s.value rd p.2)
  let vals := groups.map fun g =>
    (g.1, f32 (addUp (widen (d.value rd g.1)).1 (g.2.map fun j => (widen (s.value rd j)).1)))
  let put := d.put rd x.conv (x.j.srWord d.d) vals
  { stages := [i.boxLocs i.d.fullBox, pairs.flatMap fun p => s.locs p.2]
    put := { put with reads := put.reads ++ groups.flatMap fun g => d.locs g.1 }
    nonfinite := srcs.countP (·.2)
    ctrs := wrote groups.length 0 ++ [(.OWN_CLIPPED, clipped)]
    fail := (pairedFail s (scatterSources d s (x.c.pkt.u 1 1) ix)).or (indexFail ix (d.d.ext (x.c.pkt.u 1 1)))
    failAt := some 1 }

/-- The body of a transfer command. -/
def transferBody (x : Data) : Nat → Nat → (Nat → Byte) → Effect :=
  match x.c.op with
  | .copy => if (x.v 0x10).d.sparse24 then sparseCopyBody x else copyBody false x
  | .convert => copyBody true x
  | .gather => gatherBody x
  | .scatter => scatterBody x
  | .scatterAdd => scatterAddBody x
  | .fill => fillBody x
  | _ => rngBody x

/-! ### Bounds (R196) -/

/-- The first element of a box that is out of bounds, with its role. -/
def View.test (v : View) (idx : List (List Nat)) : Option Nat := (v.firstBad idx).map (boundsDetail v.o.role)

/-- The first group of a 2:4 operand that is out of bounds. -/
def View.testGroups (v : View) (gs : List (Nat × Nat)) : Option Nat :=
  (gs.find? fun g =>
    ((v.compressed.d.elemOffs [2 * g.1, g.2] ++ v.compressed.d.elemOffs [2 * g.1 + 1, g.2]).any fun o =>
      o < 0 || (v.len : Int) ≤ o) || v.len ≤ v.d.codeOff g.1 g.2).map
    fun g => boundsDetail v.o.role (v.groupDetail g.1 g.2)

/-- What a transfer finds out of bounds when it starts: destination, source, index. Which source elements a gather or a
scatter reads, its index tensor says: they are tested once that is read. -/
def transferTest (x : Data) : Option Nat :=
  let d := x.v 0x10
  let s := x.v 0x20
  match x.c.op with
  | .copy | .convert =>
    if d.d.sparse24 then
      let gs := groupsOf d.d.ownBox
      (d.testGroups gs).or (s.testGroups (gs.filterMap fun g =>
        (mapSource false d.d s.d [4 * g.1, g.2]).map fun i => (i.headD 0 / 4, (i.drop 1).headD 0)))
    else
      let tr := x.c.op == .copy && x.c.pkt.transpose
      let read := sortBy (fun a b => s.d.linear a ≤ s.d.linear b)
        ((boxIdx d.d.ownBox).filterMap (mapSource tr d.d s.d))
      (d.test (boxIdx d.d.ownBox)).or (s.test read)
  | .gather | .scatter | .scatterAdd =>
    let i := x.v 0x30
    (d.test (boxIdx d.d.ownBox)).or (i.test (boxIdx i.d.fullBox))
  | _ => d.test (boxIdx d.d.ownBox)

/-! ### Split requests (R211–R214) -/

/-- Every location of a box of an operand: of a 2:4 one those of its compressed values and of its metadata (R156). -/
def View.allLocs (v : View) (box : List (Nat × Nat)) : List Nat :=
  if v.d.sparse24 then (groupsOf box).flatMap fun g => v.groupLocs g.1 g.2 else v.boxLocs box

/-- The destination parts and the source parts of a request. A destination with a valid copy is written in both (R247). -/
def Data.parts (x : Data) : List Nat × List Nat :=
  let d := x.v 0x10
  (partsOf (d.allLocs d.d.ownBox ++ if d.copy.isSome then d.inCopy.allLocs d.d.ownBox else []),
    partsOf (((x.v? 0x20).map fun s => s.forRead.allLocs s.d.fullBox).getD []))

/-- Whether a request is split (R211). -/
def Data.split (x : Data) : Bool := 1 < x.parts.1.length || 1 < x.parts.2.length

/-- The reply of a split request that fails (R214): the bitmap and an entry for each failed part. -/
def partFailed (parts : List (Nat × Nat × Nat)) : Status × Nat × Bytes :=
  let ps := sortBy (fun a b => a.1 ≤ b.1) parts
  (.partFailed, (ps.map fun p => 2 ^ p.1).sum,
    ps.flatMap fun p => leBytes 4 (p.2.1 * 65536 + p.2.2 * 256 + p.1))

/-- Whether a word cannot be read: its channel is out of service, its row is lost, or it is uncorrectable. -/
def Mod.cannotRead (m : Mod) (a : Nat) : Bool :=
  isLocal a && (m.badChannel a || m.deadRow a || decodeWord (m.errorAt (granuleOf a)) == .uncorrectable)

/-- The parts whose words a request cannot read: source parts, and destination parts it reads. The index tensor is no part. -/
def Mod.unreadable (m : Mod) (x : Data) (e : Effect) : List (Nat × Nat × Nat) :=
  let source := if x.c.op == .gather || x.c.op == .scatter || x.c.op == .scatterAdd then e.stages.drop 1 else e.stages
  (partsOf (source.flatten.filter m.cannotRead)).map (fun p => (8 + p, Status.faultDetected.code, 3)) ++
    (partsOf (e.put.reads.filter m.cannotRead)).map fun p => (p, Status.faultDetected.code, 3)

/-- What the parts stage of a scatter: byte writes, or for SCATTER_ADD what each element of the destination, and of its
copy, takes in. -/
def splitShares (x : Data) (rd : Nat → Byte) (e : Effect) : List (Nat × List (Nat × Byte) × List StagedAdd) :=
  let d := x.v 0x10
  let s := (x.v 0x20).forRead
  if x.c.op == .scatterAdd then
    let ix := ((x.v 0x30).forRead).ints rd
    let groups := grouped (scatterPairs d s (x.c.pkt.u 1 1) ix 0 (d.d.ext d.d.rowDim)).1
    let adds := groups.flatMap fun g =>
      let item (copy : Bool) (l : List Nat) : StagedAdd :=
        { locs := l, copy := copy, sr := x.j.srWord d.d (d.d.linear g.1), addends := g.2.map fun j => (widen (s.value rd j)).1 }
      item false (d.locs g.1) :: if d.copy.isSome then [item true (d.inCopy.locs g.1)] else []
    (partsOf (adds.flatMap (·.locs))).map fun p => (p, [], adds.filter fun a => (partsOf a.locs).contains p)
  else (partsOf (e.put.writes.map (·.1))).map fun p => (p, e.put.writes.filter (fun w => unitOf w.1 == p), [])

/-- The bytes that a share takes in its staging withies. -/
def shareBytes (ws : List (Nat × Byte)) (adds : List StagedAdd) : Nat := ws.length + (adds.map fun a => 4 * a.addends.length).sum

/-- The rows of a transfer command's destination (R215). -/
def Data.rowsOfDest (x : Data) : Nat := let d := (x.v 0x10).d; d.ext d.rowDim

/-- The rows of the destination that a scatter at the head of a lane names. -/
def Mod.scatterRows (m : Mod) (id : CmdId) : Nat :=
  match m.cmd? id with
  | none => 0
  | some r =>
    match m.job? r.cmd.job with
    | none => 0
    | some j => ((r.cmd.op.dests j.plan r.cmd.pkt).head?.map fun o => o.desc.ext o.desc.rowDim).getD 0

/-- Ends a split scatter whose parts have all acknowledged COMMIT: its segments signal, and it completes (R212, R216, R217). -/
def Mod.endSplit (m : Mod) (id : CmdId) (rows : Nat) : Mod :=
  match m.cmd? id with
  | none => m
  | some r =>
    let (st, d) := r.ending
    let n := r.cmd.segments rows
    if n ≤ 1 then m.complete id st d
    else
      let m := m.setWork id.lane (.segments n n false)
      let m := if r.cmd.pkt.segSignal then (List.range r.good).foldl (fun m _ => m.segmentSignal r.cmd false) m else m
      m.complete id st d

/-- The segments of a scatter before the first that writes a non-finite value under NF_FAIL (R217, R525). -/
def Data.goodSegments (x : Data) (body : Nat → Nat → Effect) : Nat :=
  let n := x.c.segments x.rowsOfDest
  if !x.c.pkt.nfFail then n
  else ((List.range n).find? fun s =>
    let r := segRange x.rowsOfDest s
    (body r.1 r.2).put.counts.nonfinite != 0).getD n

/-- Notes what a split scatter counts and signals once its parts have committed; the results of SCATTER_ADD count as the parts
form them. -/
def Mod.oweSplit (m : Mod) (id : CmdId) (x : Data) (rd : Nat → Byte) (e : Effect) : Mod :=
  let sum : Summary := if x.c.op == .scatterAdd then {} else ({} : Summary).counts e.put.counts
  m.updRunning id.lane fun r =>
    { r with owed := e.ctrs, owedSum := { sum with nonfinite := sum.nonfinite + e.nonfinite }
             good := x.goodSegments fun lo hi => transferBody x lo hi rd }

/-- Counts what a split scatter owes: its parts have committed (R210). -/
def Mod.payOwed (m : Mod) (id : CmdId) : Mod :=
  match m.cmd? id with
  | none => m
  | some r =>
    let m := m.updRunning id.lane fun r =>
      { r with
        sum := { r.sum with
          nonfinite := r.sum.nonfinite + r.owedSum.nonfinite
          underflow := r.sum.underflow + r.owedSum.underflow
          saturated := r.sum.saturated + r.owedSum.saturated }
        owed := [], owedSum := {} }
    r.owed.foldl (fun m c => m.countJob r.cmd.job c.1 c.2) m

/-- The Stage phase (R212): each destination part takes its withies; parts that cannot fail at once. -/
def Mod.stageSplit (m : Mod) (id : CmdId) (x : Data) (rd : Nat → Byte) (e : Effect) : Mod :=
  let job := x.c.job
  let pool := ((x.j.plan.poolNamed "STAGING").map (·.id)).getD 0
  let who := m.requesterOf job pool 1
  let d := x.v 0x10
  let step (acc : Mod × List (Nat × Nat × Nat)) (sh : Nat × List (Nat × Byte) × List StagedAdd) :
      Mod × List (Nat × Nat × Nat) :=
    let n := Nat.max 1 ((shareBytes sh.2.1 sh.2.2 + 65535) / 65536)
    match acc.1.poolRequest job pool sh.1 1 n 1 who false with
    | (m, .granted ws) =>
      let t : Staged :=
        { id := id, job := job, part := sh.1, withies := ws, conv := x.c.pkt.u 0 1, format := d.d.format
          writes := sh.2.1, adds := sh.2.2 }
      ({ m with staged := m.staged.concat t }, acc.2)
    | (m, .failed st _) => (m, acc.2.concat (sh.1, st.code, 1))
  let shares := splitShares x rd e
  let (m, failed) := shares.foldl step (m.oweSplit id x rd e, [])
  if shares.isEmpty then (m.payOwed id).endSplit id x.rowsOfDest
  else if failed.isEmpty then m.setWork id.lane (.split (shares.map (·.1)) [] [])
  else
    let (st, dt, p) := partFailed failed
    (m.countJob job .SPLIT_ABORTED).complete id st dt p

/-- A part reports STAGED or a failure (R212). -/
def Mod.partStaged (m : Mod) (id : CmdId) (part status : Nat) : Mod :=
  match m.cmd? id with
  | none => m
  | some r =>
    match r.work with
    | .split unstaged failed [] =>
      if !unstaged.contains part then m
      else
        let unstaged := unstaged.filter (· != part)
        let failed := if status = 0 then failed else failed.concat (part, status)
        if !unstaged.isEmpty then m.setWork id.lane (.split unstaged failed [])
        else if failed.isEmpty then
          m.setWork id.lane (.split [] [] ((m.staged.filter fun s => s.id == id).map (·.part)))
        else
          let (st, dt, p) := partFailed (failed.map fun f => (f.1, f.2, 1))
          (m.countJob r.cmd.job .SPLIT_ABORTED).complete id st dt p
    | _ => m

/-- The byte writes of a staged part: its writes, or the sums of R208 under the command's conversion. An element whose old
value cannot be read is written too, since every part commits (R213); that old value is free (log 106). A copy's results
count once, with those of the home (R101). -/
def Mod.stagedWrites (m : Mod) (s : Staged) : List (Nat × Byte) × Counts × Mod :=
  let f := (Fmt.ofCode s.format).getD .fp32
  let c := (Conv.ofByte s.conv).getD {}
  s.adds.foldl (fun (ws, n, m) a =>
    let (bs, m) := if a.locs.any m.cannotRead then m.freeBytes a.locs.length else (a.locs.map m.byte, m)
    let r := f.layout.convert c a.sr (f32 (addUp (rnd32 (f.layout.decode (leNat bs))) a.addends))
    let one : Counts := { saturated := if r.saturated then 1 else 0, nonfinite := if r.nonfinite then 1 else 0 }
    (ws ++ a.locs.zip (leBytes f.size r.code), if a.copy then n else n.add one, m)) (s.writes, {}, m)

/-- A part receives COMMIT: it records it in its staging withy and writes (R212, R213). A write that a channel out of service
refuses, each of the 3 times it is made again too, stays with the staged copy, and the part reports a failure, as it does
when an old value cannot be read. -/
def Mod.splitCommit (m : Mod) (id : CmdId) (part : Nat) : Mod :=
  match m.cmd? id, m.staged.find? fun s => s.id == id && s.part == part with
  | some r, some s =>
    match r.work with
    | .split [] failed left =>
      if s.written || !left.contains part then m
      else
        let (ws, n, m) := m.stagedWrites s
        let (m, corrected, bad) := m.checkLocal (some r.cmd) (s.adds.flatMap (·.locs))
        let m := m.updSum id.lane fun x => { x.counts n with corrected := x.corrected + corrected }
        let lost := ws.find? fun w => isLocal w.1 && m.badChannel w.1
        let keep (t : Staged) : Staged :=
          if t.id == id && t.part == part then { t with adds := [], writes := ws, recorded := true, written := lost.isNone } else t
        let m := { m with staged := m.staged.map keep }
        let m := match lost with
          | some w => m.logRead w.1 (some 0x08) (some r.cmd)
          | none => m.store ws
        if bad.isNone && lost.isNone then m
        else m.setWork id.lane (.split [] ((failed.filter fun f => f.1 != part).concat (part, Status.faultDetected.code)) left)
    | _ => m
  | _, _ => m

/-- Frees the staging withies of a part, unless it has recorded COMMIT and not written (R213). -/
def Mod.freeStaged (m : Mod) (id : CmdId) (part : Nat) : Mod :=
  match m.staged.find? fun s => s.id == id && s.part == part with
  | none => m
  | some s =>
    if s.recorded && !s.written then m
    else
      let pool := (((m.job? s.job).bind fun j => j.plan.poolNamed "STAGING").map (·.id)).getD 0
      let m := m.poolReleaseAll s.job pool part 1 s.withies
      { m with staged := m.staged.filter fun s => !(s.id == id && s.part == part) }

/-- A part receives ABORT and frees its withies (R212). A part whose command may still commit keeps them. -/
def Mod.splitAbort (m : Mod) (id : CmdId) (part : Nat) : Mod :=
  let live := match m.cmd? id with
    | some r => (match r.work with
      | .split .. => true
      | _ => false)
    | none => false
  if live then m
  else
    match m.staged.find? fun s => s.id == id && s.part == part with
    | some s => if s.recorded then m else m.freeStaged id part
    | none => m

/-- A part acknowledges COMMIT; after the last acknowledgement the command ends (R212). -/
def Mod.commitAck (m : Mod) (id : CmdId) (part : Nat) : Mod :=
  match m.cmd? id with
  | none => m
  | some r =>
    match r.work with
    | .split [] failed left =>
      let here := m.staged.any fun s => s.id == id && s.part == part
      let recorded := m.staged.any fun s => s.id == id && s.part == part && s.recorded
      if !left.contains part || (here && !recorded) then m
      else
        let left := left.filter (· != part)
        let m := m.freeStaged id part
        if !left.isEmpty then m.setWork id.lane (.split [] failed left)
        else if failed.isEmpty then (m.payOwed id).endSplit id (m.scatterRows id)
        else
          let (st, dt, p) := partFailed (failed.map fun f => (f.1, f.2, 2))
          (m.payOwed id).complete id st dt p
    | _ => m

/-- The timeout of a command whose parts have not all reported (R212). Once one part has committed every part
commits (R213), so parts that have not acknowledged COMMIT commit before the command ends. -/
def Mod.splitTimeout (m : Mod) (id : CmdId) : Mod :=
  match m.cmd? id with
  | none => m
  | some r =>
    match r.work with
    | .split unstaged failed left =>
      let t := Status.timeout.code
      if !unstaged.isEmpty then
        let (st, dt, p) := partFailed (unstaged.map (fun u => (u, t, 1)) ++ failed.map fun f => (f.1, f.2, 1))
        (m.countJob r.cmd.job .SPLIT_ABORTED).complete id st dt p
      else
        let (st, dt, p) := partFailed (left.map (fun u => (u, t, 2)) ++ failed.map fun f => (f.1, f.2, 2))
        ((left.foldl (fun m part => (m.splitCommit id part).freeStaged id part) m).payOwed id).complete id st dt p
    | _ => m

/-- On a module reset, Pholer completes every recorded commit from its staged copy (R213). -/
def Mod.finishCommits (m : Mod) : Mod :=
  let done := m.staged.filter (·.recorded)
  let m := done.foldl (fun m s => m.store s.writes) m
  { m with staged := [] }

def execPartStaged (id : CmdId) (part status : Nat) (s : State) : Host.Outcome State Fault Refusal :=
  lift (fun m => m.partStaged id part status) s

def execSplitCommit (id : CmdId) (part : Nat) (s : State) : Host.Outcome State Fault Refusal :=
  lift (fun m => m.splitCommit id part) s

def execSplitAbort (id : CmdId) (part : Nat) (s : State) : Host.Outcome State Fault Refusal :=
  lift (fun m => m.splitAbort id part) s

def execCommitAck (id : CmdId) (part : Nat) (s : State) : Host.Outcome State Fault Refusal :=
  lift (fun m => m.commitAck id part) s

end Sys2Proof.Machine
end

