-- ==== Sys2Proof/Machine/Product.lean ====
section
/-!
DEFINITION. What the arrays multiply (R139–R149, R156–R169, R176–R184): the accumulator in its fixed order, 2:4 operands,
the riddle mask tensor, and for each array command its product: the operand that streams, the one that stands, and which
elements are formed.
-/

namespace Sys2Proof.Machine

/-! ### The accumulator (R139–R147) -/

/-- The exact sum of a group of 16 consecutive k below K, rounded once (R140). -/
def groupSum (term : Nat → Val) (K g : Nat) : BitVec 32 :=
  rnd32 (exactSum ((List.range (min 16 (K - 16 * g))).map fun i => term (16 * g + i)))

/-- One addition of R141: the group sum of group `g` into acc; under ACC_SR with the random word of R147. -/
def addGroup (sr : Option Draw) (p K : Nat) (term : Nat → Val) (acc : BitVec 32) (g : Nat) : BitVec 32 :=
  let s := groupSum term K g
  match sr with
  | none => add32 acc s
  | some d => rnd32sr (d.acc p ((K + 127) / 128) g) ((f32 acc).add (f32 s))

/-- The running sum of R141 over all groups. The products are exact (R94); equal inputs give equal bits in this order, whatever the
arrays, passes and placement (R154, R155). -/
def accumulate (sr : Option Draw) (p K : Nat) (term : Nat → Val) : BitVec 32 :=
  (List.range ((K + 15) / 16)).foldl (addGroup sr p K term) negZero32

/-- The accumulator stream's draw, when ACC_SR is set (R146). -/
def Data.accDraw (x : Data) (c : View) : Option Draw := if x.c.pkt.accSr then some (x.j.draw c.d.tensor) else none

/-- The index (a, b, 0, …) of an operand with `n` dimensions. -/
def ix2 (n a b : Nat) : List Nat := a :: b :: List.replicate (n - 2) 0

def View.at2 (v : View) (rd : Nat → Byte) (a b : Nat) : Val := v.value rd (ix2 v.d.ndim a b)
def View.locs2 (v : View) (a b : Nat) : List Nat := v.locs (ix2 v.d.ndim a b)

/-! ### Terms and winners -/

end Sys2Proof.Machine

namespace Sys2Proof

open Sys2Proof.Machine

/-- The term of a product command: the exact product, square or magnitude (R135, R137, R149). -/
def Op.term (op : Op) (a b : Val) : Val :=
  match op with
  | .distL2 => (a.sub b).mul (a.sub b)
  | .distL1 => (a.sub b).abs
  | _ => a.mul b

end Sys2Proof

namespace Sys2Proof.Machine

/-- The winner of min-plus and max-plus: the value and its index (R137, R152). -/
def winner (max : Bool) (xs : List (BitVec 32)) : BitVec 32 × Nat :=
  let r := match xs with
    | [] => nan32
    | x :: rest => rest.foldl (fun a b => if max then max32 a b else min32 a b) (rnd32 (f32 x))
  let i := if (f32 r).isNan then xs.findIdx fun x => (f32 x).isNan else xs.findIdx fun x => x == r
  (r, i)

/-- One more term of min-plus or max-plus: the winner stays on a tie, and a NaN once met stays (R137, R152). -/
def bestOf (max : Bool) (a : PartAcc) (k : Nat) (x : BitVec 32) : PartAcc :=
  let x := rnd32 (f32 x)
  if k = 0 then (x, 0)
  else if (f32 a.1).isNan then a
  else
    let r := if max then max32 a.1 x else min32 a.1 x
    (r, if r == a.1 then a.2 else k)

/-! ### 2:4 operands (R156–R160) -/

/-- The dense value W[k, n] that a 2:4 operand stands for (R159). -/
def View.dense (w : View) (rd : Nat → Byte) (k n : Nat) : Val :=
  let code := w.code rd (k / 4) n
  let v := w.compressed
  if k % 4 = code % 4 then v.value rd [k / 4 * 2, n]
  else if k % 4 = code / 4 then v.value rd [k / 4 * 2 + 1, n]
  else .zero

/-- The first invalid code among groups, as the failure of R158. -/
def codeFail (w : View) (rd : Nat → Byte) (gs : List (Nat × Nat)) : Option (Status × Nat × Bytes) :=
  (gs.find? fun g => !codeOk (w.code rd g.1 g.2)).map fun g => (.bounds, w.groupDetail g.1 g.2, [])

/-- Every group of some columns of a 2:4 operand. -/
def View.groups (w : View) (cols : List Nat) : List (Nat × Nat) :=
  cols.flatMap fun n => (List.range (w.d.ext 0 / 4)).map fun q => (q, n)

/-! ### The riddle mask tensor (R179) -/

/-- Bytes of one record: the header granule and 2H bits of codes, padded to whole granules. -/
def recBytes (H : Nat) : Nat := 16 + (2 * H + 127) / 128 * 16

/-- Token groups of a command's input rows (R176). -/
def groupCount (rows : Nat) : Nat := (rows + 255) / 256

/-- The pseudo payload offset under which a command's views hold the tensor that RMASK names. -/
def rmaskKey : Nat := 4

/-- The header of a group's record as a number. -/
def View.header (v : View) (rd : Nat → Byte) (H g : Nat) : Nat :=
  leNat ((List.range 16).map fun i => rd (v.loc (recBytes H * g + i)))

/-- A neuron's code: 0 SKIPPED, 1 PREDICTED, 2 GUARD, 3 AUDITED. -/
def View.neuron (v : View) (rd : Nat → Byte) (H g j : Nat) : Nat :=
  (rd (v.loc (recBytes H * g + 16 + j / 4))).toNat / 4 ^ (j % 4) % 4

/-- The locations of a group's record. -/
def View.recordLocs (v : View) (H g : Nat) : List Nat := (List.range (recBytes H)).map fun i => v.loc (recBytes H * g + i)

def hdrMode (h : Nat) : Nat := h / 2 ^ 46 % 4
def hdrMended (h : Nat) : Bool := h / 2 ^ 45 % 2 = 1
def hdrLimit (h : Nat) : Nat := h / 2 ^ 32 % 256

/-- A group header (Table 6.4). -/
def riddleHeader (predicted guard audited mode shift limit group : Nat) : Nat :=
  predicted * 2 ^ 108 + guard * 2 ^ 88 + audited * 2 ^ 68 + mode * 2 ^ 46 + shift * 2 ^ 40 + limit * 2 ^ 32 + group

/-- A header with MISSED and MENDED set. -/
def hdrWith (h missed : Nat) (mended : Bool) : Nat :=
  h - h / 2 ^ 48 % 2 ^ 20 * 2 ^ 48 - h / 2 ^ 45 % 2 * 2 ^ 45 + missed % 2 ^ 20 * 2 ^ 48 + (if mended then 2 ^ 45 else 0)

/-- Whether the full pass computes neuron `j` of group `g` (R180). A header with the reserved mode 3 is taken
as EXACT (log 47). -/
def View.called (v : View) (rd : Nat → Byte) (H g j : Nat) : Bool :=
  let h := v.header rd H g
  let c := v.neuron rd H g j
  hdrMended h ||
    match hdrMode h with
    | 1 => c != 0
    | 2 => c == 1 || c == 2
    | _ => true

/-- The groups of 16 neurons of a token group that no pass computed (R182). -/
def skippedRuns (v : View) (rd : Nat → Byte) (H g : Nat) : List Nat :=
  (List.range ((H + 15) / 16)).filter fun t =>
    (List.range (min 16 (H - 16 * t))).all fun i => !v.called rd H g (16 * t + i)

/-- A row of X in MXFP4 under RNE and FLOOR, as the load path converts it (R177). X in MXFP4 is used as it is. -/
def mx4Row (x : View) (rd : Nat → Byte) (m : Nat) : List Val :=
  let K := x.d.ext 0
  if x.fmt = .mx4 then (List.range K).map fun k => x.at2 rd k m
  else
    (List.range ((K + 31) / 32)).flatMap fun b =>
      let vals := (List.range 32).map fun e => if 32 * b + e < K then x.at2 rd (32 * b + e) m else .zero
      let blk := (encodeBlock .mx4 {} (fun _ => 0) vals).1
      (List.range (min 32 (K - 32 * b))).map fun e => blk.value .mx4 e

/-! ### Products -/

/-- The operands of a command of the arrays: the streamed one, the stationary one, and the result (R574). -/
def Data.opA (x : Data) : View := x.v (if x.c.op == .mend then 0x10 else 0x20)
def Data.opB (x : Data) : View := x.v (if x.c.op == .mend then 0x20 else 0x30)
def Data.opC (x : Data) : View := x.v (if x.c.op == .mend then 0x30 else 0x40)

/-- What a RIDDLE noted of the mask tensor that a MATMUL names. -/
def Data.riddleNote? (x : Data) : Option RiddleNote :=
  match x.v? rmaskKey with
  | none => none
  | some v => x.j.riddleNotes.find? fun r => r.tensor == v.d.tensor

/-- Whether a MATMUL with a riddle mask is a weight gradient: the tokens of the mask lie along its reduction, and not along
its rows (R184). No field says so: the model tells it from the shape that the RIDDLE gave the mask (log 104). -/
def Data.alongK (x : Data) : Bool :=
  x.c.op == .matmul && x.c.pkt.u 1 1 != 0 &&
    match x.riddleNote? with
    | none => false
    | some r =>
      let k := x.opA.d.ext 0
      let m := x.opA.d.ext 1
      let n := x.opB.d.ext 1
      !(m == r.rows && r.hidden == (if x.c.pkt.u 1 1 = 1 then n else k)) && k == r.rows && (n == r.hidden || m == r.hidden)

/-- A product of the arrays: the reduction length, the draw of ACC_SR with the position that it counts by (R147), the term of
two elements, the mode in which the greatest or least term wins, the elements of the streamed and of the stationary
operand with their locations, the groups of 16 k that the feeder skips for a row (R182), the outputs that are formed, and
how an invalid code met in a tile or a streamed row fails (R158). -/
structure Product where
  k : Nat
  draw : Option Draw := none
  pos : Nat → Nat → Nat := fun _ _ => 0
  term : Val → Val → Val := Val.mul
  best : Option Bool := none
  stream : Nat → Nat → Val
  streamLocs : Nat → Nat → List Nat
  weight : Nat → Nat → Val
  weightLocs : Nat → Nat → List Nat
  skip : Nat → Nat → Bool := fun _ _ => false
  on : Nat → Nat → Bool := fun _ _ => true
  tileFail : List Nat → List Nat → Option (Status × Nat × Bytes) := fun _ _ => none
  rowFail : Nat → List Nat → Option (Status × Nat × Bytes) := fun _ _ => none

/-- MATMUL without a role, in role UP, DISTANCE and MEND. -/
def Data.plainProduct (x : Data) (rd : Nat → Byte) : Product :=
  let a := x.opA.forRead
  let b := x.opB.forRead
  { k := a.d.ext 0, draw := x.accDraw x.opC, pos := fun m n => m * b.d.ext 1 + n, term := x.c.op.term
    best := if x.c.op == .distMinPlus then some false else if x.c.op == .distMaxPlus then some true else none
    stream := fun m k => a.at2 rd k m, streamLocs := fun m k => a.locs2 k m
    weight := fun k n => b.at2 rd k n, weightLocs := fun k n => b.locs2 k n }

/-- MATMUL in role DOWN (R182): an uncomputed neuron's activation is +0, and the runs that no pass computed are skipped. -/
def Data.downProduct (x : Data) (rd : Nat → Byte) : Product :=
  let p := x.plainProduct rd
  let v := x.v rmaskKey
  { p with
    stream := fun m k => if v.called rd p.k (m / 256) k then p.stream m k else .zero
    skip := fun m g => (skippedRuns v rd p.k (m / 256)).contains g }

/-- A weight gradient that names the mask (R184): the elements of an uncomputed neuron are +0 for the tokens of its group,
and a neuron that no group computed is not formed. -/
def Data.gradProduct (x : Data) (rd : Nat → Byte) : Product :=
  let p := x.plainProduct rd
  let v := x.v rmaskKey
  let H := (x.riddleNote?.map (·.hidden)).getD 1
  let cols := x.opB.d.ext 1 == H
  let ever (j : Nat) : Bool := (List.range (groupCount p.k)).any fun g => v.called rd H g j
  { p with
    stream := fun m k => if cols || v.called rd H (k / 256) m then p.stream m k else .zero
    weight := fun k n => if !cols || v.called rd H (k / 256) n then p.weight k n else .zero
    on := fun m n => ever (if cols then n else m) }

/-- MATMUL_SPARSE FORWARD: C := A × W (R163). -/
def Data.forwardProduct (x : Data) (rd : Nat → Byte) : Product :=
  let a := x.opA.forRead
  let w := x.opB.forRead
  { k := a.d.ext 0, draw := x.accDraw x.opC, pos := fun m n => m * w.d.ext 1 + n
    stream := fun m k => a.at2 rd k m, streamLocs := fun m k => a.locs2 k m
    weight := fun k n => w.dense rd k n, weightLocs := fun k n => w.groupLocs (k / 4) n
    tileFail := fun ks cols => codeFail w rd (cols.flatMap fun n => ((ks.map (· / 4)).eraseDups).map fun q => (q, n)) }

/-- MATMUL_SPARSE DATA_GRAD: dA := dC × Wᵀ (R163, R168). -/
def Data.dataProduct (x : Data) (rd : Nat → Byte) : Product :=
  let a := x.opA.forRead
  let w := x.opB.forRead
  { k := a.d.ext 0, draw := x.accDraw x.opC, pos := fun m n => m * w.d.ext 0 + n
    stream := fun m k => a.at2 rd k m, streamLocs := fun m k => a.locs2 k m
    weight := fun k n => w.dense rd n k, weightLocs := fun k n => w.groupLocs (n / 4) k
    tileFail := fun ks cols => codeFail w rd (ks.flatMap fun n => ((cols.map (· / 4)).eraseDups).map fun q => (q, n)) }

/-- MATMUL_SPARSE WEIGHT_GRAD: dW := Aᵀ × dC at kept positions; the streamed rows are the k (R169). -/
def Data.weightProduct (x : Data) (rd : Nat → Byte) : Product :=
  let a := x.opA.forRead
  let w := x.opB.forRead
  let dc := (x.v 0x50).forRead
  { k := a.d.ext 1, draw := x.accDraw x.opC, pos := fun k n => k * w.d.ext 1 + n
    stream := fun k m => a.at2 rd k m, streamLocs := fun k m => a.locs2 k m
    weight := fun m n => dc.at2 rd n m, weightLocs := fun m n => dc.locs2 n m
    on := fun k n => let c := w.code rd (k / 4) n; k % 4 == c % 4 || k % 4 == c / 4
    rowFail := fun k cols => codeFail w rd (cols.map fun n => (k / 4, n)) }

/-- RIDDLE's estimates: X in MXFP4 against Ŵ, in R141's order (R177). -/
def Data.riddleProduct (x : Data) (rd : Nat → Byte) : Product :=
  let a := x.opA.forRead
  let b := x.opB.forRead
  { k := a.d.ext 0
    stream := fun m k => (mx4Row a rd m).getD k .zero, streamLocs := fun m k => a.locs2 k m
    weight := fun k n => b.at2 rd k n, weightLocs := fun k n => b.locs2 k n }

/-- The product of an array command. -/
def Data.product (x : Data) (rd : Nat → Byte) : Product :=
  match x.c.op with
  | .sparseForward => x.forwardProduct rd
  | .sparseDataGrad => x.dataProduct rd
  | .sparseWeightGrad => x.weightProduct rd
  | .riddleExact | .riddleGuarded | .riddleFree => x.riddleProduct rd
  | .matmul => if x.alongK then x.gradProduct rd else if x.c.pkt.u 1 1 = 2 then x.downProduct rd else x.plainProduct rd
  | _ => x.plainProduct rd

/-- The accumulator before the first group (R139). -/
def accStart : PartAcc := (negZero32, 0)

/-- What a pass over k from `k0` to `k1 − 1` adds to an accumulator of row `m` and column `n`: the loop of R144, with the
elements `s` of the row and `w` of the column; in min-plus and max-plus the terms in increasing k (R137). -/
def Product.span (p : Product) (m n : Nat) (s w : Nat → Val) (k0 k1 : Nat) (acc : PartAcc) : PartAcc :=
  let k1 := min k1 p.k
  match p.best with
  | some max => ((List.range (k1 - k0)).map (k0 + ·)).foldl (fun a k => bestOf max a k (rnd32 ((s k).add (w k)))) acc
  | none =>
    (((List.range ((k1 + 15) / 16 - k0 / 16)).map (k0 / 16 + ·)).foldl (fun a g =>
      if p.skip m g then a else addGroup p.draw (p.pos m n) p.k (fun k => p.term (s k) (w k)) a g) acc.1, acc.2)

/-- The accumulator of row `m` and column `n` after the whole loop of R141. -/
def Product.whole (p : Product) (m n : Nat) : PartAcc := p.span m n (p.stream m) (fun k => p.weight k n) 0 p.k accStart

/-- The locations of the operands of some rows and columns; a group of k that the feeder skips is not read. -/
def Product.rowLocs (p : Product) (m k0 k1 : Nat) : List Nat :=
  (((List.range (k1 - k0)).map (k0 + ·)).filter fun k => !p.skip m (k / 16)).flatMap (p.streamLocs m)

/-- The k of a tile that some row of a pass needs. -/
def Product.tileKs (p : Product) (rows : List Nat) (k0 k1 : Nat) : List Nat :=
  ((List.range (k1 - k0)).map (k0 + ·)).filter fun k => rows.any fun m => !p.skip m (k / 16)

def Product.colLocs (p : Product) (rows cols : List Nat) (k0 k1 : Nat) : List Nat :=
  cols.flatMap fun n => (p.tileKs rows k0 k1).flatMap fun k => p.weightLocs k n

/-- The accumulator of C[m, n]: as the passes formed it, or at once where no pass runs. -/
def Data.acc (x : Data) (rd : Nat → Byte) (n m : Nat) : PartAcc :=
  match x.formed with
  | some l => ((l.find? fun e => e.1 == m && e.2.1 == n).map (·.2.2)).getD accStart
  | none => (x.product rd).whole m n

/-- An FP32 accumulator as C[m, n]. -/
def Data.dot (x : Data) (rd : Nat → Byte) (n m : Nat) : BitVec 32 := (x.acc rd n m).1

/-- What a command reads of its operands where no pass reads them: the rows `rows` and the columns `cols`. -/
def Data.operandLocs (x : Data) (rd : Nat → Byte) (rows cols : List Nat) : List Nat :=
  if x.formed.isSome then []
  else
    let p := x.product rd
    rows.flatMap (fun m => p.rowLocs m 0 p.k) ++ p.colLocs rows cols 0 p.k

/-- How an invalid code in the groups that a command reads fails (R158): of several the first in column-then-group order
(DESIGN CHOICE, log 103). -/
def Data.codesFail (x : Data) (rd : Nat → Byte) (rows cols : List Nat) : Option (Status × Nat × Bytes) :=
  let p := x.product rd
  if rows.isEmpty then none
  else ((p.tileFail (List.range p.k) cols).or (cols.findSome? fun n => rows.findSome? fun m => p.rowFail m [n]))

end Sys2Proof.Machine
end

