-- ==== Sys2Proof/Machine/Compute.lean ====
section
/-!
DEFINITION. The products of the arrays in their fixed order (R139–R149, R574), HADAMARD (R134), DISTANCE
(R135–R137, R153), REDUCE_LOCAL (R151–R153) and SPMM (R170–R174): rules, results, bounds.
-/

namespace Sys2Proof.Machine

/-! ### Check 13 -/

/-- The largest reduction length (R143). -/
def kMax : Nat := 2097152

/-- Dimensions 2–5 of an array operand have extent 1 (R574). Table 4.1's operands have dimensions 0 and 1; the rule names
no refusal of NDIM 1, and the model refuses it at NDIM (DESIGN CHOICE, log 103). -/
def Opnd.flat (o : Opnd) : List Viol :=
  o.rule (o.desc.ndim < 2) 2 ++
    (List.range (o.desc.ndim - 2)).flatMap fun k => o.rule (o.desc.ext (k + 2) != 1) (dimField (k + 2) 0)

/-- Extents of two operands agree; the later one is named (R574). -/
def sameExt (a : Opnd) (i : Nat) (b : Opnd) (j : Nat) : List Viol := b.rule (a.desc.ext i != b.desc.ext j) (dimField j 0)

/-- The reduction length, EXTENT of dimension `k` of the operand that gives it, lies within 1 to 2,097,152 (R143). -/
def Opnd.kRule (o : Opnd) (k : Nat) : List Viol := o.rule (o.desc.ext k == 0 || kMax < o.desc.ext k) (dimField k 0)

/-- MATMUL, DISTANCE and the dense shapes of MATMUL_SPARSE FORWARD. -/
def productViols (a b c : Opnd) (mask : Option Opnd) : List Viol :=
  a.flat ++ b.flat ++ c.flat ++ sameExt a 0 b 0 ++ sameExt b 1 c 0 ++ sameExt a 1 c 1 ++
    a.kRule 0 ++ c.rule c.desc.fmt.isInt 3 ++ maskRule mask (a.desc.ext 1)

/-- ROLE and RMASK (R180, R182). -/
def roleViols (plan : Plan) (p : Packet) (roles : Bool) : List Viol :=
  let role := p.u 1 1
  fieldRule (if roles then 2 < role else role != 0) 1 ++
    fieldRule (if role = 0 then p.u 4 4 != 0 else !plan.declares (p.u 4 4)) 4

/-- The rules of a 2:4 operand (R156) with values in the given formats. -/
def Opnd.sparse (o : Opnd) : List Viol :=
  o.rule (!o.desc.sparse24) 2 ++ o.rule (o.desc.ext 0 % 4 != 0) (dimField 0 0) ++
    o.rule (o.desc.ext 1 % 4 != 0) (dimField 1 0)

/-- The operand of an entry, when it is named. -/
def opnd? (os : List Opnd) (off : Nat) : Option Opnd := os.find? fun o => o.off == off

/-- The rules of the array and vector commands other than RIDDLE, MEND and VEXPR. Two marks (DESIGN CHOICE, log 103):
HADAMARD operands of unequal NDIM are refused at the later NDIM, where R574 names EXTENT alone; and the reduced extent of
a REDUCE_LOCAL is held below 2^31 whether or not an index tensor is named, as R153's sentence can be read. -/
def computeViols (op : Op) (plan : Plan) (p : Packet) (os : List Opnd) : List Viol :=
  let o (off : Nat) : Opnd := Op.at_ os off
  let a := o 0x20
  let b := o 0x30
  let c := o 0x40
  let mask := opnd? os 0x50
  match op with
  | .matmul =>
    productViols a b c mask ++ b.rule (!a.desc.fmt.pairOk b.desc.fmt) 3 ++ roleViols plan p true
  | .hadamard =>
    let same (x : Opnd) : List Viol :=
      x.ndimRule a.desc.ndim ++ (List.range a.desc.ndim).flatMap fun k => sameExt a k x k
    same b ++ same c ++ b.rule (!a.desc.fmt.pairOk b.desc.fmt) 3 ++ c.rule c.desc.fmt.isInt 3 ++
      maskRule mask (c.desc.ext c.desc.rowDim) ++ roleViols plan p false
  | .sparseForward =>
    productViols a b c mask ++ b.sparse ++ b.rule (!a.desc.fmt.pairOk b.desc.fmt) 3 ++ roleViols plan p false
  | .sparseDataGrad =>
    a.flat ++ b.flat ++ c.flat ++ sameExt a 0 b 1 ++ sameExt b 0 c 0 ++ sameExt a 1 c 1 ++
      a.kRule 0 ++ c.rule c.desc.fmt.isInt 3 ++
      maskRule mask (a.desc.ext 1) ++ b.sparse ++ a.fmtRule Fmt.sparseGradOk ++ b.fmtRule Fmt.sparseGradOk ++
      b.rule (!a.desc.fmt.pairOk b.desc.fmt) 3 ++ roleViols plan p false
  | .sparseWeightGrad =>
    let dc := o 0x50
    let half := if c.desc.sparse24 then b.desc.ext 0 else b.desc.ext 0 / 2
    a.flat ++ b.flat ++ c.flat ++ dc.flat ++ sameExt a 0 b 0 ++ c.extRule 0 half ++ sameExt b 1 c 1 ++
      sameExt b 1 dc 0 ++ sameExt a 1 dc 1 ++ a.kRule 1 ++
      c.rule c.desc.fmt.isInt 3 ++ b.sparse ++ a.fmtRule Fmt.sparseGradOk ++ b.fmtRule Fmt.sparseGradOk ++
      dc.fmtRule Fmt.sparseGradOk ++ dc.rule (!a.desc.fmt.pairOk dc.desc.fmt) 3 ++ roleViols plan p false
  | .distMinPlus | .distMaxPlus | .distL2 | .distL1 =>
    let ix := opnd? os 0x60
    productViols a b c mask ++ b.rule (!a.desc.fmt.fitchOk b.desc.fmt) 3 ++
      (match ix with
        | none => []
        | some i =>
          i.entryRule (op == .distL2 || op == .distL1) ++ i.rule (i.desc.fmt != .int32) 3 ++
            i.ndimRule c.desc.ndim ++ (List.range c.desc.ndim).flatMap fun k => sameExt c k i k)
  | .reduceSum | .reduceSumsq | .reduceMax | .reduceMin =>
    let d := o 0x10
    let s := o 0x20
    let k := p.u 1 1
    let ix := opnd? os 0x30
    fieldRule (s.desc.ndim ≤ k) 1 ++ s.rule (s.desc.fmt.isInt || d.desc.fmt.isInt) 3 ++
      s.ndimRule d.desc.ndim ++ s.rule (2 ^ 31 ≤ s.desc.ext k) (dimField k 0) ++
      (List.range d.desc.ndim).flatMap (fun j => if j = k then d.extRule j 1 else sameExt d j s j) ++
      (match ix with
        | none => []
        | some i =>
          i.entryRule (op == .reduceSum || op == .reduceSumsq) ++ i.rule (i.desc.fmt != .int32) 3 ++
            i.ndimRule d.desc.ndim ++ (List.range d.desc.ndim).flatMap fun j => sameExt d j i j)
  | .spmm =>
    let c := o 0x10
    let ptr := o 0x20
    let col := o 0x30
    let val := o 0x40
    let d := o 0x50
    let big (x : Opnd) (k : Nat) : List Viol := x.rule (2 ^ 31 ≤ x.desc.ext k) (dimField k 0)
    c.flat ++ d.flat ++ ptr.ndimRule 1 ++ col.ndimRule 1 ++ val.ndimRule 1 ++ pairRule c val ++ pairRule c d ++
      ptr.rule (ptr.desc.fmt != .int32) 3 ++
      col.rule (!(col.desc.fmt == .int32 || (col.desc.fmt == .int8 && d.desc.ext 1 ≤ 127))) 3 ++
      val.fmtRule Fmt.isScalarFloat ++ d.fmtRule Fmt.isScalarFloat ++ ptr.extRule 0 (c.desc.ext 1 + 1) ++
      sameExt col 0 val 0 ++ sameExt c 0 d 0 ++ big c 0 ++ big c 1 ++ big d 1 ++ big col 0
  | _ => []

/-- The row mask of a command (R523). -/
def Data.mask (x : Data) (off : Nat) : Option View := (x.v? off).map View.forRead

/-- Results at the positions of a destination's own extent within rows `lo` to `hi − 1`: `f` at fed rows; at
masked rows +0 under MASK_OUT ZERO, and untouched under KEEP (R120). -/
def rowResults (c : View) (row lo hi : Nat) (fed : Nat → Bool) (zero : Bool) (f : List Nat → Val) : List (List Nat × Val) :=
  (boxIdx (c.part row lo hi)).filterMap fun i =>
    if fed (i.getD row 0) then some (i, f i) else if zero then some (i, .zero) else none

/-- The fed rows within a destination's own extent and a segment. -/
def fedRows (c : View) (row lo hi : Nat) (fed : Nat → Bool) : List Nat :=
  let b := (c.part row lo hi).getD row (0, 0)
  ((List.range b.2).map (b.1 + ·)).filter fed

/-- The columns of a destination's own extent. -/
def ownCols (c : View) : List Nat :=
  let b := c.d.ownBox.getD 0 (0, 0)
  (List.range b.2).map (b.1 + ·)

/-! ### MATMUL and DISTANCE in its summing modes -/

/-- The winner index of DISTANCE (R153). -/
def Data.indexPut (x : Data) (rd : Nat → Byte) (fed : Nat → Bool) (lo hi : Nat) : Put :=
  match x.v? 0x60 with
  | none => {}
  | some i =>
    i.put rd {} (fun _ => 0) (rowResults i 1 lo hi fed x.c.pkt.maskOut fun idx =>
      Val.ofInt (x.acc rd (idx.headD 0) (idx.getD 1 0)).2)

/-- MATMUL without a role, and DISTANCE. -/
def productBody (x : Data) (lo hi : Nat) (rd : Nat → Byte) : Effect :=
  let a := x.opA
  let c := x.opC
  let mask := x.mask 0x50
  let fed := fedRow mask rd
  let vals := rowResults c 1 lo hi fed x.c.pkt.maskOut fun i => f32 (x.dot rd (i.headD 0) (i.getD 1 0))
  { stages := [maskLocs mask (a.d.ext 1), x.operandLocs rd (fedRows c 1 lo hi fed) (ownCols c)]
    put := (c.put rd x.conv (x.j.srWord c.d) vals).add (x.indexPut rd fed lo hi) }

/-! ### HADAMARD (R134) -/

def hadamardBody (x : Data) (lo hi : Nat) (rd : Nat → Byte) : Effect :=
  let a := (x.v 0x20).forRead
  let b := (x.v 0x30).forRead
  let c := x.v 0x40
  let row := c.d.rowDim
  let mask := x.mask 0x50
  let fed := fedRow mask rd
  let idx := (boxIdx (c.part row lo hi)).filter fun i => fed (i.getD row 0)
  let vals := rowResults c row lo hi fed x.c.pkt.maskOut fun i => (a.value rd i).mul (b.value rd i)
  { stages := [maskLocs mask (c.d.ext row), idx.flatMap fun i => a.locs i ++ b.locs i]
    put := c.put rd x.conv (x.j.srWord c.d) vals }

/-! ### MATMUL_SPARSE (R156–R169) -/

/-- FORWARD and DATA_GRAD (R163). -/
def sparseProductBody (x : Data) (lo hi : Nat) (rd : Nat → Byte) : Effect :=
  let c := x.opC
  let mask := x.mask 0x50
  let fed := fedRow mask rd
  let rows := fedRows c 1 lo hi fed
  let vals := rowResults c 1 lo hi fed x.c.pkt.maskOut fun i => f32 (x.dot rd (i.headD 0) (i.getD 1 0))
  { stages := [maskLocs mask (x.opA.d.ext 1), x.operandLocs rd rows (ownCols c)]
    put := c.put rd x.conv (x.j.srWord c.d) vals
    fail := x.codesFail rd rows (ownCols c) }

/-- FORWARD: C := A × W. -/
def sparseForwardBody (x : Data) (lo hi : Nat) (rd : Nat → Byte) : Effect := sparseProductBody x lo hi rd

/-- Whether a 4 × 4 block (a, b) of a 2:4 operand keeps two positions in each of its rows (R160). -/
def View.transposable (w : View) (rd : Nat → Byte) (a b : Nat) : Bool :=
  (List.range 4).all fun r =>
    (List.range 4).countP (fun j => let code := w.code rd a (4 * b + j); r == code % 4 || r == code / 4) == 2

/-- DATA_GRAD: dA := dC × Wᵀ. -/
def sparseDataBody (x : Data) (lo hi : Nat) (rd : Nat → Byte) : Effect := sparseProductBody x lo hi rd

/-- The own extent of WEIGHT_GRAD's destination in compressed rows and columns. -/
def Data.gradBox (x : Data) : List (Nat × Nat) :=
  let dw := x.opC
  if dw.d.sparse24 then
    dw.d.ownBox.zipIdx.map fun (b, i) =>
      if i = 0 then (2 * ((b.1 + 3) / 4), 2 * ((b.1 + b.2 + 3) / 4) - 2 * ((b.1 + 3) / 4)) else b
  else dw.d.ownBox

/-- WEIGHT_GRAD: dW := Aᵀ × dC at kept positions; the rows are the dense k (R169). -/
def sparseWeightBody (x : Data) (lo hi : Nat) (rd : Nat → Byte) : Effect :=
  let w := x.opB.forRead
  let dw := x.opC
  let out := if dw.d.sparse24 then dw.compressed else dw
  let idx := boxIdx (clampDim x.gradBox 0 (lo / 2) (hi / 2))
  let kept (r n : Nat) : Nat :=
    let code := w.code rd (r / 2) n
    r / 2 * 4 + (if r % 2 = 0 then code % 4 else code / 4)
  let gs := (idx.map fun i => (i.headD 0 / 2, i.getD 1 0)).eraseDups
  let at_ (i : List Nat) : Nat × Nat := let n := i.getD 1 0; (kept (i.headD 0) n, n)
  let vals := idx.map fun i => (i, f32 (x.dot rd (at_ i).2 (at_ i).1))
  { stages := [gs.map (fun g => w.loc (w.d.codeOff g.1 g.2)),
      if x.formed.isSome then [] else idx.flatMap fun i => x.operandLocs rd [(at_ i).1] [(at_ i).2]]
    put := out.put rd x.conv (x.j.srWord dw.d) vals
    fail := codeFail w rd gs }

/-! ### REDUCE_LOCAL (R151–R153) -/

/-- SUM and SUMSQ: chunks of 256 in a tree, chunk results in order (R151). -/
def reduceChunks (sq : Bool) : Nat → BitVec 32 → List (BitVec 32) → BitVec 32
  | 0, acc, _ => acc
  | _ + 1, acc, [] => acc
  | fuel + 1, acc, v =>
    let c := (padNegZero 256 (v.take 256)).zipIdx.map fun (x, i) => if sq && i < v.length then mul32 x x else x
    reduceChunks sq fuel (add32 acc (treeAdd 8 c)) (v.drop 256)

/-- One result of REDUCE_LOCAL and the winner's index (R151, R152). -/
def reduceOne (op : Op) (v : List (BitVec 32)) : BitVec 32 × Nat :=
  match op with
  | .reduceMax => winner true v
  | .reduceMin => winner false v
  | _ => (reduceChunks (op == .reduceSumsq) (v.length / 256 + 1) negZero32 v, 0)

/-- REDUCE_LOCAL. Every element widens to FP32, and one beyond its range counts (R95). -/
def reduceBody (x : Data) (lo hi : Nat) (rd : Nat → Byte) : Effect :=
  let d := x.v 0x10
  let s := (x.v 0x20).forRead
  let k := x.c.pkt.u 1 1
  let n := s.d.ext k
  let line (i : List Nat) : List (List Nat) := (List.range n).map fun e => i.set k e
  let wide (i : List Nat) : List (BitVec 32 × Bool) := (line i).map fun e => widen (s.value rd e)
  let idx := boxIdx (d.part d.d.rowDim lo hi)
  let vals := idx.map fun i => (i, f32 (reduceOne x.c.op ((wide i).map (·.1))).1)
  let ixIdx := match x.v? 0x30 with
    | some v => boxIdx (v.part v.d.rowDim lo hi)
    | none => []
  let ixPut := match x.v? 0x30 with
    | some v => v.put rd {} (fun _ => 0)
        (ixIdx.map fun i => (i, Val.ofInt (reduceOne x.c.op ((wide i).map (·.1))).2))
    | none => {}
  { stages := [((idx ++ ixIdx).eraseDups).flatMap fun i => (line i).flatMap s.locs]
    put := (d.put rd x.conv (x.j.srWord d.d) vals).add ixPut
    nonfinite := (((idx ++ ixIdx).eraseDups).map fun i => (wide i).countP (·.2)).sum }

/-! ### SPMM (R170–R174) -/

/-- A segment's partial: 256 products in a tree (R173). -/
def segmentPartial (ps : List (BitVec 32)) : BitVec 32 := treeAdd 8 (padNegZero 256 ps)

/-- The segments of a row: runs of 256 nonzeros (R172). -/
def segmentsOf {α : Type} : Nat → List α → List (List α)
  | 0, _ => []
  | _ + 1, [] => []
  | fuel + 1, l => l.take 256 :: segmentsOf fuel (l.drop 256)

/-- The number of levels of a merge: the least k with 2^k ≥ S. -/
def mergeLevels (S : Nat) : Nat := if S ≤ 1 then 0 else Nat.log2 (S - 1) + 1

/-- The merge of a row's partials (R174). -/
def mergePartials (ps : List (BitVec 32)) : BitVec 32 :=
  if ps.isEmpty then 0#32
  else
    let k := mergeLevels ps.length
    treeAdd k (padNegZero (2 ^ k) ps)

/-- The DETAIL of a pointer fault (R171). -/
def pointerFault (ptr : List Int) (nnz : Nat) : Option Nat :=
  let bad (i : Nat) : Bool :=
    let v := ptr.getD i 0
    (i == 0 && v != 0) || (0 < i && v < ptr.getD (i - 1) 0) || (i + 1 == ptr.length && v != nnz)
  ((List.range ptr.length).find? bad).map (2 ^ 63 + ·)

/-- SPMM. The order of the partials follows from the matrix alone, and not from the placement (R175). -/
def spmmBody (x : Data) (lo hi : Nat) (rd : Nat → Byte) : Effect :=
  let c := x.v 0x10
  let ptrV := (x.v 0x20).forRead
  let col := (x.v 0x30).forRead
  let val := (x.v 0x40).forRead
  let d := (x.v 0x50).forRead
  let ptr := ptrV.ints rd
  let nnz := val.d.ext 0
  let at_ (r : Nat) : List Nat :=
    let a := (ptr.getD r 0).toNat
    (List.range ((ptr.getD (r + 1) 0).toNat - a)).map (a + ·)
  let rows := fedRows c 1 lo hi fun _ => true
  let cols := ownCols c
  let K := d.d.ext 1
  let colOf (i : Nat) : Nat := (col.int rd [i]).toNat
  let bad := (List.range nnz).find? fun i => let v := col.int rd [i]; v < 0 || (K : Int) ≤ v
  let fail := (pointerFault ptr nnz).or bad
  let products (r n : Nat) : List (BitVec 32) :=
    (at_ r).map fun i => rnd32 ((f32 (widen (val.value rd [i])).1).mul (f32 (widen (d.at2 rd n (colOf i))).1))
  let one (i : List Nat) : Val :=
    let ps := products (i.getD 1 0) (i.headD 0)
    f32 (mergePartials ((segmentsOf (ps.length / 256 + 1) ps).map segmentPartial))
  { stages := [ptrV.boxLocs ptrV.d.fullBox, (List.range nnz).flatMap (fun i => col.locs [i]),
      if fail.isSome then [] else
        rows.flatMap fun r => (at_ r).flatMap fun i => val.locs [i] ++ cols.flatMap fun n => d.locs2 n (colOf i)]
    put := if fail.isSome then {} else c.put rd x.conv (x.j.srWord c.d) (rowResults c 1 lo hi (fun _ => true) false one)
    fail := fail.map fun n => (.bounds, n, []) }

/-! ### Bounds (R196) -/

/-- Which rows a test takes as fed: by the mask when it lies here, otherwise all. -/
def testFed (mask : Option View) (rd : Nat → Byte) (rows i : Nat) : Bool :=
  if (maskLocs mask rows).all isLocal then fedRow mask rd i else true

/-- Tests in the order of the roles of R196. -/
def firstOf (l : List (Option Nat)) : Option Nat := l.findSome? id

/-- What an array or vector command of this file finds out of bounds when it starts. -/
def computeTest (x : Data) (rd : Nat → Byte) : Option Nat :=
  let a := x.v 0x20
  let b := x.v 0x30
  let c := x.v 0x40
  let mask := x.v? 0x50
  let maskTest (rows : Nat) : Option Nat :=
    mask.bind fun v => v.test ((List.range ((rows + 7) / 8)).map fun i => [i])
  let own (v : View) : Option Nat := v.test (boxIdx v.d.ownBox)
  let all (v : View) : Option Nat := v.test (boxIdx v.d.fullBox)
  let rowsOf (rows : Nat) (row : Nat) : List Nat := fedRows c row 0 rows (testFed mask rd rows)
  let lines (v : View) (K : Nat) (ms : List Nat) : Option Nat :=
    v.test (ms.flatMap fun m => (List.range K).map fun k => ix2 v.d.ndim k m)
  let index (off : Nat) : Option Nat := (x.v? off).bind own
  match x.c.op with
  | .matmul | .distMinPlus | .distMaxPlus | .distL2 | .distL1 =>
    let K := a.d.ext 0
    firstOf [own c, lines a K (rowsOf (a.d.ext 1) 1), maskTest (a.d.ext 1), index 0x60, lines b K (ownCols c)]
  | .hadamard =>
    let row := c.d.rowDim
    let fed := testFed mask rd (c.d.ext row)
    let idx := (boxIdx c.d.ownBox).filter fun i => fed (i.getD row 0)
    firstOf [own c, a.test idx, maskTest (c.d.ext row), b.test idx]
  | .sparseForward =>
    firstOf [own c, lines a (a.d.ext 0) (rowsOf (a.d.ext 1) 1), maskTest (a.d.ext 1), b.testGroups (b.groups (ownCols c))]
  | .sparseDataGrad =>
    firstOf [own c, lines a (a.d.ext 0) (rowsOf (a.d.ext 1) 1), maskTest (a.d.ext 1),
      b.testGroups ((b.groups (List.range (a.d.ext 0))).filter fun g => (ownCols c).any fun k => k / 4 == g.1)]
  | .sparseWeightGrad =>
    firstOf [if c.d.sparse24 then c.testGroups (groupsOf c.d.ownBox) else own c, all a,
      b.testGroups (b.groups (List.range (b.d.ext 1))), (x.v? 0x50).bind all]
  | .spmm =>
    firstOf [own (x.v 0x10), all (x.v 0x40), all (x.v 0x20), all (x.v 0x30), all (x.v 0x50)]
  | _ =>
    let d := x.v 0x10
    let s := x.v 0x20
    let k := x.c.pkt.u 1 1
    let n := s.d.ext k
    firstOf [own d, s.test ((boxIdx d.d.ownBox).flatMap fun i => (List.range n).map fun e => i.set k e), index 0x30]

/-- R346 for the commands of this file. -/
def computeLimits (op : Op) (p : Packet) (os : List Opnd) : List Viol :=
  let o (off : Nat) : Opnd := Op.at_ os off
  let a := (o 0x20).desc
  let b := (o 0x30).desc
  let c := o 0x40
  match op with
  | .matmul | .sparseForward | .distL2 | .distL1 | .distMinPlus | .distMaxPlus =>
    accLimit p.accSr (a.ext 1) (b.ext 1) (a.ext 0) c ++ srLimit (op.conv p) c
  | .sparseDataGrad => accLimit p.accSr (a.ext 1) (b.ext 0) (a.ext 0) c ++ srLimit (op.conv p) c
  | .sparseWeightGrad => accLimit p.accSr (a.ext 0) (b.ext 1) (a.ext 1) c ++ srLimit (op.conv p) c
  | .hadamard => srLimit (op.conv p) c
  | _ => srLimit (op.conv p) (o 0x10)

end Sys2Proof.Machine
end

