-- ==== Sys2Proof/Machine/Riddle.lean ====
section
/-!
DEFINITION. The riddle pass (R176–R185): RIDDLE, MATMUL in the roles UP and DOWN, MEND, and the riddle mask
tensor.
-/

namespace Sys2Proof.Machine

/-- Writes of a group's header. -/
def View.putHeader (v : View) (H g h : Nat) : List (Nat × Byte) :=
  v.writesAt ((List.range 16).map fun i => ((recBytes H * g + i : Nat) : Int)) (leBytes 16 h)

/-! ### RIDDLE (R177–R179) -/

/-- A group's code for a neuron from the estimates of its fed rows (R177). -/
def classify (tau delta : Val) (audit : Bool) (z : List (BitVec 32)) : Nat :=
  match z with
  | [] => 0
  | e :: es =>
    let zmax := es.foldl max32 e
    if z.any (fun b => (f32 b).isNan) || (tau.add delta).lt (f32 zmax) then 1
    else if (tau.sub delta).le (f32 zmax) then 2
    else if audit then 3
    else 0

/-- AUDIT_SHIFT: 0xFF selects 6 (R178). -/
def auditShift (p : Packet) : Nat := if p.u 0 1 = 0xFF then 6 else p.u 0 1

/-- The RIDDLE_ACT declaration that ACT names. -/
def Plan.act (plan : Plan) (p : Packet) : RiddleAct := plan.riddleActs.getD (p.u 2 2 - 1) ⟨0, 0⟩

/-- The mode of a RIDDLE variant (R179). -/
def riddleMode (op : Op) : Nat := op.variant

/-- The bytes of one group's record. -/
def riddleRecord (x : Data) (rd : Nat → Byte) (g : Nat) : Bytes × List Nat :=
  let w := x.opB
  let mask := x.mask 0x40
  let H := w.d.ext 1
  let rows := ((List.range 256).map (256 * g + ·)).filter fun m => m < x.opA.d.ext 1 && fedRow mask rd m
  let act := x.j.plan.act x.c.pkt
  let tau := f32 (BitVec.ofNat 32 act.tau)
  let delta := f32 (BitVec.ofNat 32 act.delta)
  let guarded := x.c.op == .riddleGuarded
  let a := auditShift x.c.pkt
  let draw := x.j.draw (x.v 0x10).d.tensor
  let codes := (List.range H).map fun j =>
    classify tau delta (guarded && draw.audit g H j % 2 ^ a == 0) (rows.map fun m => x.dot rd j m)
  let n (c : Nat) : Nat := codes.countP (· == c)
  let h := riddleHeader (n 1) (n 2) (n 3) (riddleMode x.c.op) a (x.c.pkt.u 1 1) g
  (leBytes 16 h ++ leBytes ((2 * H + 127) / 128 * 16) (packBits 2 codes), codes)

/-- The codes follow from the inputs, the job seed, the step and the mask's tensor alone (R186); what a SKIPPED neuron loses is
bounded by R187 and R188. RIDDLE writes byte `i` of the mask tensor at linear index `i` of its INT8 destination (log 47). -/
def riddleBody (x : Data) (lo hi : Nat) (rd : Nat → Byte) : Effect :=
  let xv := (x.v 0x20).forRead
  let w := (x.v 0x30).forRead
  let d := x.v 0x10
  let mask := x.mask 0x40
  let H := w.d.ext 1
  let gs := (List.range (groupCount (xv.d.ext 1))).filter fun g => lo ≤ 256 * g && 256 * g < hi
  let recs := gs.map fun g => (g, riddleRecord x rd g)
  let rb := recBytes H
  let own := (boxIdx d.d.ownBox).filterMap fun i =>
    let l := d.d.linear i
    (recs.find? fun r => r.1 == l / rb).map fun r =>
      (i, Val.ofInt (signedOf 8 ((r.2.1.getD (l % rb) 0#8).toNat)))
  let n (c : Nat) : Nat := (recs.map fun r => r.2.2.countP (· == c)).sum
  let rows := ((List.range (xv.d.ext 1)).filter fun m => lo ≤ m && m < hi && fedRow mask rd m)
  { stages := [maskLocs mask (xv.d.ext 1), x.operandLocs rd rows (if rows.isEmpty then [] else List.range H)]
    put := d.put rd {} (fun _ => 0) own
    ctrs := [(.RIDDLE_PREDICTED, n 1), (.RIDDLE_GUARD, n 2), (.RIDDLE_AUDITED, n 3), (.RIDDLE_SKIPPED, n 0)] }

/-- RIDDLE at check 13. -/
def riddleViols (plan : Plan) (p : Packet) (os : List Opnd) : List Viol :=
  let d := Op.at_ os 0x10
  let x := Op.at_ os 0x20
  let w := Op.at_ os 0x30
  let need := groupCount (x.desc.ext 1) * recBytes (w.desc.ext 1)
  fieldRule (12 < p.u 0 1 && p.u 0 1 != 0xFF) 0 ++
    fieldRule (p.u 2 2 == 0 || plan.riddleActs.length < p.u 2 2) 2 ++
    x.flat ++ w.flat ++ sameExt x 0 w 0 ++ x.kRule 0 ++
    x.rule x.desc.fmt.isInt 3 ++ w.rule (w.desc.fmt != .w4) 3 ++ w.rule (524288 < w.desc.ext 1) (dimField 1 0) ++
    d.rule (d.desc.fmt != .int8) 3 ++ d.rule (d.desc.volume < need) (dimField 0 0) ++
    maskRule (opnd? os 0x40) (x.desc.ext 1)

/-! ### UP and DOWN (R180–R182) -/

/-- The rows of a token group that are fed. -/
def groupRows (rows g : Nat) (fed : Nat → Bool) : List Nat :=
  ((List.range 256).map (256 * g + ·)).filter fun m => m < rows && fed m

/-- The threshold τ of a mask tensor: that of the RIDDLE_ACT of the RIDDLE which wrote it (log 48). -/
def Job.tau (j : Job) (tensor : Nat) : BitVec 32 :=
  ((j.riddleNotes.find? fun r => r.tensor == tensor).map (·.tau)).getD (Config.riddleTau tensor)

/-- The misses of a GUARDED group: audited neurons with a full-pass result above τ, or NaN (R181). -/
def misses (v : View) (rd : Nat → Byte) (H g : Nat) (tau : BitVec 32) (rows : List Nat) (z : Nat → Nat → BitVec 32) : Nat :=
  (List.range H).countP fun j =>
    v.neuron rd H g j == 3 && rows.any fun m => (f32 (z j m)).isNan || lt32 tau (z j m)

/-- What UP finds of a group: its header, its misses, and whether it is mended. -/
structure UpGroup where
  g : Nat
  header : Nat
  missed : Nat
  mend : Bool
  deriving DecidableEq, Repr, Inhabited

/-- What UP finds of a group. -/
def Data.upGroup (x : Data) (rd : Nat → Byte) (g : Nat) : UpGroup :=
  let v := x.v rmaskKey
  let H := x.opB.d.ext 1
  let h := v.header rd H g
  let guarded := hdrMode h == 1 && !hdrMended h
  let n := if guarded then
      misses v rd H g (x.j.tau v.d.tensor) (groupRows (x.opA.d.ext 1) g (fedRow (x.mask 0x50) rd)) fun j m => x.dot rd j m
    else 0
  ⟨g, h, n, guarded && hdrLimit h < n⟩

/-- The token groups within rows `lo` to `hi − 1` of a command of `rows` rows. -/
def groupsIn (rows lo hi : Nat) : List Nat := (List.range (groupCount rows)).filter fun g => lo ≤ 256 * g && 256 * g < hi

/-- The columns that the passes of a group compute before any mending, in increasing j within each code class, PREDICTED and
GUARD first (R180). -/
def Data.calledCols (x : Data) (rd : Nat → Byte) (g : Nat) : List Nat :=
  let v := x.v rmaskKey
  let H := x.opB.d.ext 1
  ([1, 2, 3, 0] : List Nat).flatMap fun c =>
    (List.range H).filter fun j => v.neuron rd H g j == c && v.called rd H g j

/-- The columns that a mending pass of a group computes (R181). -/
def Data.mendCols (x : Data) (rd : Nat → Byte) (g : Nat) : List Nat :=
  (List.range (x.opB.d.ext 1)).filter fun j => !(x.v rmaskKey).called rd (x.opB.d.ext 1) g j

/-- UP (R180, R181). Only the columns called for are read, and the others of a group that is mended. -/
def upBody (x : Data) (lo hi : Nat) (rd : Nat → Byte) : Effect :=
  let a := x.opA
  let c := x.opC
  let v := x.v rmaskKey
  let H := x.opB.d.ext 1
  let mask := x.mask 0x50
  let fed := fedRow mask rd
  let gs := (groupsIn (a.d.ext 1) lo hi).map (x.upGroup rd)
  let computed (j m : Nat) : Bool :=
    v.called rd H (m / 256) j || ((gs.find? fun u => u.g == m / 256).map (·.mend)).getD false
  let vals := rowResults c 1 lo hi fed x.c.pkt.maskOut fun i =>
    let j := i.headD 0
    let m := i.getD 1 0
    if computed j m then f32 (x.dot rd j m) else .zero
  let guarded := gs.filter fun u => hdrMode u.header == 1 && !hdrMended u.header
  let put := c.put rd x.conv (x.j.srWord c.d) vals
  let reads (u : UpGroup) : List Nat :=
    let rows := (fedRows c 1 lo hi fed).filter fun m => m / 256 == u.g
    if rows.isEmpty then []
    else x.operandLocs rd rows (x.calledCols rd u.g ++ if u.mend then x.mendCols rd u.g else [])
  { stages := [gs.flatMap (fun u => v.recordLocs H u.g), maskLocs mask (a.d.ext 1), gs.flatMap reads]
    put := { put with writes := put.writes ++ guarded.flatMap fun u => v.putHeader H u.g (hdrWith u.header u.missed u.mend) }
    ctrs := [(.RIDDLE_MISSED, (guarded.map (·.missed)).sum), (.RIDDLE_MENDED, gs.countP (·.mend))] }

/-- DOWN (R182): every uncomputed neuron's activation is +0, and an output whose every group is skipped is +0. A skipped run
is not read. -/
def downBody (x : Data) (lo hi : Nat) (rd : Nat → Byte) : Effect :=
  let a := x.opA
  let c := x.opC
  let v := x.v rmaskKey
  let H := a.d.ext 0
  let mask := x.mask 0x50
  let fed := fedRow mask rd
  let gs := groupsIn (a.d.ext 1) lo hi
  let runs := gs.map fun g => (g, skippedRuns v rd H g)
  let skipAll (g : Nat) : Bool := ((runs.find? fun r => r.1 == g).map fun r => r.2.length == (H + 15) / 16).getD false
  let vals := rowResults c 1 lo hi fed x.c.pkt.maskOut fun i =>
    if skipAll (i.getD 1 0 / 256) then .zero else f32 (x.dot rd (i.headD 0) (i.getD 1 0))
  { stages := [gs.flatMap (v.recordLocs H), maskLocs mask (a.d.ext 1), x.operandLocs rd (fedRows c 1 lo hi fed) (ownCols c)]
    put := c.put rd x.conv (x.j.srWord c.d) vals
    ctrs := [(.RIDDLE_DOWN_SKIPPED, (runs.map fun r => r.2.length).sum)] }

/-- A weight gradient that names the mask (R184): an output of a neuron that no group computed is +0. -/
def gradBody (x : Data) (lo hi : Nat) (rd : Nat → Byte) : Effect :=
  let c := x.opC
  let mask := x.mask 0x50
  let fed := fedRow mask rd
  let p := x.product rd
  let vals := rowResults c 1 lo hi fed x.c.pkt.maskOut fun i =>
    let n := i.headD 0
    let m := i.getD 1 0
    if p.on m n then f32 (x.dot rd n m) else .zero
  let rows := fedRows c 1 lo hi fed
  let H := (x.riddleNote?.map (·.hidden)).getD 1
  { stages := [(List.range (groupCount p.k)).flatMap ((x.v rmaskKey).recordLocs H), maskLocs mask (x.opA.d.ext 1),
      x.operandLocs rd (rows.filter fun m => (ownCols c).any (p.on m)) ((ownCols c).filter fun n => rows.any fun m => p.on m n)]
    put := c.put rd x.conv (x.j.srWord c.d) vals }

/-- MATMUL in any role. -/
def matmulBody (x : Data) : Nat → Nat → (Nat → Byte) → Effect :=
  if x.alongK then gradBody x
  else match x.c.pkt.u 1 1 with
  | 1 => upBody x
  | 2 => downBody x
  | _ => productBody x

/-! ### MEND (R183) -/

/-- The groups that MEND names. -/
def mendGroups (p : Packet) : List Nat := ((List.range (p.u 8 4)).map fun i => p.u (0x50 + 4 * i) 4).eraseDups

def mendBody (x : Data) (_ _ : Nat) (rd : Nat → Byte) : Effect :=
  let c := x.opC
  let v := x.v rmaskKey
  let H := x.opB.d.ext 1
  let mask := x.mask 0x40
  let fed := fedRow mask rd
  let gs := (mendGroups x.c.pkt).filter fun g => !hdrMended (v.header rd H g)
  let vals := gs.flatMap fun g => rowResults c 1 (256 * g) (256 * (g + 1)) fed false fun i =>
    f32 (x.dot rd (i.headD 0) (i.getD 1 0))
  let rows := gs.flatMap fun g => fedRows c 1 (256 * g) (256 * (g + 1)) fed
  let put := c.put rd x.conv (x.j.srWord c.d) vals
  let hdr (g : Nat) : List (Nat × Byte) :=
    let h := v.header rd H g
    v.putHeader H g (hdrWith h (h / 2 ^ 48) true)
  { stages := [(mendGroups x.c.pkt).flatMap (v.recordLocs H), maskLocs mask (x.opA.d.ext 1),
      x.operandLocs rd rows (if rows.isEmpty then [] else ownCols c)]
    put := { put with writes := put.writes ++ gs.flatMap hdr }
    ctrs := [(.RIDDLE_MENDED, gs.length)] }

def mendViols (plan : Plan) (p : Packet) (os : List Opnd) : List Viol :=
  let a := Op.at_ os 0x10
  let b := Op.at_ os 0x20
  let c := Op.at_ os 0x30
  let n := p.u 8 4
  fieldRule (!plan.declares (p.u 4 4)) 4 ++ fieldRule (n == 0 || 2000 < n) 8 ++
    productViols a b c (opnd? os 0x40) ++ b.rule (!a.desc.fmt.pairOk b.desc.fmt) 3 ++
    (List.range (min n 2000)).flatMap fun i =>
      fieldRule (groupCount (a.desc.ext 1) ≤ p.u (0x50 + 4 * i) 4) (0x50 + 4 * i)

/-! ### RMASK -/

/-- The tensor that RMASK names, when the command uses it. -/
def rmaskOf (op : Op) (p : Packet) : Option Nat :=
  if (op == .matmul && p.u 1 1 != 0) || op == .mend || (op == .vexpr && p.u 4 4 != 0) then some (p.u 4 4) else none

/-- The riddle mask tensor as an operand of the command. -/
def rmaskOpnd (t : Nat) : Opnd :=
  { off := rmaskKey, role := 2, at_ := none, desc := { format := 0x40, ndim := 1, tensor := t, dims := [{ extent := 1 }] } }

/-- Whether the mask tensor holds every record that a command reads (log 47). -/
def rmaskTest (x : Data) (groups H : Nat) : Option Nat :=
  match x.v? rmaskKey with
  | none => none
  | some v => if v.len < groups * recBytes H then some (boundsDetail 2 v.len) else none

/-- What MATMUL in a role, RIDDLE and MEND find out of bounds when they start. -/
def riddleTest (x : Data) (rd : Nat → Byte) : Option Nat :=
  let lines (v : View) (ms : List Nat) : Option Nat :=
    v.test (ms.flatMap fun m => (List.range (v.d.ext 0)).map fun k => ix2 v.d.ndim k m)
  let maskTest (off rows : Nat) : Option Nat :=
    (x.v? off).bind fun v => v.test ((List.range ((rows + 7) / 8)).map fun i => [i])
  match x.c.op with
  | .matmul =>
    let a := x.v 0x20
    (computeTest x rd).or
      (if x.alongK then rmaskTest x (groupCount (a.d.ext 0)) ((x.riddleNote?.map (·.hidden)).getD 1)
        else rmaskTest x (groupCount (a.d.ext 1)) (if x.c.pkt.u 1 1 = 1 then (x.v 0x30).d.ext 1 else a.d.ext 0))
  | .mend =>
    let a := x.v 0x10
    let b := x.v 0x20
    let c := x.v 0x30
    let rows := (mendGroups x.c.pkt).flatMap fun g =>
      fedRows c 1 (256 * g) (256 * (g + 1)) (testFed (x.v? 0x40) rd (a.d.ext 1))
    firstOf [c.test (boxIdx c.d.ownBox), lines a rows, maskTest 0x40 (a.d.ext 1),
      rmaskTest x (groupCount (a.d.ext 1)) (b.d.ext 1), lines b (ownCols c)]
  | _ =>
    let d := x.v 0x10
    let xv := x.v 0x20
    let w := x.v 0x30
    let rows := (List.range (xv.d.ext 1)).filter (testFed (x.v? 0x40) rd (xv.d.ext 1))
    firstOf [d.test (boxIdx d.d.ownBox), lines xv rows, maskTest 0x40 (xv.d.ext 1), lines w (List.range (w.d.ext 1))]

def riddleLimits (op : Op) (p : Packet) (os : List Opnd) : List Viol :=
  if op == .mend then
    let c := Op.at_ os 0x30
    let a := (Op.at_ os 0x10).desc
    let b := (Op.at_ os 0x20).desc
    accLimit p.accSr (a.ext 1) (b.ext 1) (a.ext 0) c ++ srLimit (op.conv p) c
  else []

end Sys2Proof.Machine
end

