-- ==== Sys2Proof/Machine/Vexpr.lean ====
section
/-!
DEFINITION. Vector expressions (R184, R536–R538) with their tray nodes (R421, R426), and what a tray
operation does at the bytes it names (R422, R423).
-/

namespace Sys2Proof.Machine

/-! ### Tray operations at memory (Table 13.4) -/

/-- Bytes of a SIZE code (R422); `none` for a reserved one. -/
def traySize : Nat → Option Nat
  | 0 => some 4
  | 1 => some 8
  | 2 => some 16
  | 3 => some 64
  | 4 => some 256
  | _ => none

/-- Whether an OP takes a SIZE (Table 13.4). -/
def traySizeOk (op : TrayOp) (size : Nat) : Bool :=
  match op with
  | .load | .store => size ≤ 4
  | .fadd => size == 0
  | _ => size ≤ 1

/-- The value that an operation writes over `n` old bytes; `none` when it writes nothing. `x` is the operand
and `y` the compare value of CAS. -/
def trayNew (op : TrayOp) (n old x y : Nat) : Option Nat :=
  match op with
  | .load => none
  | .store => some x
  | .add => some ((old + x) % 2 ^ (8 * n))
  | .min => some (if signedOf (8 * n) x < signedOf (8 * n) old then x else old)
  | .max => some (if signedOf (8 * n) old < signedOf (8 * n) x then x else old)
  | .cas => if old = y then some x else none
  | .fadd => some (add32 (BitVec.ofNat 32 old) (BitVec.ofNat 32 x)).toNat

/-- Performs an operation on local memory; the old bytes, and the memory after it. -/
def Mod.trayDo (m : Mod) (op : TrayOp) (n : Nat) (addr : Nat) (operand : Bytes) : Bytes × Mod :=
  let old := m.bytes addr n
  let mask (b : Bytes) : Nat := leNat b % 2 ^ (8 * n)
  let x := if op = .store then leNat (operand.take n) else mask (operand.take 8)
  let y := mask ((operand.drop 8).take 8)
  match trayNew op n (leNat old) x y with
  | none => (old, m)
  | some v => (old, m.store (((List.range n).map (addr + ·)).zip (leBytes n v)))

/-- The OP code of Table 13.4. -/
def trayOpOf : Nat → Option TrayOp
  | 0 => some .load
  | 1 => some .store
  | 2 => some .add
  | 3 => some .min
  | 4 => some .max
  | 5 => some .cas
  | 6 => some .fadd
  | _ => none

/-! ### Expressions -/

def Plan.vexpr? (p : Plan) (id : Nat) : Option VExpr := p.vexprs.find? fun e => e.id == id

def VNode.isTray (n : VNode) : Bool := n.op == 0x21 || n.op == 0x22 || n.op == 0x23

/-- The operand that a STORE or tray node names. -/
def VNode.target (n : VNode) : Nat := n.imm % 16

/-- The operands that only tray nodes name. -/
def VExpr.trayOperands (e : VExpr) : List Nat := ((e.nodes.filter VNode.isTray).map VNode.target).eraseDups

/-- The operation of a tray node and whether it returns a value. -/
def VNode.trayOp (n : VNode) : Option (TrayOp × Bool) :=
  if n.op = 0x21 then some (.load, true)
  else if n.op = 0x22 then some (.store, false)
  else (trayOpOf (n.imm / 256 % 16)).map fun o => (o, o == .load || o == .cas || n.imm / 4096 % 2 == 1)

/-- The payload offset of operand `i`. -/
def vOff (i : Nat) : Nat := 0x10 + 16 * i

/-- VEXPR at check 13 (R534, R538). Tray operands are REMOTE, hold 4-byte elements and stand outside the rule of
equal extents (log 50). -/
def vexprViols (plan : Plan) (p : Packet) (os : List Opnd) : List Viol :=
  let m := p.u 1 1
  fieldRule (m == 0 || 16 < m) 1 ++ fieldRule (p.u 4 4 != 0 && !plan.declares (p.u 4 4)) 4 ++
    match plan.vexpr? (p.u 2 2) with
    | none => fieldRule true 2
    | some e =>
      let tray := e.trayOperands
      let isTray (o : Opnd) : Bool := tray.contains ((o.off - 0x10) / 16)
      let dense := os.filter fun o => !isTray o
      let indexOnly (i : Nat) : Bool :=
        e.nodes.all fun n => (!(n.a == i) || n.isTray) && n.b != i && n.c != i
      let badNode := e.nodes.any fun n => n.isTray && (n.trayOp.isNone || 0x10 ≤ n.a ||
        (os.any fun o => o.off == vOff n.a && o.desc.fmt != .int32))
      fieldRule (m != e.inputs + e.outputs) 1 ++ fieldRule badNode 2 ++
        (os.filter isTray).flatMap (fun o => o.rule (!o.desc.remote && !(plan.gateways.any fun g => g.proxy == o.desc.tensor)) 2 ++
          o.rule (!(o.desc.fmt == .fp32 || o.desc.fmt == .int32)) 3 ++
          o.rule (plan.gateways.any (fun g => g.proxy == o.desc.tensor) && e.nodes.any fun n =>
            n.op == 0x23 && vOff n.target == o.off) 4) ++
        dense.flatMap (fun o =>
          let i := (o.off - 0x10) / 16
          o.rule (if o.role == 0 then o.desc.fmt.isInt else o.desc.fmt == .int8 || (o.desc.fmt == .int32 && !indexOnly i)) 3) ++
        match dense with
        | [] => []
        | f :: rest => rest.flatMap fun o =>
          o.ndimRule f.desc.ndim ++ (List.range o.desc.ndim).flatMap fun k =>
            o.rule (o.desc.ext k != f.desc.ext k && o.desc.stride k != 0 && f.desc.stride k != 0) (dimField k 0)

/-- The expression of a started VEXPR. -/
def Data.expr (x : Data) : VExpr := (x.j.plan.vexpr? (x.c.pkt.u 2 2)).getD ⟨0, 0, 0, []⟩

/-- The operand whose own extent the expression runs over: its first output that no tray node names, else its
first such input. -/
def Data.lead (x : Data) : View :=
  let e := x.expr
  let outs := (List.range e.outputs).map (e.inputs + ·)
  let pick := (outs ++ List.range e.inputs).find? fun i => !e.trayOperands.contains i
  (pick.map fun i => x.v (vOff i)).getD default

/-- The indices that the expression runs over within rows `lo` to `hi − 1`. -/
def Data.lead_idx (x : Data) (lo hi : Nat) : List (List Nat) :=
  boxIdx (clampDim x.lead.d.ownBox x.lead.d.rowDim lo hi)

/-- Whether a riddle mask makes an index read as +0 (R184, log 47): neuron dimension 0, rows dimension
NDIM − 1. -/
def Data.silent (x : Data) (rd : Nat → Byte) (idx : List Nat) : Bool :=
  match x.v? rmaskKey with
  | none => false
  | some v => !v.called rd (x.lead.d.ext 0) (idx.getD x.lead.d.rowDim 0 / 256) (idx.headD 0)

/-- An input's element widened to FP32, and whether it lay beyond the range (R95). -/
def Data.input (x : Data) (rd : Nat → Byte) (idx : List Nat) (i : Nat) : BitVec 32 × Bool :=
  if x.silent rd idx then (0, false) else widen ((x.v (vOff i)).forRead.value rd idx)

/-- A node's result from its operands (Table 16.14). -/
def nodeValue (op : Nat) (a b c : BitVec 32) : BitVec 32 :=
  let truth (t : Bool) : BitVec 32 := if t then one32 else 0
  match op with
  | 0x01 => add32 a b
  | 0x02 => sub32 a b
  | 0x03 => mul32 a b
  | 0x04 => div32 a b
  | 0x05 => fma32 a b c
  | 0x06 => if nonfinite32 a && (f32 a).isNan then nan32 else neg32 a
  | 0x07 => if nonfinite32 a && (f32 a).isNan then nan32 else abs32 a
  | 0x08 => max32 a b
  | 0x09 => min32 a b
  | 0x0A => truth (lt32 a b)
  | 0x0B => truth (le32 a b)
  | 0x0C => truth (eq32 a b)
  | 0x0D => if eq32 a 0 then c else b
  | 0x10 => exp32 a
  | 0x11 => ln32 a
  | 0x12 => sqrt32 a
  | 0x13 => rsqrt32 a
  | 0x14 => tanh32 a
  | 0x15 => sigmoid32 a
  | 0x16 => erf32 a
  | _ => a

/-- The key under which a command's bytes hold the result of tray node `n` of element `e`. -/
def trayKey (e n b : Nat) : Nat := 2 ^ 61 + (e * 32 + n) * 4 + b

/-- The four result bytes of a tray node, once they are there. -/
def trayResult (got : List (Nat × Byte)) (e n : Nat) : Option (BitVec 32) :=
  if got.any fun p => p.1 == trayKey e n 0 then
    some (BitVec.ofNat 32 (leNat ((List.range 4).map fun b =>
      ((got.find? fun p => p.1 == trayKey e n b).map (·.2)).getD 0#8)))
  else none

/-- The node results of element `e` at an index, in node order; `none` where a tray result is still out. -/
def Data.nodes (x : Data) (rd : Nat → Byte) (got : List (Nat × Byte)) (e : Nat) (idx : List Nat) : List (Option (BitVec 32)) :=
  let read (vals : List (Option (BitVec 32))) (imm code : Nat) : Option (BitVec 32) :=
    if code < 16 then some (x.input rd idx code).1
    else if code = 0x40 then some (BitVec.ofNat 32 imm)
    else if 0x20 ≤ code ∧ code < 0x40 then (vals.getD (code - 0x20) none)
    else some 0
  x.expr.nodes.zipIdx.foldl (fun vals p =>
    let n := p.1
    vals.concat (if n.isTray then trayResult got e p.2
      else match read vals n.imm n.a, read vals n.imm n.b, read vals n.imm n.c with
        | some a, some b, some c => some (nodeValue n.op a b c)
        | _, _, _ => none)) []

/-- The INT32 index that a tray node takes from input A (R538). -/
def Data.trayIndex (x : Data) (rd : Nat → Byte) (idx : List Nat) (i : Nat) : Int := (x.v (vOff i)).forRead.int rd idx

/-- The index tuple of a linear index. -/
def unlinear : List DimRec → Nat → List Nat
  | [], _ => []
  | r :: rs, n => n % r.extent :: unlinear rs (n / r.extent)

/-- The location of element `i` of a tray operand; `none` when the index lies outside it or its region. -/
def View.trayElem (v : View) (i : Int) : Option Nat :=
  if i < 0 ∨ (v.d.volume : Int) ≤ i then none
  else
    let idx := unlinear v.d.used i.toNat
    if (v.firstBad [idx]).isSome then none else (v.locs idx).head?

/-- A tray operation that an element is ready to issue: element, node, operation, FETCH, location, operand. -/
structure Ready where
  e : Nat
  n : Nat
  op : TrayOp
  fetch : Bool
  at_ : Option Nat
  operand : Bytes
  role : Nat
  index : Int
  deriving DecidableEq, Repr

/-- The next tray node of an element: the first without a result, when its operands are there. -/
def Data.readyNode (x : Data) (rd : Nat → Byte) (got : List (Nat × Byte)) (e : Nat) (idx : List Nat) : Option Ready :=
  let vals := x.nodes rd got e idx
  match x.expr.nodes.zipIdx.find? fun p => p.1.isTray && (trayResult got e p.2).isNone with
  | none => none
  | some (n, k) =>
    let opv (code : Nat) : Option (BitVec 32) :=
      if code < 16 then some (x.input rd idx code).1
      else if code = 0x40 then some (BitVec.ofNat 32 n.imm)
      else if 0x20 ≤ code ∧ code < 0x40 then vals.getD (code - 0x20) none
      else some 0
    match n.trayOp, opv n.b, opv n.c with
    | some (op, fetch), some b, some c =>
      let i := x.trayIndex rd idx n.a
      let v := x.v (vOff n.target)
      some { e := e, n := k, op := op, fetch := fetch, at_ := v.trayElem i
             operand := leBytes 8 b.toNat ++ leBytes 8 c.toNat, role := v.o.role, index := i }
    | _, _, _ => none

/-- The effect of a VEXPR whose tray results are all there. -/
def vexprBody (x : Data) (got : List (Nat × Byte)) (lo hi : Nat) (rd : Nat → Byte) : Effect :=
  let e := x.expr
  let lead := x.lead_idx lo hi
  let stores := e.nodes.zipIdx.filter fun p => p.1.op == 0x20
  let outs := stores.map fun p =>
    let v := x.v (vOff p.1.target)
    (v, boxIdx (clampDim v.d.ownBox v.d.rowDim lo hi), p.2)
  let union := (lead ++ outs.flatMap (·.2.1)).eraseDups
  let used := (List.range e.inputs).filter fun i => !e.trayOperands.contains i
  let elem (idx : List Nat) : Nat := x.lead.d.linear idx
  let put := outs.foldl (fun (a : Put) o =>
    a.add (o.1.put rd x.conv (x.j.srWord o.1.d) (o.2.1.map fun idx =>
      (idx, f32 (((x.nodes rd got (elem idx) idx).getD o.2.2 none).getD 0))))) {}
  let mask := match x.v? rmaskKey with
    | some v => ((union.map fun i => i.getD x.lead.d.rowDim 0 / 256).eraseDups).flatMap (v.recordLocs (x.lead.d.ext 0))
    | none => []
  let floats := used.filter fun i => (x.v (vOff i)).fmt != .int32
  { stages := [mask, union.flatMap fun idx => used.flatMap fun i => (x.v (vOff i)).forRead.locs idx]
    put := put
    nonfinite := (union.map fun idx => floats.countP fun i => (x.input rd idx i).2).sum }

/-- What VEXPR finds out of bounds when it starts. -/
def vexprTest (x : Data) : Option Nat :=
  let e := x.expr
  let lead := x.lead_idx 0 (x.lead.d.ext x.lead.d.rowDim)
  let dense := (List.range (e.inputs + e.outputs)).filter fun i => !e.trayOperands.contains i
  let outs := (dense.filter (e.inputs ≤ ·)).map fun i => let v := x.v (vOff i); v.test (boxIdx v.d.ownBox)
  let ins := (dense.filter (· < e.inputs)).map fun i => (x.v (vOff i)).test lead
  firstOf (outs ++ ins ++ [if (x.v? rmaskKey).isSome then
    rmaskTest x (groupCount (x.lead.d.ext x.lead.d.rowDim)) (x.lead.d.ext 0) else none])

/-- R346 for VEXPR. -/
def vexprLimits (plan : Plan) (p : Packet) (os : List Opnd) : List Viol :=
  let _ := plan
  (os.filter fun o => o.role == 0).flatMap fun o => srLimit (Op.vexpr.conv p) o

/-- Performs or issues the tray operations that are ready, in element order; each element waits for its own
results (R426). Gives the bytes that are there and the failure of an index outside its operand (log 50). -/
def Mod.trayNodes (m : Mod) (id : CmdId) (j : Job) (x : Data) (got : List (Nat × Byte)) :
    Nat → List (List Nat) → Mod × List (Nat × Byte) × Option (Status × Nat × Bytes)
  | 0, _ => (m, got, none)
  | _ + 1, [] => (m, got, none)
  | fuel + 1, idx :: rest =>
    let e := x.lead.d.linear idx
    match x.readyNode (m.reader j got) got e idx with
    | none => m.trayNodes id j x got fuel rest
    | some r =>
      match r.at_ with
      | none => (m, got, some (.bounds, boundsDetail r.role r.index.toNat, []))
      | some a =>
        let mark (bs : Bytes) : List (Nat × Byte) := (((List.range 4).map fun b => trayKey r.e r.n b).zip bs) ++ got
        if isLocal a then
          let (old, m) := m.trayDo r.op 4 a r.operand
          m.trayNodes id j x (mark (if r.fetch then old else [0, 0, 0, 0])) fuel (idx :: rest)
        else if isWin a then
          if r.op = .load then
            let j' := (m.job? j.plan.job).getD j
            let locs := (List.range 4).map (a + ·)
            if (j'.missing [] locs).isEmpty then
              (m.touchBlocks j.plan.job locs).trayNodes id j x (mark (locs.map j'.windowByte)) fuel (idx :: rest)
            else (m.ask j' id locs).trayNodes id j x got fuel rest
          else
            let m := (List.range 4).foldl (fun m b => m.stageByte j.plan.job id.lane (a + b) (r.operand.getD b 0#8)) m
            m.trayNodes id j x (mark [0, 0, 0, 0]) fuel (idx :: rest)
        else if r.fetch then
          if m.trayOps.any fun t => t.id == id && t.into == some (trayKey r.e r.n 0) then m.trayNodes id j x got fuel rest
          else
            (m.issueTray j id r.op 0 true (a - 2 ^ 60) (if r.op = .load then [] else r.operand)
              (some (trayKey r.e r.n 0))).trayNodes id j x got fuel rest
        else
          let operand := if r.op = .store then r.operand.take 4 else r.operand
          (m.issueTray j id r.op 0 false (a - 2 ^ 60) operand none).trayNodes id j x (mark [0, 0, 0, 0]) fuel (idx :: rest)

/-- Whether every tray node of a VEXPR has its result. -/
def Data.trayDone (x : Data) (got : List (Nat × Byte)) (lead : List (List Nat)) : Bool :=
  lead.all fun idx => x.expr.nodes.zipIdx.all fun p =>
    !p.1.isTray || (trayResult got (x.lead.d.linear idx) p.2).isSome

end Sys2Proof.Machine
end

