-- ==== Sys2Proof/Machine/Passes.lean ====
section
/-!
DEFINITION. How an array command divides into passes (R106–R118, R134, R136, R165–R169, R180): tile shapes,
Pholer's choice of mode and gang (R110), and the list of a command's passes.
-/

namespace Sys2Proof.Machine

/-- What kind of pass a command runs. -/
inductive PassKind where
  | dense | sparse | fitch | hadamard
  deriving DecidableEq, Repr, Inhabited

/-- A tile shape: MODE of Table 4.3, depth, width, reload and fill latency (Tables 4.1 and 6.3, R134, R136). -/
structure Geometry where
  mode : Nat
  depth : Nat
  width : Nat
  reload : Nat
  fill : Nat
  deriving DecidableEq, Repr, Inhabited

/-- The shape of a mode for a kind of pass and a rate class. -/
def geometry (kind : PassKind) (wide : Bool) (cls : Nat) : Geometry :=
  let w : Nat := if wide then (if cls = 4 then 1024 else if cls = 8 then 512 else 256)
    else if cls = 4 then 256 else if cls = 8 then 128 else 64
  let md : Nat := if wide then 1 else 0
  match kind with
  | .dense => ⟨md, if wide then 32 else 128, w, if wide then 32 else 128, if wide then 80 else 160⟩
  | .sparse => ⟨md, if wide then 64 else 256, w, if wide then 40 else 136, if wide then 88 else 168⟩
  | .fitch => ⟨2, if wide then 32 else 128, if wide then 256 else 64, if wide then 32 else 128, if wide then 80 else 160⟩
  | .hadamard => ⟨3, 1, 128, 0, 24⟩

/-- A gang's size by the GANG code of Table 4.3. -/
def gangSize (code : Nat) : Nat := 2 ^ code

/-- What Pholer takes a product to be when it chooses (R110): kind, streamed and result formats, reduction
length, columns and rows. -/
structure Shape where
  kind : PassKind
  cls : Nat
  inFmt : Fmt
  outBits : Nat
  k : Nat
  n : Nat
  rows : Nat
  half : Bool := false
  deriving DecidableEq, Repr, Inhabited

def ceilDiv (a b : Nat) : Nat := (a + b - 1) / b

/-- Bytes that an array or gang moves for each fed row of the pass over k-tile `t` (R116). -/
def Shape.rowBytes (s : Shape) (depth width t : Nat) : Nat :=
  let span := Nat.min depth (s.k - t * depth)
  let last := s.k ≤ (t + 1) * depth
  span * s.inFmt.bits / 8 + (if s.inFmt.isBlock then ceilDiv span 32 else 0) + (if t = 0 then 0 else 4 * width) +
    (if last then width * s.outBits / 8 else 4 * width)

/-- The arrays or gangs of a stake that draw on its store together while a sequence runs: as many as the stake holds, and
MXA3 alone for a fitch pass (R116, R135). -/
def Shape.teams (s : Shape) (gang : Nat) : Nat := if s.kind = .fitch then 1 else 4 / gangSize gang

/-- The duration of a pass sequence under R115 and R166; `rowsPer` bounds the fed rows of a pass (R118). An array's share of a
cycle is 4,096 bytes times its demand, divided by the stake's total demand: that of the command's own arrays or gangs, all
at the same pass (log 51). The cycles of a pass over a tile are rounded up as a whole (DESIGN CHOICE, log 103). -/
def Shape.duration (s : Shape) (g : Geometry) (gang rowsPer : Nat) : Nat :=
  let depth := g.depth * gangSize gang
  let kts := ceilDiv s.k depth
  let chunks := ceilDiv s.rows rowsPer
  let fed := if s.half then s.rows / 2 else s.rows
  let perTile := ((List.range kts).map fun t =>
    chunks * g.reload + Nat.max fed (ceilDiv (fed * (s.teams gang * s.rowBytes depth g.width t)) 4096)).sum
  ceilDiv s.n g.width * perTile + g.fill + 24 * (gangSize gang - 1) + 4

/-- The fed rows that one pass may take in a chain region of `region` bytes (R112, R118). -/
def Shape.rowsPer (s : Shape) (g : Geometry) (gang region : Nat) : Nat :=
  if s.k ≤ g.depth * gangSize gang then segRows else Nat.min segRows (Nat.max 1 (region / (8 * g.width)))

/-- The modes and gangs in the order of R110's preference: SQUARE before WIDE, then the smaller gang. -/
def Shape.options (s : Shape) (maxGang : Nat) : List (Geometry × Nat) :=
  let gangs : List Nat := if s.kind = .fitch ∨ s.kind = .hadamard then [0]
    else ([0, 1, 2] : List Nat).filter fun c => gangSize c ≤ maxGang
  let wides : List Bool := if s.kind = .hadamard then [false] else [false, true]
  wides.flatMap fun w => gangs.map fun c => (geometry s.kind w s.cls, c)

/-- The option of least duration, the earlier on a tie (R110). -/
def Shape.choose (s : Shape) (maxGang region : Nat) : Geometry × Nat :=
  let cost (o : Geometry × Nat) : Nat := s.duration o.1 o.2 (s.rowsPer o.1 o.2 region)
  match s.options maxGang with
  | [] => (geometry s.kind false s.cls, 0)
  | o :: os => os.foldl (fun best o => if cost o < cost best then o else best) o

/-- The chain region that a declared workload needs under its choice, for the rows of its largest pass (R112, R118). -/
def Workload.chainNeed (w : Workload) (maxGang : Nat) : Nat :=
  let fa := (Fmt.ofCode w.fmtA).getD .bf16
  let fb := (Fmt.ofCode w.fmtB).getD .bf16
  let s : Shape := { kind := .dense, cls := Nat.max fa.cls fb.cls, inFmt := fa, outBits := 32, k := w.k, n := w.n, rows := w.rows }
  let (g, c) := s.choose maxGang (2 ^ 40)
  if w.k ≤ g.depth * gangSize c then 0 else 8 * g.width * Nat.min segRows w.rows

/-- The chain region charged to each stake of a group (R118). -/
def StakeGroup.chainRegion (g : StakeGroup) : Nat :=
  (g.workloads.map fun w => w.chainNeed g.gang).foldl Nat.max (Nat.max 8192 g.chainBytes)

/-- The passes of a command with the mode and gang that Pholer chose. -/
structure PassPlan where
  mode : Nat
  gang : Nat
  passes : List PassSpec
  badTiles : Nat := 0
  deriving DecidableEq, Repr, Inhabited

/-- The row mask's payload offset. -/
def maskOff (op : Op) : Nat := if op.isRiddle || op == .mend then 0x40 else 0x50

/-- The rows of an array command's row dimension (R534). -/
def Data.rows (x : Data) : Nat :=
  match x.c.op with
  | .matmul | .sparseForward | .sparseDataGrad | .distMinPlus | .distMaxPlus | .distL2 | .distL1 => (x.v 0x20).d.ext 1
  | .hadamard => let c := x.v 0x40; c.d.ext c.d.rowDim
  | .sparseWeightGrad => (x.v 0x20).d.ext 0
  | .spmm => (x.v 0x10).d.ext 1
  | .riddleExact | .riddleGuarded | .riddleFree => (x.v 0x20).d.ext 1
  | .mend => (x.v 0x10).d.ext 1
  | .vexpr => x.lead.d.ext x.lead.d.rowDim
  | _ => let d := x.v 0x10; d.d.ext d.d.rowDim

/-- The rows of a command's destination that its own extent takes in (R195). -/
def Data.ownRows (x : Data) : Nat × Nat :=
  let box (v : View) (k : Nat) : Nat × Nat := let b := v.d.ownBox.getD k (0, 0); (b.1, b.1 + b.2)
  match x.c.op with
  | .hadamard => let c := x.v 0x40; box c c.d.rowDim
  | .mend => box (x.v 0x30) 1
  | .sparseWeightGrad | .riddleExact | .riddleGuarded | .riddleFree => (0, x.rows)
  | _ => box (x.v 0x40) 1

/-- The shape of an array command. -/
def Data.shape (x : Data) : Shape :=
  let a := x.opA
  let b := x.opB
  let c := x.opC
  let cls := Nat.max a.fmt.cls b.fmt.cls
  let s : Shape := { kind := .dense, cls := cls, inFmt := a.fmt, outBits := c.fmt.bits
                     k := a.d.ext 0, n := b.d.ext 1, rows := x.rows }
  match x.c.op with
  | .hadamard => { s with kind := .hadamard, k := 1, n := 1 }
  | .sparseForward => { s with kind := .sparse }
  | .sparseDataGrad => { s with kind := .sparse, n := b.d.ext 0 }
  | .sparseWeightGrad =>
    { s with kind := .sparse, cls := Nat.max a.fmt.cls (x.v 0x50).fmt.cls, k := a.d.ext 1, n := b.d.ext 1, half := true }
  | .distMinPlus | .distMaxPlus | .distL2 | .distL1 => { s with kind := .fitch }
  | .riddleExact | .riddleGuarded | .riddleFree => { s with cls := 4, inFmt := .mx4, outBits := 32 }
  | _ => s

/-- The stake group of a command's queue. -/
def Data.group (x : Data) : StakeGroup := (x.j.plan.groupOf x.c.pkt.queue.toNat).getD ⟨0, [], 4, [], 0⟩

/-- Pholer's choice for a command: at PLAN_LOAD for a declared workload, otherwise from the command's own rows (R110). Of
several declared workloads of the group with the command's formats, K and N the model takes the largest row count (DESIGN
CHOICE, log 103). -/
def Data.choice (x : Data) : Geometry × Nat :=
  let s := x.shape
  let g := x.group
  let declared := g.workloads.filter fun w =>
    w.fmtA == x.opA.d.format && w.fmtB == x.opB.d.format && w.k == s.k && w.n == s.n
  let rows := (declared.map (·.rows)).foldl Nat.max 0
  ({ s with rows := if declared.isEmpty then s.rows else rows }).choose g.gang g.chainRegion

/-- Whether a row of the command is fed; outside its own rows nothing is (R119, R195). -/
def Data.fedAt (x : Data) (rd : Nat → Byte) (i : Nat) : Bool :=
  let mask := if x.c.op == .sparseWeightGrad then none else x.mask (maskOff x.c.op)
  fedRow mask rd i

/-- The fed rows from row `a` to row `b − 1`, in order. -/
def Data.fedList (x : Data) (rd : Nat → Byte) (a b : Nat) : List Nat := ((List.range (b - a)).map (a + ·)).filter (x.fedAt rd)

/-- Their number. -/
def Data.fedBetween (x : Data) (rd : Nat → Byte) (a b : Nat) : Nat := (x.fedList rd a b).length

/-! ### Row-blocks (R112, R134) -/

/-- The units of a row-block: 256 fed rows, or under HADAMARD 32,768 elements. -/
def Data.blockUnits (x : Data) : Nat := if x.c.op == .hadamard then 32768 else 256

/-- The units of one row: 1, or under HADAMARD the elements of the row's own extent. -/
def Data.rowUnits (x : Data) : Nat :=
  if x.c.op == .hadamard then
    let c := x.opC
    Nat.max 1 ((c.d.ownBox.take c.d.rowDim).map (·.2)).prod
  else 1

/-- Where the feeder stands after `n` more units from unit `e` of row `row`: the row, and the units of it that are fed.
Masked rows are passed over. -/
def Data.advance (x : Data) (rd : Nat → Byte) : Nat → Nat → Nat → Nat → Nat → Nat × Nat
  | 0, row, e, _, _ => (row, e)
  | fuel + 1, row, e, stop, n =>
    if stop ≤ row then (row, e)
    else if !x.fedAt rd row then x.advance rd fuel (row + 1) 0 stop n
    else
      let left := x.rowUnits - e
      if n < left then (row, e + n) else x.advance rd fuel (row + 1) 0 stop (n - left)

/-- The units that are left of a pass at unit `e` of row `row`. -/
def Data.unitsLeft (x : Data) (rd : Nat → Byte) (row e stop : Nat) : Nat := x.fedBetween rd row stop * x.rowUnits - e

/-! ### Pieces and passes -/

/-- Cuts rows `a` to `b − 1` into runs of at most `n` fed rows (R118). Masked rows at the end stay with the last run. -/
def Data.cutRows (x : Data) (rd : Nat → Byte) (n : Nat) : Nat → Nat → Nat → List (Nat × Nat)
  | 0, _, _ => []
  | fuel + 1, a, b =>
    if b ≤ a then []
    else
      let e := match (x.fedList rd a b)[n]? with
        | some r => r
        | none => b
      (a, e) :: (if e ≤ a then [] else x.cutRows rd n fuel e b)

/-- The segments of a command (R215). -/
def Data.segmentCount (x : Data) : Nat := x.c.segments x.rows

/-- The rows of segment `s`, as (first, end). -/
def Data.segSpan (x : Data) (s : Nat) : Nat × Nat := if x.segmentCount = 1 then (0, x.rows) else segRange x.rows s

/-- The segments that are still to be written, with their rows. -/
def Data.segs (x : Data) : List (Nat × Nat × Nat) :=
  ((List.range x.segmentCount).filter (x.wrote ≤ ·)).map fun s => (s, x.segSpan s)

/-- A token group's rows. -/
def Data.groupSpan (x : Data) (g : Nat) : Nat × Nat := (256 * g, Nat.min (256 * (g + 1)) x.rows)

/-- Whether a MATMUL computes only the columns that a riddle mask calls for (R180). -/
def Data.isUp (x : Data) : Bool := x.c.op == .matmul && x.c.pkt.u 1 1 == 1 && !x.alongK

/-- The pieces of rows `lo` to `hi − 1`: rows, and the columns that they compute. Each token group of a riddle command runs its
own passes (R180, R183). -/
def Data.pieces (x : Data) (rd : Nat → Byte) (lo hi : Nat) : List (Nat × Nat × List Nat) :=
  let group (cols : Nat → List Nat) (g : Nat) : Nat × Nat × List Nat := ((x.groupSpan g).1, (x.groupSpan g).2, cols g)
  if x.c.op.isRiddle then (groupsIn x.rows lo hi).map (group fun _ => List.range x.shape.n)
  else if x.c.op == .mend then
    ((mendGroups x.c.pkt).filter fun g => !hdrMended ((x.v rmaskKey).header rd x.shape.n g)).map (group fun _ => ownCols x.opC)
  else if x.isUp then (groupsIn x.rows lo hi).map (group (x.calledCols rd))
  else
    let own := x.ownRows
    [(Nat.max lo own.1, Nat.min hi own.2,
      if x.c.op == .hadamard then [0]
      else if x.c.op == .sparseWeightGrad then (let b := x.gradBox.getD 1 (0, 0); (List.range b.2).map (b.1 + ·))
      else ownCols x.opC)]

/-- The pieces of the mending passes of a segment (R181): none before the passes of all its groups are DONE. -/
def Data.mendPieces (x : Data) (rd : Nat → Byte) (lo hi : Nat) : List (Nat × Nat × List Nat) :=
  if !x.isUp then []
  else
    let gs := groupsIn x.rows lo hi
    let ready (g : Nat) : Bool :=
      (x.fedList rd (x.groupSpan g).1 (x.groupSpan g).2).all fun m => (x.calledCols rd g).all fun n =>
        match x.formed with
        | none => true
        | some l => l.any fun e => e.1 == m && e.2.1 == n
    if !gs.all ready then []
    else ((gs.map (x.upGroup rd)).filter (·.mend)).map fun u => ((x.groupSpan u.g).1, (x.groupSpan u.g).2, x.mendCols rd u.g)

/-- Whether every 4 × 4 block of DATA_GRAD's tile is transposable (R160, R168): depth over n from `n0` to `n1 − 1`, width
over the columns `ks`. -/
def Data.tileOk (x : Data) (rd : Nat → Byte) (n0 n1 : Nat) (ks : List Nat) : Bool :=
  let w := x.opB
  ((List.range (ceilDiv n1 4)).filter fun b => n0 < 4 * (b + 1)).all fun b =>
    ((ks.map (· / 4)).eraseDups).all fun a => w.transposable rd a b

/-- Cuts a list into runs of `w`. -/
def chunksOf (w : Nat) : Nat → List Nat → List (List Nat)
  | 0, _ => []
  | _ + 1, [] => []
  | fuel + 1, l => l.take w :: chunksOf w fuel (l.drop w)

/-- The passes of one chain: k-tiles in increasing order; a tile of DATA_GRAD that is not transposable runs as passes of the
dense depth (R117, R168). -/
def Data.chainPasses (x : Data) (rd : Nat → Byte) (g : Geometry) (gang seg lo hi : Nat) (cols : List Nat) : List PassSpec :=
  let s := x.shape
  let size := gangSize gang
  let depth := g.depth * size
  let dense := (geometry .dense (g.mode == 1) s.cls).depth
  let spans := (List.range (ceilDiv s.k depth)).flatMap fun t =>
    let a := t * depth
    let b := Nat.min s.k (a + depth)
    if x.c.op == .sparseDataGrad && !x.tileOk rd a b cols then
      (List.range (ceilDiv (b - a) (dense * size))).map fun i =>
        (a + i * (dense * size), Nat.min b (a + (i + 1) * (dense * size)), dense)
    else [(a, b, g.depth)]
  spans.zipIdx.map fun ((a, b, d), i) =>
    { seg := seg, lo := lo, hi := hi, cols := cols, k0 := a, k1 := b, depth := d, ktile := a / d, link := i
      last := i + 1 == spans.length }

/-- The chains of some pieces. -/
def Data.chainsOf (x : Data) (rd : Nat → Byte) (g : Geometry) (gang seg : Nat) (ps : List (Nat × Nat × List Nat)) :
    List (List PassSpec) :=
  let n := x.shape.rowsPer g gang x.group.chainRegion
  ps.flatMap fun (lo, hi, cols) =>
    (x.cutRows rd n (hi - lo) lo hi).flatMap fun (a, b) =>
      (chunksOf g.width cols.length cols).map (x.chainPasses rd g gang seg a b)

/-- The passes of a command's segments that are still to be written, the mending passes of a segment after its others. -/
def Data.passPlan (x : Data) (rd : Nat → Byte) : PassPlan :=
  let (g, c) := x.choice
  let chains := x.segs.flatMap fun (seg, lo, hi) =>
    x.chainsOf rd g c seg (x.pieces rd lo hi) ++ x.chainsOf rd g c seg (x.mendPieces rd lo hi)
  let passes := chains.zipIdx.flatMap fun (ps, i) => ps.map fun p => { p with chain := i }
  let depth := g.depth * gangSize c
  let bad := if x.c.op == .sparseDataGrad then
      ((chunksOf g.width (ownCols x.opC).length (ownCols x.opC)).map fun cols =>
        (List.range (ceilDiv x.shape.k depth)).countP fun t =>
          !x.tileOk rd (t * depth) (Nat.min x.shape.k ((t + 1) * depth)) cols).sum
    else 0
  { mode := g.mode, gang := c, passes := passes, badTiles := bad }

/-- The passes of the segments up to `s`. -/
def passesTo (plan : PassPlan) (s : Nat) : Nat := plan.passes.countP fun p => p.seg ≤ s

/-! ### Arrays and their words -/

/-- An array; a missing one reads as its reset value. -/
def Mod.array (m : Mod) (a : Nat) : ArrayState := (m.arrays.find? fun s => s.arr == a).getD { arr := a }

def Mod.setArray (m : Mod) (s : ArrayState) : Mod := { m with arrays := s :: m.arrays.filter fun o => o.arr != s.arr }

/-- The arrays of the gang that runs an array's pass (R109). -/
def gangOf (w : PassWord) (a : Nat) : List Nat :=
  let n := gangSize w.gang
  (List.range n).map (a - a % n + ·)

/-- Changes every array of a gang; a gang meets every event as one array (R130). -/
def Mod.onGang (m : Mod) (w : PassWord) (a : Nat) (f : ArrayState → ArrayState) : Mod :=
  (gangOf w a).foldl (fun m b => m.setArray (f (m.array b))) m

/-- The command whose pass a word describes. -/
def PassWord.id (w : PassWord) : CmdId := ⟨.queue w.queue, w.seq⟩

/-- Adds to an array counter of a job, saturating (R138). -/
def ArrayState.bump (s : ArrayState) (job : Nat) (k : Ctr) (n : Nat) : ArrayState :=
  let old := ((s.counters.find? fun c => c.1 == job && c.2.1 == k).map (·.2.2)).getD 0
  { s with counters := if n = 0 then s.counters
      else (job, k, min ctrMax (old + n)) :: s.counters.filter fun c => !(c.1 == job && c.2.1 == k) }

/-! ### Discarding (R128) -/

/-- Whether a word describes a pass under way. -/
def PassWord.live (w : PassWord) : Bool := w.state == 1 || w.state == 2 || w.state == 3

/-- Marks the pass of an array DISCARDED and ramps the array down (R128, R129). -/
def ArrayState.discard (s : ArrayState) : ArrayState :=
  ({ s with word := { s.word with state := 5 }, ramp := .down, inGap := false, spaced := false, preempt := false }).bump
    s.word.job .PASSES_DISCARDED 1

/-- Discards an array's passes that `p` picks: the current one, those that still drain and those that are pre-empted. A
pre-empted pass of which the word still tells stands both there and among the pre-empted ones, and counts once. -/
def ArrayState.dropThose (s : ArrayState) (p : PassWord → Bool) : ArrayState :=
  let gone := (s.draining.filter fun r => r.word.state != 4 && p r.word) ++ s.suspended.filter fun r => p r.word
  let s := gone.foldl (fun s r => s.bump r.word.job .PASSES_DISCARDED 1) s
  let s := { s with
    draining := s.draining.filter fun r => !p r.word
    suspended := s.suspended.filter fun r => !p r.word
    chains := s.chains.filter fun c => !p c.word }
  if !p s.word then s
  else if s.word.state == 4 then
    { s with word := { s.word with state := 5 }, ramp := .down, inGap := false, spaced := false, preempt := false }
  else if s.word.live then s.discard
  else s

/-- Discards every pass that `p` picks; none resumes or is re-issued (R128). -/
def Mod.dropPasses (m : Mod) (p : PassWord → Bool) : Mod :=
  { m with arrays := m.arrays.map fun s => s.dropThose p }

/-- Discards every pass of a command. -/
def Mod.dropCommand (m : Mod) (id : CmdId) : Mod := m.dropPasses fun w => w.id == id

end Sys2Proof.Machine
end

