-- ==== Sys2Proof/Machine/DataCmd.lean ====
section
/-!
DEFINITION. Data commands as a whole: check 13, the start of a transfer or compute command (R196–R198, R211,
R346, R421), its run in one piece or in segments (R215–R217), and its end.
-/

namespace Sys2Proof.Machine

end Sys2Proof.Machine

namespace Sys2Proof

open Sys2Proof.Machine

/-- The Transfer and Compute commands. -/
def Op.isData (op : Op) : Bool := op.group == 2 || op.group == 3

end Sys2Proof

namespace Sys2Proof.Machine

/-- The first broken rule of a data command at check 13, as a DETAIL. -/
def dataFault (op : Op) (j : Job) (p : Packet) : Option Nat :=
  let os := op.opnds j.plan p
  let own := if op.group = 2 then transferViols op p os
    else if op.isRiddle then riddleViols j.plan p os
    else match op with
      | .mend => mendViols j.plan p os
      | .vexpr => vexprViols j.plan p os
      | _ => computeViols op j.plan p os
  firstViol (commonViols op j p ++ own)

/-- The limits of R346, which the device tests when the command starts. -/
def dataLimit (op : Op) (j : Job) (p : Packet) : Option Nat :=
  let os := op.opnds j.plan p
  firstViol (if op.group = 2 then transferLimits op p os
    else match op with
      | .mend => riddleLimits op p os
      | .riddleExact | .riddleGuarded | .riddleFree => []
      | .vexpr => vexprLimits j.plan p os
      | _ => computeLimits op p os)

/-- What a data command finds out of bounds when it starts (R196). -/
def dataTest (x : Data) (rd : Nat → Byte) : Option Nat :=
  if x.c.op.group = 2 then transferTest x
  else if x.c.op.isRiddle then riddleTest x rd
  else match x.c.op with
    | .mend => riddleTest x rd
    | .matmul => if x.c.pkt.u 1 1 = 0 then computeTest x rd else riddleTest x rd
    | .vexpr => vexprTest x
    | _ => computeTest x rd

/-- The effect of a data command on the rows `lo` to `hi − 1`. -/
def Data.body (x : Data) (got : List (Nat × Byte)) (lo hi : Nat) (rd : Nat → Byte) : Effect :=
  if x.c.op.group = 2 then transferBody x lo hi rd
  else if x.c.op.isRiddle then riddleBody x lo hi rd
  else match x.c.op with
    | .matmul => matmulBody x lo hi rd
    | .hadamard => hadamardBody x lo hi rd
    | .mend => mendBody x lo hi rd
    | .vexpr => vexprBody x got lo hi rd
    | .sparseForward => sparseForwardBody x lo hi rd
    | .sparseDataGrad => sparseDataBody x lo hi rd
    | .sparseWeightGrad => sparseWeightBody x lo hi rd
    | .spmm => spmmBody x lo hi rd
    | .distMinPlus | .distMaxPlus | .distL2 | .distL1 => productBody x lo hi rd
    | _ => reduceBody x lo hi rd

/-- Every operand of a command, the riddle mask tensor included. -/
def allOpnds (op : Op) (plan : Plan) (p : Packet) : List Opnd :=
  op.opnds plan p ++ ((rmaskOf op p).map rmaskOpnd).toList

/-- The views of a command's operands. -/
def dataOf (c : Cmd) (j : Job) : Except (Option Nat × Opnd) Data :=
  match findAll j (allOpnds c.op j.plan c.pkt) with
  | .ok vs => .ok { c := c, j := j, vs := vs }
  | .error e => .error e

/-- The running command with an ID, its job and its views. -/
def Mod.dataAt? (m : Mod) (id : CmdId) : Option (Running × Data) :=
  match m.cmd? id with
  | none => none
  | some r =>
    match m.job? r.cmd.job with
    | none => none
    | some j =>
      match dataOf r.cmd j with
      | .ok x =>
        let formed := match r.work with
          | .passes .. => some r.formed
          | _ => none
        let vs := x.vs.map fun v => { v with from_ := j.copyFor id v.d.tensor }
        some (r, { x with vs := vs, got := r.fetched, formed := formed, wrote := r.segs })
      | .error _ => none

/-! ### Stakes that are not there (R39, R469) -/

/-- The fault log record of an ABSENT logical stake. -/
def Mod.absentRecord (m : Mod) (l : Nat) : Nat :=
  ((m.log.reverse.find? fun r => r.cls == 0x32 && r.logical == l).map (·.record)).getD 0

/-- What a command's stakes say: some moving stake makes it wait, some ABSENT one ends it. -/
def Mod.stakesOf (m : Mod) (j : Job) (q : Nat) : Bool × Option Nat :=
  let ls := ((j.plan.groupOf q).map (·.stakes)).getD []
  (ls.any m.movingStake, (ls.find? fun l => !m.present l).map m.absentRecord)

/-! ### Registering (R197, R198) -/

/-- The registrations of a command; REMOTE with the job's own rank names a tensor of this module. -/
def registrations (id : CmdId) (c : Cmd) (j : Job) : List Registered :=
  (c.op.dests j.plan c.pkt).map fun o =>
    let r := o.desc.byteRange
    { id := id, job := c.job, desc := o.desc.seenBy j.plan.rank, lo := r.1, hi := r.2 }

/-- The DETAIL of OVERLAP: the earlier command's sequence number and queue (R197). -/
def overlapDetail (id : CmdId) : Nat :=
  id.seq + (match id.lane with
    | .queue q => q * 2 ^ 32
    | .control _ => 0)

/-- Registers a command's own extents: waits when the registry is full, fails on an overlap. -/
inductive Claim where
  | waits
  | overlaps (detail : Nat)
  | ok (rs : List Registered)
  deriving DecidableEq, Repr

def Mod.claimExtents (m : Mod) (id : CmdId) (c : Cmd) (j : Job) : Claim :=
  let rs := registrations id c j
  if 1024 < m.registry.length + rs.length then .waits
  else
    match m.registry.find? fun o => rs.any fun r => o.overlaps r with
    | some o => .overlaps (overlapDetail o.id)
    | none => .ok rs

/-! ### Running rows -/

/-- Keeps the bytes that have come from elsewhere for a command. -/
def Mod.keepBytes (m : Mod) (id : CmdId) (got : List (Nat × Byte)) : Mod := m.updRunning id.lane fun r => { r with fetched := got }

/-- The status of a command that failed: a split request names its parts (R214). -/
def Mod.failure (m : Mod) (x : Data) (e : Effect) (st : Status) (d : Nat) (p : Bytes) : Status × Nat × Bytes :=
  let bad := m.unreadable x e
  if x.c.op.group = 2 && st == .faultDetected && x.split && !bad.isEmpty then partFailed bad else (st, d, p)

/-- The tray nodes of a vector expression over some rows: the bytes that are there, whether all are, and how a node fails
(R426, R538). They start once the inputs are here. -/
def Mod.vexprNodes (m : Mod) (id : CmdId) (x : Data) (lo hi : Nat) : Mod × List (Nat × Byte) × Bool × Option (Status × Nat × Bytes) :=
  if x.c.op != .vexpr then (m, x.got, true, none)
  else
    let lead := x.lead_idx lo hi
    if ((x.body x.got lo hi (m.reader x.j x.got)).needs x.j x.got).isSome then (m, x.got, true, none)
    else
      let (m, got, bad) := m.trayNodes id x.j x x.got (lead.length * 33 + 1) lead
      (m, got, x.trayDone got lead, bad)

/-- Runs the rows `lo` to `hi − 1` of a command, a segment or the whole: it waits, fails, or has written them. -/
def Mod.runRows (m : Mod) (id : CmdId) (x : Data) (lo hi : Nat) : Ran :=
  let (m, got, all, bad) := m.vexprNodes id x lo hi
  match bad, all, m.cmd? id with
  | some (st, d, p), _, _ => .failed m st d p
  | none, false, _ => .waits (m.setWork id.lane (.remote got false))
  | none, true, none => .waits m
  | none, true, some r =>
    let m := m.keepBytes id got
    match m.runEffect id r x.j got (x.body got lo hi) with
    | .waits m => .waits m
    | .failed m st d p =>
      let (st, d, p) := m.failure x (x.body got lo hi (m.reader x.j got)) st d p
      .failed m st d p
    | .wrote m => .wrote (m.updRunning id.lane fun r => { r with segs := r.segs + 1, formed := [], took := [] })

/-- What a command leaves beside its writes: the note of the riddle mask that it wrote (log 48), and the tiles of DATA_GRAD
that ran dense. Such a tile counts once for the command, whatever segments and row pieces load it, and also when every
row is masked (R168; DESIGN CHOICE, log 103). -/
def Mod.leaves (m : Mod) (x : Data) : Mod :=
  let job := x.c.job
  if x.c.op.isRiddle then
    let t := (x.v 0x10).d.tensor
    let note : RiddleNote :=
      { tensor := t, tau := BitVec.ofNat 32 (x.j.plan.act x.c.pkt).tau, rows := x.rows, hidden := x.opB.d.ext 1 }
    m.updJob job fun j => { j with riddleNotes := note :: j.riddleNotes.filter fun p => p.tensor != t }
  else if x.c.op == .sparseDataGrad then
    m.countJob job .NONTRANSPOSABLE_TILES (x.passPlan (m.reader x.j x.got)).badTiles
  else m

/-- The reply payload of a command that has written all its rows: that of the whole (R203). -/
def Data.payload (x : Data) (rd : Nat → Byte) : Bytes :=
  if x.c.op == .convert then (x.body x.got 0 x.rows rd).payload else []

/-! ### Segments (R215–R217) -/

/-- The next segment of a command, or for an array command its passes, which count on from those of the segments before. -/
def Mod.nextSegment (m : Mod) (id : CmdId) (x : Data) (bad : Bool) : Mod :=
  match m.dataAt? id with
  | none => m
  | some (r, y) =>
    if x.c.op.isArray then
      m.setWork id.lane (.passes (r.base + (y.passPlan (m.reader y.j y.got)).passes.length) r.base r.base [])
    else m.setWork id.lane (.segments x.segmentCount r.segs bad)

/-- The rows of a segment are written. A command that signals waits for their acknowledgements (R50, R216); then SIG0 rises
for the segment under SEG_SIGNAL, and the command goes on to its next segment or ends (R217, R525). -/
def Mod.endSegment (m : Mod) (id : CmdId) (x : Data) : Mod :=
  match m.cmd? id with
  | none => m
  | some r =>
    if r.cmd.namesSignal && !m.acked id r.cmd.job then m.setWork id.lane (.remote r.fetched true)
    else
      let n := x.segmentCount
      let bad := r.cmd.pkt.nfFail && r.sum.nonfinite != 0
      let m := if 1 < n && r.cmd.pkt.segSignal then m.segmentSignal r.cmd bad else m
      if r.segs < n then m.nextSegment id x bad
      else
        let (st, d) := r.ending
        let m := if 1 < n then m.setWork id.lane (.segments n n bad) else m
        (m.leaves x).complete id st d (x.payload (m.reader x.j r.fetched))

/-- Runs the segment of a command that stands next. -/
def Mod.runSegment (m : Mod) (id : CmdId) (r : Running) (x : Data) : Mod :=
  let rg := x.segSpan r.segs
  match m.runRows id x rg.1 rg.2 with
  | .waits m => m
  | .failed m st d p => m.complete id st d p
  | .wrote m => m.endSegment id x

/-- Whether replay isolation holds a data command: on the transfer engine or sequencer of one of its stakes (R457). -/
def Mod.heldBack (m : Mod) (j : Job) (c : Cmd) : Bool :=
  (((j.plan.groupOf c.pkt.queue.toNat).map (·.stakes)).getD []).any fun l =>
    match m.stakeMap.getD l none with
    | some p => m.stoppedAt (if c.op.group = 2 then .transfer p else .sequencer p)
    | none => false

/-- A segment completes: it is written, SIG0 rises, and after the last one the command ends. -/
def Mod.segmentComplete (m : Mod) (lane : Lane) : Mod :=
  match m.running? lane with
  | none => m
  | some r =>
    let id := r.cmd.id lane
    if ((m.job? r.cmd.job).map fun j => m.heldBack j r.cmd).getD false then m else
    match r.work, m.dataAt? id with
    | .segments _ _ _, some (r, x) => m.runSegment id r x
    | _, _ => m

/-! ### Array commands -/

/-- Writes the segments of an array command whose passes are all DONE, in order (R114, R216). A segment's mending passes
follow its others (R181). -/
def Mod.arraySegments (m : Mod) (id : CmdId) : Nat → Mod
  | 0 => m
  | fuel + 1 =>
    match m.dataAt? id with
    | none => m
    | some (r, x) =>
      match r.work with
      | .passes _ issued done re =>
        let plan := x.passPlan (m.reader x.j x.got)
        if r.base + passesTo plan r.segs ≤ done then
          let m := m.updRunning id.lane fun r => { r with base := done }
          let rg := x.segSpan r.segs
          match m.runRows id x rg.1 rg.2 with
          | .waits m => m
          | .failed m st d p => (m.complete id st d p).dropCommand id
          | .wrote m => (m.endSegment id x).arraySegments id fuel
        else m.setWork id.lane (.passes (r.base + plan.passes.length) issued done re)
      | _ => m

/-- The bytes of gateway windows among some locations, as a command holds them from its start on (R105). -/
def Job.windowBytes (j : Job) (locs : List Nat) : List (Nat × Byte) := (locs.filter isWin).map fun a => (a, j.windowByte a)

/-- Starts the passes of an array command once the operands that lie elsewhere are here (R105). -/
def Mod.goArray (m : Mod) (id : CmdId) (x : Data) (got : List (Nat × Byte)) : Mod :=
  let y := { x with got := got, formed := none }
  let rd := m.reader y.j got
  let e := y.body got 0 y.rows rd
  match e.needs y.j got with
  | some locs => (m.ask y.j id locs).setWork id.lane (.remote got false)
  | none =>
    let m := m.keepBytes id (y.j.windowBytes (e.reads.flatten) ++ got)
    let n := (y.passPlan rd).passes.length
    (m.setWork id.lane (.passes n 0 0 [])).arraySegments id (y.segmentCount + 1)

/-! ### Split scatters -/

/-- Stages a split scatter once its bytes are here (R212). -/
def Mod.goSplit (m : Mod) (id : CmdId) (x : Data) (got : List (Nat × Byte)) : Mod :=
  match m.cmd? id with
  | none => m
  | some r =>
    let x := { x with got := got }
    let rd := m.reader x.j got
    let e := x.body got 0 x.rows rd
    match e.needs x.j got with
    | some locs => (m.ask x.j id locs).setWork id.lane (.remote got false)
    | none =>
      let (m, corrected, bad) := (m.keepBytes id got).checkLocal (some r.cmd) e.reads.flatten
      let m := m.updSum id.lane fun s => { s with corrected := s.corrected + corrected }
      match bad, e.fail with
      | some n, _ =>
        let (st, d, p) := m.failure x e .faultDetected n []
        m.complete id st d p
      | none, some (st, d, p) => m.complete id st d p
      | none, none => m.stageSplit id x rd e

/-! ### Starting -/

/-- Whether a scatter runs whole on another module (R421). -/
def Data.farScatter (x : Data) : Bool :=
  (x.c.op == .scatter || x.c.op == .scatterAdd) &&
    match (x.v 0x10).place with
    | .tray .. => true
    | _ => false

/-- Notes the copies that a command reads, and counts one that reads a home because a fetch has not ended (R249, R251). -/
def Mod.noteTensors (m : Mod) (id : CmdId) (j : Job) (ts : List Nat) : Mod :=
  let late := j.residency.any fun r => ts.contains r.tensor && r.fetching && !r.valid
  let m := m.updJob j.plan.job fun j => { j with copyReads := ((ts.filter fun t => (j.copyOf t).isSome).map fun t => (t, id)) ++ j.copyReads }
  if late then m.countJob j.plan.job .RESIDE_LATE else m

/-- Notes the copies that a command reads through its operands on this module. -/
def Mod.noteCopies (m : Mod) (id : CmdId) (x : Data) : Mod :=
  let here (v : View) : Bool := match v.place with
    | .here _ => true
    | _ => false
  m.noteTensors id x.j ((x.vs.filter fun v => here v && !x.c.op.isDest v.o.off v.o.role).map fun v => v.d.tensor).eraseDups

/-- Whether a command waits for bytes or acknowledgements. -/
def Work.isRemote : Work → Bool
  | .remote .. => true
  | _ => false

/-- Whether a command runs in the two phases of R212: a split scatter that is not sent whole to another module. -/
def Data.twoPhase (x : Data) : Bool := (x.c.op == .scatter || x.c.op == .scatterAdd) && x.split

/-- Goes on with a command whose extents are registered, with the bytes that have come: passes, parts, segments, or the
whole. -/
def Mod.launch (m : Mod) (id : CmdId) (x : Data) (got : List (Nat × Byte)) : Mod :=
  match m.cmd? id with
  | none => m
  | some r =>
    if x.c.op.isArray then m.goArray id x got
    else if x.twoPhase then m.goSplit id x got
    else if 1 < x.segmentCount && !r.work.isRemote then m.setWork id.lane (.segments x.segmentCount 0 false)
    else m.runSegment id r { x with got := got }

/-- Starts a data command at the head of its lane (R196–R198, R346, R421). -/
def Mod.startData (m : Mod) (id : CmdId) (c : Cmd) (j : Job) : Mod :=
  let (moving, absent) := m.stakesOf j c.pkt.queue.toNat
  if moving then m.setWork id.lane .ready
  else match absent with
  | some n => m.complete id .faultDetected n
  | none =>
    match dataOf c j with
    | .error (some rank, _) => m.setWork id.lane (.placement rank)
    | .error (none, o) => m.complete id .badDescriptor (o.field 4)
    | .ok x =>
      match dataLimit c.op j c.pkt with
      | some d => m.complete id .badDescriptor d
      | none =>
        if x.farScatter then
          match (x.v 0x10).place with
          | .tray .. =>
            (m.emit (.scatterWhole (x.v 0x10).d.rank id c.op c.pkt.payload)).setWork id.lane (.split [] [] [0])
          | _ => m
        else
          match dataTest x (m.reader j []) with
          | some d => m.complete id .bounds d
          | none =>
            match m.claimExtents id c j with
            | .waits => m.setWork id.lane .ready
            | .overlaps d => (m.countJob c.job .OVERLAP_REFUSED).complete id .overlap d
            | .ok rs => (({ m with registry := m.registry ++ rs }).noteCopies id x).launch id x []

/-- Bytes of a data command's remote operations have arrived, or its acknowledgements. -/
def Mod.resumeData (m : Mod) (id : CmdId) : Mod :=
  match m.dataAt? id with
  | none => m
  | some (r, x) =>
    let m := m.wakeThreads fun ph => ph == ThreadPhase.access id
    match r.work with
    | .remote got false => m.launch id x got
    | .remote _ true => (m.endSegment id x).arraySegments id (x.segmentCount + 1)
    | _ => m

def execSegmentComplete (lane : Lane) (s : State) : Host.Outcome State Fault Refusal :=
  lift (fun m => m.segmentComplete lane) s

end Sys2Proof.Machine
end

