-- ==== Sys2Proof/Machine/Arrays.lean ====
section
/-!
DEFINITION. Passes on the matrix arrays (R105–R138): issue, reload, row-blocks, partial rows, gaps and ramps, pre-emption,
drain and checks, discard and re-issue.
-/

namespace Sys2Proof.Machine

/-! ### The pass on an array -/

/-- The absolute row of the command at which a pass stands. -/
def PassRun.row (r : PassRun) : Nat := r.spec.seg * segRows + r.word.nextRow

/-- Whether a run is a pass of the chain that `r` belongs to, at its place or behind it. -/
def PassRun.follows (o r : PassRun) : Bool := o.word.id == r.word.id && o.spec.chain == r.spec.chain && r.spec.link ≤ o.spec.link

/-- Whether an array can take a pass: no pass is loading or streaming, and no ramp-down or gap is under way. An earlier pass
may still drain (R107). -/
def ArrayState.canTake (s : ArrayState) : Bool := !(s.word.state == 1 || s.word.state == 2) && s.ramp != .down && !s.inGap

/-- Puts a pass on an array in LOAD; the pass before it goes on draining (R107, R113). An array whose clocks are gated stays
so until its ramp-up. -/
def ArrayState.load (s : ArrayState) (r : PassRun) : ArrayState :=
  { s with
    toPassRun := { r with word := { r.word with state := 1 }, fedIn := 0 }
    draining := if s.word.state == 3 then s.draining.concat s.toPassRun else s.draining
    preempt := false }

/-- The first array of the gang that runs an array's pass: the chain regions of the gang stand there (R118, R150). -/
def leadOf (w : PassWord) (a : Nat) : Nat := a - a % gangSize w.gang

/-- The partial rows of a half of a chain region: CHAIN_SIDE 0 names the first (R118). -/
def Chain.half (c : Chain) (side : Nat) : List (Nat × PartRow) := if side % 2 = 0 then c.even else c.odd

def Chain.setHalf (c : Chain) (side : Nat) (rows : List (Nat × PartRow)) : Chain :=
  if side % 2 = 0 then { c with even := rows } else { c with odd := rows }

/-- The chain region of a pass's chain on an array. -/
def ArrayState.chain? (s : ArrayState) (id : CmdId) (chain : Nat) : Option Chain :=
  s.chains.find? fun c => c.word.id == id && c.chain == chain

/-- The partial rows that a pass starts from (R117, R142): those of its predecessor, which stand in the chain region, or with
the predecessor while that still drains. -/
def ArrayState.chainIn (s : ArrayState) (r : PassRun) : List (Nat × PartRow) :=
  match s.draining.find? fun d => d.word.id == r.word.id && d.spec.chain == r.spec.chain && d.spec.link + 1 == r.spec.link with
  | some d => d.out
  | none => ((s.chain? r.word.id r.spec.chain).map (·.half r.word.chainSide)).getD []

/-- A pass's command and its views. -/
def Mod.passData? (m : Mod) (r : PassRun) : Option Data := (m.dataAt? r.word.id).map (·.2)

/-- A command of the arrays ends by a failure of a pass: its other passes are discarded. -/
def Mod.failPass (m : Mod) (id : CmdId) (st : Status) (d : Nat) : Mod := (m.complete id st d).dropCommand id

/-! ### The end of a pass -/

/-- A pass of a command has ended (R114, R216). -/
def Mod.passEnded (m : Mod) (id : CmdId) : Mod :=
  match m.dataAt? id with
  | none => m
  | some (r, x) =>
    match r.work with
    | .passes total issued done re =>
      (m.setWork id.lane (.passes total issued (done + 1) re)).arraySegments id (x.segmentCount + 1)
    | _ => m

/-! ### Issue (R113) -/

/-- Whether a job is a FILLER. -/
def Mod.filler (m : Mod) (job : Nat) : Bool := ((m.job? job).map fun j => j.plan.cls == 2).getD false

/-- Whether an array command has a pass to issue. -/
def Running.wantsArray (r : Running) : Bool :=
  match r.work with
  | .passes total issued _ re => decide (issued < total) || !re.isEmpty
  | _ => false

/-- Whether a job other than a FILLER has array work ready on a physical stake (R76). -/
def Mod.primaryReady (m : Mod) (stake : Nat) : Bool :=
  match m.logicalOf stake with
  | none => false
  | some l => m.runnings.any fun (lane, r) => r.wantsArray && !m.filler r.cmd.job &&
      match lane, m.job? r.cmd.job with
      | .queue q, some j => (((j.plan.groupOf q).map (·.stakes)).getD []).contains l
      | _, _ => false

/-- Whether a pass of a job may take a stake's arrays: a FILLER's only where no PRIMARY work is ready, and only when the idle
run holds a row-block (R76). How long the idle run is lies ahead: it is free (log 105). -/
def Mod.mayRun (m : Mod) (job stake : Nat) : Bool × Mod :=
  if !m.filler job then (true, m)
  else if m.primaryReady stake then (false, m)
  else m.freeBool

/-- Whether some operand lies outside the store of a stake, so that the transfer engine brings it there (R105). -/
def Data.brought (x : Data) (l : Nat) : Bool := x.vs.any fun v =>
  match v.place with
  | .here _ => regionOf (v.loc 0) != .stake l
  | _ => true

/-- Whether a stake's array may take a pass of a command: the stake is of the command's group and not on its way to a spare, its sequencer runs, and its
transfer engine where that brings operands (R105, R457). -/
def Mod.stakeServes (m : Mod) (stake : Nat) (x : Data) : Bool :=
  match m.logicalOf stake with
  | none => false
  | some l => x.group.stakes.contains l && !m.movingStake l && !m.stoppedAt (.sequencer stake) && !(x.brought l && m.stoppedAt (.transfer stake))

/-- The index, within the current segment, of the pass that an array takes next, and whether it is a re-issue: the first in
the command's order of those not issued yet that start a chain, or whose chain is bound to this array; those to be
re-issued go first (R117, R129, R150). -/
def nextPass (id : CmdId) (s : ArrayState) (r : Running) (plan : PassPlan) (re : List Nat) : Option (Nat × Bool) :=
  let bound (p : PassSpec) : Bool := (s.chain? id p.chain).isSome
  match re.find? fun i => let p := plan.passes.getD (i - r.base) {}; p.link == 0 || bound p with
  | some i => some (i - r.base, true)
  | none =>
    ((plan.passes.zipIdx.filter fun p => p.1.seg == r.segs && !r.took.contains p.2).find? fun p =>
      p.1.link == 0 || bound p.1).map fun p => (p.2, false)

/-- Whether the predecessor of a chained pass has left its chain input (R117): it is neither to be re-issued nor
pre-empted, and works no more, or drains on this array. -/
def chainReady (id : CmdId) (s : ArrayState) (spec : PassSpec) (idx : Nat) (re : List Nat) : Bool :=
  spec.link == 0 || (!re.contains (idx - 1) && !s.suspended.any fun r => r.word.id == id && r.word.pass + 1 == idx)

/-- The gap that the limiter gives the passes of a job (R78, R558). -/
def Mod.limiterGap (m : Mod) (job : Nat) : Nat := ((m.power.gapPrimary.find? fun g => g.1 == job).map (·.2)).getD 0

/-- Starts a limiter gap of `g` cycles on the arrays of a pass (R123–R125). The trace names the logical array (R13). -/
def Mod.openGap (m : Mod) (w : PassWord) (a g : Nat) : Mod :=
  let l := (m.logicalOf (a / 4)).getD (a / 4)
  ((m.onGang w a fun t =>
      ({ t with inGap := true, ramp := .down, gap := g, gapJob := w.job, spaced := true }).bump w.job .RAMPS 1).updSum w.id.lane
    fun x => { x with throttled := true }).trace_
      { time := 0, kind := 7, job := w.job, inc := w.inc, queue := w.queue, seq := w.seq, arg0 := g, arg1 := 4 * l + a % 4 }

/-- The sequencer issues or re-issues a command's next pass on an array (R113, R117, R120, R129). A limiter gap stands before
the reload (R124, R125). The first pass of a chain has CHAIN_SIDE 0 (DESIGN CHOICE, log 103). -/
def Mod.passIssue (m : Mod) (a : Nat) (id : CmdId) : Mod :=
  match m.dataAt? id with
  | none => m
  | some (r, x) =>
    match r.work with
    | .passes total issued done re =>
      let rd := m.reader x.j x.got
      let plan := x.passPlan rd
      let lead := a - a % gangSize plan.gang
      match nextPass id (m.array lead) r plan re with
      | none => m
      | some (i, again) =>
        let spec := plan.passes.getD i {}
        let idx := r.base + i
        let w : PassWord :=
          { job := x.c.job, inc := x.c.pkt.inc.toNat, queue := x.c.pkt.queue.toNat, seq := x.c.pkt.seq.toNat
            pass := idx, nextRow := spec.lo - spec.seg * segRows, ktile := spec.ktile
            mode := plan.mode, gang := plan.gang, chainSide := spec.link % 2, reissued := again, state := 1 }
        let fits := a == lead && (!x.c.op.isDistance || a % 4 == 3)
        let free := (gangOf w a).all fun b => (m.array b).canTake
        if !m.stakeServes (a / 4) x || !fits || !free || !chainReady id (m.array lead) spec idx re then m
        else
          let (may, m) := m.mayRun x.c.job (a / 4)
          if !may then m
          else if m.limiterGap w.job != 0 && (m.array a).gap == 0 && !(m.array a).spaced then m.openGap w a (m.limiterGap w.job)
          else
            let m := (m.setWork id.lane (if again then .passes total issued done (re.filter (· != idx))
              else .passes total (issued + 1) done re)).updRunning id.lane fun r =>
                { r with took := if again then r.took else r.took.concat i }
            let fed := x.fedBetween rd spec.lo spec.hi
            let binds := spec.link == 0 && !spec.last && ((m.array lead).chain? id spec.chain).isNone
            let m := if binds then
                m.setArray { m.array lead with chains := (m.array lead).chains.concat { word := w, chain := spec.chain } }
              else m
            if fed = 0 then
              let m := m.onGang w a fun s => s.bump w.job .MASKED_ROWS (spec.hi - spec.lo)
              (if spec.last then m.setArray { m.array lead with
                  chains := (m.array lead).chains.filter fun c => !(c.word.id == id && c.chain == spec.chain) } else m).passEnded id
            else m.onGang w a fun s => s.load { word := w, spec := spec }
    | _ => m

/-! ### Row-block boundaries (R124–R126, R130) -/

/-- The tile check of the drain (R132): the tile's k-rows, read again, against the checksum row. -/
def Tile.clean (t : Tile) : Bool :=
  t.row.zipIdx.all fun c => exactSum (t.rows.map fun r => r.getD c.2 .zero) == c.1

/-- Pre-empts the pass of an array: its progress stays in its word, and the rows fed drain and are checked (R126). -/
def Mod.preemptNow (m : Mod) (a : Nat) : Mod :=
  let w := (m.array a).word
  (m.onGang w a fun s =>
    let r := { s.toPassRun with word := { s.word with state := 4 }, clean := s.clean && s.tile.clean }
    ({ s with
      toPassRun := r
      suspended := r :: s.suspended
      draining := s.draining.concat r
      preempt := false }).bump w.job .PREEMPTIONS 1).updSum w.id.lane fun x => { x with preempted := true }

/-- The gap that stands before an array's next row-block: one that a discarded pass left (R130), or the limiter's, unless one
stood before the reload. -/
def Mod.gapAt (m : Mod) (a : Nat) : Nat :=
  let s := m.array a
  if s.gap != 0 then s.gap else if s.spaced then 0 else m.limiterGap s.word.job

/-- What happens at a row-block boundary of a streaming pass (R130). -/
def Mod.boundary (m : Mod) (a : Nat) : Mod :=
  let s := m.array a
  if s.word.state != 2 then m
  else if s.preempt then m.preemptNow a
  else if m.gapAt a != 0 && !s.inGap then m.openGap s.word a (m.gapAt a)
  else m

/-! ### Tiles and rows -/

/-- The tile of one array of a gang (R106): the stationary operand over its k-tile, with its checksum column and row
captured as it loads (R131, R132). -/
def Product.tile (p : Product) (cols : List Nat) (k0 k1 : Nat) : Tile :=
  let rows := ((List.range (k1 - k0)).map (k0 + ·)).map fun k => cols.map (p.weight k)
  { rows := rows, column := rows.map exactSum, row := cols.zipIdx.map fun c => exactSum (rows.map fun r => r.getD c.2 .zero) }

/-- The k of the `i`-th array of a gang in a pass. -/
def PassSpec.kSpan (p : PassSpec) (i : Nat) : Nat × Nat := (min p.k1 (p.k0 + i * p.depth), min p.k1 (p.k0 + (i + 1) * p.depth))

/-- The row check (R131): the checksum column's result against the sum of the row's results, both exact; only over finite
products (log 105). `s` gives the row's elements from the tile's first k on, `on` the k that the feeder does not skip. -/
def Tile.rowClean (t : Tile) (s : Nat → Val) (on : Nat → Bool) : Bool :=
  let ks := t.rows.zipIdx.filter fun r => on r.2
  let results := exactSum (ks.flatMap fun r => r.1.map fun w => (s r.2).mul w)
  let column := exactSum (ks.map fun r => (s r.2).mul (t.column.getD r.2 .zero))
  results.nonfinite || column.nonfinite || results.eq column

/-- An element of the tiles of a gang, as the array holds it that has its k. -/
def tileAt (tiles : List Tile) (spec : PassSpec) (col k : Nat) : Val :=
  let i := (k - spec.k0) / spec.depth
  (((tiles.getD i {}).rows.getD (k - spec.k0 - i * spec.depth) []).getD col .zero)

/-- One fed row of a pass: its partial row passes through the arrays of the gang in turn (R109, R144). -/
def Product.partRow (p : Product) (tiles : List Tile) (spec : PassSpec) (start : List (Nat × PartRow)) (row : Nat) : PartRow :=
  let before : PartRow := ((start.find? fun r => r.1 == row).map (·.2)).getD []
  spec.cols.zipIdx.map fun (n, c) =>
    let acc := if spec.link = 0 then accStart else before.getD c accStart
    p.span row n (p.stream row) (tileAt tiles spec c) spec.k0 spec.k1 acc

/-- Whether the row checks of a fed row find no difference, on every array of the gang. A fitch tile has no sum of products to
compare: there, as for the roundings and additions of every row, a second adder repeats the operation (R131). -/
def Product.rowClean (p : Product) (tiles : List Tile) (spec : PassSpec) (mul : Bool) (row : Nat) : Bool :=
  !mul || tiles.zipIdx.all fun (t, i) =>
    let k0 := (spec.kSpan i).1
    t.rowClean (fun k => p.stream row (k0 + k)) fun k => !p.skip row ((k0 + k) / 16)

/-- The reload of a pass ends and it streams (R107): every array of its gang has written its own k-tile. A word of it that
cannot be read, or an invalid code, ends the command (R158, R237). -/
def Mod.reloadDone (m : Mod) (a : Nat) : Mod :=
  let s := m.array a
  match m.passData? s.toPassRun with
  | none => m
  | some x =>
    if s.word.state != 1 || m.stoppedAt (.sequencer (a / 4)) then m
    else
      let id := s.word.id
      let rd := m.reader x.j x.got
      let p := x.product rd
      let hadamard := x.c.op == .hadamard
      let rows := x.fedList rd s.spec.lo s.spec.hi
      let ks := if hadamard then [] else p.tileKs rows s.spec.k0 s.spec.k1
      let (m, n, bad) := m.checkLocal (some x.c) (if hadamard then [] else p.colLocs rows s.spec.cols s.spec.k0 s.spec.k1)
      let m := m.updSum id.lane fun y => { y with corrected := y.corrected + n }
      match bad, p.tileFail ks s.spec.cols with
      | some rec_, _ => m.failPass id .faultDetected rec_
      | none, some (st, d, _) => if ks.isEmpty then m else m.failPass id st d
      | none, none =>
        let m := m.onGang s.word a fun t => { t with word := { t.word with state := 2 } }
        let m := if hadamard then m else
          (gangOf s.word a).zipIdx.foldl (fun m (b, i) =>
            let k := s.spec.kSpan i
            m.setArray { m.array b with tile := p.tile s.spec.cols k.1 k.2 }) m
        m.boundary a

/-- Whether an array feeds rows: it streams, no ramp and no gap is under way. During the hold of a shutdown none feeds
(R562). -/
def ArrayState.feeding (s : ArrayState) : Bool := s.word.state == 2 && s.ramp == .none && !s.inGap

/-- Feeds an array's rows from where it stands up to unit `elem` of row `stop` (R112, R119, R138). Each row adds its group
sums to the partial row that it continues (R142, R144). The dummy rows that fall among them, for want of a ready row or of
the store's bandwidth, are a free number (R116, R121; log 105). A word that cannot be read, or an invalid code, ends the
command. -/
def Mod.feed (m : Mod) (a : Nat) (x : Data) (stop elem : Nat) : Mod :=
  let s := m.array a
  let id := s.word.id
  let rd := m.reader x.j x.got
  let p := x.product rd
  let hadamard := x.c.op == .hadamard
  let rows := x.fedList rd s.row stop
  let (m, n, bad) := if hadamard then (m, 0, none)
    else m.checkLocal (some x.c) (rows.flatMap fun i => p.rowLocs i s.spec.k0 s.spec.k1)
  let m := m.updSum id.lane fun y => { y with corrected := y.corrected + n }
  match bad, rows.findSome? fun i => p.rowFail i s.spec.cols with
  | some rec_, _ => m.failPass id .faultDetected rec_
  | none, some (st, d, _) => m.failPass id st d
  | none, none =>
    let gang := gangOf s.word a
    let tiles := gang.map fun b => (m.array b).tile
    let start := (m.array (leadOf s.word a)).chainIn s.toPassRun
    let out := if hadamard then [] else rows.map fun i => (i, p.partRow tiles s.spec start i)
    let clean := hadamard || rows.all (p.rowClean tiles s.spec (p.best.isNone && !x.c.op.isDistance))
    let (dummies, m) := m.freeNat
    m.onGang s.word a fun t =>
      let t := ((t.bump s.word.job .FED_ROWS rows.length).bump s.word.job .MASKED_ROWS (stop - s.row - rows.length)).bump
        s.word.job .DUMMY_ROWS dummies
      { t with
        word := { t.word with nextRow := stop - s.spec.seg * segRows }, elem := elem, out := t.out ++ out
        clean := t.clean && clean, spaced := false }

/-- Feeds `n` more units, which end within the current row-block. -/
def Mod.feedUnits (m : Mod) (a : Nat) (x : Data) (n : Nat) : Mod :=
  let s := m.array a
  let to_ := x.advance (m.reader x.j x.got) (s.spec.hi - s.row + 1) s.row s.elem s.spec.hi n
  (m.feed a x to_.1 to_.2).onGang s.word a fun t => { t with fedIn := t.fedIn + n }

/-- The units that an array's pass still has to feed. -/
def Mod.leftAt (m : Mod) (a : Nat) (x : Data) : Nat :=
  let s := m.array a
  x.unitsLeft (m.reader x.j x.got) s.row s.elem s.spec.hi

/-- Feeds rows up to a point within the current row-block where none is ready: how many is free (R121, R126; log 105). -/
def Mod.feedSome (m : Mod) (a : Nat) (x : Data) : Mod :=
  let most := min (x.blockUnits - (m.array a).fedIn) (m.leftAt a x)
  let (n, m) := m.freeNat
  if most = 0 then m else m.feedUnits a x (n % most)

/-- Whether an array's sequencer or the hold of a shutdown keeps it from feeding. -/
def Mod.mayFeed (m : Mod) (a : Nat) : Bool :=
  (m.array a).feeding && m.power.holding.isNone && !m.stoppedAt (.sequencer (a / 4))

/-- A row-block ends (R112, R124, R134). -/
def Mod.rowBlock (m : Mod) (a : Nat) : Mod :=
  let s := m.array a
  match m.passData? s.toPassRun with
  | none => m
  | some x =>
    let n := x.blockUnits - s.fedIn
    if !m.mayFeed a || m.leftAt a x ≤ n then m
    else ((m.feedUnits a x n).onGang s.word a fun t => { t with fedIn := 0 }).boundary a

/-- A pass's last fed row enters and the pass drains (R113). -/
def Mod.lastRow (m : Mod) (a : Nat) : Mod :=
  let s := m.array a
  match m.passData? s.toPassRun with
  | none => m
  | some x =>
    if !m.mayFeed a || x.blockUnits - s.fedIn < m.leftAt a x then m
    else (m.feed a x s.spec.hi 0).onGang s.word a fun t =>
      if t.word.state == 2 then { t with word := { t.word with state := 3 }, clean := t.clean && t.tile.clean, preempt := false } else t

/-- A pass is DONE (R113, R115): its partial rows stand in the chain region, or its results in its command (R117). -/
def Mod.passDone (m : Mod) (a : Nat) (r : PassRun) : Mod :=
  let w := { r.word with state := 6 }
  let id := w.id
  let lead := m.array (leadOf w a)
  let mine (c : Chain) : Bool := c.word.id == id && c.chain == r.spec.chain
  let leave (c : Chain) : Chain := if mine c = true then { c.setHalf (w.chainSide + 1) r.out with word := w } else c
  let m := if r.spec.last then
      (m.setArray { lead with chains := lead.chains.filter fun c => !mine c }).updRunning id.lane fun y =>
        { y with formed := y.formed ++ r.out.flatMap fun o => (r.spec.cols.zip o.2).map fun c => (o.1, c.1, c.2) }
    else
      m.setArray { lead with chains := lead.chains.map leave }
  let l := (m.logicalOf (a / 4)).getD (a / 4)
  ((m.onGang w a fun t => t.bump w.job .PASSES_DONE 1).trace_
    { time := 0, kind := 3, unit := ⟨1, l⟩, job := w.job, inc := w.inc, queue := w.queue, seq := w.seq
      arg0 := w.nextRow, arg1 := w.word % 2 ^ 64 }).passEnded id

/-- A drain and its checks end clean (R115): of the earliest pass that still drains, else of the current one. The drain of a
pre-emption leaves its pass PREEMPTED (R126). A pass whose checks have found a difference waits for its fault. -/
def Mod.checksClean (m : Mod) (a : Nat) : Mod :=
  let s := m.array a
  match s.draining with
  | r :: rest =>
    if !r.clean then m
    else
      let m := m.onGang s.word a fun t => { t with draining := rest }
      if r.word.state == 4 then m else m.passDone a r
  | [] =>
    if s.word.state != 3 || !s.clean then m
    else (m.onGang s.word a fun t => { t with word := { t.word with state := 6 } }).passDone a s.toPassRun

/-! ### Dummy rows and ramps (R121–R123) -/

/-- 48 consecutive dummy rows with no ready row: a ramp-down. With a pre-emption asked for, the first cycle without a ready
row stops the pass (R121, R126). -/
def Mod.dummyRun (m : Mod) (a : Nat) : Mod :=
  let s := m.array a
  match m.passData? s.toPassRun with
  | none => m
  | some x =>
    if !s.feeding then m
    else
      let m := m.feedSome a x
      if s.preempt then m.preemptNow a
      else if (m.array a).word.state != 2 then m
      else m.onGang s.word a fun t =>
        (({ t with ramp := .down, eighths := 0 }).bump s.word.job .DUMMY_ROWS 48).bump s.word.job .RAMPS 1

/-- Whether a discarded pass is to be issued again. -/
def Mod.toReissue (m : Mod) (w : PassWord) : Bool :=
  match m.cmd? w.id with
  | some r =>
    match r.work with
    | .passes _ _ _ re => re.contains w.pass
    | _ => false
  | none => false

/-- The dummy rows of a ramp: outside a limiter gap the columns that stay on keep taking them, one in each of its at most 64
cycles (R122, R123). How many is free (log 105). -/
def Mod.rampRows (m : Mod) (s : ArrayState) : Nat × Mod :=
  if s.inGap then (0, m) else let (n, m) := m.freeNat; (n % 65, m)

/-- A ramp-down ends: all eight eighths of the columns are off and the clocks gated, and an array without a pass to run is
IDLE (R113, R122). -/
def Mod.rampDown (m : Mod) (a : Nat) : Mod :=
  let s := m.array a
  let w := s.word
  if s.ramp == .down then
    let idle := w.state == 5 && !m.toReissue w
    let (n, m) := m.rampRows s
    m.onGang w a fun t =>
      ({ t with ramp := .gated, eighths := 8, word := if idle then { t.word with state := 0 } else t.word }).bump w.job .DUMMY_ROWS n
  else if w.state == 6 && s.draining.isEmpty && s.ramp == .none then
    m.onGang w a fun t => ({ t with ramp := .gated, eighths := 8, word := { t.word with state := 0 } }).bump w.job .RAMPS 1
  else m

/-- A ramp-up ends and the first fed row enters; it reverses a ramp-down that has not ended (R122). -/
def Mod.rampUp (m : Mod) (a : Nat) : Mod :=
  let s := m.array a
  if s.word.state == 2 && s.ramp != .none && !s.inGap && m.power.holding.isNone then
    let (n, m) := if s.ramp == .down then m.rampRows s else (0, m)
    m.onGang s.word a fun t => ({ t with ramp := .none, eighths := 0 }).bump s.word.job .DUMMY_ROWS n
  else m

/-- A limiter gap ends (R123): the array feeds at once when a row is ready, and otherwise stays gated until one is.
Whether one is ready is free (log 30). -/
def Mod.gapEnd (m : Mod) (a : Nat) : Mod :=
  let s := m.array a
  if !s.inGap || m.power.holding.isSome then m
  else
    let (ready, m) := m.freeBool
    m.onGang s.word a fun t =>
      ({ t with inGap := false, gap := 0, ramp := if ready then .none else .gated, eighths := if ready then 0 else 8 }).bump
        s.gapJob .LIMITER_CYCLES s.gap

/-! ### Pre-emption (R76, R126) -/

/-- PRIMARY work becomes ready on a physical stake. -/
def Mod.preemptStake (m : Mod) (stake : Nat) : Mod :=
  (List.range 4).foldl (fun m i =>
    let a := 4 * stake + i
    let s := m.array a
    if !m.filler s.word.job || !(s.word.state == 1 || s.word.state == 2) then m
    else
      let m := m.onGang s.word a fun t => { t with preempt := true }
      if s.word.state == 2 && (s.ramp != .none && !s.inGap) then m.preemptNow a else m) m

/-- A pre-empted pass reloads its tile and continues from its recorded row; its row-blocks count from there (R112, R126). -/
def Mod.passResume (m : Mod) (a : Nat) : Mod :=
  let s := m.array a
  match s.suspended with
  | [] => m
  | r :: _ =>
    match m.passData? r with
    | none => m.onGang r.word a fun t => { t with suspended := t.suspended.drop 1 }
    | some x =>
      if !((gangOf r.word a).all fun b => (m.array b).canTake) || !m.stakeServes (a / 4) x then m
      else
        let (may, m) := m.mayRun r.word.job (a / 4)
        if !may then m
        else m.onGang r.word a fun t => ({ t with suspended := t.suspended.drop 1 }).load r

/-! ### Aborts (R128) -/

/-- The arrays that stream a pass which `p` picks stop feeding at the point where a pre-emption would stop them, before a
Context abort discards it. -/
def Mod.stopFeeding (m : Mod) (p : PassWord → Bool) : Mod :=
  m.arrays.foldl (fun m s =>
    let t := m.array s.arr
    if t.feeding && p t.word && leadOf t.word t.arr == t.arr then
      match m.passData? t.toPassRun with
      | some x => m.feedSome t.arr x
      | none => m
    else m) m

/-! ### Check faults (R129, R130) -/

/-- Puts passes of a command up for re-issue, in increasing order. -/
def Mod.reissue (m : Mod) (id : CmdId) (ps : List Nat) : Mod :=
  m.updRunning id.lane fun r =>
    match r.work with
    | .passes t i d re => { r with work := .passes t i d (sortBy (fun a b => a ≤ b) ((re ++ ps).eraseDups)) }
    | _ => r

/-- The passes whose rows or tile a check may have found at fault: those that drain, at a pre-emption too, and the current
one. Which of several it is, is free (log 105). -/
def Mod.faultyPass (m : Mod) (a : Nat) : Option PassRun × Mod :=
  let s := m.array a
  let rs := s.draining ++ (if s.word.state == 2 || s.word.state == 3 then [s.toPassRun] else [])
  match rs with
  | [] => (none, m)
  | [r] => (some r, m)
  | _ => let (n, m) := m.freeNat; (rs[n % rs.length]?, m)

/-- Takes a pass whose check failed off an array, with the later passes of its chain, which read its output: each that has
started counts as discarded, and the current one ramps down (R129). -/
def ArrayState.takeOff (s : ArrayState) (r : PassRun) : ArrayState :=
  let gone (o : PassRun) : Bool := o.follows r
  let older := (s.draining.filter fun o => o.word.state != 4 && gone o) ++ s.suspended.filter gone
  let s := older.foldl (fun s o => s.bump o.word.job .PASSES_DISCARDED 1) s
  let s := { s with draining := s.draining.filter fun o => !gone o, suspended := s.suspended.filter fun o => !gone o }
  if !gone s.toPassRun then s
  else if s.word.state == 4 then { s with word := { s.word with state := 5 } }
  else if s.word.live then s.discard
  else s

/-- Discards the pass whose check failed and re-issues it, with the passes that read its chain output; a re-issued
pass that fails again ends its command with the record `n` (R129). Of a pass that was pre-empted the progress record is
dropped (R130). -/
def Mod.discardFaulty (m : Mod) (a : Nat) (r : PassRun) (n : Nat) : Mod :=
  let id := r.word.id
  if r.word.reissued then m.failPass id .faultDetected n
  else
    let s := m.array a
    let runs := s.draining ++ s.suspended ++ (if s.word.live then [s.toPassRun] else [])
    let started := (runs.filter fun o => o.follows r).map (·.word.pass)
    (m.onGang r.word a fun t => t.takeOff r).reissue id started

def execPassIssue (arr : Nat) (id : CmdId) (s : State) : Host.Outcome State Fault Refusal := lift (fun m => m.passIssue arr id) s
def execReloadDone (arr : Nat) (s : State) : Host.Outcome State Fault Refusal := lift (fun m => m.reloadDone arr) s
def execLastRowFed (arr : Nat) (s : State) : Host.Outcome State Fault Refusal := lift (fun m => m.lastRow arr) s
def execPassChecksClean (arr : Nat) (s : State) : Host.Outcome State Fault Refusal := lift (fun m => m.checksClean arr) s
def execRowBlockBoundary (arr : Nat) (s : State) : Host.Outcome State Fault Refusal := lift (fun m => m.rowBlock arr) s
def execDummyRowRun (arr : Nat) (s : State) : Host.Outcome State Fault Refusal := lift (fun m => m.dummyRun arr) s
def execRampDownDone (arr : Nat) (s : State) : Host.Outcome State Fault Refusal := lift (fun m => m.rampDown arr) s
def execRampUpDone (arr : Nat) (s : State) : Host.Outcome State Fault Refusal := lift (fun m => m.rampUp arr) s
def execLimiterGapEnd (arr : Nat) (s : State) : Host.Outcome State Fault Refusal := lift (fun m => m.gapEnd arr) s
def execPreemptRequest (stake : Nat) (s : State) : Host.Outcome State Fault Refusal := lift (fun m => m.preemptStake stake) s
def execPassResume (arr : Nat) (s : State) : Host.Outcome State Fault Refusal := lift (fun m => m.passResume arr) s

end Sys2Proof.Machine
end

