-- ==== Sys2Proof/Machine/Trees.lean ====
section
/-!
DEFINITION. Groups, buckets, shards and trees of the wale service (R289, R290, R292), and the slabs and pages of
sweep ranges (R330).
-/

namespace Sys2Proof.Machine

/-! ### Groups, chunks, shards (R289, R290) -/

/-- The ranks of a group in order; group 0 holds every rank of the job. -/
def Plan.group (p : Plan) (g : Nat) : List Nat :=
  if g = 0 then List.range p.ranks else ((p.groupsWale.find? fun x => x.1 == g).map (·.2)).getD []

def Plan.bucket? (p : Plan) (b : Nat) : Option BucketDecl := p.buckets.find? fun x => x.id == b

/-- Elements of a chunk. -/
def chunkLen : Nat := 2048

/-- The chunk count C of a bucket. -/
def BucketDecl.chunks (b : BucketDecl) : Nat := (b.len + chunkLen - 1) / chunkLen

/-- The chunks of shard `i` of `n`, as (first, end). -/
def BucketDecl.shard (b : BucketDecl) (n i : Nat) : Nat × Nat := (i * b.chunks / n, (i + 1) * b.chunks / n)

/-- The number of a bucket's elements that a chunk holds within L. -/
def BucketDecl.chunkElems (b : BucketDecl) (c : Nat) : Nat := Nat.min chunkLen (b.len - c * chunkLen)

/-- The elements of shard `i`, as (first, end) within L. -/
def BucketDecl.shardElems (b : BucketDecl) (n i : Nat) : Nat × Nat :=
  let (lo, hi) := b.shard n i
  (Nat.min b.len (lo * chunkLen), Nat.min b.len (hi * chunkLen))

/-! ### Trees (R292) -/

/-- A binary tree over the positions of a group of `n`, with its root at position `s`. -/
structure Tree where
  n : Nat
  s : Nat
  deriving DecidableEq, Repr, Inhabited

/-- The heap index of a position. -/
def Tree.h (t : Tree) (q : Nat) : Nat := (q + t.n - t.s % t.n) % t.n

/-- The position at a heap index. -/
def Tree.pos (t : Tree) (j : Nat) : Nat := (j + t.s) % t.n

def Tree.parent (t : Tree) (q : Nat) : Option Nat := if t.h q = 0 then none else some (t.pos ((t.h q - 1) / 2))

def Tree.left (t : Tree) (q : Nat) : Option Nat := if 2 * t.h q + 1 < t.n then some (t.pos (2 * t.h q + 1)) else none

def Tree.right (t : Tree) (q : Nat) : Option Nat := if 2 * t.h q + 2 < t.n then some (t.pos (2 * t.h q + 2)) else none

/-- Height of a position: edges on the longest path down to a leaf. -/
def Tree.height (t : Tree) (q : Nat) : Nat := Nat.log2 (t.n / (t.h q + 1))

/-- The heap indices at distance `k` below index `j` that lie in the tree are those from `2^k (j + 1) − 1` on, `2^k`
of them; the subtree size sums them. -/
def Tree.size (t : Tree) (q : Nat) : Nat :=
  ((List.range (t.height q + 1)).map fun k =>
    let first := 2 ^ k * (t.h q + 1) - 1
    Nat.min (2 ^ k) (t.n - first)).sum

/-- The children of a position with their edge numbers 1 (left) and 2 (right). -/
def Tree.children (t : Tree) (q : Nat) : List (Nat × Nat) :=
  ((t.left q).map fun c => (1, c)).toList ++ ((t.right q).map fun c => (2, c)).toList

/-! ### Sweep ranges (R327, R329, R330) -/

def Plan.range? (p : Plan) (id : Nat) : Option RangeDecl := p.ranges.find? fun r => r.id == id

/-- The position of the plan's own rank in a group. -/
def Plan.posIn (p : Plan) (g : Nat) : Nat := (p.group g).findIdx (· == p.rank)

/-- The elements of a range: the shard of its bucket that this rank owns, as (first, end) in the bucket. -/
def Plan.rangeElems (p : Plan) (r : RangeDecl) : Nat × Nat :=
  match p.bucket? r.bucket with
  | some b => b.shardElems (p.group b.group).length (p.posIn b.group)
  | none => (0, 0)

/-- The number of elements of a range. -/
def Plan.rangeLen (p : Plan) (r : RangeDecl) : Nat := (p.rangeElems r).2 - (p.rangeElems r).1

/-- The slabs of a range (R330). -/
def Plan.slabs (p : Plan) (r : RangeDecl) : Nat := (p.rangeLen r + 127) / 128

/-- Whether a tensor of the plan is held as two 16-bit planes (R329): an FP32 tensor of a sweep range. -/
def Plan.planar (p : Plan) (t : Nat) : Bool :=
  p.ranges.any fun r =>
    (!r.scaled && (r.m == t || (r.v == t && t != 0))) ||
      match p.bucket? r.bucket with
      | some b => (b.shardOut == t && b.shardFmt == 0) || (b.errorMem == t && t != 0)
      | none => false

/-- The first range whose planes a tensor belongs to (R229). -/
def Plan.sweptBy (p : Plan) (t : Nat) : Option Nat :=
  (p.ranges.find? fun r => t != 0 &&
    (r.weightLo == t || r.m == t || r.v == t ||
      match p.bucket? r.bucket with
      | some b => b.shardOut == t || b.errorMem == t
      | none => false)).map (·.id)

end Sys2Proof.Machine
end

