-- ==== Sys2Proof/Machine/Fit.lean ====
section
/-!
DEFINITION. Plans: their header, directory and expressions (R65, R66, R536, R537), the placement of their demands,
and the fit checks of PLAN_LOAD in their order (R67–R69, R77, R79, R417–R420).
-/

namespace Sys2Proof.Machine

/-! ### Reading a plan (R65) -/

/-- A directory entry: section ID, flags, offset, length, and the reserved word. -/
structure DirEntry where
  id : Nat
  off : Nat
  len : Nat
  resv : Nat
  deriving DecidableEq, Repr, Inhabited

def planDir (b : Bytes) : List DirEntry :=
  (List.range (word32 b 8 % 65536)).map fun i =>
    let o := 64 + 16 * i
    { id := word32 b o % 65536, off := word32 b (o + 4), len := word32 b (o + 8), resv := word32 b (o + 12) }

/-- A section's bytes. -/
def planSection (b : Bytes) (id : Nat) : Option Bytes :=
  ((planDir b).find? fun e => e.id == id).map fun e => (b.drop e.off).take e.len

/-- Expressions of a VEXPR section, from its start (Tables 16.12 and 16.13). -/
def vexprsOf : Nat → Bytes → List VExpr
  | 0, _ => []
  | fuel + 1, b =>
    if b.length < 16 then []
    else
      let h := word32 b 0
      let n := h / 2 ^ 16 % 256
      let node (i : Nat) : VNode :=
        let w := leNat ((b.drop (16 + 8 * i)).take 8)
        ⟨w / 2 ^ 56, w / 2 ^ 48 % 256, w / 2 ^ 40 % 256, w / 2 ^ 32 % 256, w % 2 ^ 32⟩
      ⟨h % 65536, h / 2 ^ 24 % 16, h / 2 ^ 28, (List.range n).map node⟩ :: vexprsOf fuel (b.drop (16 + 8 * n))

/-- A plan as its bytes give it: header fields and expressions by their layouts, other sections' content by
`Config.planBody` (log 32). -/
def planOf (b : Bytes) : Plan :=
  { Config.planBody b with
    cls := b.getD 3 0#8 |>.toNat
    job := word32 b 4 % 4096
    inc := word32 b 4 / 4096 % 256
    seed := BitVec.ofNat 64 (leNat ((b.drop 16).take 8))
    rank := word32 b 0x18 % 65536
    ranks := word32 b 0x18 / 65536 + 1
    dir := (planDir b).map (·.id)
    vexprs := vexprsOf 1024 ((planSection b 0x0D).getD [])
    bytes := b }

/-- The directory index of a section. -/
def Plan.dirIndex (p : Plan) (id : Nat) : Option Nat := p.dir.findIdx? (· == id)

def Plan.hasSection (p : Plan) (id : Nat) : Bool := p.dir.contains id

/-! ### Check 6: header, directory, sections (R66, R68, R73, R77) -/

/-- The byte offset of the first header field at fault: a field that starts within a byte is named by that byte (R572). -/
def planHeaderFault (b : Bytes) (job inc len : Nat) : Option Nat :=
  if b.length < 64 then some 0
  else
    let checks : List (Bool × Nat) :=
      [(word32 b 0 % 65536 != 0x514C, 0), (b.getD 2 0#8 != 1#8, 2), (2 < (b.getD 3 0#8).toNat, 3),
       (word32 b 4 % 4096 != job, 4), (word32 b 4 / 4096 % 256 != inc, 5), (word32 b 4 / 2 ^ 20 != 0, 6),
       (word32 b 8 % 65536 == 0 || 64 < word32 b 8 % 65536, 8), (word32 b 8 / 65536 != 0, 10),
       (word32 b 12 != len, 12), (word32 b 0x18 / 65536 < word32 b 0x18 % 65536, 0x18),
       ((List.range 36).any fun i => b.getD (0x1C + i) 0#8 != 0#8, 0x1C)]
    (checks.find? (·.1)).map (·.2)

/-- The first directory entry at fault, with the offset of its field. -/
def planDirFault (b : Bytes) : Option (Nat × Nat) :=
  let es := planDir b
  (es.zipIdx).findSome? fun (e, i) =>
    let o := 64 + 16 * i
    let before := if i = 0 then 0 else (es.getD (i - 1) default).id
    if e.id = 0 ∨ 0x0D < e.id ∨ e.id ≤ before then some (i, o)
    else if b.length < e.off + e.len then some (i, o + 4)
    else if e.resv ≠ 0 then some (i, o + 12)
    else none

/-- Two declarations of one tensor, as R73 compares them. -/
def TensorDecl.sameAs (a b : TensorDecl) : Bool := { a with adopt := false } == { b with adopt := false }

/-- Whether a bucket breaks a range of Table 10.1 or lacks a region that it must have, or a shard or a SLOT_BIND region is at
fault (R289, R290). -/
def Plan.bucketBad (p : Plan) (b : BucketDecl) : Bool :=
  let n := (p.group b.group).length
  let chunks (i : Nat) : Nat := (b.shard n i).2 - (b.shard n i).1
  let region (t bytes : Nat) (inB : Bool) : Bool :=
    p.tensors.any fun d => d.id == t && bytes ≤ d.bytes && (!inB || d.tier == .b)
  let edge (e : Nat) : Bool := e % chunkLen == 0 || e == b.len
  b.id < 1 || 65535 < b.id || b.len < 1 || 2 ^ 31 ≤ b.len || 2 < b.inputFmt ||
    1 < b.shardFmt || 3 < b.vfmt || b.deadline < 1000 || 1000000000 < b.deadline || 7 < b.headroom ||
    n = 0 || ((List.range n).any fun i => 65536 < chunks i) ||
    (b.vfmt = 2 && !region b.scaleInit ((b.len + 31) / 32) false) || (b.vfmt = 3 && !region b.errorMem (8 * b.len) true) ||
    (b.carryLate && !region b.carry (12 * 2048 * ((List.range n).map chunks).foldl Nat.max 0) true) ||
    b.slotBind.any fun s => !(edge s.first && edge (s.first + s.length))

/-- Whether the WALE section breaks Table 10.1: its groups, its buckets or NORM_DEADLINE (R289, R290). -/
def Plan.waleBad (p : Plan) : Bool :=
  p.normDeadline < 1000 || 1000000000 < p.normDeadline ||
    (p.groupsWale.any fun g => g.2.isEmpty || 65535 < g.2.length || !(decide g.2.Nodup) || g.2.any fun r => p.ranks ≤ r) ||
    !(decide (p.buckets.map (·.id)).Nodup) || p.buckets.any p.bucketBad

/-- Whether the OPTIM section breaks Table 11.1 (R327). -/
def Plan.optimBad (p : Plan) : Bool :=
  let inB (t : Nat) : Bool := p.tensors.any fun d => d.id == t && d.tier == .b
  !(decide (p.ranges.map (·.id)).Nodup) || p.ranges.any fun r =>
    r.id < 1 || 256 < r.id || !(p.buckets.any fun b => b.id == r.bucket) ||
      !(p.tensors.any fun d => d.id == r.weightHi && (match d.tier with
        | .a => true
        | _ => false)) ||
      !inB r.weightLo || !inB r.m || (if r.optimizer == .adamw then !inB r.v else r.v != 0)

/-- What content makes check 6 fail beyond the sections' layout: the ID of the section at fault. -/
def planContentFault (m : Mod) (p : Plan) : Option Nat :=
  let adoptBad := p.tensors.any fun t => t.adopt &&
    m.retained.any fun r => r.job == p.job && r.place.decl.id == t.id && !r.place.decl.sameAs t
  let hosts := 256 < (p.tensors.filter (·.host)).length
  let extentsBad := p.extents.any (fun e => e.1 < 1 || 0xFEFF < e.1) || !(decide (p.extents.map (·.1)).Nodup)
  let watchBad := match p.watch with
    | none => false
    | some w =>
      (match w.loss with
        | none => false
        | some (a, b) => a == b || a < 1 || 15 < a || b < 1 || 15 < b) ||
        lt32 (BitVec.ofNat 32 w.kSigma) 0x40000000#32 || lt32 0x41800000#32 (BitVec.ofNat 32 w.kSigma) ||
        (f32 (BitVec.ofNat 32 w.kSigma)).isNan || w.warmup < 8 || 1024 < w.warmup || w.spikeLimit < 1 || 255 < w.spikeLimit
  if adoptBad || hosts || extentsBad then some 6
  else if p.hasSection 0x0A && p.waleBad then some 0x0A
  else if p.hasSection 0x0B && p.optimBad then some 0x0B
  else if watchBad then some 0x0C
  else none

/-- The sections that a FILLER plan must not have (R77). -/
def fillerFault (p : Plan) (modAddr : Nat) : Option Nat :=
  if p.cls ≠ 2 then none
  else
    ([3, 9, 10, 11].find? p.hasSection).or
      (if (List.range p.ranks).any fun r => p.addrOf r != modAddr then some 2 else none)

/-! ### Placement (R68, R220, R226, R229, R246) -/

/-- Where a demand may lie: address ranges in the order in which Pholer tries them. -/
abbrev Area := Nat × Nat

def areaA (side : Nat) : Area := (tierABase side, tierABase side + 192 * gib - gib / 4)
def areaB : Area := (tierBBase, tierBEnd - 4 * gib)
def areaStake (l : Nat) : Area := (stakeBase l, stakeBase l + 0x400000)
def areaRim (s : Nat) : Area := (rimBase s, rimBase s + 0x4000000)

/-- A piece of a tensor's place. -/
inductive Part where
  | whole | stripe (i : Nat) | hi | lo | arena | slot
  deriving DecidableEq, Repr, Inhabited

/-- A demand for memory: its section, the areas open to it, length, alignment, the sweep range whose planes agree
modulo 1.5 GiB, and what it is for. -/
structure Demand where
  sec : Nat
  areas : List Area
  len : Nat
  align : Nat := 256
  sweep : Option Nat := none
  owner : Nat := 0
  part : Part
  deriving DecidableEq, Repr, Inhabited

/-- The free extents of an area between busy extents sorted by base. -/
def gapsFrom (hi : Nat) : Nat → List (Nat × Nat) → List (Nat × Nat)
  | cur, [] => if cur < hi then [(cur, hi - cur)] else []
  | cur, (b, l) :: rest =>
    if b + l ≤ cur then gapsFrom hi cur rest
    else if hi ≤ b then gapsFrom hi cur []
    else (if cur < b then [(cur, b - cur)] else []) ++ gapsFrom hi (b + l) rest

def gaps (a : Area) (busy : List (Nat × Nat)) : List (Nat × Nat) :=
  gapsFrom a.2 a.1 (sortBy (fun x y => x.1 ≤ y.1) (busy.filter fun x => x.2 != 0))

def sweepStep : Nat := 0x60000000

/-- The lowest address from `x` on that a demand may take; `res` is the residue that its sweep range has. -/
def alignUp (d : Demand) (res : Option Nat) (x : Nat) : Nat :=
  match res with
  | some r => x + (r + sweepStep - (x - tierBBase) % sweepStep) % sweepStep
  | none => (x + d.align - 1) / d.align * d.align

/-- The lowest place for a demand. -/
def findPlace (d : Demand) (res : Option Nat) (busy : List (Nat × Nat)) : Option Nat :=
  (d.areas.flatMap fun a => gaps a busy).findSome? fun g =>
    let s := alignUp d res g.1
    if s + d.len ≤ g.1 + g.2 then some s else none

/-- Placement so far: busy extents, residues of sweep ranges, and the demands placed, newest first. -/
structure Placed where
  busy : List (Nat × Nat)
  res : List (Nat × Nat) := []
  got : List (Demand × Nat) := []
  deriving DecidableEq, Repr, Inhabited

/-- Places demands in order; stops at the first that finds no place. -/
def placeAll (s : Placed) : List Demand → Placed × Option Demand
  | [] => (s, none)
  | d :: ds =>
    let res := d.sweep.bind fun k => (s.res.find? fun r => r.1 == k).map (·.2)
    match findPlace d res s.busy with
    | none => (s, some d)
    | some a =>
      let newRes := match d.sweep, res with
        | some k, none => [(k, (a - tierBBase) % sweepStep)]
        | _, _ => []
      placeAll { busy := (a, d.len) :: s.busy, res := newRes ++ s.res, got := (d, a) :: s.got } ds

/-- The section whose demand first takes the running total past `free`. -/
def pastTotal (free : Nat) : Nat → List Demand → Option Nat
  | _, [] => none
  | acc, d :: ds => if free < acc + d.len then some d.sec else pastTotal free (acc + d.len) ds

/-- A memory check: places the demands, or gives the section and the shortfall (R68). -/
def memoryCheck (areas : List Area) (s : Placed) (ds : List Demand) : Except (Nat × Nat) Placed :=
  let free := ((areas.flatMap fun a => gaps a s.busy).map (·.2)).sum
  let want := (ds.map (·.len)).sum
  match pastTotal free 0 ds with
  | some sec => .error (sec, want - free)
  | none =>
    match placeAll s ds with
    | (s', none) => .ok s'
    | (s', some d) =>
      let largest := ((d.areas.flatMap fun a => gaps a s'.busy).map (·.2)).foldl Nat.max 0
      .error (d.sec, d.len - largest)

/-- A memory check over several separate places, in their order. -/
def memoryChecks : List (Area × List Demand) → Placed → Except (Nat × Nat) Placed
  | [], s => .ok s
  | (a, ds) :: rest, s =>
    match memoryCheck [a] s ds with
    | .ok s' => memoryChecks rest s'
    | .error e => .error e

/-- The exchange arenas of a plan (R246): Tier A by Side, Tier B, stake store. -/
structure Arenas where
  a : List Nat
  b : Nat
  stake : Nat
  deriving DecidableEq, Repr, Inhabited

/-- Bytes of a pool's withies in one of its places. -/
def PoolDecl.bytes (d : PoolDecl) : Nat :=
  ((List.range 4).map fun c => d.counts.getD c 0 * classUnits c * 4096).sum

/-- Whether a pool has an instance in a unit, or in the stakes. -/
def PoolDecl.inUnit (d : PoolDecl) (u : Nat) : Bool :=
  match d.place with
  | .unit n => n == u
  | .everyUnit => true
  | .everyStake => false

/-- The arenas: the EXCHANGE section's sizes and their defaults, or what the POOLS section's instances need (R246). -/
def Plan.arenas (p : Plan) : Arenas :=
  let inUnit (u : Nat) : Nat := ((p.pools.filter fun d => d.inUnit u).map PoolDecl.bytes).sum
  if p.hasSection 9 then
    ⟨p.arenaA.getD (List.replicate 4 (12 * gib)), p.arenaB.getD (96 * gib), p.arenaStake.getD (256 * 1024)⟩
  else if !p.hasSection 7 then ⟨[], 0, 0⟩
  else
    ⟨(List.range 4).map inUnit, inUnit 4 + inUnit 5,
      ((p.pools.filter fun d => d.place == .everyStake).map PoolDecl.bytes).sum⟩

/-- The section under which the arenas count (R246). -/
def Plan.arenaSection (p : Plan) : Nat := if p.hasSection 9 then 9 else 7

/-- The Side of an unshared Tier A tensor: that of the stakes that read it, one on which the plan has stakes (R29). -/
def Plan.sideFor (p : Plan) (t : TensorDecl) : Nat :=
  if p.stakes.isEmpty || p.stakes.any (fun l => l / 56 == t.side) then t.side else p.stakes.headD 0 / 56

/-- The demands of a tensor (R226, R229, R329, R427). -/
def Plan.tensorDemands (p : Plan) (t : TensorDecl) : List Demand :=
  let align := if t.trayShared then stripe else 256
  let d : Demand := { sec := 6, areas := [], len := t.bytes, align := align, owner := t.id, part := .whole }
  match t.tier with
  | .stake l => [{ d with areas := [areaStake l] }]
  | .rim s => [{ d with areas := [areaRim s] }]
  | .b =>
    let sw := p.sweptBy t.id
    if p.planar t.id then
      [{ d with areas := [areaB], len := t.bytes / 2, sweep := sw, part := .hi },
       { d with areas := [areaB], len := t.bytes / 2, sweep := sw, part := .lo }]
    else [{ d with areas := [areaB], sweep := sw }]
  | .a =>
    if t.shared.isEmpty then [{ d with areas := [areaA (p.sideFor t)] }]
    else (List.range ((t.bytes + stripe - 1) / stripe)).map fun i =>
      { d with areas := [areaA (t.shared.getD (i % t.shared.length) 0)], len := stripe, align := stripe, part := .stripe i }

/-- Bytes of a row of a scalar format. -/
def rowBytes (fmt w : Nat) : Nat := ((Fmt.ofCode fmt).getD .bf16).size * w

/-- The largest tensor that a copy slot of an exchange holds (R247). -/
def Plan.slotBytes (p : Plan) (e : ExchangeDecl) : Nat :=
  ((p.tensors.filter fun t => t.residency && e.slotW.any fun l => l.contains t.id).map (·.bytes)).foldl Nat.max 0

/-- Bytes of an exchange's CARRY region: 16 ROW_IN rows for each expert slot that this rank owns (Table 9.1). -/
def Plan.carryBytes (p : Plan) (e : ExchangeDecl) : Nat :=
  16 * rowBytes e.rowInFmt e.rowInW * (e.owners.countP fun o => o.contains p.rank)

/-- Bytes of a range's stamp table and page scales, with room for each unit's last page (R331, R335, log 53). -/
def Plan.stampBytes (p : Plan) (r : RangeDecl) : Nat := 10 * ((p.slabs r + 15) / 16 + 24)

/-- Every demand of a plan in directory order, tensors that it adopts apart. -/
def Plan.demands (p : Plan) (adopted : Nat → Bool) : List Demand :=
  let ar := p.arenas
  let sec := p.arenaSection
  let arena (s : Nat) (as : List Area) (n : Nat) : List Demand :=
    if n = 0 then [] else [{ sec := s, areas := as, len := n, part := .arena }]
  let sides : List Nat := [0, 1, 2, 3]
  let anyA := sides.map areaA
  p.groups.flatMap (fun g => g.stakes.flatMap fun l => arena 4 [areaStake l] g.chainRegion) ++
    (p.tensors.filter fun t => !adopted t.id).flatMap p.tensorDemands ++
    p.gateways.flatMap (fun _ => arena 6 anyA (32 * 65536)) ++
    sides.flatMap (fun s => arena sec [areaA s] (ar.a.getD s 0)) ++
    p.exchanges.flatMap (fun e => arena 9 anyA (p.carryBytes e)) ++
    p.exchanges.flatMap (fun e => sides.flatMap fun s =>
      (List.range e.slotsPerSide).map fun _ =>
        { sec := 9, areas := [areaA s], len := p.slotBytes e, owner := e.id, part := .slot }) ++
    arena sec [areaB] ar.b ++
    p.stakes.flatMap (fun l => arena sec [areaStake l] ar.stake) ++
    p.ranges.flatMap fun r => arena 0x0B [areaB] (p.stampBytes r)

/-- The demands that may lie in an area. -/
def inArea (a : Area) (ds : List Demand) : List Demand := ds.filter fun d => d.areas.contains a

/-- The extents that resident jobs, retained entries and the trace buffer hold. -/
def Mod.busyExtents (m : Mod) : List (Nat × Nat) :=
  m.jobs.flatMap (fun j => j.places.flatMap TensorPlace.extents ++ j.arenas) ++
    m.retained.flatMap (fun r => r.place.extents) ++ [(m.trace.at_, m.trace.sizeUnits * 64 * 2 ^ 20)]

/-- The place of a tensor out of what was placed. -/
def placementOf (got : List (Demand × Nat)) (t : TensorDecl) : Placement :=
  let mine := got.filter fun g => g.1.owner == t.id && g.1.sec == 6
  let of (p : Part) : Nat := ((mine.find? fun g => g.1.part == p).map (·.2)).getD 0
  if mine.any fun g => g.1.part == .hi then .planes (of .hi) (of .lo)
  else if !t.shared.isEmpty then
    .stripes ((List.range ((t.bytes + stripe - 1) / stripe)).map fun i => of (.stripe i))
  else .flat (of .whole)

/-- The retained entry that a plan's tensor adopts (R73). -/
def Mod.adoptable (m : Mod) (job : Nat) (t : TensorDecl) : Option Retained :=
  if t.adopt then m.retained.find? fun r => r.job == job && r.place.decl.id == t.id && r.place.decl.sameAs t else none

/-! ### Checks 16–21 -/

/-- The values live at node `i`: inputs and earlier results that node `i` or a later one reads (R537). -/
def VExpr.liveAt (e : VExpr) (i : Nat) : Nat :=
  let readsFrom (c : Nat) : Bool := (e.nodes.drop i).any fun n => n.a == c || n.b == c || n.c == c
  (List.range e.inputs).countP readsFrom + (List.range i).countP fun j => readsFrom (0x20 + j)

/-- Whether an operand code of node `i` is one of R537's. -/
def operandCodeOk (i c : Nat) : Bool := c < 16 || c == 0x40 || c == 0xFF || (0x20 ≤ c && c < 0x20 + i)

/-- Whether an expression keeps R536 and R537. -/
def VExpr.ok (e : VExpr) : Bool :=
  1 ≤ e.id && 1 ≤ e.inputs && e.inputs ≤ 15 && 1 ≤ e.outputs && e.outputs ≤ 8 && e.inputs + e.outputs ≤ 16 &&
    1 ≤ e.nodes.length &&
    (e.nodes.zipIdx.all fun (n, i) => operandCodeOk i n.a && operandCodeOk i n.b && operandCodeOk i n.c && e.liveAt i ≤ 24)

/-- The shortfall of check 16, if it fails. -/
def Plan.vexprShort (p : Plan) : Option Nat :=
  let extra := (p.vexprs.map fun e => e.nodes.length - 32).sum
  let twice := !(decide (p.vexprs.map (·.id)).Nodup)
  if extra ≠ 0 then some extra
  else if twice || p.vexprs.any (fun e => !e.ok) then some (Config.vexprExcess p.vexprs)
  else none

/-- Bytes of a receive slot and of a ledger slot (R254). -/
def ExchangeDecl.recvSlot (e : ExchangeDecl) : Nat := 16 + Nat.max (rowBytes e.rowInFmt e.rowInW) (rowBytes e.rowOutFmt e.rowOutW)
def ExchangeDecl.ledgerSlot (e : ExchangeDecl) : Nat := 16 + rowBytes e.rowInFmt e.rowInW + rowBytes e.rowOutFmt e.rowOutW

def ExchangeDecl.withyBytes (e : ExchangeDecl) : Nat := classUnits e.withyClass * 4096

/-- Rows of a receive withy: w of R254. -/
def ExchangeDecl.withyRows (e : ExchangeDecl) : Nat := e.withyBytes / e.recvSlot

/-- Whether a row format is a scalar one (Table 9.1). -/
def rowFormatOk (c : Nat) : Bool := ((Fmt.ofCode c).map fun f => !f.isBlock).getD false

/-- Whether the owners of an exchange lie in the job's EXPERT cut: ranks other than this one need such a cut (R252, log 100). -/
def Plan.ownersCut (p : Plan) (e : ExchangeDecl) : Bool :=
  p.cuts.any (fun c => c.kind == .expert) || e.owners.all fun o => o.all fun r => r == p.rank

/-- The shortfall of check 17, if it fails. -/
def Plan.expertsShort (p : Plan) : Option Nat :=
  let extra := ((p.exchanges.map fun e => e.experts - 4096).foldl Nat.max 0)
  let bad := !(decide (p.exchanges.map (·.id)).Nodup) || p.exchanges.any fun e =>
    e.id < 1 || 65535 < e.id || e.experts < 1 || (e.drop && (e.capacity < 1 || 2 ^ 32 ≤ e.capacity)) ||
      lt32 (BitVec.ofNat 32 e.noiseSigma) 0#32 || (f32 (BitVec.ofNat 32 e.noiseSigma)).isNan ||
      !rowFormatOk e.rowInFmt || !rowFormatOk e.rowOutFmt || e.rowInW < 1 || e.rowOutW < 1 ||
      e.withyClass < 1 || 3 < e.withyClass || e.roundRows < 16 || 65536 < e.roundRows ||
      16 < e.bodyFwd.length || 16 < e.bodyBwd.length || (e.bodyFwd ++ e.bodyBwd).any (fun b => !b.op.inBody) || 2 < e.divisor || !p.ownersCut e ||
      e.kTop < 1 || 8 < e.kTop || e.withyRows < 16 || e.owners.length != e.experts ||
      e.owners.any fun o => o.isEmpty || 16 < o.length || !(decide o.Nodup) || o.any fun r => p.ranks ≤ r
  if extra ≠ 0 then some extra else if bad then some 0 else none

def isPow2 (n : Nat) : Bool := n != 0 && 2 ^ Nat.log2 n == n

/-- The extents of AUTO's dimensions x, y, z, trunk, with the weights at which they start (R418). -/
def dimWeights (x y z h : Nat) : List (Nat × Nat) := [(1, x), (x, x * y), (x * y, x * y * z), (x * y * z, x * y * z * h)]

/-- The dimensions that a cut spans (R418, R419), 0 for x up to 3 for trunks. -/
def Plan.cutDims (p : Plan) (i : Nat) : List Nat :=
  match p.rankTable with
  | .auto _ x y z h =>
    let order := cutOrder p.cuts
    let k := order.findIdx fun c => c.2 == i
    let w := cutProduct ((order.take k).map (·.1))
    let size := (p.cuts[i]?.map (·.size)).getD 1
    if size ≤ 1 then []
    else (List.range 4).filter fun d =>
      let (lo, hi) := (dimWeights x y z h).getD d (1, 1)
      w < (if d = 3 then Nat.max hi (w + 1) else hi) && lo < w * size
  | .explicit _ =>
    let step := cutProduct (p.cuts.take i)
    let size := (p.cuts[i]?.map (·.size)).getD 1
    let coord (a d : Nat) : Nat := match d with
      | 0 => a % 8
      | 1 => a / 8 % 16
      | 2 => a / 128 % 32
      | _ => a / 4096
    (List.range 4).filter fun d =>
      (List.range p.ranks).any fun r => cutCoord p.cuts i r + 1 < size && coord (p.addrOf r) d != coord (p.addrOf (r + step)) d

/-- The weight at which AUTO starts the cut at an index. -/
def Plan.cutWeight (p : Plan) (i : Nat) : Nat :=
  let order := cutOrder p.cuts
  cutProduct ((order.take (order.findIdx fun c => c.2 == i)).map (·.1))

/-- Check 18: the section at fault and the shortfall (R417, R418, R435, R506). -/
def Plan.ranksShort (p : Plan) (m : Mod) : Option (Nat × Nat) :=
  let none16 := 0x10000
  let cutsBad := p.cuts.any (fun c => !isPow2 c.size) || (!p.cuts.isEmpty && cutProduct p.cuts != p.ranks) ||
    (p.hasSection 3 && (p.cuts.isEmpty || 4 < p.cuts.length || !(decide (p.cuts.map (·.kind)).Nodup) ||
      p.stepTimeUs < 1000 || 600000000 < p.stepTimeUs))
  let extBad := match p.rankTable with
    | .auto _ x y z h => !(isPow2 x && isPow2 y && isPow2 z && isPow2 h)
    | .explicit _ => false
  let pinBad := match p.rankTable with
    | .auto _ x y z h => p.cuts.zipIdx.any fun (c, i) =>
      c.pin != 0 && p.cutWeight i != ((dimWeights x y z h).getD (c.pin - 1) (1, 1)).1
    | .explicit _ => false
  let member (r : Nat) : Bool :=
    let a := p.addrOf r
    (r != p.rank || a == m.modAddr) &&
      (!sameTray a m.modAddr || m.roster.any fun x => x.addr == a && x.state == 2)
  if cutsBad then some (3, none16)
  else if extBad then some (2, none16)
  else if pinBad then some (3, none16)
  else if m.roster.isEmpty then some (2, none16)
  else ((List.range p.ranks).find? fun r => !member r).map fun r => (2, r)

/-- The ports of a dimension (Table 13.1). -/
def dimPorts (d : Nat) : List Nat :=
  match d with
  | 0 => [0, 1, 2, 3, 4, 5]
  | 1 => [6, 7, 8, 9]
  | 2 => [10, 11, 12, 13]
  | _ => [14, 15]

/-- Check 19: the shortfall of the first dimension whose cuts do not fit its ports (R398, R420): 25 GB/s for each
lane that carries payload. -/
def Plan.linksShort (p : Plan) (m : Mod) : Option Nat :=
  (List.range 4).findSome? fun d =>
    let need := (p.cuts.zipIdx.map fun (c, i) => if (p.cutDims i).contains d then c.bytes else 0).sum
    let lanes := ((dimPorts d).map fun k => (m.ports.getD k {}).width).sum
    let limit := lanes * 25000 * p.stepTimeUs
    if limit < need then some (need - limit) else none

/-- PLACEMENT_AGAINST_BYTES (R419). -/
def Plan.againstBytes (p : Plan) : Bool :=
  let first (i : Nat) : Nat := (p.cutDims i).headD 4
  p.cuts.zipIdx.any fun (a, i) => p.cuts.zipIdx.any fun (b, j) =>
    a.bytes < b.bytes && first i < first j && first j < 4

/-- Withies that do not fit their arena, class by class in declaration order (R246). -/
def unfit : Nat → List (Nat × Nat) → Nat
  | _, [] => 0
  | cap, (n, sz) :: rest =>
    let k := Nat.min n (if sz = 0 then n else cap / sz)
    (n - k) + unfit (cap - k * sz) rest

def PoolDecl.cells (d : PoolDecl) : List (Nat × Nat) := (List.range 4).map fun c => (d.counts.getD c 0, classUnits c * 4096)

/-- Whether a plan's placement puts a tensor in more than one unit (R379). -/
def Plan.multiUnit (p : Plan) : Bool :=
  p.tensors.any fun t => (t.tier == .b && 256 < t.bytes) || !t.shared.isEmpty

/-- Check 21: the withies that are missing. -/
def Plan.poolsShort (p : Plan) : Option Nat :=
  let ar := p.arenas
  let recv := (p.exchanges.map fun e =>
    match p.pools.find? fun d => d.id == e.recvPool with
    | some d => 2 - d.counts.getD e.withyClass 0
    | none => 2).sum
  let staging := match p.poolNamed "STAGING" with
    | some d => if d.place == .everyUnit then 2 - d.counts.getD 1 0 else 2
    | none => if p.multiUnit then 2 else 0
  let inUnit (u : Nat) : List (Nat × Nat) := (p.pools.filter fun d => d.inUnit u).flatMap PoolDecl.cells
  let places := ((List.range 4).map fun s => unfit (ar.a.getD s 0) (inUnit s)).sum +
    unfit ar.b (inUnit 4 ++ inUnit 5) +
    unfit ar.stake ((p.pools.filter fun d => d.place == .everyStake).flatMap PoolDecl.cells)
  let short := recv + staging + places
  if short = 0 then none else some short

/-- Whether a pool breaks a range of Table 12.7; `owned` tells the jobs that its requesters may name: the declaring job and
the resident FILLER jobs bound to it (R379). -/
def PoolDecl.outOfRange (d : PoolDecl) (owned : Nat → Bool) : Bool :=
  let place := match d.place with
    | .unit n => 5 < n
    | _ => false
  d.id < 1 || 255 < d.id || d.name.length < 1 || 8 < d.name.length || place ||
    ((List.range 4).any fun c =>
      let n := d.counts.getD c 0
      let r := d.reserves.getD c 0
      2 ^ 20 < n || 255 < r || (r != 0 && n ≤ r)) ||
    d.requesters.isEmpty || d.requesters.any fun r => 4 < r.engine || !owned r.job

/-- Check 15: requesters beyond 64 of the worst pool; for another fault of Table 12.7, and for a pool ID or name that two
pools share, no rule gives the count, and it is open (R379, log 32). -/
def Plan.requestersShort (p : Plan) (m : Mod) : Option Nat :=
  let extra := (p.pools.map fun d => d.requesters.length - 64).foldl Nat.max 0
  let owned (job : Nat) : Bool := job == p.job || m.jobs.any fun j => j.plan.job == job && j.plan.cls == 2 && j.bound == p.job
  if extra ≠ 0 then some extra
  else if (p.pools.any fun d => d.outOfRange owned) || !(decide (p.pools.map (·.id)).Nodup) ||
      !(decide (p.pools.map (·.name)).Nodup) then some (Config.poolExcess p.pools)
  else none

/-! ### The fit checks in order (R68) -/

/-- A fault of a fit check: resource, directory index, shortfall. -/
structure Unfit where
  res : Resource
  index : Option Nat
  short : Nat
  deriving DecidableEq, Repr, Inhabited

def Plan.unfit (p : Plan) (r : Resource) (sec short : Nat) : Unfit := ⟨r, p.dirIndex sec, short⟩

/-- The PRIMARY job. -/
def Mod.primary? (m : Mod) : Option Job := m.jobs.find? fun j => j.plan.cls == 0

/-- Present stakes that no PRIMARY or SHARED job holds (R39, R68). -/
def Mod.freeStakes (m : Mod) : List Nat :=
  (List.range 224).filter fun l => m.present l && !(m.jobs.any fun j => j.plan.cls != 2 && j.plan.stakes.contains l)

/-- The incarnation rule of R62. -/
def Mod.incarnationOk (m : Mod) (job inc : Nat) : Bool :=
  let mine := m.loads.filter fun l => l.job == job
  !((mine.take 255).any fun l => l.inc == inc) &&
    mine.all fun l => l.inc != inc ||
      match l.unloadedAt with
      | some t => t + 1000000000 ≤ m.now
      | none => false

/-- Checks 1–5 of R68, from the packet's header and the class byte. -/
def fitEarly (m : Mod) (job inc cls : Nat) : Option Unfit :=
  if 4 ≤ m.jobs.length then some ⟨.jobSlot, none, m.jobs.length - 3⟩
  else if (m.job? job).isSome then some ⟨.jobLoaded, none, 0⟩
  else if !m.incarnationOk job inc then some ⟨.incarnation, none, 0⟩
  else if cls = 0 ∧ m.primary?.isSome ∨ cls = 2 ∧ m.primary?.isNone then some ⟨.primarySlot, none, 1⟩
  else none

/-- The count of ties at fault, worst level (check 14, R359, R362). -/
def Plan.tiesShort (p : Plan) (m : Mod) : Nat :=
  let bad (level : Nat) : Nat := p.ties.countP fun t =>
    (tieLevel t.ref == level || (level == 2 && 2 < tieLevel t.ref)) &&
      (!m.tieInRange t.ref || (m.ties.any fun o => o.ref == t.ref && o.job != p.job) ||
        (level == 0 && !p.stakes.contains (tieLogical t.ref)))
  Nat.max (bad 0) (Nat.max (bad 1) (bad 2))

/-- Checks 6–8. The manual leaves open, and the model chooses (DESIGN CHOICE, log 101): a QUEUES section that declares no
queue passes check 7 unless its layout is at fault; a FILLER plan's forbidden section is named by its directory index, with its
ID as shortfall. -/
def fitForm (m : Mod) (p : Plan) (b : Bytes) (job inc len : Nat) : Option Unfit :=
  let at47 (o : Nat) : Nat := 2 ^ 47 + o
  match planHeaderFault b job inc len with
  | some o => some ⟨.sections, none, at47 o⟩
  | none =>
    match planDirFault b with
    | some (i, o) => some ⟨.sections, some i, at47 o⟩
    | none =>
      match [1, 2, 4, 5].find? fun s => !p.hasSection s with
      | some s => some ⟨.sections, none, s⟩
      | none =>
        match Config.planFault b with
        | some (i, o) => some ⟨.sections, some i, at47 o⟩
        | none =>
          match fillerFault p m.modAddr with
          | some s => some (p.unfit .sections s s)
          | none =>
            match planContentFault m p with
            | some s => some (p.unfit .sections s (at47 (Config.planFieldAt b s)))
            | none =>
              let taken := p.queueIds.countP fun q => m.jobs.any fun j => j.plan.queueIds.contains q
              let used := (m.jobs.map fun j => j.plan.queues.length).sum
              let nq := p.queues.length
              let shortQ := Nat.max taken (Nat.max (nq - 16) (nq + used - 64))
              if shortQ ≠ 0 then some (p.unfit .queues 5 shortQ)
              else
                let n := p.stakes.length
                let shortS := if p.cls = 2 then n - ((m.primary?.map fun j => j.plan.stakes.length).getD 0)
                  else n - (p.stakes.countP m.freeStakes.contains)
                if shortS ≠ 0 then some (p.unfit .stakes 4 shortS) else none

/-- Checks 9–12: places the demands; the tensors of a sweep range agree modulo 1.5 GiB, adopted ones included (R73, R229); the store of an ABSENT stake has no room (R39). -/
def fitMemory (m : Mod) (p : Plan) : Except Unfit Placed :=
  let ds := p.demands fun t => ((p.tensors.find? fun d => d.id == t).bind (m.adoptable p.job)).isSome
  let residues (t : TensorDecl) : List (Nat × Nat) :=
    match p.sweptBy t.id, m.adoptable p.job t with
    | some k, some r => r.place.extents.map fun e => (k, (e.1 - tierBBase) % sweepStep)
    | _, _ => []
  let start : Placed := { busy := m.busyExtents, res := p.tensors.flatMap residues }
  let fail (r : Resource) (e : Nat × Nat) : Except Unfit Placed := .error (p.unfit r e.1 e.2)
  let store (l : Nat) : Area := if m.present l then areaStake l else (stakeBase l, stakeBase l)
  match memoryChecks ((List.range 224).map fun l => (store l, inArea (areaStake l) ds)) start with
  | .error e => fail .stakeStore e
  | .ok s1 =>
    match memoryChecks ((List.range 4).map fun s => (areaRim s, inArea (areaRim s) ds)) s1 with
    | .error e => fail .rim e
    | .ok s2 =>
      let as := (List.range 4).map areaA
      match memoryCheck as s2 (ds.filter fun d => d.areas.any as.contains) with
      | .error e => fail .tierA e
      | .ok s3 =>
        match memoryCheck [areaB] s3 (inArea areaB ds) with
        | .error e => fail .tierB e
        | .ok s4 => .ok s4

/-- Bytes of Tier C for declared extents: 2,040 GiB (R231). -/
def tierCBytes : Nat := 2040 * gib

/-- Checks 13–21. -/
def fitLate (m : Mod) (p : Plan) : Option Unfit :=
  let usedC := ((m.jobs.flatMap (·.plan.extents)).map (·.2)).sum * 65536
  let wantC := (p.extents.map (·.2)).sum * 65536
  let ties := p.tiesShort m
  let usedQp := (m.jobs.map fun j => j.plan.rdmaQps).sum
  if tierCBytes < usedC + wantC then some (p.unfit .tierC 6 (usedC + wantC - tierCBytes))
  else if ties ≠ 0 then some (p.unfit .ties 8 ties)
  else match p.requestersShort m with
  | some n => some (p.unfit .poolRequesters 7 n)
  | none =>
  match p.vexprShort with
  | some n => some (p.unfit .vexpr 0x0D n)
  | none =>
    match p.expertsShort with
    | some n => some (p.unfit .experts 9 n)
    | none =>
      match p.ranksShort m with
      | some (sec, n) => some (p.unfit .ranks sec n)
      | none =>
        match p.linksShort m with
        | some n => some (p.unfit .links 3 n)
        | none =>
          if 256 < usedQp + p.rdmaQps then some (p.unfit .rdma 5 (usedQp + p.rdmaQps - 256))
          else
            match p.poolsShort with
            | some n => some (p.unfit .pools 7 n)
            | none => none

/-- All fit checks of R68 in their order: the first fault, or the placement. -/
def fitChecks (m : Mod) (p : Plan) (b : Bytes) (job inc len : Nat) : Except Unfit Placed :=
  match fitEarly m job inc (b.getD 3 0#8).toNat with
  | some u => .error u
  | none =>
    match fitForm m p b job inc len with
    | some u => .error u
    | none =>
      match fitMemory m p with
      | .error u => .error u
      | .ok s =>
        match fitLate m p with
        | some u => .error u
        | none => .ok s

end Sys2Proof.Machine
end

