-- ==== Sys2Proof/Machine/Residency.lean ====
section
/-!
DEFINITION. Expert residency (R247–R250): scores and fetches after ROUTE, the end of a fetch, RESIDE and EVICT.
-/

namespace Sys2Proof.Machine

/-- The residency entries of a plan's RESIDENCY_MANAGED tensors, with the expert of the slot that holds each. -/
def Plan.residencies (p : Plan) (slotExpert : ExchangeDecl → Nat → Nat) : List Residency :=
  (p.tensors.filter (·.residency)).map fun t =>
    let home := p.exchanges.findSome? fun e =>
      ((e.slotW.zipIdx).find? fun (l, _) => l.contains t.id).map fun (_, i) => (e.id, slotExpert e i)
    { tensor := t.id, exch := (home.map (·.1)).getD 0, expert := (home.map (·.2)).getD 0 }

/-- The score update of R248: 16 fractional bits, rounded toward zero. -/
def scoreAfter (r count s : Nat) : Nat := (r * (2 ^ s - 1) + count * 65536) / 2 ^ s

def Job.updRes (j : Job) (t : Nat) (f : Residency → Residency) : Job :=
  { j with residency := j.residency.map fun r => if r.tensor == t then f r else r }

def Job.res? (j : Job) (t : Nat) : Option Residency := j.residency.find? fun r => r.tensor == t

/-- A free copy slot of an exchange. -/
def Job.freeSlot (j : Job) (exch : Nat) : Option Nat :=
  (j.slots.find? fun s => s.1 == exch && !(j.residency.any fun r => r.copyBase == some s.2)).map (·.2)

/-- Whether a command in flight reads the copy of a tensor. -/
def Job.copyRead (j : Job) (t : Nat) : Bool := j.copyReads.any fun c => c.1 == t

/-- The victim among the copies that `ok` allows: lowest score, then the higher expert (R249). -/
def Job.victim (j : Job) (exch : Nat) (ok : Residency → Bool) : Option Residency :=
  let cs := j.residency.filter fun r => r.exch == exch && r.copyBase.isSome && !r.fetching && !r.pinned && !j.copyRead r.tensor && ok r
  match cs with
  | [] => none
  | c :: rest => some (rest.foldl (fun a b =>
      if b.score < a.score || (b.score == a.score && a.expert < b.expert) then b else a) c)

/-- Drops a tensor's copy. -/
def Job.dropCopy (j : Job) (t : Nat) : Job :=
  j.updRes t fun r => { r with copyBase := none, valid := false, fetching := false, pinned := false }

/-- Starts a fetch when a slot is free or a victim can give one up. -/
def Job.startFetch (j : Job) (t : Nat) (ok : Residency → Bool) : Job :=
  match j.res? t with
  | none => j
  | some r =>
    if r.valid || r.fetching then j
    else
      let fetch (j : Job) (b : Nat) : Job := j.updRes t fun r => { r with fetching := true, copyBase := some b }
      match j.freeSlot r.exch with
      | some b => fetch j b
      | none =>
        match j.victim r.exch ok with
        | none => j
        | some v =>
          match v.copyBase with
          | none => j
          | some b => { fetch (j.dropCopy v.tensor) b with counters := j.counters.bump .RESIDE_EVICTIONS 1 }

/-- What follows each ROUTE of a layer (R248, R249): `counts` holds the pairs of each expert. -/
def Job.afterRoute (j : Job) (e : ExchangeDecl) (counts : List Nat) : Job :=
  let count (x : Nat) : Nat := counts.getD x 0
  let j := { j with residency := j.residency.map fun r =>
    if r.exch == e.id then { r with count := count r.expert, score := scoreAfter r.score (count r.expert) e.residencyShift }
    else r }
  let wanted := sortBy (fun (a b : Residency) => b.count < a.count || (a.count == b.count && a.expert ≤ b.expert))
    (j.residency.filter fun r => r.exch == e.id && r.count != 0 && !r.valid && !r.fetching)
  wanted.foldl (fun j r => j.startFetch r.tensor fun v => v.count == 0) j

/-! ### The end of a fetch (R249) -/

/-- The tensors that a command writes beside its registered extents: a sweep's, a gather's, a reduction's. -/
def Plan.writesOf (p : Plan) (r : Running) : List Nat :=
  match r.work with
  | .sweep .. => ((List.range (r.cmd.pkt.u 0 2)).filterMap fun i => p.ranges.find? fun g => g.id == r.cmd.pkt.u (0x40 + 2 * i) 2).flatMap
      fun g => [g.weightHi, g.weightLo, g.m, g.v]
  | .gathering b _ _ => ((p.buckets.find? fun x => x.id == b).map (·.gatherDst)).toList
  | .reduce b _ => ((p.buckets.find? fun x => x.id == b).map fun x => [x.shardOut, x.errorMem, x.gatherDst]).getD []
  | _ => []

/-- Whether a command in flight writes a tensor. -/
def Mod.written (m : Mod) (job t : Nat) : Bool :=
  (m.registry.any fun r => r.job == job && r.desc.tensor == t && !r.desc.remote) ||
    match m.job? job with
    | some j => m.runnings.any fun (_, r) => r.cmd.job == job && (j.plan.writesOf r).contains t
    | none => false

/-- Completes the RESIDE and EVICT commands of a job that have nothing left to wait for. -/
def Mod.pokeResidency (m : Mod) (job : Nat) : Mod :=
  m.runnings.foldl (fun m (l, r) =>
    match r.work, m.job? job with
    | .residency ts, some j =>
      if r.cmd.job != job then m
      else
        let id := r.cmd.id l
        match r.cmd.op with
        | .reside =>
          if ts.all fun t => ((j.res? t).map (·.valid)).getD false then m.complete id .ok 0
          else m.updJob job fun j => ts.foldl (fun j t => j.startFetch t fun _ => true) j
        | _ =>
          let free := ts.filter fun t => !j.copyRead t
          let left := ts.filter j.copyRead
          let dropped := free.countP fun t => ((j.res? t).bind (·.copyBase)).isSome
          let m := (m.updJob job fun j => free.foldl Job.dropCopy j).countJob job .RESIDE_EVICTIONS dropped
          if left.isEmpty then m.complete id .ok 0 else m.setWork l (.residency left)
    | _, _ => m) m

/-- A copy's writes have all been acknowledged. A fetch that a write to the tensor has overtaken starts again after the
write, so its end does not count while a writer is in flight. -/
def Mod.fetchDone (m : Mod) (job t : Nat) : Mod :=
  match m.job? job with
  | none => m
  | some j =>
    match j.res? t, j.place? t with
    | some r, some pl =>
      match r.fetching, r.copyBase with
      | true, some base =>
        if m.written job t then m
        else
          let n := pl.decl.bytes
          let from_ := (List.range n).map pl.place.addr
          let (m, _, bad) := m.checkLocal none from_
          match bad with
          | some rec =>
            let m := m.updJob job fun j => j.dropCopy t
            m.completeAll ((m.runnings.filter fun (_, r) =>
              r.cmd.job == job && match r.work with
                | .residency ts => r.cmd.op == .reside && ts.contains t
                | _ => false).map fun (l, r) => r.cmd.id l) .faultDetected rec
          | none =>
            let m := m.store (from_.zipIdx.map fun (a, i) => (base + i, m.byte a))
            let m := m.updJob job fun j =>
              { j.updRes t (fun r => { r with valid := true, fetching := false }) with
                counters := (j.counters.bump .RESIDE_FETCHES 1).bump .RESIDE_BYTES n }
            m.pokeResidency job
      | _, _ => m
    | _, _ => m

/-! ### RESIDE and EVICT (R250, R542) -/

def namedTensors (p : Packet) : List Nat := ((List.range (p.u 0 2)).map fun i => p.u (8 + 4 * i) 4).eraseDups

/-- Check 13 of RESIDE and EVICT. -/
def residencyFault (j : Job) (p : Packet) : Option Nat :=
  let n := p.u 0 2
  if n = 0 ∨ 1024 < n then some 0x40
  else ((List.range n).find? fun i => (j.res? (p.u (8 + 4 * i) 4)).isNone).map fun i => 0x48 + 4 * i

/-- Slots that RESIDE lacks: the copies named and pinned copies of an exchange beyond its slots. -/
def Job.slotsShort (j : Job) (ts : List Nat) : Nat :=
  let exs := (j.residency.map (·.exch)).eraseDups
  (exs.map fun e =>
    let pinned := j.residency.countP fun r => r.exch == e && (r.pinned || ts.contains r.tensor)
    pinned - j.slots.countP fun s => s.1 == e).sum

def Mod.startReside (m : Mod) (id : CmdId) (c : Cmd) (j : Job) : Mod :=
  let ts := namedTensors c.pkt
  let short := j.slotsShort ts
  if short ≠ 0 then m.complete id .refusedFit (fitDetail .tierA none short)
  else
    let m := m.updJob c.job fun j => ts.foldl (fun j t => j.updRes t fun r => { r with pinned := true }) j
    (m.setWork id.lane (.residency ts)).pokeResidency c.job

def Mod.startEvict (m : Mod) (id : CmdId) (c : Cmd) : Mod :=
  let ts := namedTensors c.pkt
  let m := m.updJob c.job fun j => ts.foldl (fun j t => j.updRes t fun r => { r with pinned := false }) j
  (m.setWork id.lane (.residency ts)).pokeResidency c.job

def execResidencyFetchDone (job tensor : Nat) (s : State) : Host.Outcome State Fault Refusal :=
  lift (fun m => m.fetchDone job tensor) s

end Sys2Proof.Machine
end

