-- ==== Sys2Proof/Machine/Rounds.lean ====
section
/-!
DEFINITION. The rounds of an expert slot (R255, R271, R282, R283): binding of roles, the run of a body, and the
weight-gradient accumulators kept between backward rounds.
-/

namespace Sys2Proof.Machine

/-! ### Slots (R253) -/

/-- The expert slots of a rank, as (expert, replica), by expert ID and then replica index. -/
def ExchangeDecl.slotsOf (e : ExchangeDecl) (rank : Nat) : List (Nat × Nat) :=
  e.owners.zipIdx.flatMap fun (o, x) => (o.zipIdx.filter fun q => q.1 == rank).map fun q => (x, q.2)

/-- The owner rank and slot index of a pair: replica TOKEN mod r_e of its expert (R253, R277). -/
def ExchangeDecl.target (e : ExchangeDecl) (expert token : Nat) : Nat × Nat :=
  let o := e.owners.getD expert []
  let r := token % Nat.max 1 o.length
  let rank := o.getD r 0
  (rank, (e.slotsOf rank).findIdx fun s => s == (expert, r))

/-- The ranks that own a slot of an exchange. -/
def ExchangeDecl.ownerRanks (e : ExchangeDecl) : List Nat := sortBy (fun a b => a ≤ b) e.owners.flatten.eraseDups

/-- The ranks that send in an exchange: those that differ from an owner in the coordinate of the EXPERT cut alone; all
ranks of the job without such a cut (log 54). -/
def Plan.senders (p : Plan) (e : ExchangeDecl) : List Nat :=
  match p.cuts.findIdx? fun c => c.kind == .expert with
  | none => List.range p.ranks
  | some x =>
    (List.range p.ranks).filter fun r => e.ownerRanks.any fun o =>
      (List.range p.cuts.length).all fun i => i == x || cutCoord p.cuts i r == cutCoord p.cuts i o

/-- The other ranks of an exchange. -/
def Plan.exPeers (p : Plan) (e : ExchangeDecl) : List Nat :=
  (sortBy (fun a b => a ≤ b) ((p.senders e ++ e.ownerRanks).eraseDups)).filter (· != p.rank)

def Plan.exchange? (p : Plan) (id : Nat) : Option ExchangeDecl := p.exchanges.find? fun e => e.id == id

def ExchangeDecl.inFmt (e : ExchangeDecl) : Fmt := (Fmt.ofCode e.rowInFmt).getD .bf16
def ExchangeDecl.outFmt (e : ExchangeDecl) : Fmt := (Fmt.ofCode e.rowOutFmt).getD .bf16
def ExchangeDecl.inBytes (e : ExchangeDecl) : Nat := rowBytes e.rowInFmt e.rowInW
def ExchangeDecl.outBytes (e : ExchangeDecl) : Nat := rowBytes e.rowOutFmt e.rowOutW

/-- The values of a row of a scalar format. -/
def rowValues (f : Fmt) (b : Bytes) : List Val :=
  (List.range (b.length / f.size)).map fun i => f.layout.decode (leNat ((b.drop (f.size * i)).take f.size))

/-- A row of values converted to a scalar format: bytes and counts. `u` gives the SR words. -/
def rowOfVals (f : Fmt) (c : Conv) (u : Nat → Nat) (xs : List Val) : Bytes × Counts :=
  let rs := xs.zipIdx.map fun (x, i) => f.layout.convert c (u i) x
  (rs.flatMap (fun r => leBytes f.size r.code),
    { saturated := rs.countP (·.saturated), nonfinite := rs.countP (·.nonfinite) })

/-! ### Roles (R255, log 41) -/

/-- Where a round's rows stand while its body runs, apart from every address of the map. -/
def roundIn : Nat := 2 ^ 58
def roundOut : Nat := 2 ^ 58 + 2 ^ 56

/-- Whether a location belongs to a round's rows. -/
def isRound (a : Nat) : Bool := 2 ^ 58 ≤ a && a < 2 ^ 59

/-- A job with ROUND_IN and ROUND_OUT placed for a round of `rows` rows. -/
def Job.bound_ (j : Job) (e : ExchangeDecl) (rows : Nat) : Job :=
  let place (id bytes base : Nat) : TensorPlace := ⟨{ id := id, tier := .a, bytes := bytes }, .flat base⟩
  { j with
    places := place Config.roleIn (rows * e.inBytes) roundIn ::
      place Config.roleOut (rows * e.outBytes) roundOut :: j.places }

/-- A tensor that a role number names: a slot's EXPERT_W[n] or EXPERT_GRAD[n], or SCRATCH[n] (R255). -/
def ExchangeDecl.roleTensor (e : ExchangeDecl) (slot t : Nat) : Nat :=
  if Config.roleScratch 0 ≤ t then e.scratch.getD (t - Config.roleScratch 0) 0
  else if Config.roleGrad 0 ≤ t then (e.slotG.getD slot []).getD (t - Config.roleGrad 0) 0
  else if Config.roleW 0 ≤ t then (e.slotW.getD slot []).getD (t - Config.roleW 0) 0
  else t

/-- A descriptor of a body with its roles bound, and the round's row count where its EXTENT is 0. -/
def Desc.bind_ (d : Desc) (e : ExchangeDecl) (slot rows : Nat) : Desc :=
  { d with
    tensor := e.roleTensor slot d.tensor
    dims := d.dims.map fun r => if r.extent = 0 then { r with extent := rows } else r }

/-- The packet of a body's command record. -/
def BodyRec.packet (b : BodyRec) (j : Job) : Packet :=
  { src := ⟨.a, 0, 0, none⟩, magic := 0x5153, version := 1, hlen := 4, flags := BitVec.ofNat 15 b.flags, quiet := true
    resv := 0, queue := 0, inc := BitVec.ofNat 8 j.plan.inc, job := BitVec.ofNat 12 j.plan.job, seq := 0, timeout := 0
    plen := BitVec.ofNat 32 b.payload.length, wait0 := 0xFFFFFFFF, wait1 := 0xFFFFFFFF, sig0 := 0xFFFFFFFF
    sig1 := 0xFFFFFFFF, handle := 0, tag := [], payload := b.payload }

/-- The views of a body's command record under bound roles. -/
def BodyRec.data (b : BodyRec) (j : Job) (e : ExchangeDecl) (slot rows : Nat) : Option Data :=
  let c : Cmd := { op := b.op, pkt := b.packet j, sid := 0 }
  let os := (allOpnds b.op j.plan c.pkt).map fun o => { o with desc := o.desc.bind_ e slot rows }
  match findAll j os with
  | .ok vs => some { c := c, j := j, vs := vs }
  | .error _ => none

/-- Reads through a round's rows and the module's memory. -/
def Mod.roundReader (m : Mod) (j : Job) (rows : Memory) (a : Nat) : Byte :=
  if isRound a then rows.get a else m.reader j [] a

/-- The number n of EXPERT_GRAD[n] that a record writes. -/
def Data.gradOf (x : Data) (e : ExchangeDecl) (slot : Nat) : Option Nat :=
  if x.c.op != .matmul && x.c.op != .sparseWeightGrad then none
  else
    let t := (x.v 0x40).d.tensor
    (e.slotG.getD slot []).findIdx? (· == t)

/-- R141's loop continued from `acc` at group `g0` over the `K` pairs of a span (R144, R283); `T` is the number of
blocks of 128 pairs of the whole slot. -/
def accumulateFrom (sr : Option Draw) (p T g0 : Nat) (acc : BitVec 32) (K : Nat) (term : Nat → Val) : BitVec 32 :=
  (List.range ((K + 15) / 16)).foldl (fun acc g =>
    let s := groupSum term K g
    match sr with
    | none => add32 acc s
    | some d => rnd32sr (d.acc p T (g0 + g)) ((f32 acc).add (f32 s))) acc

/-- The elements of a weight-gradient record's destination, with the position that ACC_SR draws by and the term of
each pair. -/
def Data.gradTerms (x : Data) (rd : Nat → Byte) : List (List Nat × Nat × (Nat → Val)) :=
  let p := x.product rd
  let term (m n k : Nat) : Val := p.term (p.stream m k) (p.weight k n)
  if x.c.op == .matmul then
    (boxIdx x.opC.d.ownBox).map fun i =>
      let n := i.headD 0
      let m := i.getD 1 0
      (i, p.pos m n, term m n)
  else
    let w := x.opB.forRead
    (boxIdx x.gradBox).map fun i =>
      let r := i.headD 0
      let n := i.getD 1 0
      let code := w.code rd (r / 2) n
      let m := r / 2 * 4 + (if r % 2 = 0 then code % 4 else code / 4)
      (i, p.pos m n, term m n)

/-- The outcome of a body: the module, the round's rows, the accumulators, and how it failed. -/
structure BodyRun where
  m : Mod
  rows : Memory
  acc : List (List (BitVec 32))
  fail : Option (Status × Nat × Bytes) := none
  deriving Repr

/-- Runs one command record of a body. Weight gradients go on in the accumulators; everything else is written. -/
def runRecord (s : BodyRun) (j : Job) (e : ExchangeDecl) (slot rows base total : Nat) (b : BodyRec) : BodyRun :=
  let j := { j with riddleNotes := ((s.m.job? j.plan.job).map (·.riddleNotes)).getD [] }
  match s.fail, b.data j e slot rows with
  | some _, _ => s
  | none, none => { s with fail := some (.badDescriptor, 0, []) }
  | none, some x =>
    let rd := s.m.roundReader j s.rows
    match dataTest x rd with
    | some d => { s with fail := some (.bounds, d, []) }
    | none =>
      let f := x.body [] 0 x.rows rd
      let (m, corrected, bad) := s.m.checkAccess none ((f.stages.flatten ++ f.put.reads).filter fun a => !isRound a)
        ((f.put.writes.map (·.1)).filter fun a => !isRound a)
      let m := m.countJob j.plan.job .CORRECTED corrected
      match bad, f.fail, x.gradOf e slot with
      | some n, _, _ => { s with m := m, fail := some (.faultDetected, n, []) }
      | none, some x, _ => { s with m := m, fail := some x }
      | none, none, some g =>
        let terms := x.gradTerms rd
        let old := s.acc.getD g []
        let sr := x.accDraw (x.v 0x40)
        let new := terms.zipIdx.map fun (t, i) =>
          accumulateFrom sr t.2.1 ((total + 127) / 128) (base / 16) (old.getD i negZero32) rows t.2.2
        { s with m := m, acc := (s.acc ++ List.replicate (g + 1 - s.acc.length) []).set g new }
      | none, none, none =>
        let m := m.store (f.put.writes.filter fun w => isLocal w.1 && !isRound w.1)
        let m := f.ctrs.foldl (fun m c => m.countJob j.plan.job c.1 c.2) m
        let m := ((m.countJob j.plan.job .NONFINITE (f.put.counts.nonfinite + f.nonfinite)).countJob j.plan.job
          .UNDERFLOW f.put.counts.underflow).countJob j.plan.job .SATURATED f.put.counts.saturated
        { s with m := m.leaves x, rows := s.rows.writeAll (f.put.writes.filter fun w => isRound w.1) }

/-- Runs a body over a round's rows: `ins` bound to ROUND_IN and `outs` to ROUND_OUT; `base` is the canonical position
of the first row and `total` the slot's pairs. -/
def Mod.runBody (m : Mod) (j : Job) (e : ExchangeDecl) (slot : Nat) (body : List BodyRec) (ins outs : List Bytes)
    (base total : Nat) (acc : List (List (BitVec 32))) : BodyRun :=
  let n := ins.length
  let rows := (Memory.write [] roundIn ins.flatten).write roundOut outs.flatten
  let j := j.bound_ e n
  body.foldl (fun s b => runRecord s j e slot n base total b) { m := m, rows := rows, acc := acc }

/-- The rows of ROUND_IN or ROUND_OUT after a body. -/
def BodyRun.rowsAt (s : BodyRun) (base n bytes : Nat) : List Bytes :=
  (List.range n).map fun i => s.rows.read (base + i * bytes) bytes

/-! ### The end of a slot's backward rounds (R278, R283) -/

/-- Writes EXPERT_GRAD := convert(RNE(acc / D)) for every gradient record of a body; the weight gradient of a slot with
no pair is +0. -/
def Mod.writeGrads (m : Mod) (j : Job) (e : ExchangeDecl) (slot d : Nat) (acc : Option (List (List (BitVec 32)))) : Mod :=
  let j' := j.bound_ e 1
  e.bodyBwd.foldl (fun m b =>
    match b.data j' e slot 1 with
    | none => m
    | some x =>
      match x.gradOf e slot with
      | none => m
      | some g =>
        let c := x.v 0x40
        let out := if c.d.sparse24 then c.compressed else c
        let rd := m.reader j' []
        let vals := (boxIdx (if x.c.op == .matmul then c.d.ownBox else x.gradBox)).zipIdx.map fun (i, k) =>
          match acc with
          | none => (i, Val.zero)
          | some a =>
            let v := (a.getD g []).getD k negZero32
            (i, f32 (if e.divisor = 0 then v else div32 v (rnd32 (Val.ofInt d))))
        let p := out.put rd x.conv (x.j.srWord c.d) vals
        (((m.store p.writes).countJob j.plan.job .NONFINITE p.counts.nonfinite).countJob j.plan.job .SATURATED
          p.counts.saturated).countJob j.plan.job .UNDERFLOW p.counts.underflow) m

end Sys2Proof.Machine
end

