-- ==== Sys2Proof/Machine/ExState.lean ====
section
/-!
DEFINITION. What one step of an exchange is on this rank (R264–R267, R272, R274, R276, R285, R286): look-ups, count
vectors, the head parcel, withies of received parcels, pulls, spoiling.
-/

namespace Sys2Proof.Machine

def ExStep.is (s : ExStep) (exch step : Nat) : Bool := s.exch == exch && s.step == step

def Job.ex? (j : Job) (exch step : Nat) : Option ExStep := j.exSteps.find? fun s => s.is exch step

def Mod.updEx (m : Mod) (job exch step : Nat) (f : ExStep → ExStep) : Mod :=
  m.updJob job fun j => { j with exSteps := j.exSteps.map fun s => if s.is exch step then f s else s }

/-- The place of a pool's instance that the Slew engine uses: the first of R379. -/
def Plan.poolPlace (p : Plan) (pool : Nat) : Nat :=
  match p.pools.find? fun d => d.id == pool with
  | some d => (d.places p.stakes).headD 0
  | none => 0

/-- Engine class SLEW of Table 12.7. -/
def slewClass : Nat := 2

/-- Frees the receive withies of a step. -/
def Mod.freeRecv (m : Mod) (p : Plan) (e : ExchangeDecl) (s : ExStep) : Mod :=
  m.poolReleaseAll p.job e.recvPool (p.poolPlace e.recvPool) e.withyClass (s.parcelsIn.flatMap (·.withies))

/-- Frees the ledger withies of a step. -/
def Mod.freeLedger (m : Mod) (p : Plan) (e : ExchangeDecl) (s : ExStep) : Mod :=
  m.poolReleaseAll p.job e.ledgerPool (p.poolPlace e.ledgerPool) e.withyClass s.ledgerWithies

/-- Whether a step still holds withies: its ledger (R262), or those of parcels (R271). -/
def ExStep.holds (s : ExStep) : Bool := !s.ledgerWithies.isEmpty || s.parcelsIn.any fun x => !x.withies.isEmpty

/-- Makes sure that a step of an exchange is there; records of the current step and the one before stay (R288), and so does
an earlier step that still holds withies: only R284 and R285 free its ledger (R262). -/
def Mod.ensureEx (m : Mod) (j : Job) (e : ExchangeDecl) (step : Nat) : Mod :=
  if (j.ex? e.id step).isSome then m
  else
    m.updJob j.plan.job fun j =>
      { j with exSteps := ({ job := j.plan.job, exch := e.id, step := step } : ExStep) ::
          j.exSteps.filter fun s => !(s.exch == e.id && s.step + 2 ≤ step && !s.holds) }

/-- The step that a message's STEP names (R286): one that is there, the job's step, or the next one, which a faster
peer may have begun (log 54). -/
def Job.stepOf (j : Job) (exch step8 : Nat) : Option Nat :=
  match j.exSteps.find? fun s => s.exch == exch && s.step % 256 == step8 with
  | some s => some s.step
  | none =>
    let n := j.step.toNat
    if n % 256 = step8 then some n else if (n + 1) % 256 = step8 then some (n + 1) else none

/-- What an exchange message meets: its job, exchange and step, or it is discarded and counted (R62, R286, R353). -/
def Mod.exTarget (m : Mod) (x : ExMsg) : Except Mod (Mod × Job × ExchangeDecl × Nat) :=
  match m.job? x.job with
  | none => .error (m.count .staleTraffic)
  | some j =>
    if m.resettingFor x.job then .error (m.turnAway (.exchange x.source x))
    else if j.plan.inc != x.inc then .error (m.count .staleTraffic)
    else
      match j.plan.exchange? x.exch, j.stepOf x.exch x.step with
      | some e, some n =>
        if j.rollbackUntil.isSome && n == j.step.toNat then .error (m.countJob x.job .EXCHANGE_STALE)
        else
          let m := m.ensureEx j e n
          match m.job? x.job with
          | some j => .ok (m, j, e, n)
          | none => .error m
      | _, _ => .error (m.countJob x.job .EXCHANGE_STALE)

/-- A message of this rank. -/
def Plan.exMsg (p : Plan) (exch group step slot : Nat) : ExMsg :=
  { job := p.job, inc := p.inc, source := p.rank, exch := exch, group := group, step := step % 256, lastGroup := false
    slot := slot, entries := [], tags := [], rows := [], rows2 := [], keep := [], held := false }

/-! ### Count vectors (R265–R267) -/

/-- (TOTAL, SENT) of a parcel, once its COUNTS message is here. -/
def ExStep.entry (s : ExStep) (source group slot : Nat) : Option (Nat × Nat) :=
  (s.counts.find? fun c => c.source == source && c.group == group).bind fun c => c.entries[slot]?

/-- Whether a sender has finished (R266). -/
def ExStep.finished (s : ExStep) (source : Nat) : Bool :=
  match s.counts.find? fun c => c.source == source && c.last with
  | none => false
  | some c => (List.range c.group).all fun g => s.counts.any fun d => d.source == source && d.group == g

/-- The groups of a sender whose COUNTS messages are here without a gap from group 0. -/
def ExStep.knownGroups (s : ExStep) (source : Nat) : Nat → Nat → List Nat
  | 0, _ => []
  | n + 1, g => if s.counts.any fun c => c.source == source && c.group == g then g :: s.knownGroups source n (g + 1) else []

def ExStep.groupsOf (s : ExStep) (source : Nat) : List Nat := s.knownGroups source (s.counts.length) 0

/-- The pairs of a parcel that are run: SENT, less those dropped under DROP. -/
def ExStep.pairs (s : ExStep) (e : ExchangeDecl) (source group slot : Nat) : Nat :=
  let sent := ((s.entry source group slot).map (·.2)).getD 0
  if e.drop then
    match s.tagsIn.find? fun t => t.source == source && t.group == group && t.slot == slot with
    | some t => match t.keep with
      | some k => k.countP id
      | none => sent
    | none => sent
  else sent

/-- The parcels of a slot in canonical order, as (source, group, pairs run), empty ones left out (R267). -/
def ExStep.parcelsOf (s : ExStep) (e : ExchangeDecl) (senders : List Nat) (slot : Nat) : List (Nat × Nat × Nat) :=
  (senders.flatMap fun r => (s.groupsOf r).map fun g => (r, g, s.pairs e r g slot)).filter fun x => x.2.2 != 0

/-- Whether every sender has finished. -/
def ExStep.allFinished (s : ExStep) (senders : List Nat) : Bool := senders.all s.finished

/-- A slot's routed pairs, dropped ones included. -/
def ExStep.tokensIn (s : ExStep) (senders : List Nat) (slot : Nat) : Nat :=
  (senders.flatMap fun r => (s.groupsOf r).map fun g => ((s.entry r g slot).map (·.2)).getD 0).sum

/-- The sum of TOTAL, and the number of senders with TOTAL above 0, for a slot's expert. -/
def ExStep.expertTotals (s : ExStep) (senders : List Nat) (slot : Nat) : Nat × Nat :=
  let per := senders.map fun r => ((s.groupsOf r).map fun g => ((s.entry r g slot).map (·.1)).getD 0).sum
  (per.sum, per.countP (· != 0))

/-! ### Parcels received -/

def ParcelIn.is (x : ParcelIn) (source group slot : Nat) (grad : Bool) : Bool :=
  x.source == source && x.group == group && x.slot == slot && x.grad == grad

def ExStep.parcel? (s : ExStep) (source group slot : Nat) (grad : Bool) : Option ParcelIn :=
  s.parcelsIn.find? fun x => x.is source group slot grad

/-- The head parcel (R274): the lowest in pull order that is neither in a withy nor run; none while a lower one may
still come. -/
def ExStep.headIn (s : ExStep) (e : ExchangeDecl) (slots : Nat) (grad : Bool) : List Nat → Option (Nat × Nat × Nat)
  | [] => none
  | r :: rest =>
    let out (g : Nat) : Option (Nat × Nat × Nat) :=
      ((List.range slots).find? fun k =>
        s.pairs e r g k != 0 &&
          match s.parcel? r g k grad with
          | some p => p.phase == .held
          | none => true).map fun k => (r, g, k)
    match (s.groupsOf r).findSome? out with
    | some h => some h
    | none => if s.finished r then s.headIn e slots grad rest else none

/-- The head parcel of a step: forward parcels come before gradients. -/
def ExStep.head (s : ExStep) (p : Plan) (e : ExchangeDecl) : Option (Bool × Nat × Nat × Nat) :=
  let n := (e.slotsOf p.rank).length
  let senders := p.senders e
  let open_ := !(s.allFinished senders) || senders.any fun r => (s.groupsOf r).any fun g =>
    (List.range n).any fun k => s.pairs e r g k != 0 && (match s.parcel? r g k false with
      | some x => x.phase == .held
      | none => true)
  (s.headIn e n (!open_) senders).map fun h => (!open_, h)

/-- Withies that a parcel of `n` pairs needs. -/
def ExchangeDecl.withiesFor (e : ExchangeDecl) (n : Nat) : Nat := (n + e.withyRows - 1) / e.withyRows

/-- Requests withies for a parcel: ordinary requests leave the head withy, and get none while the head parcel needs more
than are free, whether it has come or not (R270, R274). -/
def Mod.requestRecv (m : Mod) (p : Plan) (e : ExchangeDecl) (s : ExStep) (n : Nat) (isHead : Bool) : Mod × Option (List Nat) :=
  let place := p.poolPlace e.recvPool
  let free := ((m.cell? p.job e.recvPool place e.withyClass).map PoolCell.free).getD 0
  let headNeed := match s.head p e with
    | some (_, r, gr, k) => e.withiesFor (s.pairs e r gr k)
    | none => 0
  if !isHead && (free < n + 1 || free < headNeed) then
    (m.updCell p.job e.recvPool place e.withyClass fun c => { c with emptyFails := min ctrMax (c.emptyFails + 1) }, none)
  else
    match m.poolRequest p.job e.recvPool place e.withyClass n 1 (m.requesterOf p.job e.recvPool slewClass) isHead with
    | (m, .granted ws) => (m, some ws)
    | (m, .failed _ _) => (m, none)

/-- Pull order (R267). -/
def pullLe (a b : ParcelIn) : Bool :=
  a.source < b.source || (a.source == b.source && (a.group < b.group || (a.group == b.group && a.slot ≤ b.slot)))

/-- Pulls held parcels in pull order while their withies can be had (R273). -/
def Mod.pullFuel : Nat → Mod → Nat → Nat → Nat → Mod
  | 0, m, _, _, _ => m
  | fuel + 1, m, job, exch, step =>
    match m.job? job with
    | none => m
    | some j =>
      match j.plan.exchange? exch, j.ex? exch step with
      | some e, some s =>
        if s.spoiled.isSome || j.phase == .loaded then m
        else
          let held := sortBy pullLe (s.parcelsIn.filter fun x => x.phase == .held)
          let try_ (x : ParcelIn) : Option (Mod × ParcelIn × List Nat) :=
            let isHead := s.head j.plan e == some (x.grad, x.source, x.group, x.slot)
            match m.requestRecv j.plan e s (e.withiesFor x.count) isHead with
            | (m, some ws) => some (m, x, ws)
            | _ => none
          match held.findSome? try_ with
          | none => m
          | some (m, x, ws) =>
            let m := m.updEx job exch step fun s =>
              { s with parcelsIn := s.parcelsIn.map fun y =>
                  if y.is x.source x.group x.slot x.grad then { y with phase := .pulled, withies := ws } else y }
            let m := (m.countJob job .EXCHANGE_PULLS).emit
              (.exchange x.source .pull (j.plan.exMsg exch x.group step x.slot))
            pullFuel fuel m job exch step
      | _, _ => m

/-- Pulls of one step. -/
def Mod.pulls (m : Mod) (job exch step : Nat) : Mod :=
  let n := (((m.job? job).bind fun j => j.ex? exch step).map fun s => s.parcelsIn.length).getD 0
  Mod.pullFuel n m job exch step

/-- Pulls of every step whose receive pool is the given one: withies have become free. -/
def Mod.pullsOf (m : Mod) (job pool : Nat) : Mod :=
  match m.job? job with
  | none => m
  | some j =>
    j.exSteps.reverse.foldl (fun m s =>
      match j.plan.exchange? s.exch with
      | some e => if e.recvPool == pool then m.pulls job s.exch s.step else m
      | none => m) m

/-! ### Spoiling (R285) -/

/-- The running commands of a step of an exchange. -/
def Mod.exCmds (m : Mod) (job exch step : Nat) : List CmdId :=
  (m.runnings.filter fun (_, r) =>
    r.cmd.job == job && (match r.work with
      | .exchange e s _ _ => e == exch && s == step
      | _ => false)).map fun (l, r) => r.cmd.id l

/-- Ends the commands of a step with a status, and tells every peer once; the step's receive withies go back,
and parcels held elsewhere may be pulled (R273). -/
def Mod.endEx (m : Mod) (job exch step : Nat) (ids : List CmdId) (st : Status) (detail : Nat) : Mod :=
  match m.job? job with
  | none => m
  | some j =>
    match j.plan.exchange? exch, j.ex? exch step with
    | some e, some s =>
      let m := m.completeAll ids st detail
      if s.spoilSent then m
      else
        let m := m.freeRecv j.plan e s
        let m := (j.plan.exPeers e).foldl (fun m r =>
          m.emit (.exchange r .spoil (j.plan.exMsg exch 0 step 0xFFFF))) m
        let m := m.updEx job exch step fun s => { s with
          spoilSent := true, spoiled := s.spoiled.or (some j.plan.rank), parcelsIn := s.parcelsIn.map fun x => { x with withies := [] } }
        m.pullsOf job e.recvPool
    | _, _ => m

/-- A peer has spoiled a step: the commands that meet it end SPOILED. -/
def Mod.spoilBy (m : Mod) (job exch step rank : Nat) : Mod :=
  let m := m.updEx job exch step fun s => { s with spoiled := s.spoiled.or (some rank) }
  let ids := m.exCmds job exch step
  if ids.isEmpty then m else m.endEx job exch step ids .spoiled rank

/-- Spoils every step of a job's exchanges that has a rank as a peer (R463). -/
def Mod.spoilRank (m : Mod) (job rank : Nat) : Mod :=
  match m.job? job with
  | none => m
  | some j =>
    j.exSteps.foldl (fun m s =>
      match j.plan.exchange? s.exch with
      | some e => if (j.plan.exPeers e).contains rank then m.spoilBy job s.exch s.step rank else m
      | none => m) m

end Sys2Proof.Machine
end

