-- ==== Sys2Proof/Machine/Route.lean ====
section
/-!
DEFINITION. Check 13 of the Experts commands (R256, R268, R279–R284, R288, R539), and ROUTE (R256–R263).
-/

namespace Sys2Proof.Machine

/-! ### Check 13 -/

/-- The exchange that a packet names. -/
def exchOf (j : Job) (p : Packet) : Option ExchangeDecl := j.plan.exchange? (p.u 2 2)

/-- A tensor of FP32 with two extents. -/
def Opnd.fp32Rule (o : Opnd) (a b : Nat) : List Viol :=
  o.fmtRule (· == .fp32) ++ o.ndimRule 2 ++ o.extRule 0 a ++ o.extRule 1 b

/-- TAGS of an exchange: INT32 with extents 4, K_TOP and T. -/
def Opnd.tagsRule (o : Opnd) (e : ExchangeDecl) : List Viol :=
  o.fmtRule (· == .int32) ++ o.ndimRule 3 ++ o.extRule 0 4 ++ o.extRule 1 e.kTop

/-- A row of an exchange: two dimensions with the row's width in the first. -/
def Opnd.rowRule (o : Opnd) (w t : Nat) : List Viol := o.ndimRule 2 ++ o.extRule 0 w ++ o.extRule 1 t

/-- The rules of the Experts commands on their operands. -/
def expertViols (op : Op) (j : Job) (p : Packet) (os : List Opnd) : List Viol :=
  match exchOf j p with
  | none => fieldRule true 2
  | some e =>
    let o (off : Nat) : Opnd := Op.at_ os off
    let opt (off : Nat) (f : Opnd → List Viol) : List Viol := ((opnd? os off).map f).getD []
    let T (off k : Nat) : Nat := (o off).desc.ext k
    match op with
    | .route =>
      let t := T 0x10 1
      (o 0x10).fp32Rule e.experts t ++ maskRule (opnd? os 0x20) t ++ (o 0x30).tagsRule e ++ (o 0x30).extRule 2 t ++
        (o 0x40).fp32Rule e.kTop t ++
        (o 0x50).fmtRule (· == .int32) ++ (o 0x50).ndimRule 1 ++ (o 0x50).extRule 0 e.experts ++
        ([0x60, 0x70].flatMap fun k =>
          (o k).fmtRule (· == .fp32) ++ (o k).ndimRule 1 ++ (o k).extRule 0 e.experts)
    | .dispatch =>
      let r := p.u 4 4
      let badTie := r != noTie && !(j.plan.ties.any fun t => t.ref == r && t.level)
      fieldRule badTie 4 ++ (o 0x10).fmtRule (fun f => !f.isInt) ++ (o 0x10).rowRule e.rowInW (T 0x20 2) ++ (o 0x20).tagsRule e
    | .combine =>
      let t := T 0x10 2
      (o 0x10).tagsRule e ++ (o 0x20).fp32Rule e.kTop t ++ (o 0x30).fmtRule (· == e.outFmt) ++ (o 0x30).rowRule e.rowOutW t
    | .dispatchGrad =>
      (o 0x10).tagsRule e ++ (o 0x20).fmtRule (· == e.inFmt) ++ (o 0x20).rowRule e.rowInW (T 0x10 2)
    | .combineGrad =>
      let t := T 0x10 2
      (o 0x10).tagsRule e ++ (o 0x20).fp32Rule e.kTop t ++ (o 0x30).fmtRule (fun f => !f.isInt) ++
        (o 0x30).rowRule e.rowOutW t ++ (o 0x40).fp32Rule e.kTop t ++ opt 0x50 fun d => d.fp32Rule e.experts t
    | _ => (o 0x10).fmtRule (· == .int32)

/-- The first broken rule of an Experts command at check 13. -/
def expertFault (op : Op) (j : Job) (p : Packet) : Option Nat :=
  firstViol (commonViols op j p ++ expertViols op j p (op.opnds j.plan p))

/-- R346 for conversions with SR into the destinations of these commands. -/
def expertLimit (op : Op) (j : Job) (p : Packet) : Option Nat :=
  let c := op.conv p
  firstViol (((op.dests j.plan p).filter fun o => o.off == 0x20 || o.off == 0x30).flatMap fun o =>
    if op == .combine || op == .dispatchGrad then srLimit c o else [])

/-- What an Experts command finds out of bounds when it starts (R196), in the order of the roles: own extents of
destinations, and of sources what may be read: of ROUTE's scores those of fed tokens, of its mask the bytes of T rows. -/
def expertTest (x : Data) (rd : Nat → Byte) : Option Nat :=
  let dest (v : View) : Bool := x.c.op.isDest v.o.off v.o.role
  let T := (x.v 0x10).d.ext 1
  let idx (v : View) : List (List Nat) :=
    if dest v then boxIdx v.d.ownBox
    else if x.c.op == .route && v.o.off == 0x20 then (List.range ((T + 7) / 8)).map fun i => [i]
    else if x.c.op == .route then
      (boxIdx v.d.fullBox).filter fun i => testFed (x.mask 0x20) rd T (i.getD 1 0)
    else boxIdx v.d.fullBox
  firstOf ((sortBy (fun (a b : View) => a.o.role ≤ b.o.role) x.vs).map fun v => v.test (idx v))

/-- Starts a command with operands up to the registration of its own extents (R196–R198, R346, R421): answers the
command's views, or what became of it. -/
def Mod.claimData (m : Mod) (id : CmdId) (c : Cmd) (j : Job) (limit : Option Nat) (test : Data → Option Nat) : Except Mod (Mod × Data) :=
  let (moving, absent) := m.stakesOf j c.pkt.queue.toNat
  if moving then .error (m.setWork id.lane .ready)
  else match absent with
  | some n => .error (m.complete id .faultDetected n)
  | none =>
    match dataOf c j with
    | .error (some rank, _) => .error (m.setWork id.lane (.placement rank))
    | .error (none, o) => .error (m.complete id .badDescriptor (o.field 4))
    | .ok x =>
      match limit, test x with
      | some d, _ => .error (m.complete id .badDescriptor d)
      | none, some d => .error (m.complete id .bounds d)
      | none, none =>
        match m.claimExtents id c j with
        | .waits => .error (m.setWork id.lane .ready)
        | .overlaps d => .error ((m.countJob c.job .OVERLAP_REFUSED).complete id .overlap d)
        | .ok rs => .ok (({ m with registry := m.registry ++ rs }).noteCopies id x, x)

/-! ### Tags in memory (R261) -/

/-- The tag of pair (t, i) in a TAGS tensor. -/
def View.tag (v : View) (rd : Nat → Byte) (t i : Nat) : Tag :=
  Tag.ofWord (leNat ((List.range 4).flatMap fun k => v.fetch rd (v.d.elemOffs [k, i, t])))

/-- The locations of the tag of pair (t, i). -/
def View.tagLocs (v : View) (t i : Nat) : List Nat := (List.range 4).flatMap fun k => v.locs [k, i, t]

/-- The elements of a tag for a write. -/
def tagElems (g : Tag) (t i : Nat) : List (List Nat × Val) :=
  (List.range 4).map fun k => ([k, i, t], Val.ofInt (signedOf 32 (g.word / 2 ^ (32 * k) % 2 ^ 32)))

/-- Elements that lie within a destination's own extent. -/
def View.owned (v : View) (es : List (List Nat × Val)) : List (List Nat × Val) := es.filter fun p => inBox v.d.ownBox p.1

/-! ### ROUTE (R256–R263) -/

/-- A sum in the order of R151. -/
def sum151 (v : List (BitVec 32)) : BitVec 32 := reduceChunks false (v.length / 256 + 1) negZero32 v

/-- Selection scores of a token from its scores (R257). -/
def selectionScores (e : ExchangeDecl) (j : Job) (tags t : Nat) (bias : Nat → BitVec 32) (s : List (BitVec 32)) : List (BitVec 32) :=
  let sigma := BitVec.ofNat 32 e.noiseSigma
  s.zipIdx.map fun (v, k) =>
    let i := t * e.experts + k
    let n := if (f32 sigma).isZero then 0#32
      else mul32 sigma (normalDeviate (philox j.plan.seed j.step.toNat tags 2 (i / 2)) i)
    add32 (add32 v n) (bias k)

/-- Whether score `a` is picked before score `b`; equal ones keep their order (R258). -/
def pickBefore (a b : BitVec 32) : Bool :=
  if (f32 b).isNan then true else if (f32 a).isNan then false else le32 b a

/-- The picked experts in the order of their k-slots (R258). -/
def picks (k : Nat) (sel : List (BitVec 32)) : List Nat :=
  ((sortBy (fun (a b : BitVec 32 × Nat) => pickBefore a.1 b.1) sel.zipIdx).take k).map (·.2)

/-- The probabilities of a token (R259). -/
def probabilities (e : ExchangeDecl) (s : List (BitVec 32)) : List (BitVec 32) :=
  if e.sigmoid then s.map sigmoid32
  else
    let top := match s with
      | [] => 0#32
      | a :: rest => rest.foldl max32 a
    let xs := s.map fun v => exp32 (sub32 v top)
    let z := sum151 xs
    xs.map fun v => div32 v z

/-- P of R259. -/
def gateSum (ps : List (BitVec 32)) : BitVec 32 := ps.foldl add32 negZero32

/-- What ROUTE finds for one fed token. -/
structure Routed where
  t : Nat
  probs : List (BitVec 32)
  picks : List Nat
  gates : List (BitVec 32)
  deriving DecidableEq, Repr

/-- The scores of a token, widened from FP32. -/
def View.scores (v : View) (rd : Nat → Byte) (e : ExchangeDecl) (t : Nat) : List (BitVec 32) :=
  (List.range e.experts).map fun k => rnd32 (v.value rd [k, t])

/-- BIAS[k], or +0 (R257). -/
def Job.biasAt (j : Job) (e : ExchangeDecl) (rd : Nat → Byte) (k : Nat) : BitVec 32 :=
  match if e.bias = 0 then none else j.place? e.bias with
  | none => 0#32
  | some p => BitVec.ofNat 32 (leNat ((List.range 4).map fun b => rd (p.place.addr (4 * k + b))))

/-- The locations of BIAS. -/
def Job.biasLocs (j : Job) (e : ExchangeDecl) : List Nat :=
  match if e.bias = 0 then none else j.place? e.bias with
  | none => []
  | some p => (List.range (4 * e.experts)).map p.place.addr

/-- Routes one token. -/
def routeToken (e : ExchangeDecl) (j : Job) (tags : Nat) (rd : Nat → Byte) (s : List (BitVec 32)) (t : Nat) : Routed :=
  let ps := probabilities e s
  let ks := picks e.kTop (selectionScores e j tags t (j.biasAt e rd) s)
  let pk := ks.map fun k => ps.getD k 0
  let P := gateSum pk
  { t := t, probs := ps, picks := ks, gates := if e.renorm then pk.map (fun p => div32 p P) else pk }

/-- The fed tokens of a ROUTE. -/
def Data.fedTokens (x : Data) (rd : Nat → Byte) : List Nat :=
  (List.range ((x.v 0x10).d.ext 1)).filter (fedRow (x.mask 0x20) rd)

/-- The tokens of a ROUTE, routed. -/
def Data.routed (x : Data) (e : ExchangeDecl) (rd : Nat → Byte) : List Routed :=
  let s := (x.v 0x10).forRead
  (x.fedTokens rd).map fun t => routeToken e x.j (x.v 0x30).d.tensor rd (s.scores rd e t) t

/-- The tag of a routed pair (R261). -/
def Routed.tag (r : Routed) (e : ExchangeDecl) (p : Plan) (i : Nat) : Tag :=
  let x := r.picks.getD i 0
  { gate := r.gates.getD i 0, held := false, dropped := false, replica := decide (1 < (e.owners.getD x []).length)
    last := false, pad := false, kslot := i, expert := x, token := r.t, source := p.rank, inc := p.inc }

/-- The tag of a masked token's pair (R261). -/
def padTag (p : Plan) (t i : Nat) : Tag :=
  { gate := 0, held := false, dropped := false, replica := false, last := false, pad := true, kslot := i, expert := 0
    token := t, source := p.rank, inc := p.inc }

/-- ROUTE's reads and writes (R256–R261). -/
def routeBody (x : Data) (e : ExchangeDecl) (rd : Nat → Byte) : Effect :=
  let s := (x.v 0x10).forRead
  let T := s.d.ext 1
  let fed := x.fedTokens rd
  let rs := x.routed e rd
  let masked := (List.range T).filter fun t => !fed.contains t
  let plan := x.j.plan
  let ks := List.range e.kTop
  let tagVals := (rs.flatMap fun r => ks.flatMap fun i => tagElems (r.tag e plan i) r.t i) ++
    masked.flatMap fun t => ks.flatMap fun i => tagElems (padTag plan t i) t i
  let gateVals := (rs.flatMap fun r => ks.map fun i => ([i, r.t], f32 (r.gates.getD i 0))) ++
    masked.flatMap fun t => ks.map fun i => ([i, t], Val.zero)
  let count (k : Nat) : Nat := (rs.map fun r => r.picks.countP (· == k)).sum
  let psum (k : Nat) : BitVec 32 := sum151 ((List.range T).map fun t =>
    match rs.find? fun r => r.t == t with
    | some r => r.probs.getD k negZero32
    | none => negZero32)
  let frac (k : Nat) : Val :=
    if fed.isEmpty then .zero else f32 (rnd32 ((Val.ofInt (count k)).div (Val.ofInt fed.length)))
  let es := List.range e.experts
  let write (off : Nat) (vals : List (List Nat × Val)) : Put := (x.v off).put rd {} (fun _ => 0) ((x.v off).owned vals)
  { stages := [maskLocs (x.mask 0x20) T, x.j.biasLocs e ++ fed.flatMap fun t => (List.range e.experts).flatMap fun k => s.locs [k, t]]
    put := ((((write 0x30 tagVals).add (write 0x40 gateVals)).add
      (write 0x50 (es.map fun k => ([k], Val.ofInt (count k))))).add (write 0x60 (es.map fun k => ([k], f32 (psum k))))).add
      (write 0x70 (es.map fun k => ([k], frac k)))
    nonfinite := (rs.map fun r => r.probs.countP nonfinite32).sum }

/-- The ledger that ROUTE leaves: a slot for every pair of a fed token (R254, R262). -/
def Data.newLedger (x : Data) (e : ExchangeDecl) (rs : List Routed) : List LedgerSlot :=
  rs.flatMap fun r => (List.range e.kTop).map fun i =>
    let g := r.tag e x.j.plan i
    let t := e.target g.expert r.t
    { tag := g, group := r.t / 256, rank := t.1, slot := t.2 }

/-- Withies of LEDGER_POOL for `n` ledger slots (R254, R262). -/
def ExchangeDecl.ledgerWithies (e : ExchangeDecl) (n : Nat) : Nat :=
  let per := Nat.max 1 (e.withyBytes / e.ledgerSlot)
  (n + per - 1) / per

/-- Frees the ledgers that a ROUTE of a later step frees: those of earlier steps that ended by an event of R285. -/
def Mod.dropLedgers (m : Mod) (j : Job) (e : ExchangeDecl) (step : Nat) : Mod :=
  let old (s : ExStep) : Bool := s.exch == e.id && s.step < step && s.spoiled.isSome
  let m := (j.exSteps.filter old).foldl (fun m s => m.freeLedger j.plan e s) m
  let clear (s : ExStep) : ExStep := if old s then { s with ledger := [], ledgerWithies := [] } else s
  m.updJob j.plan.job fun j => { j with exSteps := j.exSteps.map clear }

/-- Raises SIG0 `n` times and ends a command whose token groups signal (R263, R279, R284). -/
def Mod.endGroups (m : Mod) (id : CmdId) (r : Running) (n : Nat) (st : Status) (d : Nat) : Mod :=
  if r.cmd.pkt.groupSignal then
    let m := m.setWork id.lane (.segments n n false)
    let m := (List.range n).foldl (fun m _ => m.signalTie r.cmd.pkt.sig0.toNat 1) m
    m.complete id st d
  else m.complete id st d

/-- Ends a ROUTE that has written everything (R50, R263). -/
def Mod.endRoute (m : Mod) (id : CmdId) (x : Data) (got : List (Nat × Byte)) : Mod :=
  match m.cmd? id with
  | none => m
  | some r =>
    if r.cmd.namesSignal && !m.acked id r.cmd.job then m.setWork id.lane (.remote got true)
    else m.endGroups id r (((x.v 0x10).d.ext 1 + 255) / 256) .ok 0

/-- Runs ROUTE once its inputs are here: the ledger first, then everything it writes (R262). -/
def Mod.runRoute (m : Mod) (id : CmdId) (x : Data) (got : List (Nat × Byte)) : Mod :=
  match m.cmd? id, exchOf x.j x.c.pkt with
  | some r, some e =>
    let rd := m.reader x.j got
    let body := routeBody x e
    match (body rd).needs x.j got with
    | some locs => (m.ask x.j id locs).setWork id.lane (.remote got false)
    | none =>
      let step := x.j.step.toNat
      let m := m.dropLedgers x.j e step
      let m := m.ensureEx x.j e step
      let rs := x.routed e rd
      let place := x.j.plan.poolPlace e.ledgerPool
      let n := e.ledgerWithies (rs.length * e.kTop)
      let who := m.requesterOf x.c.job e.ledgerPool slewClass
      let (m, grant) := if n = 0 then (m, .granted []) else m.poolRequest x.c.job e.ledgerPool place e.withyClass n 1 who false
      match grant with
      | .failed st d => m.endEx x.c.job e.id step [id] st d
      | .granted ws =>
        match m.runEffect id r x.j got body with
        | .waits m => m
        | .failed m st d p =>
          (m.poolReleaseAll x.c.job e.ledgerPool place e.withyClass ws).complete id st d p
        | .wrote m =>
          let led := x.newLedger e rs
          let m := m.updEx x.c.job e.id step fun s =>
            { s with tokens := (x.v 0x10).d.ext 1, fed := rs.length, ledger := led, ledgerWithies := s.ledgerWithies ++ ws
                     probs := rs.map (fun r => (r.t, r.probs)), nextGroup := 0, sentAll := false, combined := 0
                     gradGroups := 0, summed := 0, parcelsOut := [] }
          let counts := (List.range e.experts).map fun k => (rs.map fun r => r.picks.countP (· == k)).sum
          let m := m.updJob x.c.job fun j => j.afterRoute e counts
          m.endRoute id x got
  | _, _ => m

/-- ROUTE at the head of its lane. -/
def Mod.startRoute (m : Mod) (id : CmdId) (c : Cmd) (j : Job) : Mod :=
  match m.claimData id c j none (fun x => expertTest x (m.reader j [])) with
  | .error m => m
  | .ok (m, x) => m.runRoute id x []

/-- Bytes or acknowledgements of a ROUTE have arrived. -/
def Mod.resumeRoute (m : Mod) (id : CmdId) : Mod :=
  match m.dataAt? id with
  | none => m
  | some (r, x) =>
    match r.work with
    | .remote got false => m.runRoute id x got
    | .remote got true => m.endRoute id x got
    | _ => m

end Sys2Proof.Machine
end

