-- ==== Sys2Proof/Machine/Tokens.lean ====
section
/-!
DEFINITION. The token owner's side of an exchange (R268, R269, R272, R279–R281, R284): DISPATCH, COMBINE, DISPATCH_GRAD
and COMBINE_GRAD, which go on group by group as their inputs come, and EXPERT_COUNTS (R288).
-/

namespace Sys2Proof.Machine

/-- A running command of a step of an exchange. -/
structure ExCmd where
  r : Running
  x : Data
  e : ExchangeDecl
  s : ExStep
  got : List (Nat × Byte)
  sig : Nat
  deriving Repr

def Mod.exCmd? (m : Mod) (id : CmdId) : Option ExCmd :=
  match m.dataAt? id with
  | none => none
  | some (r, x) =>
    match r.work with
    | .exchange exch step got sig =>
      match x.j.plan.exchange? exch, x.j.ex? exch step with
      | some e, some s => some ⟨r, x, e, s, got, sig⟩
      | _, _ => none
    | _ => none

/-- The tokens of group `g` among `T` (R263). -/
def groupTokens (T g : Nat) : List Nat := (List.range (min 256 (T - 256 * g))).map (256 * g + ·)

def tokenGroups (T : Nat) : Nat := (T + 255) / 256

/-- A command's TAGS operand. -/
def ExCmd.tags (k : ExCmd) : View := (k.x.v (if k.r.cmd.op == .dispatch then 0x20 else 0x10)).forRead

/-- The number of token groups of a command. -/
def ExCmd.groups (k : ExCmd) : Nat := tokenGroups (k.tags.d.ext 2)

/-- The tokens of a group. -/
def ExCmd.tokens (k : ExCmd) (g : Nat) : List Nat := groupTokens (k.tags.d.ext 2) g

/-- The ledger slot of pair (t, i). -/
def ExStep.pair? (s : ExStep) (t i : Nat) : Option LedgerSlot := s.ledger.find? fun l => l.tag.token == t && l.tag.kslot == i

/-- Changes the ledger of a step. -/
def Mod.mapLedger (m : Mod) (job exch step : Nat) (f : LedgerSlot → LedgerSlot) : Mod :=
  m.updEx job exch step fun s => { s with ledger := s.ledger.map f }

/-- Runs the reads and writes of one token group. -/
def Mod.runGroup (m : Mod) (id : CmdId) (k : ExCmd) (body : (Nat → Byte) → Effect) : Ran :=
  match m.runEffect id k.r k.x.j k.got body with
  | .waits m => .waits (m.setWork id.lane (.exchange k.e.id k.s.step k.got k.sig))
  | o => o

/-! ### DISPATCH (R268, R269, R272) -/

/-- A pair that a group sends: its tag, its owner rank and slot, its ROW_IN row and what the conversion counted. -/
structure SentPair where
  tag : Tag
  rank : Nat
  slot : Nat
  row : Bytes
  counts : Counts
  deriving DecidableEq, Repr

/-- The pairs of a group, as TAGS and X give them. -/
def ExCmd.sentPairs (k : ExCmd) (g : Nat) (rd : Nat → Byte) : List SentPair :=
  let src := (k.x.v 0x10).forRead
  let w := k.e.rowInW
  (k.tokens g).flatMap fun t => (List.range k.e.kTop).filterMap fun i =>
    let tag := { k.tags.tag rd t i with held := false, dropped := false, last := false, kslot := i, token := t }
    if tag.pad then none
    else
      let to_ := k.e.target tag.expert t
      let u (d : Nat) : Nat := (k.x.j.draw Config.roleIn).conv ((t * k.e.kTop + i) * w + d)
      let row := rowOfVals k.e.inFmt k.x.conv u ((List.range w).map fun d => src.value rd [d, t])
      some ⟨tag, to_.1, to_.2, row.1, row.2⟩

/-- What a group's send reads. -/
def ExCmd.sendBody (k : ExCmd) (g : Nat) (rd : Nat → Byte) : Effect :=
  let src := (k.x.v 0x10).forRead
  let ts := k.tokens g
  let fed := ts.filter fun t => !(k.tags.tag rd t 0).pad
  { stages := [ts.flatMap (fun t => (List.range k.e.kTop).flatMap fun i => k.tags.tagLocs t i),
      fed.flatMap fun t => (List.range k.e.rowInW).flatMap fun d => src.locs [d, t]]
    put := { counts := (k.sentPairs g rd).foldl (fun c p => c.add p.counts) {} } }

/-- Sets LAST in the tag of the last pair of a parcel (R269). -/
def markLast : List Tag → List Tag
  | [] => []
  | [t] => [{ t with last := true }]
  | t :: ts => t :: markLast ts

/-- The entries of a COUNTS message to an owner rank (R265). -/
def ExchangeDecl.countEntries (e : ExchangeDecl) (rank : Nat) (ps : List SentPair) : List (Nat × Nat) :=
  (e.slotsOf rank).zipIdx.map fun (x, k) =>
    (ps.countP fun p => p.tag.expert == x.1, ps.countP fun p => p.rank == rank && p.slot == k)

/-- A parcel message: with rows, or under DROP its tags alone (R269, R276). -/
def Plan.parcelMsg (p : Plan) (e : ExchangeDecl) (g step slot : Nat) (last : Bool) (ps : List LedgerSlot) (held : Bool) : ExMsg :=
  { p.exMsg e.id g step slot with
    lastGroup := last, held := held, tags := markLast (ps.map (·.tag)), rows := ps.map fun l => l.rowIn.getD [] }

/-- The kept ledger slots of a parcel this rank sends, in parcel order. -/
def ExStep.parcelSlots (s : ExStep) (group rank slot : Nat) : List LedgerSlot :=
  s.ledger.filter fun l => l.group == group && l.rank == rank && l.slot == slot && !l.tag.dropped

/-- Sends a group whose rows have been read: rows into ledger slots, count vectors, parcels (R269). -/
def Mod.sendGroup (m : Mod) (k : ExCmd) (g : Nat) (ps : List SentPair) : Mod :=
  let p := k.x.j.plan
  let step := k.s.step
  let last := g + 1 == k.groups
  let m := m.mapLedger p.job k.e.id step fun l =>
    match ps.find? fun q => q.tag.token == l.tag.token && q.tag.kslot == l.tag.kslot with
    | some q => { l with tag := q.tag, rank := q.rank, slot := q.slot, rowIn := some q.row }
    | none => l
  let m := k.e.ownerRanks.foldl (fun m o =>
    m.emit (.exchange o .counts
      { p.exMsg k.e.id g step 0xFFFF with lastGroup := last, entries := k.e.countEntries o ps })) m
  let now := (((m.job? p.job).bind fun j => j.ex? k.e.id step).getD k.s)
  let parcels := k.e.ownerRanks.flatMap fun o =>
    ((List.range (k.e.slotsOf o).length).filter fun n => ps.any fun q => q.rank == o && q.slot == n).map fun n => (o, n)
  let m := parcels.foldl (fun m (o, n) =>
    let msg := p.parcelMsg k.e g step n last (now.parcelSlots g o n) false
    if k.e.drop then m.emit (.exchange o .tags { msg with rows := [] }) else m.emit (.exchange o .parcel msg)) m
  m.updEx p.job k.e.id step fun s =>
    { s with
      nextGroup := g + 1
      sentAll := last
      parcelsOut := s.parcelsOut ++ parcels.map fun (o, n) =>
        ({ group := g, rank := o, slot := n, phase := if k.e.drop then .tagsSent else .sent } : ParcelOut) }

/-- Whether every parcel that a rank received has been run and its RESULT acknowledged, and every sender has finished
(R272). -/
def ExStep.allRun (s : ExStep) (p : Plan) (e : ExchangeDecl) : Bool :=
  let senders := p.senders e
  s.allFinished senders &&
    (List.range (e.slotsOf p.rank).length).all fun n =>
      (s.parcelsOf e senders n).all fun (r, g, _) =>
        ((s.parcel? r g n false).map fun x => x.phase == .run).getD false

/-- Whether a receiver under DROP has judged every parcel (R276). -/
def ExStep.allKept (s : ExStep) (p : Plan) (e : ExchangeDecl) : Bool :=
  !e.drop || (List.range (e.slotsOf p.rank).length).all fun n =>
    ((p.senders e).all fun r => (s.groupsOf r).all fun g =>
      ((s.entry r g n).map (·.2)).getD 0 == 0 ||
        s.tagsIn.any fun t => t.source == r && t.group == g && t.slot == n && t.keep.isSome)

/-- Ends DISPATCH when the conditions of R272 hold. -/
def Mod.endDispatch (m : Mod) (id : CmdId) (k : ExCmd) : Mod :=
  let s := k.s
  let p := k.x.j.plan
  if !(s.parcelsOut.all fun o => o.phase == .accepted) || !s.allKept p k.e || !s.allRun p k.e then m
  else if k.r.cmd.namesSignal && !m.acked id k.r.cmd.job then m
  else
    let held := ((s.parcelsOut.filter (·.wasHeld)).map fun o => (s.parcelSlots o.group o.rank o.slot).length).sum
    let dropped := (s.slots.map (·.dropped)).sum
    let m := m.updSum id.lane fun q => { q with held := held != 0, dropped := dropped != 0 }
    if held ≠ 0 then m.complete id .okHeld held
    else if dropped ≠ 0 then m.complete id .okDropped dropped
    else m.complete id .ok 0

/-- Whether a group's ledger slots are there and its LEVEL tie allows it (R268). -/
def ExCmd.open_ (k : ExCmd) (m : Mod) (g : Nat) : Bool :=
  k.s.tokens != 0 &&
    (k.r.cmd.pkt.u 4 4 == noTie || match m.tie? (k.r.cmd.pkt.u 4 4) with
      | some t => g < t.value
      | none => false)

/-! ### COMBINE and DISPATCH_GRAD (R279, R284) -/

/-- Sums a group's returned rows: COMBINE weighs them by their gates, DISPATCH_GRAD does not. -/
def ExCmd.sumBody (k : ExCmd) (g : Nat) (rd : Nat → Byte) : Effect :=
  let grad := k.r.cmd.op == .dispatchGrad
  let y := k.x.v (if grad then 0x20 else 0x30)
  let gates := (k.x.v 0x20).forRead
  let fmt := if grad then k.e.inFmt else k.e.outFmt
  let w := if grad then k.e.rowInW else k.e.rowOutW
  let ts := k.tokens g
  let ks := List.range k.e.kTop
  let pad (t : Nat) : Bool := (k.tags.tag rd t 0).pad
  let row (t i : Nat) : List Val :=
    match k.s.pair? t i with
    | none => List.replicate w .zero
    | some l => if l.tag.dropped then List.replicate w .zero
        else rowValues fmt ((if grad then l.dRow else l.rowOut).getD [])
  let fed := ts.filter fun t => !pad t
  let rows := fed.map fun t => (t, ks.map (row t))
  let idx := boxIdx (clampDim y.d.ownBox 1 (256 * g) (256 * g + ts.length))
  let add := k.r.cmd.pkt.addTo
  let one (d t : Nat) : Val :=
    let start := if add then (widen (y.value rd [d, t])).1 else negZero32
    let rs := ((rows.find? fun r => r.1 == t).map (·.2)).getD []
    f32 (rs.zipIdx.foldl (fun acc (r, i) =>
      let v := rnd32 (r.getD d .zero)
      add32 acc (if grad then v else mul32 (rnd32 (gates.value rd [i, t])) v)) start)
  let vals := idx.filterMap fun i =>
    let t := i.getD 1 0
    if !pad t then some (i, one (i.headD 0) t)
    else if k.r.cmd.pkt.maskOut then some (i, Val.zero) else none
  let fedIdx := idx.filter fun i => !pad (i.getD 1 0)
  { stages := [ts.flatMap fun t => ks.flatMap fun i => k.tags.tagLocs t i,
      (if grad then [] else fed.flatMap fun t => ks.flatMap fun i => gates.locs [i, t]) ++
        if add then fedIdx.flatMap y.locs else []]
    put := y.put rd k.x.conv (k.x.j.srWord y.d) vals }

/-- Whether every pair of a group has come back, or was dropped. -/
def ExCmd.ready (k : ExCmd) (g : Nat) : Bool :=
  k.s.tokens != 0 && (k.s.ledger.filter fun l => l.group == g).all fun l =>
    l.tag.dropped || (if k.r.cmd.op == .dispatchGrad then l.dRow else l.rowOut).isSome

/-- Groups that a summing command has written. -/
def ExCmd.done (k : ExCmd) : Nat := if k.r.cmd.op == .dispatchGrad then k.s.summed else k.s.combined

/-- Whether a command may raise a signal: everything it wrote is acknowledged (R50). -/
def ExCmd.mayGoOn (k : ExCmd) (m : Mod) (id : CmdId) : Bool := !k.r.cmd.namesSignal || m.acked id k.r.cmd.job

/-- Raises SIG0 for the groups written and not signalled yet; under NF_FAIL none from the first on that wrote a
non-finite value (R263, R525). -/
def Mod.signalGroups (m : Mod) (id : CmdId) (k : ExCmd) : Mod :=
  if !k.r.cmd.pkt.groupSignal || (k.r.cmd.pkt.nfFail && k.r.sum.nonfinite != 0) then m
  else
    let n := k.done - k.sig
    let m := m.setWork id.lane (.exchange k.e.id k.s.step k.got (k.sig + n))
    (List.range n).foldl (fun m _ => m.signalTie k.r.cmd.pkt.sig0.toNat 1) m

/-- Ends a summing command; DISPATCH_GRAD frees the step's ledger (R284). -/
def Mod.endSum (m : Mod) (id : CmdId) (k : ExCmd) : Mod :=
  let (st, d) := k.r.ending
  let m :=
    if k.r.cmd.op == .dispatchGrad then
      (m.freeLedger k.x.j.plan k.e k.s).updEx k.x.j.plan.job k.e.id k.s.step fun s =>
        { s with ledger := [], ledgerWithies := [] }
    else m
  let m := if k.r.cmd.pkt.groupSignal then m.setWork id.lane (.segments k.groups k.groups false) else m
  m.complete id st d

/-! ### COMBINE_GRAD (R280, R281) -/

/-- What COMBINE_GRAD finds for a pair: dG, and the gradient row with its counts; none for a dropped pair. -/
structure GradPair where
  t : Nat
  i : Nat
  dg : BitVec 32
  row : Option (Bytes × Counts)
  deriving DecidableEq, Repr

/-- The pairs of a fed token's gradients. -/
def ExCmd.gradPairs (k : ExCmd) (t : Nat) (rd : Nat → Byte) : List GradPair :=
  let gates := (k.x.v 0x20).forRead
  let dy := (k.x.v 0x30).forRead
  let w := k.e.rowOutW
  let dys := (List.range w).map fun d => (widen (dy.value rd [d, t])).1
  (List.range k.e.kTop).map fun i =>
    match k.s.pair? t i with
    | none => ⟨t, i, 0#32, none⟩
    | some l =>
      if l.tag.dropped then ⟨t, i, 0#32, none⟩
      else
        let r := (rowValues k.e.outFmt (l.rowOut.getD [])).map rnd32
        let gate := rnd32 (gates.value rd [i, t])
        let u (d : Nat) : Nat := (k.x.j.draw Config.roleOut).conv ((t * k.e.kTop + i) * w + d)
        ⟨t, i, sum151 (dys.zipIdx.map fun (v, d) => mul32 v (r.getD d 0)),
          some (rowOfVals k.e.outFmt k.x.conv u (dys.map fun v => f32 (mul32 gate v)))⟩

/-- dS of a fed token (R281). -/
def ExCmd.scoreGrad (k : ExCmd) (t : Nat) (rd : Nat → Byte) (gs : List GradPair) : List (BitVec 32) :=
  let gates := (k.x.v 0x20).forRead
  let ps := ((k.s.probs.find? fun p => p.1 == t).map (·.2)).getD []
  let picked := (List.range k.e.kTop).map fun i => ((k.s.pair? t i).map fun l => l.tag.expert).getD 0
  let P := gateSum (picked.map fun x => ps.getD x 0)
  let dot := gs.foldl (fun acc (q : GradPair) => add32 acc (mul32 (rnd32 (gates.value rd [q.i, t])) q.dg)) negZero32
  let dpAt (q : GradPair) : BitVec 32 := if k.e.renorm then div32 (sub32 q.dg dot) P else q.dg
  let dp (x : Nat) : BitVec 32 :=
    match gs.find? fun q => picked.getD q.i 0 == x with
    | some q => dpAt q
    | none => 0#32
  let ix := List.range k.e.experts
  let all := ix.foldl (fun acc x => add32 acc (mul32 (ps.getD x 0) (dp x))) negZero32
  ix.map fun x =>
    let p := ps.getD x 0
    if k.e.sigmoid then mul32 (mul32 (dp x) p) (sub32 one32 p) else mul32 p (sub32 (dp x) all)

/-- COMBINE_GRAD's reads and writes for a group. -/
def ExCmd.gradBody (k : ExCmd) (g : Nat) (rd : Nat → Byte) : Effect :=
  let gates := (k.x.v 0x20).forRead
  let dy := (k.x.v 0x30).forRead
  let dG := k.x.v 0x40
  let ts := k.tokens g
  let ks := List.range k.e.kTop
  let fed := ts.filter fun t => !(k.tags.tag rd t 0).pad
  let pairs := fed.map fun t => (t, k.gradPairs t rd)
  let dgVals := pairs.flatMap fun q => q.2.map fun y => ([y.i, y.t], f32 y.dg)
  let sPut : Put := match k.x.v? 0x50 with
    | none => {}
    | some v => v.put rd {} (fun _ => 0) (v.owned (ts.flatMap fun t =>
        let col := match pairs.find? fun q => q.1 == t with
          | some q => (k.scoreGrad t rd q.2).map f32
          | none => List.replicate k.e.experts .zero
        col.zipIdx.map fun (x, n) => ([n, t], x)))
  let rowCounts : Counts := pairs.foldl (fun c q => q.2.foldl (fun c y => c.add ((y.row.map (·.2)).getD {})) c) {}
  let wide (v : View) (n : Nat) : Nat :=
    (fed.map fun t => (List.range n).countP fun d => (widen (v.value rd [d, t])).2).sum
  let beyond : Counts := { nonfinite := wide dy k.e.rowOutW + wide gates k.e.kTop }
  { stages := [ts.flatMap fun t => ks.flatMap fun i => k.tags.tagLocs t i,
      fed.flatMap fun t => ks.flatMap (fun i => gates.locs [i, t]) ++ (List.range k.e.rowOutW).flatMap fun d => dy.locs [d, t]]
    put := ((dG.put rd {} (fun _ => 0) (dG.owned dgVals)).add sPut).add { counts := rowCounts.add beyond } }

/-- Sends a group's gradients: one GRAD for each parcel that DISPATCH accepted (R280). -/
def Mod.sendGrads (m : Mod) (k : ExCmd) (g : Nat) (pairs : List GradPair) : Mod :=
  let p := k.x.j.plan
  let step := k.s.step
  let m := m.mapLedger p.job k.e.id step fun l =>
    match pairs.find? fun q => q.t == l.tag.token && q.i == l.tag.kslot with
    | some q => { l with gRow := q.row.map (·.1) }
    | none => l
  let now := (((m.job? p.job).bind fun j => j.ex? k.e.id step).getD k.s)
  let mine (o : ParcelOut) : Bool := o.group == g && o.phase == .accepted && !(now.parcelSlots g o.rank o.slot).isEmpty
  let m := (now.parcelsOut.filter mine).foldl (fun m o =>
    let ls := now.parcelSlots g o.rank o.slot
    let msg := { p.parcelMsg k.e g step o.slot (g + 1 == k.groups) ls false with
      rows := ls.map (fun l => l.gRow.getD []), rows2 := ls.map fun l => l.rowIn.getD [] }
    m.emit (.exchange o.rank .grad msg)) m
  m.updEx p.job k.e.id step fun s =>
    { s with
      gradGroups := g + 1
      parcelsOut := s.parcelsOut.map fun o => if mine o then { o with grad := some .sent } else o }

/-- Whether every GRAD that this rank sent has been accepted. -/
def ExStep.gradsAccepted (s : ExStep) : Bool := s.parcelsOut.all fun o => o.grad == none || o.grad == some .accepted

/-! ### Going on -/

/-- A group of an exchange command failed: the command ends and its peers hear of it (R285). -/
def Mod.failGroup (m : Mod) (id : CmdId) (k : ExCmd) (st : Status) (d : Nat) : Mod :=
  m.endEx k.x.j.plan.job k.e.id k.s.step [id] st d

/-- Goes on with an exchange command as far as it can. -/
def Mod.moveFuel : Nat → Mod → CmdId → Mod
  | 0, m, _ => m
  | fuel + 1, m, id =>
    match m.exCmd? id with
    | none => m
    | some k =>
      match k.s.spoiled with
      | some r => m.failGroup id k .spoiled r
      | none =>
        match k.r.cmd.op with
        | .dispatch =>
          let g := k.s.nextGroup
          if g < k.groups then
            if !k.open_ m g then m
            else
              let ps := k.sentPairs g (m.reader k.x.j k.got)
              match m.runGroup id k (k.sendBody g) with
              | .waits m => m
              | .failed m st d _ => m.failGroup id k st d
              | .wrote m => moveFuel fuel (m.sendGroup k g ps) id
          else m.endDispatch id k
        | .combineGrad =>
          let g := k.s.gradGroups
          if g < k.groups then
            if k.s.combined ≤ g then m
            else
              let rd := m.reader k.x.j k.got
              let fed := (k.tokens g).filter fun t => !(k.tags.tag rd t 0).pad
              let pairs := fed.flatMap fun t => k.gradPairs t rd
              match m.runGroup id k (k.gradBody g) with
              | .waits m => m
              | .failed m st d _ => m.failGroup id k st d
              | .wrote m => moveFuel fuel (m.sendGrads k g pairs) id
          else if k.s.gradsAccepted && k.mayGoOn m id then
            let (st, d) := k.r.ending
            m.complete id st d
          else m
        | _ =>
          if !k.mayGoOn m id then m
          else
            let m := m.signalGroups id k
            if k.done < k.groups then
              if !k.ready k.done then m
              else
                match m.exCmd? id with
                | none => m
                | some k =>
                  match m.runGroup id k (k.sumBody k.done) with
                  | .waits m => m
                  | .failed m st d _ => m.failGroup id k st d
                  | .wrote m =>
                    let m := m.updEx k.x.j.plan.job k.e.id k.s.step fun s =>
                      if k.r.cmd.op == .dispatchGrad then { s with summed := s.summed + 1 }
                      else { s with combined := s.combined + 1 }
                    moveFuel fuel m id
            else m.endSum id k

/-- Goes on with one exchange command: one round for each group, and the end. -/
def Mod.moveEx (m : Mod) (id : CmdId) : Mod :=
  match m.exCmd? id with
  | none => m
  | some k => m.moveFuel (k.groups + 1) id

/-- Goes on with the commands of a step; COMBINE may let COMBINE_GRAD go on. -/
def Mod.moveStep (m : Mod) (job exch step : Nat) : Mod :=
  let ids := m.exCmds job exch step
  (ids ++ ids).foldl Mod.moveEx m

/-- Goes on with every exchange command. -/
def Mod.moveAllEx (m : Mod) : Mod :=
  let ids := (m.runnings.filter fun (_, r) => match r.work with
    | .exchange .. => true
    | _ => false).map fun (l, r) => r.cmd.id l
  ids.foldl Mod.moveEx m

/-- DISPATCH, COMBINE, DISPATCH_GRAD and COMBINE_GRAD at the head of their lane. -/
def Mod.startTokens (m : Mod) (id : CmdId) (c : Cmd) (j : Job) : Mod :=
  match m.claimData id c j (expertLimit c.op j c.pkt) fun x => expertTest x (m.reader j []), exchOf j c.pkt with
  | .error m, _ => m
  | .ok (m, _), none => m
  | .ok (m, _), some e =>
    let step := j.step.toNat
    let m := m.ensureEx j e step
    (m.setWork id.lane (.exchange e.id step [] 0)).moveStep c.job e.id step

/-- The rank that a command still waits for at its timeout (R285): a parcel or gradient not accepted, a row not
returned, a sender that has not finished or whose parcels have not come. -/
def ExCmd.awaited (k : ExCmd) : Nat :=
  let p := k.x.j.plan
  let late (l : LedgerSlot) : Bool := !l.tag.dropped &&
    (if k.r.cmd.op == .dispatchGrad then l.dRow else l.rowOut).isNone
  let out := (k.s.parcelsOut.find? fun o => o.phase != .accepted).map (·.rank)
  let grad := (k.s.parcelsOut.find? fun o => o.grad.isSome && o.grad != some .accepted).map (·.rank)
  let sender := (p.senders k.e).find? fun r => !k.s.finished r
  let parcel := (List.range (k.e.slotsOf p.rank).length).findSome? fun n =>
    ((k.s.parcelsOf k.e (p.senders k.e) n).find? fun (r, g, _) =>
      ((k.s.parcel? r g n false).map fun x => x.phase == .resulted).getD true).map (·.1)
  match k.r.cmd.op with
  | .dispatch => (((out.or sender).or parcel).getD p.rank)
  | .combineGrad => grad.getD p.rank
  | _ => ((k.s.ledger.find? late).map (·.rank)).getD p.rank

/-- The timeout of an exchange command (R285). -/
def Mod.exTimeout (m : Mod) (id : CmdId) : Mod :=
  match m.exCmd? id with
  | none => m
  | some k => m.endEx k.x.j.plan.job k.e.id k.s.step [id] .timeout (k.awaited % 65536)

/-! ### EXPERT_COUNTS (R288) -/

/-- The record of Table 9.8 for a slot. -/
def ExStep.record (s : ExStep) (p : Plan) (e : ExchangeDecl) (slot : Nat) (x : Nat × Nat) (step : Nat) : Nat :=
  let senders := p.senders e
  let q := (s.slots.find? fun q => q.slot == slot).getD { slot := slot }
  let tokens := s.tokensIn senders slot
  let flags := (if s.allFinished senders && tokens == 0 then 1 else 0) + (if q.heldPairs = 0 ∧ q.dropped = 0 then 2 else 0)
  x.1 * 2 ^ 240 + x.2 * 2 ^ 232 + flags * 2 ^ 224 + step % 2 ^ 32 * 2 ^ 192 + tokens * 2 ^ 160 + q.out * 2 ^ 128 +
    q.heldPairs * 2 ^ 96 + q.dropped * 2 ^ 64 + q.roundsFwd % 65536 * 2 ^ 48 + q.roundsBwd % 65536 * 2 ^ 32 +
    (s.expertTotals senders slot).2

/-- EXPERT_COUNTS writes the records as words, the first word of a record at the lowest linear index. -/
def countsBody (x : Data) (e : ExchangeDecl) (s : ExStep) (step : Nat) (rd : Nat → Byte) : Effect :=
  let d := x.v 0x10
  let slots := e.slotsOf x.j.plan.rank
  let words := slots.zipIdx.flatMap fun (sl, n) =>
    (List.range 8).map fun k => s.record x.j.plan e n sl step / 2 ^ (32 * k) % 2 ^ 32
  { put := d.put rd {} (fun _ => 0) ((boxIdx d.d.ownBox).filterMap fun i =>
      (words[d.d.linear i]?).map fun w => (i, Val.ofInt (signedOf 32 w))) }

/-- EXPERT_COUNTS goes on or ends. -/
def Mod.runCounts (m : Mod) (id : CmdId) (x : Data) (got : List (Nat × Byte)) : Mod :=
  match m.cmd? id, exchOf x.j x.c.pkt with
  | some r, some e =>
    let step := x.c.pkt.u 8 8
    let s := (x.j.ex? e.id step).getD { job := x.c.job, exch := e.id, step := step }
    match m.runEffect id r x.j got (countsBody x e s step) with
    | .waits m => m
    | .failed m st d p => m.complete id st d p
    | .wrote m => m.endBody id got []
  | _, _ => m

/-- EXPERT_COUNTS at the head of its lane: BOUNDS for a step that is neither the current nor the previous one, and for a
destination with too few elements. -/
def Mod.startCounts (m : Mod) (id : CmdId) (c : Cmd) (j : Job) : Mod :=
  let step := c.pkt.u 8 8
  let n := j.step.toNat
  if step ≠ n ∧ step + 1 ≠ n then
    let (d, m) := m.freeNat
    m.complete id .bounds (d % 2 ^ 64)
  else
    let need (x : Data) : Option Nat :=
      let d := (x.v 0x10).d
      let words := 8 * (((exchOf j c.pkt).map fun e => (e.slotsOf j.plan.rank).length).getD 0)
      if d.volume < words then some (boundsDetail 0 d.volume) else expertTest x (m.reader j [])
    match m.claimData id c j none need with
    | .error m => m
    | .ok (m, x) => m.runCounts id x []

/-- Bytes or acknowledgements of EXPERT_COUNTS have arrived. -/
def Mod.resumeCounts (m : Mod) (id : CmdId) : Mod :=
  match m.dataAt? id with
  | none => m
  | some (r, x) =>
    match r.work with
    | .remote got false => m.runCounts id x got
    | .remote got true => m.endBody id got []
    | _ => m

end Sys2Proof.Machine
end

