-- ==== Sys2Proof/Machine/Experts.lean ====
section
/-!
DEFINITION. Exchange messages and the rounds of an expert slot (R264–R278, R282–R287).
-/

namespace Sys2Proof.Machine

/-- Changes a slot's progress, which begins with the first event of the slot. -/
def Mod.updSlot (m : Mod) (job exch step slot : Nat) (f : SlotProg → SlotProg) : Mod :=
  m.updEx job exch step fun s =>
    if s.slots.any fun q => q.slot == slot then
      { s with slots := s.slots.map fun q => if q.slot == slot then f q else q }
    else { s with slots := s.slots.concat (f { slot := slot }) }

/-- An exchange message as a change of the module: it is discarded, or meets its step. -/
def Mod.exchangeMsg (m : Mod) (x : ExMsg) (f : Mod → Job → ExchangeDecl → Nat → Mod) : Mod :=
  match m.exTarget x with
  | .error m => m
  | .ok (m, j, e, step) => f m j e step

/-- Changes the received parcel that a predicate picks. -/
def Mod.mapParcel (m : Mod) (job exch step : Nat) (p : ParcelIn → Bool) (f : ParcelIn → ParcelIn) : Mod :=
  m.updEx job exch step fun s => { s with parcelsIn := s.parcelsIn.map fun y => if p y then f y else y }

/-! ### Selection under DROP (R276) -/

/-- The slots of this rank whose pairs can be selected: the total is exact, and every parcel's tags are here. -/
def ExStep.selectable (s : ExStep) (p : Plan) (e : ExchangeDecl) : List Nat :=
  let senders := p.senders e
  if !e.drop || !s.allFinished senders then []
  else (List.range (e.slotsOf p.rank).length).filter fun n =>
    (senders.all fun r => (s.groupsOf r).all fun g =>
      ((s.entry r g n).map (·.2)).getD 0 == 0 || s.tagsIn.any fun t => t.source == r && t.group == g && t.slot == n) &&
    s.tagsIn.any fun t => t.slot == n && t.keep.isNone

/-- The positions kept: the first C in decreasing gate weight, equal weights in canonical order, NaN last. -/
def keptPositions (c : Nat) (tags : List Tag) : List Nat :=
  ((sortBy (fun (a b : Tag × Nat) => pickBefore a.1.gate b.1.gate) tags.zipIdx).take c).map (·.2)

/-- Selects a slot's pairs and answers each sender with KEEP. -/
def Mod.selectSlot (m : Mod) (j : Job) (e : ExchangeDecl) (step slot : Nat) : Mod :=
  let job := j.plan.job
  match (m.job? job).bind fun j => j.ex? e.id step with
  | none => m
  | some s =>
    let ps := sortBy pullLe (s.tagsIn.filter fun t => t.slot == slot)
    let kept := keptPositions e.capacity (ps.flatMap (·.tags))
    let (m, _, dropped) := ps.foldl (fun (acc : Mod × Nat × Nat) t =>
      let (m, base, dropped) := acc
      let bits := (List.range t.tags.length).map fun i => kept.contains (base + i)
      let m := m.updEx job e.id step fun s =>
        { s with tagsIn := s.tagsIn.map fun y => if y.is t.source t.group t.slot t.grad then { y with keep := some bits } else y }
      let m := m.emit (.exchange t.source .keep { j.plan.exMsg e.id t.group step slot with keep := bits })
      (m, base + t.tags.length, dropped + bits.countP (!·))) (m, 0, 0)
    (m.updSlot job e.id step slot fun q => { q with dropped := q.dropped + dropped }).countJob job .EXCHANGE_DROPPED_PAIRS dropped

/-- What follows every change on the receiving side: selections, pulls, and commands that may go on. -/
def Mod.recvMoved (m : Mod) (j : Job) (e : ExchangeDecl) (step : Nat) : Mod :=
  let job := j.plan.job
  let slots := (((m.job? job).bind fun j => j.ex? e.id step).map fun s => s.selectable j.plan e).getD []
  let m := slots.foldl (fun m n => m.selectSlot j e step n) m
  (m.pulls job e.id step).moveStep job e.id step

/-! ### Messages to the receiver -/

/-- COUNTS (R265, R266). -/
def Mod.onCounts (m : Mod) (x : ExMsg) : Mod :=
  m.exchangeMsg x fun m j e step =>
    let m := m.updEx j.plan.job e.id step fun s =>
      if s.counts.any fun c => c.source == x.source && c.group == x.group then s
      else { s with counts := s.counts.concat { source := x.source, group := x.group, last := x.lastGroup, entries := x.entries } }
    m.recvMoved j e step

/-- Answers a parcel. -/
def Mod.answer (m : Mod) (j : Job) (e : ExchangeDecl) (step : Nat) (x : ParcelIn) (kind : ExKind) : Mod :=
  m.emit (.exchange x.source kind (j.plan.exMsg e.id x.group step x.slot))

/-- PARCEL or GRAD at the receiver (R270, R273, R274, R286). -/
def Mod.onRows (m : Mod) (x : ExMsg) (grad : Bool) : Mod :=
  m.exchangeMsg x fun m j e step =>
    let job := j.plan.job
    match j.ex? e.id step with
    | none => m
    | some s =>
      if s.spoiled.isSome then m
      else if (s.entry x.source x.group x.slot).isNone then
        m.emit (.exchange x.source .spoil (j.plan.exMsg e.id x.group step x.slot))
      else
        let n := x.tags.length
        let new : ParcelIn :=
          { source := x.source, group := x.group, slot := x.slot, grad := grad, count := n, tags := x.tags, rows := x.rows
            rows2 := x.rows2, phase := .inWithies, wasHeld := false, withies := [], acked := true }
        match s.parcel? x.source x.group x.slot grad with
        | some p =>
          if p.phase == .pulled then
            let m := m.mapParcel job e.id step (fun y => y.is x.source x.group x.slot grad) fun y =>
              { new with withies := y.withies, wasHeld := true }
            (m.answer j e step new .accept).recvMoved j e step
          else m
        | none =>
          let isHead := s.head j.plan e == some (grad, x.source, x.group, x.slot)
          match m.requestRecv j.plan e s (e.withiesFor n) isHead with
          | (m, some ws) =>
            let m := m.updEx job e.id step fun s => { s with parcelsIn := s.parcelsIn.concat { new with withies := ws } }
            (m.answer j e step new .accept).recvMoved j e step
          | (m, none) =>
            let runs := j.phase != .loaded
            let held := { new with tags := [], rows := [], rows2 := [], phase := .held, wasHeld := true, acked := runs }
            let m := m.updEx job e.id step fun s => { s with parcelsIn := s.parcelsIn.concat held }
            let m := (m.updSlot job e.id step x.slot fun q => { q with heldPairs := q.heldPairs + n }).countJob job .EXCHANGE_HELD_PAIRS n
            let m := if runs then m.answer j e step held .hold else m
            m.recvMoved j e step

/-- TAGS under DROP (R276). -/
def Mod.onTags (m : Mod) (x : ExMsg) : Mod :=
  m.exchangeMsg x fun m j e step =>
    let t : ParcelIn :=
      { source := x.source, group := x.group, slot := x.slot, grad := false, count := x.tags.length, tags := x.tags
        rows := [], rows2 := [], phase := .held, wasHeld := false, withies := [] }
    let m := m.updEx j.plan.job e.id step fun s =>
      if s.spoiled.isSome || s.tagsIn.any fun y => y.is x.source x.group x.slot false then s
      else { s with tagsIn := s.tagsIn.concat t }
    m.recvMoved j e step

/-- Sends the HOLD answers that waited for PLAN_START, and pulls (R286). -/
def Mod.answerHolds (m : Mod) (job : Nat) : Mod :=
  match m.job? job with
  | none => m
  | some j =>
    j.exSteps.reverse.foldl (fun m s =>
      match j.plan.exchange? s.exch with
      | none => m
      | some e =>
        let m := (s.parcelsIn.filter fun x => !x.acked).foldl (fun m x => m.answer j e s.step x .hold) m
        let m := m.mapParcel job s.exch s.step (fun _ => true) fun x => { x with acked := true }
        m.recvMoved j e s.step) m

/-! ### Messages to the token owner -/

/-- Changes a sent parcel. -/
def Mod.mapOut (m : Mod) (job exch step : Nat) (x : ExMsg) (f : ParcelOut → ParcelOut) : Mod :=
  m.updEx job exch step fun s =>
    { s with parcelsOut := s.parcelsOut.map fun o =>
        if o.group == x.group && o.rank == x.source && o.slot == x.slot then f o else o }

/-- The sent parcel that an answer names. -/
def ExStep.out? (s : ExStep) (x : ExMsg) : Option ParcelOut :=
  s.parcelsOut.find? fun o => o.group == x.group && o.rank == x.source && o.slot == x.slot

/-- Whether a pair's ledger slot belongs to the parcel that an answer names. -/
def LedgerSlot.of (l : LedgerSlot) (x : ExMsg) : Bool := l.group == x.group && l.rank == x.source && l.slot == x.slot

/-- ACCEPT (R269): of the gradient once one is on its way. -/
def Mod.onAccept (m : Mod) (x : ExMsg) : Mod :=
  m.exchangeMsg x fun m j e step =>
    (m.mapOut j.plan.job e.id step x fun o =>
      if o.grad.isSome then { o with grad := some .accepted } else { o with phase := .accepted }).moveStep j.plan.job e.id step

/-- HOLD (R273): the pairs' tags are marked. -/
def Mod.onHold (m : Mod) (x : ExMsg) : Mod :=
  m.exchangeMsg x fun m j e step =>
    let m := m.mapOut j.plan.job e.id step x fun o =>
      if o.grad.isSome then { o with grad := some .held } else { o with phase := .held, wasHeld := true }
    m.mapLedger j.plan.job e.id step fun l =>
      if l.of x && !l.tag.dropped then { l with tag := { l.tag with held := true } } else l

/-- PULL (R273): the parcel again, with HELD set; SPOIL when the step is spoiled (R287). -/
def Mod.onPull (m : Mod) (x : ExMsg) : Mod :=
  m.exchangeMsg x fun m j e step =>
    match j.ex? e.id step with
    | none => m
    | some s =>
      if s.spoiled.isSome then m.emit (.exchange x.source .spoil (j.plan.exMsg e.id x.group step x.slot))
      else
        match s.out? x with
        | none => m
        | some o =>
          let ls := s.parcelSlots x.group x.source x.slot
          let last := s.sentAll && x.group + 1 == s.nextGroup
          let msg := j.plan.parcelMsg e x.group step x.slot last ls true
          if o.grad.isSome then
            (m.mapOut j.plan.job e.id step x fun o => { o with grad := some .sent }).emit
              (.exchange x.source .grad { msg with rows := ls.map (fun l => l.gRow.getD []), rows2 := ls.map fun l => l.rowIn.getD [] })
          else
            (m.mapOut j.plan.job e.id step x fun o => { o with phase := .sent }).emit (.exchange x.source .parcel msg)

/-- The row that a message brings for a ledger slot. -/
def exRow (x : ExMsg) (l : LedgerSlot) : Option Bytes :=
  ((x.tags.zip x.rows).find? fun p => p.1.token == l.tag.token && p.1.kslot == l.tag.kslot).map (·.2)

/-- RESULT (R271): the rows go into the ROW_OUT parts. -/
def Mod.onResult (m : Mod) (x : ExMsg) : Mod :=
  m.exchangeMsg x fun m j e step =>
    (m.mapLedger j.plan.job e.id step fun l =>
      if l.of x then { l with rowOut := (exRow x l).or l.rowOut } else l).moveStep j.plan.job e.id step

/-- DGRAD (R282). -/
def Mod.onDgrad (m : Mod) (x : ExMsg) : Mod :=
  m.exchangeMsg x fun m j e step =>
    (m.mapLedger j.plan.job e.id step fun l =>
      if l.of x then { l with dRow := (exRow x l).or l.dRow } else l).moveStep j.plan.job e.id step

/-- KEEP (R276): unkept pairs are marked DROPPED, and the kept ones go as a PARCEL. -/
def Mod.onKeep (m : Mod) (x : ExMsg) : Mod :=
  m.exchangeMsg x fun m j e step =>
    let job := j.plan.job
    match j.ex? e.id step with
    | none => m
    | some s =>
      match s.out? x with
      | none => m
      | some o =>
        if o.phase != .tagsSent || s.spoiled.isSome then m
        else
          let ls := s.parcelSlots x.group x.source x.slot
          let gone := ((ls.zip x.keep).filter fun p => !p.2).map fun p => (p.1.tag.token, p.1.tag.kslot)
          let kept := ls.filter fun l => !gone.contains (l.tag.token, l.tag.kslot)
          let m := m.mapLedger job e.id step fun l =>
            if l.of x && gone.contains (l.tag.token, l.tag.kslot) then { l with tag := { l.tag with dropped := true } } else l
          if kept.isEmpty then (m.mapOut job e.id step x fun o => { o with phase := .accepted }).moveStep job e.id step
          else
            let last := s.sentAll && x.group + 1 == s.nextGroup
            ((m.mapOut job e.id step x fun o => { o with phase := .sent }).emit
              (.exchange x.source .parcel (j.plan.parcelMsg e x.group step x.slot last kept false))).moveStep job e.id step

/-- SPOIL (R285). -/
def Mod.onSpoil (m : Mod) (x : ExMsg) : Mod :=
  m.exchangeMsg x fun m j e step => m.spoilBy j.plan.job e.id step x.source

/-! ### Forward rounds (R271) -/

/-- Whether a job's rounds run. -/
def Job.runs (j : Job) : Bool := j.phase == .running || j.phase == .quiescing

/-- The steps of an exchange that are not spoiled, oldest first. -/
def Job.openSteps (j : Job) (exch : Nat) : List ExStep :=
  sortBy (fun a b => a.step ≤ b.step) (j.exSteps.filter fun s => s.exch == exch && s.spoiled.isNone)

/-- What a round takes: parcels in canonical order, each with the number of its rows, up to ROUND_ROWS rows. A parcel is
split only when it alone has more rows than that (log 110). -/
def takeRound (limit : Nat) : Nat → List ParcelIn → List (ParcelIn × Nat)
  | _, [] => []
  | used, p :: ps =>
    let n := p.count - p.ran
    if used + n ≤ limit then (p, n) :: takeRound limit (used + n) ps
    else if used = 0 then [(p, limit)] else []

/-- A parcel after a round ran `n` of its rows: their outputs stand in place of the rows (R271). -/
def ParcelIn.after (p : ParcelIn) (n : Nat) (outs : List Bytes) : ParcelIn :=
  let q := { p with rows := p.rows.take p.ran ++ outs ++ p.rows.drop (p.ran + n), ran := p.ran + n }
  if q.ran = q.count then { q with phase := .resulted } else q

/-- The accepted parcels of a slot that wait for a round. -/
def ExStep.waiting (s : ExStep) (slot : Nat) : List ParcelIn :=
  sortBy pullLe (s.parcelsIn.filter fun x => x.slot == slot && !x.grad && x.phase == .inWithies)

/-- Ends every command of a step after a body command failed (R285). -/
def Mod.bodyFailed (m : Mod) (j : Job) (e : ExchangeDecl) (step : Nat) (st : Status) (d : Nat) : Mod :=
  m.endEx j.plan.job e.id step (m.exCmds j.plan.job e.id step) st d

/-- The trace record of a round (R513): the expert slot in the upper word of ARG1 and the rows in the lower one. -/
def Mod.traceRound (m : Mod) (j : Job) (e : ExchangeDecl) (slot rows : Nat) : Mod :=
  m.trace_ { time := 0, kind := 4, job := j.plan.job, inc := j.plan.inc, arg0 := e.id, arg1 := slot * 2 ^ 32 + rows }

/-- The withies of a cell go back. -/
def Mod.freeWithies (m : Mod) (j : Job) (e : ExchangeDecl) (ws : List Nat) : Mod :=
  m.poolReleaseAll j.plan.job e.recvPool (j.plan.poolPlace e.recvPool) e.withyClass ws

/-- A forward round of a slot. A parcel's withies stay until its RESULT is acknowledged. -/
def Mod.forwardRound (m : Mod) (job exch slot : Nat) : Mod :=
  match m.job? job with
  | none => m
  | some j =>
    match j.plan.exchange? exch, (j.openSteps exch).find? fun s => !(s.waiting slot).isEmpty with
    | some e, some s =>
      if !j.runs then m
      else
        let ps := takeRound e.roundRows 0 (s.waiting slot)
        let ins := ps.flatMap fun x => (x.1.rows.drop x.1.ran).take x.2
        let n := ins.length
        let b := m.runBody j e slot e.bodyFwd ins [] 0 0 []
        match b.fail with
        | some (st, d, _) => b.m.bodyFailed j e s.step st d
        | none =>
          let outs := b.rowsAt roundOut n e.outBytes
          let (m, _) := ps.foldl (fun (acc : Mod × List Bytes) x =>
            let p := x.1.after x.2 (acc.2.take x.2)
            let m := acc.1.mapParcel job exch s.step (fun y => y.is p.source p.group p.slot p.grad) fun _ => p
            let msg := { j.plan.exMsg e.id p.group s.step slot with tags := p.tags, rows := p.rows, held := p.wasHeld }
            (if p.phase == .resulted then m.emit (.exchange p.source .result msg) else m, acc.2.drop x.2)) (b.m, outs)
          let m := m.updSlot job exch s.step slot fun q => { q with roundsFwd := q.roundsFwd + 1 }
          (m.traceRound j e slot n).recvMoved j e s.step
    | _, _ => m

/-! ### Backward rounds (R278, R282, R283) -/

/-- A pair that waits for a backward round: its tag, gradient row and ROW_IN row, and its parcel. -/
structure SpanPair where
  tag : Tag
  grow : Bytes
  row : Bytes
  source : Nat
  group : Nat
  deriving DecidableEq, Repr

/-- The parcels of a slot in canonical order as far as count vectors tell: through the first sender that has not
finished. -/
def ExStep.knownParcels (s : ExStep) (e : ExchangeDecl) (slot : Nat) : List Nat → List (Nat × Nat × Nat)
  | [] => []
  | r :: rest =>
    let mine := ((s.groupsOf r).map fun g => (r, g, s.pairs e r g slot)).filter fun x => x.2.2 != 0
    if s.finished r then mine ++ s.knownParcels e slot rest else mine

/-- The pairs present without a gap, starting with those of a parcel that no round has taken. -/
def ExStep.present (s : ExStep) (slot : Nat) : List (Nat × Nat × Nat) → List SpanPair
  | [] => []
  | (r, g, n) :: rest =>
    match s.parcel? r g slot true with
    | none => []
    | some p =>
      if p.ran = n then s.present slot rest
      else if p.phase != .inWithies then []
      else
        (((p.tags.zip (p.rows.zip p.rows2)).drop p.ran).map fun x => (⟨x.1, x.2.1, x.2.2, r, g⟩ : SpanPair)) ++ s.present slot rest

/-- The length of a span: it ends on a multiple of 16 unless it reaches the slot's last pair. -/
def spanLen (start limit available : Nat) (last : Option Nat) : Nat :=
  let n := min limit available
  if last = some (start + n) then n else n - (start + n) % 16

/-- After a span: counts the rows it took of each parcel, moves to CARRY the pairs beyond its end in its last withy when
they are at most 15, and gives the withies back whose rows have all been run. -/
def Mod.endSpan (m : Mod) (j : Job) (e : ExchangeDecl) (s : ExStep) (slot : Nat) (took rest : List SpanPair) : Mod × List SpanPair :=
  let w := e.withyRows
  let taken (p : ParcelIn) : Nat := took.countP fun x => x.source == p.source && x.group == p.group
  let grads := s.parcelsIn.filter fun p => p.grad && p.slot == slot
  let carried : List SpanPair :=
    match took.getLast? with
    | none => []
    | some l =>
      match grads.find? fun p => p.source == l.source && p.group == l.group with
      | none => []
      | some p =>
        let c := p.ran + taken p
        let left := if c % w = 0 then 0 else min ((c / w + 1) * w) p.count - c
        if left ≤ 15 then rest.take left else []
  let m := grads.foldl (fun m p =>
    let more := carried.countP fun x => x.source == p.source && x.group == p.group
    let ran := p.ran + taken p + more
    let keep := if ran = p.count then 0 else e.withiesFor p.count - ran / w
    let gone := p.withies.take (p.withies.length - keep)
    (m.freeWithies j e gone).mapParcel j.plan.job e.id s.step (fun y => y.is p.source p.group p.slot true) fun y =>
      { y with ran := ran, withies := y.withies.drop gone.length, phase := if ran = p.count then .run else y.phase }) m
  (m, carried)

/-- The data gradients of a span, one DGRAD for each parcel (R282). -/
def Mod.sendDgrads (m : Mod) (j : Job) (e : ExchangeDecl) (step slot : Nat) (took : List (SpanPair × Bytes)) : Mod :=
  let keys := (took.map fun x => (x.1.source, x.1.group)).eraseDups
  keys.foldl (fun m k =>
    let mine := took.filter fun x => (x.1.source, x.1.group) == k
    m.emit (.exchange k.1 .dgrad
      { j.plan.exMsg e.id k.2 step slot with tags := mine.map (·.1.tag), rows := mine.map (·.2) })) m

/-- D of R283. -/
def ExStep.divisor (s : ExStep) (p : Plan) (e : ExchangeDecl) (slot : Nat) : Nat :=
  let (sum, ranks) := s.expertTotals (p.senders e) slot
  match e.divisor with
  | 0 => 1
  | 1 => ranks
  | _ => sum

/-- Whether a body draws from the accumulator stream, which counts by the slot's whole number of pairs. -/
def ExchangeDecl.drawsAcc (e : ExchangeDecl) : Bool := e.bodyBwd.any fun b => b.flags / 2 ^ 10 % 2 = 1

/-- A backward round of a slot in one step; none when there is nothing to run. -/
def Mod.backwardIn (m : Mod) (j : Job) (e : ExchangeDecl) (s : ExStep) (slot : Nat) : Option Mod :=
  let job := j.plan.job
  let senders := j.plan.senders e
  let fin := s.allFinished senders
  let q := (s.slots.find? fun q => q.slot == slot).getD { slot := slot }
  let known := s.knownParcels e slot senders
  let total := (known.map (·.2.2)).sum
  if q.written then none
  else if fin && total == 0 then
    let m := if e.emptyAbsent then m else m.writeGrads j e slot 0 none
    some (m.updSlot job e.id s.step slot fun q => { q with written := true })
  else if !fin && e.drawsAcc then none
  else
    let carried := q.carry.map fun c => (⟨c.1, c.2.1, c.2.2, c.1.source, c.1.token / 256⟩ : SpanPair)
    let ready := carried ++ s.present slot known
    let n := spanLen q.bwdNext e.roundRows ready.length (if fin then some total else none)
    if n = 0 then none
    else
      let took := ready.take n
      let b := m.runBody j e slot e.bodyBwd (took.map (·.row)) (took.map (·.grow)) q.bwdNext total q.acc
      match b.fail with
      | some (st, d, _) => some (b.m.bodyFailed j e s.step st d)
      | none =>
        let m := b.m.sendDgrads j e s.step slot (took.zip (b.rowsAt roundIn n e.inBytes))
        let (m, carry) := m.endSpan j e s slot (took.drop carried.length) (ready.drop n)
        let done := fin && q.bwdNext + n == total
        let m := if done then m.writeGrads j e slot (s.divisor j.plan e slot) (some b.acc) else m
        let m := m.updSlot job e.id s.step slot fun q =>
          { q with
            roundsBwd := q.roundsBwd + 1, bwdNext := q.bwdNext + n, acc := if done then [] else b.acc
            carry := carry.map (fun x => (x.tag, x.grow, x.row)), written := done }
        some (((m.traceRound j e slot n).pullsOf job e.recvPool).recvMoved j e s.step)

/-- A backward round of a slot, of the oldest step that has one to run. -/
def Mod.backwardRound (m : Mod) (job exch slot : Nat) : Mod :=
  match m.job? job with
  | none => m
  | some j =>
    match j.plan.exchange? exch with
    | none => m
    | some e =>
      if !j.runs || (e.slotsOf j.plan.rank).length ≤ slot then m
      else ((j.openSteps exch).findSome? fun s => m.backwardIn j e s slot).getD m

/-! ### A withy goes back -/

/-- The step and parcel whose RESULT waits for its acknowledgement while it holds a withy. -/
def Job.resultedIn (j : Job) (pool place cls index : Nat) : Option (ExchangeDecl × Nat × ParcelIn) :=
  j.exSteps.findSome? fun s =>
    match j.plan.exchange? s.exch with
    | some e =>
      if e.recvPool == pool && j.plan.poolPlace pool == place && e.withyClass == cls then
        (s.parcelsIn.find? fun x => x.phase == .resulted && x.withies.contains index).map fun x => (e, s.step, x)
      else none
    | none => none

/-- RELEASE by an engine (R383). The Slew engine releases the withies of a parcel when the token owner has acknowledged its
RESULT (R271): the release of one of them is that acknowledgement (log 110). An exchange may pull with what is freed
(R273). -/
def Mod.withyReleased (m : Mod) (job pool place cls index : Nat) : Mod :=
  match (m.job? job).bind fun j => (j.resultedIn pool place cls index).map fun x => (j, x) with
  | some (j, e, step, x) =>
    let m := (m.freeWithies j e x.withies).mapParcel job e.id step (fun y => y.is x.source x.group x.slot x.grad) fun y =>
      { y with phase := .run, withies := [], rows := [] }
    let m := m.updSlot job e.id step x.slot fun q => { q with out := q.out + x.count }
    (m.pullsOf job pool).recvMoved j e step
  | none => (m.poolRelease job pool place cls index).pullsOf job pool

def execWithyRelease (job pool place cls index : Nat) (s : State) : Host.Outcome State Fault Refusal :=
  lift (fun m => m.withyReleased job pool place cls index) s

def execCounts (x : ExMsg) (s : State) : Host.Outcome State Fault Refusal := lift (fun m => m.onCounts x) s
def execParcel (x : ExMsg) (s : State) : Host.Outcome State Fault Refusal := lift (fun m => m.onRows x false) s
def execAccept (x : ExMsg) (s : State) : Host.Outcome State Fault Refusal := lift (fun m => m.onAccept x) s
def execHold (x : ExMsg) (s : State) : Host.Outcome State Fault Refusal := lift (fun m => m.onHold x) s
def execPull (x : ExMsg) (s : State) : Host.Outcome State Fault Refusal := lift (fun m => m.onPull x) s
def execResult (x : ExMsg) (s : State) : Host.Outcome State Fault Refusal := lift (fun m => m.onResult x) s
def execTags (x : ExMsg) (s : State) : Host.Outcome State Fault Refusal := lift (fun m => m.onTags x) s
def execKeep (x : ExMsg) (s : State) : Host.Outcome State Fault Refusal := lift (fun m => m.onKeep x) s
def execGrad (x : ExMsg) (s : State) : Host.Outcome State Fault Refusal := lift (fun m => m.onRows x true) s
def execDgrad (x : ExMsg) (s : State) : Host.Outcome State Fault Refusal := lift (fun m => m.onDgrad x) s
def execSpoil (x : ExMsg) (s : State) : Host.Outcome State Fault Refusal := lift (fun m => m.onSpoil x) s

def execForwardRound (job exch slot : Nat) (s : State) : Host.Outcome State Fault Refusal :=
  lift (fun m => m.forwardRound job exch slot) s

def execBackwardRound (job exch slot : Nat) (s : State) : Host.Outcome State Fault Refusal :=
  lift (fun m => m.backwardRound job exch slot) s

end Sys2Proof.Machine
end

