-- ==== Sys2Proof/Machine/Chunks.lean ====
section
/-!
DEFINITION. Chunks on the wire (R290, R293, R295, R298–R301): runs of elements of placed tensors, and the bodies of
CHUNK packets with their encoding and decoding.
-/

namespace Sys2Proof.Machine

/-! ### Runs of elements -/

/-- A run of elements of a tensor of a job: the tensor, its format code and the element at which the run begins. -/
structure Elems where
  tensor : Nat
  fmt : Nat
  off : Nat := 0
  deriving DecidableEq, Repr

def Elems.f (x : Elems) : Fmt := (Fmt.ofCode x.fmt).getD .fp32

/-- The home locations of element `i`. -/
def Elems.home (x : Elems) (j : Job) (i : Nat) : List Nat :=
  match j.place? x.tensor with
  | none => []
  | some p => (List.range x.f.size).map fun b => p.place.addr (x.f.size * (x.off + i) + b)

/-- The locations that a read of element `i` uses: the valid Tier A copy, or home (R247). -/
def Elems.locs (x : Elems) (j : Job) (i : Nat) : List Nat :=
  match j.copyOf x.tensor with
  | some c => (List.range x.f.size).map fun b => c + x.f.size * (x.off + i) + b
  | none => x.home j i

/-- The value of element `i`. -/
def Elems.val (x : Elems) (j : Job) (rd : Nat → Byte) (i : Nat) : Val := x.f.layout.decode (leNat ((x.locs j i).map rd))

/-- The writes of one element, at home and at a valid copy (R247), and what the conversion counts. -/
def Elems.put (x : Elems) (j : Job) (c : Conv) (i : Nat) (v : Val) : Put :=
  let r := x.f.layout.convert c 0 v
  let bs := leBytes x.f.size r.code
  let copy := match j.copyOf x.tensor with
    | some _ => (x.locs j i).zip bs
    | none => []
  { writes := (x.home j i).zip bs ++ copy
    counts := { saturated := if r.saturated then 1 else 0, nonfinite := if r.nonfinite then 1 else 0 } }

/-- Writes of several consecutive elements from `i` on. -/
def Elems.puts (x : Elems) (j : Job) (c : Conv) (i : Nat) (vs : List Val) : Put :=
  vs.zipIdx.foldl (fun p (v, k) => p.add (x.put j c (i + k) v)) {}

/-- The run's first `n` elements as an operand of one dimension, so that block formats are read and written as a
descriptor's are (R83, R97). The spec names no scale plane for a tensor that the WALE section declares: where it lies
in the tensor is free (log 102). -/
def Elems.view (x : Elems) (j : Job) (n : Nat) : View :=
  let p := j.place? x.tensor
  let len := (p.map fun p => p.decl.bytes).getD 0
  let d : Desc :=
    { format := x.fmt, ndim := 1, remote := false, sparse24 := false, rank := 0, tensor := x.tensor, base := 0
      auxBase := if x.f.isMx then Config.gatherScales x.tensor len else 0, pad := 0
      dims := [{ extent := x.off + n, origin := 0, ownStart := 0, ownLen := 0, stride := 1 }] }
  { o := { off := 0, role := 0, at_ := none, desc := d }, fmt := x.f, len := len
    place := .here ((p.map fun p => p.place).getD (.flat 0)), copy := j.copyOf x.tensor, from_ := j.copyOf x.tensor }

/-! ### Bodies (R295, R298) -/

/-- A chunk's values padded with +0 to the chunk's length (R290). -/
def padChunk (v : List (BitVec 32)) : List (BitVec 32) := v.take chunkLen ++ List.replicate (chunkLen - v.length) 0#32

/-- What a node sends: the body, the new error memory (ONEBIT), the blocks raised, elements flushed to zero, and whether
the chunk holds a NaN or an infinity. -/
structure Wire where
  body : Bytes
  err : List (BitVec 32) := []
  raised : Nat := 0
  underflow : Nat := 0
  nonfinite : Bool := false
  deriving DecidableEq, Repr

/-- Blocks of `n` of a list, for `k` blocks. -/
def blocksOf {α : Type} (n : Nat) : Nat → List α → List (List α)
  | 0, _ => []
  | k + 1, l => l.take n :: blocksOf n k (l.drop n)

/-- RNE onto the E4M3 grid without an upper bound. -/
def e4m3Grid (x : Val) : Val :=
  match x with
  | .fin s m e =>
    if m = 0 then .fin s 0 e4m3.emin
    else
      let q := e4m3.quantum m e
      .fin s (roundMag .rne 0 m e q) q
  | v => v

/-- The least scale code from `y` on under which every element of a block fits (R300). -/
def fitCode (xs : List Val) : Nat → Nat → Nat
  | 0, y => y
  | fuel + 1, y =>
    if xs.any fun x => Val.lt (Val.ofInt 448) (e4m3Grid (x.scale (127 - (y : Int)))).abs then fitCode xs fuel (y + 1) else y

/-- An MXFP8 block on the wire (R300): elements, scale, whether it was raised, what it flushed, whether it is not
finite. -/
def mxBlock (y0 : Nat) (acc : List (BitVec 32)) : Bytes × Nat × Bool × Nat × Bool :=
  let xs := acc.map f32
  if xs.any Val.nonfinite then (List.replicate acc.length 0#8, 0xFF, false, 0, true)
  else
    let y := fitCode xs 255 y0
    let codes := xs.map fun x => (e4m3.convert {} 0 (x.scale (127 - (y : Int)))).code
    let flushed := (xs.zip codes).countP fun p => !p.1.isZero && p.2 % 128 == 0
    (codes.map (BitVec.ofNat 8), y, decide (y0 < y), flushed, false)

/-- A sign block (R301): its 32 bytes of signs, its scale, the new error memory, whether it is not finite. -/
def signBlock (acc err : List (BitVec 32)) : Bytes × BitVec 32 × List (BitVec 32) × Bool :=
  let v := acc.zipWith add32 err
  if v.any nonfinite32 then (List.replicate 32 0#8, nan32, v.map fun _ => 0#32, true)
  else
    let a := sum151 (v.map abs32)
    let scale := rnd32 ((f32 a).scale (-8))
    let bits := v.map fun x => x.getLsbD 31
    let bytes := (blocksOf 8 32 bits).map fun b =>
      BitVec.ofNat 8 ((b.zipIdx.map fun (x, i) => if x then 2 ^ i else 0).sum)
    (bytes, scale, (v.zip bits).map fun p => sub32 p.1 (if p.2 then neg32 scale else scale), false)

/-- Encodes a chunk in a wire format: `codes` are the codes Y₀ of its blocks, `err` the error memory (R298–R301). -/
def encodeChunk (vfmt : Nat) (acc : List (BitVec 32)) (codes : List Nat) (err : List (BitVec 32)) : Wire :=
  let v := padChunk acc
  let bad := acc.any nonfinite32
  match vfmt with
  | 0 => { body := v.flatMap (fun x => leBytes 4 x.toNat), nonfinite := bad }
  | 1 =>
    let cs := v.map fun x => bf16.convert {} 0 (f32 x)
    { body := cs.flatMap (fun c => leBytes 2 c.code), nonfinite := cs.any (·.nonfinite) }
  | 2 =>
    let bs := (blocksOf 32 64 v).zipIdx.map fun (b, i) => mxBlock (codes.getD i 0) b
    { body := bs.flatMap (·.1) ++ bs.map (fun b => BitVec.ofNat 8 b.2.1)
      raised := bs.countP (·.2.2.1), underflow := (bs.map (·.2.2.2.1)).sum, nonfinite := bs.any (·.2.2.2.2) }
  | _ =>
    let bs := ((blocksOf 256 8 v).zip (blocksOf 256 8 (padChunk err))).map fun (b, e) => signBlock b e
    { body := bs.flatMap (·.1) ++ bs.flatMap (fun b => leBytes 4 b.2.1.toNat)
      err := (bs.flatMap (·.2.2.1)).take acc.length, nonfinite := bs.any (·.2.2.2) }

/-- Decodes the first `n` elements of a body exactly to FP32 (R293). -/
def decodeChunk (vfmt n : Nat) (body : Bytes) : List (BitVec 32) :=
  let at_ (o k : Nat) : Nat := leNat ((body.drop o).take k)
  (List.range n).map fun i =>
    match vfmt with
    | 0 => BitVec.ofNat 32 (at_ (4 * i) 4)
    | 1 => rnd32 (bf16.decode (at_ (2 * i) 2))
    | 2 =>
      let y := at_ (chunkLen + i / 32) 1
      if y = 0xFF then nan32 else rnd32 ((e4m3.decode (at_ i 1)).scale ((y : Int) - 127))
    | _ =>
      let scale := BitVec.ofNat 32 (at_ (256 + 4 * (i / 256)) 4)
      if at_ (i / 8) 1 / 2 ^ (i % 8) % 2 = 1 then neg32 scale else scale

/-- The scale codes of an MXFP8 body. -/
def bodyCodes (vfmt : Nat) (body : Bytes) : List Nat :=
  if vfmt = 2 then ((body.drop chunkLen).take 64).map BitVec.toNat else []

/-- The root's next code of a block (R299): from the largest finite |acc| of the block. -/
def nextCode (headroom cur : Nat) (acc : List (BitVec 32)) : Nat :=
  match maxAbs (acc.map f32) with
  | .fin _ m e =>
    if m = 0 || acc.any nonfinite32 then cur
    else
      let y : Int := e + Nat.log2 m - 8 + headroom + 127
      (min 0xFE (max 0 y)).toNat
  | _ => cur

end Sys2Proof.Machine
end

