-- ==== Sys2Proof/Machine/Wale.lean ====
section
/-!
DEFINITION. The wale service (R290–R310, R320, R463): tree nodes and the forming of chunks, acknowledgements, late
contributions and carries, deadlines, agreed scales, REDUCE_SCATTER.
-/

namespace Sys2Proof.Machine

/-! ### Look-ups -/

def WaleNode.is (n : WaleNode) (bucket step shard : Nat) : Bool := n.bucket == bucket && n.step == step && n.shard == shard

/-- A node of this rank with its job, bucket, tree and position. -/
structure NodeAt where
  j : Job
  b : BucketDecl
  n : WaleNode
  t : Tree
  q : Nat
  deriving Repr

def Mod.nodeAt? (m : Mod) (job bucket step shard : Nat) : Option NodeAt :=
  match m.job? job with
  | none => none
  | some j =>
    match j.plan.bucket? bucket, j.waleNodes.find? fun n => n.is bucket step shard with
    | some b, some n => some ⟨j, b, n, ⟨(j.plan.group b.group).length, shard⟩, j.plan.posIn b.group⟩
    | _, _ => none

def Mod.updNode (m : Mod) (job bucket step shard : Nat) (f : WaleNode → WaleNode) : Mod :=
  m.updJob job fun j => { j with waleNodes := j.waleNodes.map fun n => if n.is bucket step shard then f n else n }

/-- Changes the node that a look-up found. -/
def Mod.setNode (m : Mod) (a : NodeAt) (f : WaleNode → WaleNode) : Mod := m.updNode a.j.plan.job a.n.bucket a.n.step a.n.shard f

/-- The full step number that the low 32 bits in a packet name, nearest to the job's step. -/
def Job.waleStep (j : Job) (s : Nat) : Nat :=
  let d := (BitVec.ofNat 32 s - j.step.truncate 32).toInt
  ((j.step.toNat : Int) + d).toNat

/-- A packet of this rank. -/
def Plan.waleMsg (p : Plan) (bucket step shard chunk : Nat) : WaleMsg :=
  { job := p.job, inc := p.inc, source := p.rank, bucket := bucket, step := step % 2 ^ 32, shard := shard, chunk := chunk
    vfmt := 0, esc := false, carried := false, nonfinite := false, last := false, contrib := 0, missing := 0, body := []
    vec := [], word := 0, count := 0 }

/-- The rank at a position of a bucket's group. -/
def Plan.rankOf (p : Plan) (g q : Nat) : Nat := (p.group g).getD q 0

/-- The chunks of a node's shard. -/
def NodeAt.chunks (a : NodeAt) : List Nat :=
  let (lo, hi) := a.b.shard a.t.n a.n.shard
  (List.range (hi - lo)).map (lo + ·)

/-- The edges of a node with their subtree sizes (R293, R306): own, left, right. -/
def NodeAt.edges (a : NodeAt) : List (Nat × Nat) := (0, 1) :: (a.t.children a.q).map fun c => (c.1, a.t.size c.2)

/-- The position behind an edge. -/
def NodeAt.edgeRank (a : NodeAt) (e : Nat) : Nat := (((a.t.children a.q).find? fun c => c.1 == e).map (·.2)).getD a.q

def NodeAt.formed (a : NodeAt) (c : Nat) : Bool := a.n.formed.any fun f => f.chunk == c

def NodeAt.input? (a : NodeAt) (e c : Nat) : Option WaleInput := a.n.inputs.find? fun x => x.edge == e && x.chunk == c

def NodeAt.root (a : NodeAt) : Bool := (a.t.parent a.q).isNone

/-- Makes sure that a node is there. Nodes stay for the 16 steps in which late inputs still count (R307). -/
def Mod.ensureNode (m : Mod) (job bucket step shard : Nat) : Mod :=
  m.updJob job fun j =>
    if j.waleNodes.any fun n => n.is bucket step shard then j
    else { j with waleNodes :=
      (j.waleNodes.filter fun n => j.step.toNat ≤ n.step + 16).concat { bucket := bucket, step := step, shard := shard } }

/-! ### Agreed scales (R299) -/

/-- The codes of a shard's blocks for a step: those that SCALES delivered, or SCALE_INIT while none ever came. -/
def Mod.agreed (m : Mod) (a : NodeAt) : Option (List Nat) :=
  if a.b.vfmt ≠ 2 then some []
  else
    match a.j.scales.find? fun t => t.bucket == a.b.id && t.step == a.n.step && t.shard == a.n.shard with
    | some t => some t.codes
    | none =>
      if a.j.scales.any fun t => t.bucket == a.b.id then none
      else
        match a.j.place? a.b.scaleInit with
        | none => none
        | some p => some (a.chunks.flatMap fun c => (List.range 64).map fun k =>
            if c * chunkLen + 32 * k < a.b.len then (m.byte (p.place.addr (64 * c + k))).toNat else 0)

/-- The codes of one chunk of the shard. -/
def chunkCodes (a : NodeAt) (codes : List Nat) (c : Nat) : List Nat := (codes.drop (64 * (c - a.chunks.headD 0))).take 64

/-- Whether a rank holds every shard's scales of a step, so that its node roles may start. -/
def Mod.scalesHeld (m : Mod) (j : Job) (b : BucketDecl) (step : Nat) : Bool :=
  let n := (j.plan.group b.group).length
  (List.range n).all fun s =>
    let a : NodeAt := ⟨j, b, { bucket := b.id, step := step, shard := s }, ⟨n, s⟩, j.plan.posIn b.group⟩
    a.chunks.isEmpty || (m.agreed a).isSome

/-- A new agreed table replaces that of the same step; the tables of two steps stay. -/
def Mod.storeScales (m : Mod) (job bucket step shard : Nat) (codes : List Nat) : Mod :=
  m.updJob job fun j =>
    let other (t : ScaleTable) : Bool := !(t.bucket == bucket && t.shard == shard && (t.step == step || t.step + 1 < step))
    { j with scales := (j.scales.filter other).concat { bucket := bucket, step := step, shard := shard, codes := codes } }

/-- Sends SCALES to the children of a node. -/
def Mod.sendScales (m : Mod) (a : NodeAt) (codes : List Nat) : Mod :=
  (a.t.children a.q).foldl (fun m c =>
    m.emit (.wale (a.j.plan.rankOf a.b.group c.2) .scales
      { a.j.plan.waleMsg a.b.id a.n.step a.n.shard 0 with vfmt := 2, body := codes.map (BitVec.ofNat 8) })) m

/-! ### Forming a chunk (R293) -/

/-- What a node sums for a chunk: the values, CONTRIB, MISSING, whether a carry went in, the positions of substituted
inputs, and the scale codes of its children's blocks. -/
structure ChunkSum where
  acc : List (BitVec 32)
  contrib : Nat
  missing : Nat
  carried : Bool
  subs : List Nat
  codes : List (List Nat)
  deriving DecidableEq, Repr

/-- The carries that a node's chunk uses on an edge (R307, R308): those meant for its step or an earlier one that no
other step has used. -/
def NodeAt.carries (a : NodeAt) (e c : Nat) : List Carried :=
  a.j.carried.filter fun x => x.bucket == a.b.id && x.shard == a.n.shard && x.chunk == c && x.edge == e &&
    x.step ≤ a.n.step && (x.usedAt == none || x.usedAt == some a.n.step)

/-- The count of a rank's own chunk (R303). -/
def Job.ownCount (j : Job) (b : BucketDecl) (step c count : Nat) : Nat :=
  match b.slotBind.find? fun s => s.first ≤ c * chunkLen && c * chunkLen < s.first + s.length with
  | none => count
  | some s =>
    match j.plan.exchange? s.exch, j.ex? s.exch step with
    | some e, some x =>
      let mine := (e.slotsOf j.plan.rank).zipIdx.filter fun p => p.1.1 == s.expert
      if mine.any fun p => x.tokensIn (j.plan.senders e) p.2 != 0 then 1 else 0
    | _, _ => 0

/-- Adds one edge's carries and input. `force` substitutes an input that is not here; the rank's own input is absent, not
missing, where its slot is empty (R303). -/
def NodeAt.addEdge (a : NodeAt) (c : Nat) (force : Bool) (s : Option ChunkSum) (e : Nat × Nat) : Option ChunkSum :=
  match s with
  | none => none
  | some s =>
    let cs := a.carries e.1 c
    let acc := cs.foldl (fun acc x => acc.zipWith add32 x.values) s.acc
    let s := { s with acc := acc, contrib := s.contrib + (cs.map (·.count)).sum, carried := s.carried || !cs.isEmpty }
    match a.input? e.1 c with
    | some x =>
      if x.contrib = 0 then some s
      else some { s with
        acc := s.acc.zipWith add32 x.values, contrib := s.contrib + x.contrib, missing := s.missing + x.missing
        codes := if x.scales.isEmpty then s.codes else s.codes.concat x.scales }
    | none =>
      if !(force || a.n.gone.contains e.1) then none
      else if e.1 = 0 && a.j.ownCount a.b a.n.step c 1 = 0 then some s
      else some { s with missing := s.missing + e.2, subs := s.subs.concat (a.edgeRank e.1) }

/-- The sum of a chunk, when its inputs are here or substituted. -/
def NodeAt.sum (a : NodeAt) (c : Nat) (force : Bool) : Option ChunkSum :=
  let zero : ChunkSum := ⟨List.replicate (a.b.chunkElems c) negZero32, 0, 0, false, [], []⟩
  a.edges.foldl (a.addEdge c force) (some zero)

/-- The values that the root writes (R304). -/
def NodeAt.rootValues (a : NodeAt) (s : ChunkSum) : List Val :=
  if !a.b.mean then s.acc.map f32
  else if s.contrib = 0 then s.acc.map fun _ => Val.zero
  else s.acc.map fun x => f32 (rnd32 ((f32 x).div (Val.ofInt s.contrib)))

/-- The error memory of a bucket, FP32: one of its two halves (R302). -/
def BucketDecl.errElems (b : BucketDecl) (half : Nat) : Elems := ⟨b.errorMem, 0x00, half * b.len⟩

/-- The running commands of a job that wait for the roles of a bucket and step. -/
def Mod.reducing (m : Mod) (job bucket step : Nat) : List CmdId :=
  (m.runnings.filter fun (_, r) => r.cmd.job == job && r.work == .reduce bucket step).map fun (l, r) => r.cmd.id l

/-- Writes a formed chunk at the root into SHARD_OUT (R290, R304); the reduction fails where it cannot (R238). -/
def Mod.writeShard (m : Mod) (a : NodeAt) (c : Nat) (s : ChunkSum) : Mod :=
  let first := a.chunks.headD 0
  let out : Elems := ⟨a.b.shardOut, a.b.shardFmt, 0⟩
  let p := out.puts a.j {} (chunkLen * (c - first)) (a.rootValues s)
  match m.checkWrite none (p.writes.map (·.1)) with
  | (m, none) => (m.store p.writes).setNode a fun n => { n with stats := n.stats.counts p.counts }
  | (m, some rec_) => m.completeAll (m.reducing a.j.plan.job a.b.id a.n.step) .faultDetected rec_

/-- Sends a formed chunk to the parent (R294, R298, R302), or counts it when the parent takes no more (R463). -/
def Mod.sendChunk (m : Mod) (a : NodeAt) (parent c : Nat) (s : ChunkSum) (codes : List Nat) : Mod :=
  let job := a.j.plan.job
  let half := a.n.step % 2
  let err := a.b.errElems half
  let errOut := a.b.errElems ((half + 1) % 2)
  let n := a.b.chunkElems c
  let old := if a.b.vfmt = 3 then (List.range n).map fun i => rnd32 (err.val a.j m.byte (chunkLen * c + i)) else []
  let y0 := (chunkCodes a codes c).zipIdx.map fun (y, i) => s.codes.foldl (fun y cs => Nat.max y (cs.getD i 0)) y
  let w := encodeChunk a.b.vfmt s.acc y0 old
  let m := if a.b.vfmt = 3 then m.store (errOut.puts a.j {} (chunkLen * c) (w.err.map f32)).writes else m
  let m := (m.countJob job .WALE_ESCALATIONS w.raised).countJob job .WALE_UNDERFLOW w.underflow
  let m := m.setNode a fun n => { n with stats := { n.stats with esc := n.stats.esc || w.raised != 0 } }
  if a.n.parentGone then m.countJob job .WALE_UNDELIVERED
  else
    let last := a.n.formed.length == a.chunks.length
    let msg := { a.j.plan.waleMsg a.b.id a.n.step a.n.shard (c - a.chunks.headD 0) with
      vfmt := a.b.vfmt, esc := w.raised != 0, carried := s.carried, nonfinite := w.nonfinite, last := last
      contrib := s.contrib % 2 ^ 32, missing := min s.missing 65535, body := w.body }
    (m.countJob job .WALE_CHUNKS_SENT).emit (.wale (a.j.plan.rankOf a.b.group parent) .chunk msg)

/-- What the root does once it has formed its last chunk: the next scales, and a trace record (R299, R513). -/
def Mod.rootDone (m : Mod) (a : NodeAt) (codes : List Nat) : Mod :=
  let missing := a.n.formed.countP fun f => f.missing != 0
  let m := m.trace_ { time := 0, kind := 5, job := a.j.plan.job, inc := a.j.plan.inc, arg0 := a.b.id
                      arg1 := a.n.shard * 2 ^ 32 + missing }
  if a.b.vfmt ≠ 2 then m
  else
    let next := a.chunks.flatMap fun c =>
      let acc := ((a.n.formed.find? fun f => f.chunk == c).map (·.values)).getD []
      ((blocksOf 32 64 (padChunk acc)).zip (chunkCodes a codes c)).map fun (b, y) => nextCode a.b.headroom y b
    (m.storeScales a.j.plan.job a.b.id (a.n.step + 1) a.n.shard next).sendScales a next

/-- Forms one chunk when it can be formed (R293, R297). -/
def Mod.formChunk (m : Mod) (job bucket step shard : Nat) (force : Bool) (c : Nat) : Mod :=
  match m.nodeAt? job bucket step shard with
  | none => m
  | some a =>
    if a.n.givenUp || a.formed c then m
    else
      match m.agreed a, a.sum c force with
      | some codes, some s =>
        let f : WaleFormed :=
          { chunk := c, values := if a.root then s.acc else [], contrib := s.contrib, missing := s.missing
            acked := a.root || a.n.parentGone }
        let m := (m.countJob job .WALE_SUBSTITUTED s.subs.length).updJob job fun j =>
          { j with
            deadlines := j.deadlines + s.subs.length
            substituted := j.substituted ++ s.subs.map fun q => { step := step, bucket := bucket, position := q, chunk := c }
            carried := j.carried.filterMap fun x =>
              if x.bucket == bucket && x.shard == shard && x.chunk == c then
                match x.usedAt with
                | some u => if u < step then none else some x
                | none => if x.step ≤ step then some { x with usedAt := some step } else some x
              else some x }
        let m := m.setNode a fun n => { n with formed := n.formed.concat f }
        match m.nodeAt? job bucket step shard with
        | none => m
        | some a' =>
          match a.t.parent a.q with
          | some p => m.sendChunk a' p c s codes
          | none =>
            let m := m.writeShard a' c s
            if a'.n.formed.length == a'.chunks.length then m.rootDone a' codes else m
      | _, _ => m

/-- Forms every chunk of a node that can be formed; a value follows from the inputs that R322 lists, in whatever order they came
(R323). -/
def Mod.formNode (m : Mod) (job bucket step shard : Nat) (force : Bool) : Mod :=
  match m.nodeAt? job bucket step shard with
  | none => m
  | some a => a.chunks.foldl (fun m c => m.formChunk job bucket step shard force c) m

/-! ### Inputs (R305, R307) -/

/-- Arms a node's deadline at its first input (R305). -/
def Mod.armNode (m : Mod) (a : NodeAt) : Mod :=
  let h := a.t.height a.q
  if h = 0 then m
  else m.setNode a fun n => if n.deadline.isNone then { n with deadline := some (m.now + a.b.deadline * h) } else n

/-- The newest step whose node on this rank formed a chunk, or the given step. -/
def Job.lastFormed (j : Job) (bucket shard c step : Nat) : Nat :=
  (j.waleNodes.filter fun n => n.bucket == bucket && n.shard == shard && n.formed.any fun f => f.chunk == c).foldl
    (fun s n => Nat.max s n.step) step

/-- A late input (R307): discarded, or added to the carry of its edge. -/
def Mod.lateInput (m : Mod) (a : NodeAt) (e c count : Nat) (values : List (BitVec 32)) : Mod :=
  let job := a.j.plan.job
  if e = 0 && count = 0 then m
  else if !a.b.carryLate then m.countJob job .WALE_LATE_DROPPED
  else if count = 0 then m
  else
    let target := a.j.lastFormed a.b.id a.n.shard c a.n.step + 1
    let same (x : Carried) : Bool :=
      x.bucket == a.b.id && x.shard == a.n.shard && x.edge == e && x.chunk == c && x.step == target && x.usedAt == none
    let add (x : Carried) : Carried :=
      if same x then { x with values := x.values.zipWith add32 values, count := x.count + count } else x
    let fresh : Carried :=
      { step := target, bucket := a.b.id, shard := a.n.shard, edge := e, chunk := c
        values := values.map fun v => add32 0#32 v, count := count }
    (m.updJob job fun j =>
      { j with carried := if j.carried.any same then j.carried.map add else j.carried.concat fresh }).countJob job .WALE_LATE_CARRIED

/-- An input becomes present at a node: it is kept, and the chunk formed when that was the last one; or it is late. -/
def Mod.giveInput (m : Mod) (job bucket step shard : Nat) (x : WaleInput) : Mod :=
  match m.nodeAt? job bucket step shard with
  | none => m
  | some a =>
    if a.n.givenUp then m
    else if a.formed x.chunk then m.lateInput a x.edge x.chunk x.contrib x.values
    else if (a.input? x.edge x.chunk).isSome then m
    else ((m.setNode a fun n => { n with inputs := n.inputs.concat x }).armNode a).formChunk job bucket step shard false x.chunk

/-! ### Deadlines (R306) -/

/-- A node's deadline passes: every chunk it has not sent is formed with what is here. -/
def Mod.expireNode (m : Mod) (a : NodeAt) : Mod :=
  let job := a.j.plan.job
  let m := m.setNode a fun n => { n with expired := true, deadline := none }
  let missing := ((a.chunks.filter fun c => !a.formed c).map fun c =>
    a.edges.countP fun e => (a.input? e.1 c).isNone).sum
  let m := m.trace_ { time := 0, kind := 6, job := job, inc := a.j.plan.inc, arg0 := a.b.id, arg1 := missing }
  m.formNode job a.b.id a.n.step a.n.shard true

/-- What a node's deadline does once it has passed, before an input that comes after it is judged: the input is late (R305,
R307). -/
def Mod.passNode (m : Mod) (job bucket step shard : Nat) : Mod :=
  match m.nodeAt? job bucket step shard with
  | some a => if (a.n.deadline.map fun d => decide (d < m.now)).getD false then m.expireNode a else m
  | none => m

/-! ### REDUCE_SCATTER (R291, R303, R309, R310) -/

/-- A rank's own input of a bucket. -/
def BucketDecl.own (b : BucketDecl) : Elems := ⟨b.input, b.inputFmt, b.inputOff⟩

/-- The shards of a bucket that hold a chunk. -/
def BucketDecl.fullShards (b : BucketDecl) (n : Nat) : List Nat :=
  (List.range n).filter fun s => (b.shard n s).1 < (b.shard n s).2

/-- A rank's own input becomes present at every node that it holds (R291). -/
def Mod.ownPresent (m : Mod) (j : Job) (b : BucketDecl) (step count : Nat) : Mod :=
  let job := j.plan.job
  let n := (j.plan.group b.group).length
  (b.fullShards n).foldl (fun m s =>
    let m := (m.ensureNode job b.id step s).passNode job b.id step s
    let (lo, hi) := b.shard n s
    let m := ((List.range (hi - lo)).map (lo + ·)).foldl (fun m c =>
      let k := j.ownCount b step c count
      let values := if k = 0 then [] else
        (List.range (b.chunkElems c)).map fun i => rnd32 (b.own.val j m.byte (chunkLen * c + i))
      m.giveInput job b.id step s { edge := 0, chunk := c, values := values, contrib := k, missing := 0 }) m
    m.formNode job b.id step s false) m

/-- Whether a rank's node roles for an operation have completed: every chunk formed and acknowledged or refused. -/
def Job.rolesDone (j : Job) (b : BucketDecl) (step : Nat) : Bool :=
  let n := (j.plan.group b.group).length
  !(j.plan.group b.group).contains j.plan.rank || (b.fullShards n).all fun s =>
    match j.waleNodes.find? fun x => x.is b.id step s with
    | none => false
    | some x => x.formed.length == (b.shard n s).2 - (b.shard n s).1 && x.formed.all (·.acked)

/-- The number of substituted (position, chunk) pairs in the rank's own shard (R309). -/
def Job.ownMissing (j : Job) (b : BucketDecl) (step : Nat) : Nat :=
  match j.waleNodes.find? fun x => x.is b.id step (j.plan.posIn b.group) with
  | none => 0
  | some x => (x.formed.map (·.missing)).sum

/-- What a rank's nodes add to the command's summary. -/
def Job.nodeStats (j : Job) (b : BucketDecl) (step : Nat) (s : Summary) : Summary :=
  (j.waleNodes.filter fun n => n.bucket == b.id && n.step == step).foldl (fun s n =>
    { s with nonfinite := s.nonfinite + n.stats.nonfinite, saturated := s.saturated + n.stats.saturated
             esc := s.esc || n.stats.esc }) s

/-- A rank gives up its node roles for an operation (R310). -/
def Mod.giveUp (m : Mod) (job bucket step : Nat) : Mod :=
  m.updJob job fun j =>
    { j with waleNodes := j.waleNodes.map fun n =>
        if n.bucket == bucket && n.step == step then { n with givenUp := true, deadline := none } else n }

/-! ### Notices and refusals (R309, R463) -/

/-- A chunk is refused by its target. -/
def Mod.chunkRefused (m : Mod) (job bucket step shard chunk : Nat) : Mod :=
  match m.nodeAt? job bucket step shard with
  | none => m
  | some a =>
    let c := a.chunks.headD 0 + chunk
    if !(a.n.formed.any fun f => f.chunk == c && !f.acked) then m
    else (m.setNode a fun n =>
      { n with formed := n.formed.map fun f => if f.chunk == c then { f with acked := true } else f }).countJob job .WALE_UNDELIVERED

/-- A rank is known to have reset: its inputs are substituted at once, and chunks for it stop. -/
def Mod.waleNotice (m : Mod) (job rank : Nat) : Mod :=
  match m.job? job with
  | none => m
  | some j =>
    j.waleNodes.foldl (fun m n =>
      match m.nodeAt? job n.bucket n.step n.shard with
      | none => m
      | some a =>
        if a.n.givenUp then m
        else
          let edges := ((a.t.children a.q).filter fun c => a.j.plan.rankOf a.b.group c.2 == rank).map (·.1)
          let m := if edges.isEmpty then m else
            (m.setNode a fun n => { n with gone := n.gone ++ edges }).formNode job n.bucket n.step n.shard false
          if (a.t.parent a.q).map (a.j.plan.rankOf a.b.group) == some rank then
            let stop := a.n.formed.countP fun f => !f.acked
            (m.setNode a fun n =>
              { n with parentGone := true, formed := n.formed.map fun f => { f with acked := true } }).countJob job .WALE_UNDELIVERED stop
          else m) m

/-- Whether any wale operation of a job is in flight on this rank (R67). -/
def Job.waleBusy (j : Job) : Bool :=
  j.waleNodes.any (fun n => !n.givenUp && !n.inputs.isEmpty &&
    match j.plan.bucket? n.bucket with
    | none => false
    | some b =>
      let r := b.shard (j.plan.group b.group).length n.shard
      n.formed.length != r.2 - r.1 || !n.formed.all (·.acked)) ||
    j.norms.any (fun n => !n.formed && !n.inputs.isEmpty) || !j.gathers.isEmpty

end Sys2Proof.Machine
end

