-- ==== Sys2Proof/Machine/Collect.lean ====
section
/-!
DEFINITION. The collectives as commands and their packets (R291, R297, R299, R306, R309–R314, R540): REDUCE_SCATTER,
ALL_GATHER, ALL_REDUCE, BROADCAST, SEND and RECV.
-/

namespace Sys2Proof.Machine

/-! ### Check 13 (R540) -/

/-- Whether a gather pairs an integer format with a floating-point one (R98). No descriptor names them: the model refuses
at BUCKET (log 102). -/
def gatherMixed (a b : Nat) : Bool := ((Fmt.ofCode a).getD .fp32).isInt != ((Fmt.ofCode b).getD .fp32).isInt

/-- The first broken rule of a collective at check 13. -/
def collectFault (op : Op) (j : Job) (p : Packet) : Option Nat :=
  let os := op.opnds j.plan p
  let b := j.plan.bucket? (p.u 0 2)
  let grp := p.u 2 2
  let ranks := j.plan.group grp
  let own : List Viol := match op with
    | .reduceScatter => fieldRule b.isNone 0
    | .allGather => fieldRule ((b.map fun b => b.gatherSrc == 0 || b.gatherDst == 0 ||
        gatherMixed b.gatherSrcFmt b.gatherDstFmt).getD true) 0
    | .allReduce => fieldRule ((b.map fun b => b.gatherDst == 0 || gatherMixed b.shardFmt b.gatherDstFmt).getD true) 0
    | .norm =>
      let n := p.u 0 1
      fieldRule (n == 0 || 16 < n) 0 ++
        (List.range 16).flatMap fun i => fieldRule (n ≤ i && p.u (0x10 + 4 * i) 4 != 0) (0x10 + 4 * i)
    | .broadcast =>
      fieldRule (grp != 0 && !(j.plan.groupsWale.any fun g => g.1 == grp)) 2 ++
        fieldRule (!ranks.contains (p.u 4 2)) 4 ++
        fieldRule ((opnd? os 0x10).isSome != (p.u 4 2 == j.plan.rank)) 0x10 ++
        (match opnd? os 0x20, opnd? os 0x10 with
          | some d, some s => pairRule d s
          | _, _ => [])
    | _ => fieldRule (j.plan.ranks ≤ p.u 2 2) 2
  firstViol (commonViols op j p ++ own)

/-! ### Elements of a descriptor as a stream (R313, R314) -/

/-- An exact value in 8 bytes: how elements of block formats travel in a chunk's body (log 56). -/
def Val.pack : Val → Bytes
  | .nan => leBytes 8 1
  | .inf s => leBytes 8 (if s then 3 else 2)
  | .fin s m e => leBytes 8 (m % 2 ^ 32 * 2 ^ 32 + ((e + 32768).toNat % 65536) * 2 ^ 8 + (if s then 5 else 4))

/-- Reads it back. -/
def Val.unpack (b : Bytes) : Val :=
  let n := leNat b
  match n % 256 with
  | 1 => .nan
  | 2 => .inf false
  | 3 => .inf true
  | k => .fin (k == 5) (n / 2 ^ 32) (((n / 2 ^ 8 % 65536 : Nat) : Int) - 32768)

/-- Bytes of an element on the wire. -/
def Fmt.wire (f : Fmt) : Nat := if f.isBlock then 8 else f.size

/-- The index of the element with a linear index over the full extents. -/
def Desc.indexOf (d : Desc) (i : Nat) : List Nat :=
  (d.used.foldl (fun (a : List Nat × Nat) r => (a.1.concat (a.2 % r.extent), a.2 / r.extent)) ([], i)).1

/-- An element in its own format as it travels in a chunk. -/
def View.wireItem (v : View) (rd : Nat → Byte) (i : List Nat) : Bytes :=
  if v.fmt.isBlock then (v.value rd i).pack else v.fetch rd (v.d.elemOffs i)

/-- A chunk of a source's elements in its own format, padded with +0 (R290). -/
def View.chunkBody (v : View) (rd : Nat → Byte) (c : Nat) : Bytes :=
  let n := min chunkLen (v.d.volume - chunkLen * c)
  (List.range n).flatMap (fun k => v.wireItem rd (v.d.indexOf (chunkLen * c + k))) ++ List.replicate ((chunkLen - n) * v.fmt.wire) 0#8

/-- The value of element `k` of a body in a format. -/
def wireVal (f : Fmt) (body : Bytes) (k : Nat) : Val :=
  let b := (body.drop (f.wire * k)).take f.wire
  if f.isBlock then Val.unpack b
  else if f.isInt then Val.ofInt (signedOf (8 * f.size) (leNat b)) else f.layout.decode (leNat b)

/-- The number of chunks of a descriptor's elements. -/
def Desc.chunkCount (d : Desc) : Nat := (d.volume + chunkLen - 1) / chunkLen

/-- The write of a received chunk into a destination's own extent, with the elements of cut blocks that earlier chunks
left, and those that this one leaves. -/
def Data.chunkPut (x : Data) (v : View) (rd : Nat → Byte) (cut : List (List Nat × Val)) (c : Nat) (fmt : Nat)
    (body : Bytes) : Put × List (List Nat × Val) :=
  let f := (Fmt.ofCode fmt).getD .fp32
  let n := min chunkLen (v.d.volume - chunkLen * c)
  let (now, later) := v.ripe
    (cut ++ v.owned ((List.range n).map fun k => (v.d.indexOf (chunkLen * c + k), wireVal f body k)))
  (v.put rd (if f = v.fmt ∧ !f.isBlock then {} else x.conv) (x.j.srWord v.d) now, later)

/-- The bytes from elsewhere that a stream command needs: its source, and what writes of its destination read. -/
def Data.streamNeeds (x : Data) (src dst : Option View) : List Nat :=
  let s := match src with
    | some v => v.forRead.boxLocs v.d.fullBox
    | none => []
  let d := match dst with
    | some v =>
      let p := v.put (fun _ => 0#8) x.conv (x.j.srWord v.d) ((boxIdx v.d.ownBox).map fun i => (i, Val.zero))
      p.reads ++ partWords p.writes
    | none => []
  s ++ d

/-! ### Messages wait -/

/-- Keeps a packet for later (R64; log 57). -/
def Mod.holdWale (m : Mod) (job : Nat) (kind : WaleKind) (x : WaleMsg) : Mod :=
  m.updJob job fun j => { j with heldWale := j.heldWale.concat (kind, x) }

/-- Acknowledges a chunk (R297). -/
def Mod.ackWale (m : Mod) (j : Job) (x : WaleMsg) : Mod :=
  m.emit (.wale x.source .ack
    { j.plan.waleMsg x.bucket x.step x.shard x.chunk with count := x.count, vfmt := x.vfmt })

/-! ### ALL_GATHER (R311) -/

def Job.gather? (j : Job) (bucket step : Nat) : Option GatherState := j.gathers.find? fun g => g.bucket == bucket && g.step == step

def Mod.updGather (m : Mod) (job bucket step : Nat) (f : GatherState → GatherState) : Mod :=
  m.updJob job fun j =>
    { j with gathers := j.gathers.map fun g => if g.bucket == bucket && g.step == step then f g else g }

def Mod.ensureGather (m : Mod) (job bucket step : Nat) : Mod :=
  m.updJob job fun j =>
    if (j.gather? bucket step).isSome then j
    else { j with gathers := j.gathers.concat { bucket := bucket, step := step } }

/-- The commands that gather a bucket's shards in a step. -/
def Mod.gatherers (m : Mod) (job bucket step : Nat) : List CmdId :=
  (m.runnings.filter fun (_, r) => r.cmd.job == job && (match r.work with
    | .gathering b s _ => b == bucket && s == step
    | _ => false)).map fun (l, r) => r.cmd.id l

/-- Stores a gathered chunk here and forwards it down its shard's tree; the command fails when the chunk cannot be written
(R238). -/
def Mod.takeGather (m : Mod) (j : Job) (b : BucketDecl) (step shard c fmt : Nat) (body : Bytes) : Mod :=
  let job := j.plan.job
  let n := (j.plan.group b.group).length
  let t : Tree := ⟨n, shard⟩
  let f := (Fmt.ofCode fmt).getD .fp32
  let dst := (⟨b.gatherDst, b.gatherDstFmt, 0⟩ : Elems).view j b.len
  let (now, later) := dst.ripe (((j.gather? b.id step).map (·.cut)).getD [] ++
    (List.range (b.chunkElems c)).map fun k => ([chunkLen * c + k], wireVal f body k))
  let p := dst.put m.byte {} (j.srWord dst.d) now
  let m := match m.checkWrite none (p.writes.map (·.1)) with
    | (m, none) => m.store p.writes
    | (m, some rec_) => m.completeAll (m.gatherers job b.id step) .faultDetected rec_
  let kids := (t.children (j.plan.posIn b.group)).map fun k => j.plan.rankOf b.group k.2
  let (lo, hi) := b.shard n shard
  let m := kids.foldl (fun m r => m.emit (.wale r .gather
    { j.plan.waleMsg b.id step shard (c - lo) with vfmt := fmt, body := body, last := c + 1 == hi })) m
  m.updGather job b.id step fun g =>
    { g with stored := g.stored.concat (shard, c), unacked := g.unacked ++ kids.map fun r => (shard, c, r)
             cut := later, sum := g.sum.counts p.counts }

/-- Whether every shard is written and every forwarded chunk acknowledged. -/
def Job.gatherDone (j : Job) (b : BucketDecl) (step : Nat) : Bool :=
  let n := (j.plan.group b.group).length
  match j.gather? b.id step with
  | none => false
  | some g => g.unacked.isEmpty && (b.fullShards n).all fun s =>
      let (lo, hi) := b.shard n s
      (List.range (hi - lo)).all fun k => g.stored.contains (s, lo + k)

/-- The status after a reduction (R309, R312). -/
def Mod.endReduction (m : Mod) (id : CmdId) (missing : Nat) : Mod :=
  let m := m.updSum id.lane fun s => { s with degraded := s.degraded || missing != 0 }
  if missing = 0 then m.complete id .ok 0 else m.complete id .okDegraded missing

/-- Ends the gathers that are done. -/
def Mod.endGathers (m : Mod) (job : Nat) : Mod :=
  m.runnings.foldl (fun m (l, r) =>
    match r.work, m.job? job with
    | .gathering bucket step missing, some j =>
      match j.plan.bucket? bucket with
      | some b =>
        if r.cmd.job == job && j.gatherDone b step then
          let found := ((j.gather? bucket step).map (·.sum)).getD {}
          let m := m.updSum l fun s => { s with
            nonfinite := s.nonfinite + found.nonfinite, saturated := s.saturated + found.saturated
            underflow := s.underflow + found.underflow }
          (m.updJob job fun j => { j with gathers := j.gathers.filter fun g => !(g.bucket == bucket && g.step == step) }).endReduction
            (r.cmd.id l) missing
        else m
      | none => m
    | _, _ => m) m

/-- A rank starts to gather: as an owner it reads its shard and sends it down its tree. -/
def Mod.startGather (m : Mod) (id : CmdId) (j : Job) (b : BucketDecl) (step missing : Nat) (src : Elems) : Mod :=
  let job := j.plan.job
  let n := (j.plan.group b.group).length
  let q := j.plan.posIn b.group
  let (lo, hi) := if q < n then b.shard n q else (0, 0)
  let len := ((List.range (hi - lo)).map fun k => b.chunkElems (lo + k)).sum
  let v := (src.view j len).forRead
  let (m, corrected, bad) := m.checkLocal ((m.cmd? id).map (·.cmd)) ((List.range len).flatMap fun i => v.locs [src.off + i])
  let m := m.updSum id.lane fun s => { s with corrected := s.corrected + corrected }
  match bad with
  | some r => m.complete id .faultDetected r
  | none =>
    let m := (m.ensureGather job b.id step).setWork id.lane (.gathering b.id step missing)
    let m := ((List.range (hi - lo)).map (lo + ·)).foldl (fun m c =>
      let first := src.off + chunkLen * (c - lo)
      let body := (List.range (b.chunkElems c)).flatMap fun k => v.wireItem m.byte [first + k]
      let pad := List.replicate ((chunkLen - b.chunkElems c) * src.f.wire) 0#8
      m.takeGather j b step q c src.fmt (body ++ pad)) m
    if q < n then m.endGathers job else m.endReduction id missing

/-! ### REDUCE_SCATTER and ALL_REDUCE (R291, R309, R310, R312) -/

/-- Ends the reductions of a bucket and step whose roles are done; ALL_REDUCE goes on to gather. -/
def Mod.endReduces (m : Mod) (job bucket step : Nat) : Mod :=
  match m.job? job with
  | none => m
  | some j =>
    match j.plan.bucket? bucket with
    | none => m
    | some b =>
      if !j.rolesDone b step then m
      else
        (m.reducing job bucket step).foldl (fun m id =>
          match m.cmd? id with
          | none => m
          | some r =>
            let m := m.updSum id.lane (j.nodeStats b step)
            let missing := j.ownMissing b step
            if r.cmd.op == .allReduce then m.startGather id j b step missing ⟨b.shardOut, b.shardFmt, 0⟩
            else m.endReduction id missing) m

/-- The node roles of a reduction start: the rank's own input becomes present (R291, R299). -/
def Mod.beginReduce (m : Mod) (id : CmdId) (c : Cmd) (j : Job) (b : BucketDecl) (step : Nat) : Mod :=
  if !m.scalesHeld j b step then m.setWork id.lane (.scales b.id step)
  else
    let count := if c.pkt.u 4 4 = 2 ^ 32 - 1 then 1 else c.pkt.u 4 4
    let own := (List.range b.chunks).filter fun k => j.ownCount b step k count != 0
    let locs := own.flatMap fun k => (List.range (b.chunkElems k)).flatMap fun i => b.own.locs j (chunkLen * k + i)
    let (m, corrected, bad) := m.checkLocal (some c) locs
    let m := m.updSum id.lane fun s => { s with corrected := s.corrected + corrected }
    match bad with
    | some r => m.complete id .faultDetected r
    | none =>
      let m := m.setWork id.lane (.reduce b.id step)
      let m := if (j.plan.group b.group).contains j.plan.rank then m.ownPresent j b step count else m
      m.endReduces j.plan.job b.id step

/-- Reductions that waited for agreed scales may start (R299). -/
def Mod.pokeScales (m : Mod) (job : Nat) : Mod :=
  m.runnings.foldl (fun m (l, r) =>
    match r.work, m.job? job with
    | .scales bucket step, some j =>
      match j.plan.bucket? bucket with
      | some b => if r.cmd.job == job then m.beginReduce (r.cmd.id l) r.cmd j b step else m
      | none => m
    | _, _ => m) m

/-- REDUCE_SCATTER, ALL_REDUCE and ALL_GATHER at the head of their lane. -/
def Mod.startCollective (m : Mod) (id : CmdId) (c : Cmd) (j : Job) : Mod :=
  match j.plan.bucket? (c.pkt.u 0 2) with
  | none => m.complete id .badDescriptor 0x40
  | some b =>
    let step := j.step.toNat
    if c.op == .allGather then m.startGather id j b step 0 ⟨b.gatherSrc, b.gatherSrcFmt, b.gatherSrcOff⟩
    else m.beginReduce id c j b step

/-! ### BROADCAST (R313) -/

/-- The tree of a BROADCAST. -/
def Data.castTree (x : Data) : Tree :=
  let g := x.j.plan.group (x.c.pkt.u 2 2)
  ⟨g.length, g.findIdx (· == x.c.pkt.u 4 2)⟩

/-- Ends a BROADCAST whose chunks are all written and acknowledged. -/
def Mod.endBroadcast (m : Mod) (id : CmdId) : Mod :=
  match m.cmd? id with
  | none => m
  | some r =>
    match r.work with
    | .broadcast got true stored [] (some n) => if stored.length == n then m.endBody id got [] else m
    | _ => m

/-- Stores a chunk of a BROADCAST here and forwards it; a chunk beyond the destination fails with BOUNDS. -/
def Mod.takeCast (m : Mod) (id : CmdId) (x : Data) (c fmt : Nat) (body : Bytes) (last : Bool) : Mod :=
  match m.cmd? id with
  | none => m
  | some r =>
    match r.work with
    | .broadcast got ready stored unacked total =>
      let d := x.v 0x20
      if d.d.chunkCount ≤ c then m.complete id .bounds (boundsDetail 0 d.d.volume)
      else
        let rd := m.reader x.j got
        let (p, cut) := x.chunkPut d rd r.cut c fmt body
        let (m, corrected, bad) := m.checkAccess (some r.cmd) p.reads (p.writes.map (·.1))
        let m := m.updSum id.lane fun s => { s.counts p.counts with corrected := s.corrected + corrected }
        match bad with
        | some n => m.complete id .faultDetected n
        | none =>
          let m := (m.land x.j id rd p.writes).updRunning id.lane fun r => { r with cut := cut }
          let t := x.castTree
          let g := x.j.plan.group (x.c.pkt.u 2 2)
          let kids := (t.children (g.findIdx (· == x.j.plan.rank))).map fun k => g.getD k.2 0
          let m := kids.foldl (fun m k => m.emit (.wale k .gather
            { x.j.plan.waleMsg 0 x.j.step.toNat t.s c with vfmt := fmt, body := body, last := last })) m
          let total := if last then some (c + 1) else total
          m.setWork id.lane (.broadcast (p.writes ++ got) ready (stored.concat c) (unacked ++ kids.map fun k => (c, k)) total)
    | _ => m

/-- A BROADCAST whose bytes from elsewhere are here: the root sends. -/
def Mod.goBroadcast (m : Mod) (id : CmdId) (x : Data) (got : List (Nat × Byte)) : Mod :=
  let root := x.j.plan.rank == x.c.pkt.u 4 2
  let src := if root then x.v? 0x10 else none
  let needs := x.streamNeeds src (x.v? 0x20)
  match x.j.missing got needs with
  | _ :: _ => (m.ask x.j id (x.j.missing got needs)).setWork id.lane (.broadcast got false [] [] none)
  | [] =>
    let m := m.setWork id.lane (.broadcast got true [] [] none)
    match src with
    | none => m
    | some v =>
      let (m, corrected, bad) := m.checkLocal (some x.c) (v.forRead.boxLocs v.d.fullBox)
      let m := m.updSum id.lane fun s => { s with corrected := s.corrected + corrected }
      match bad with
      | some n => m.complete id .faultDetected n
      | none =>
        let rd := m.reader x.j got
        let n := v.d.chunkCount
        let m := (List.range n).foldl (fun m c =>
          m.takeCast id x c v.d.format (v.forRead.chunkBody rd c) (c + 1 == n)) m
        m.endBroadcast id

/-! ### SEND and RECV (R314) -/

/-- The sender streams its chunks, once the matching CLEAR has come; unequal element counts fail both. -/
def Mod.goSend (m : Mod) (id : CmdId) (x : Data) (got : List (Nat × Byte)) (theirs : Nat) : Mod :=
  match m.cmd? id with
  | none => m
  | some r =>
    match r.work with
    | .stream peer tag _ _ _ _ =>
      let v := (x.v 0x10).forRead
      let n := v.d.volume
      let msg : WaleMsg := { x.j.plan.waleMsg 0 tag 0 0 with vfmt := v.d.format, count := n }
      if theirs ≠ n then (m.emit (.wale peer .sendData { msg with last := true })).complete id .bounds theirs
      else
        let (m, corrected, bad) := m.checkLocal (some r.cmd) (v.boxLocs v.d.fullBox)
        let m := m.updSum id.lane fun s => { s with corrected := s.corrected + corrected }
        match bad with
        | some n => m.complete id .faultDetected n
        | none =>
          let rd := m.reader x.j got
          let k := v.d.chunkCount
          let m := (List.range k).foldl (fun m c => m.emit (.wale peer .sendData
            { msg with chunk := c, last := c + 1 == k, body := v.chunkBody rd c })) m
          m.setWork id.lane (.stream peer tag got true true [])
    | _ => m

/-- A SEND goes on: it needs its bytes and the oldest CLEAR of its peer and tag. -/
def Mod.pokeSend (m : Mod) (id : CmdId) : Mod :=
  match m.dataAt? id with
  | none => m
  | some (r, x) =>
    match r.work with
    | .stream peer tag got _ false chunks =>
      let needs := x.streamNeeds (x.v? 0x10) none
      match x.j.missing got needs with
      | _ :: _ => m.ask x.j id (x.j.missing got needs)
      | [] =>
        match x.j.clears.find? fun c => c.1 == peer && c.2.1 == tag with
        | none => m.setWork id.lane (.stream peer tag got true false chunks)
        | some c =>
          (m.updJob x.c.job fun j => { j with clears := j.clears.erase c }).goSend id x got c.2.2
    | _ => m

/-- Ends a RECV whose elements are all written. -/
def Mod.endRecv (m : Mod) (id : CmdId) : Mod :=
  match m.dataAt? id with
  | none => m
  | some (r, x) =>
    match r.work with
    | .stream _ _ got true _ chunks =>
      if r.cmd.op == .recv && chunks.length == (x.v 0x10).d.chunkCount then m.endBody id got [] else m
    | _ => m

/-- A RECV goes on once the bytes that its writes read are here. -/
def Mod.pokeRecv (m : Mod) (id : CmdId) : Mod :=
  match m.dataAt? id with
  | none => m
  | some (r, x) =>
    match r.work with
    | .stream peer tag got false clear chunks =>
      let needs := x.streamNeeds none (x.v? 0x10)
      match x.j.missing got needs with
      | _ :: _ => m.ask x.j id (x.j.missing got needs)
      | [] => m.setWork id.lane (.stream peer tag got true clear chunks)
    | _ => m

/-- BROADCAST, SEND and RECV at the head of their lane; RECV sends CLEAR with its element count. -/
def Mod.startStream (m : Mod) (id : CmdId) (c : Cmd) (j : Job) : Mod :=
  let srTo : Nat := if c.op == .broadcast then 0x20 else 0x10
  let limit := firstViol (((c.op.dests j.plan c.pkt).filter fun o => o.off == srTo).flatMap fun o => srLimit (c.op.conv c.pkt) o)
  match m.claimData id c j limit fun x => expertTest x (m.reader j []) with
  | .error m => m
  | .ok (m, x) =>
    let peer := c.pkt.u 2 2
    let tag := c.pkt.u 4 4
    match c.op with
    | .broadcast => m.goBroadcast id x []
    | .send => (m.setWork id.lane (.stream peer tag [] false false [])).pokeSend id
    | _ =>
      let m := m.emit (.wale peer .clear { j.plan.waleMsg 0 tag 0 0 with count := (x.v 0x10).d.volume })
      (m.setWork id.lane (.stream peer tag [] false true [])).pokeRecv id

/-- The running SEND or RECV commands of a job with a peer and tag, oldest first. -/
def Mod.streams (m : Mod) (job : Nat) (op : Op) (peer tag : Nat) : List (CmdId × Running) :=
  sortBy (fun (a b : CmdId × Running) => a.2.headAt ≤ b.2.headAt)
    ((m.runnings.filter fun (_, r) => r.cmd.job == job && r.cmd.op == op && match r.work with
      | .stream p t _ _ _ _ => p == peer && t == tag
      | _ => false).map fun (l, r) => (r.cmd.id l, r))

/-! ### Packets -/

/-- CLEAR (R314). -/
def Mod.onClear (m : Mod) (j : Job) (x : WaleMsg) : Mod :=
  let m := m.updJob j.plan.job fun j => { j with clears := j.clears.concat (x.source, x.step, x.count) }
  match (m.streams j.plan.job .send x.source x.step).find? fun s => match s.2.work with
    | .stream _ _ _ _ clear _ => !clear
    | _ => false with
  | some (id, _) => m.pokeSend id
  | none => m

/-- SEND_DATA (R314): written into the oldest matching RECV that lacks the chunk; none, and it is held. -/
def Mod.onSendData (m : Mod) (j : Job) (x : WaleMsg) : Mod × Bool :=
  match (m.streams j.plan.job .recv x.source x.step).find? fun s => match s.2.work with
    | .stream _ _ _ true _ chunks => !chunks.contains x.chunk
    | _ => false with
  | none => (m, false)
  | some (id, r) =>
    match m.dataAt? id, r.work with
    | some (_, d), .stream peer tag got _ _ chunks =>
      let v := d.v 0x10
      if x.count ≠ v.d.volume then (m.complete id .bounds x.count, true)
      else
        let rd := m.reader d.j got
        let (p, cut) := d.chunkPut v rd r.cut x.chunk x.vfmt x.body
        let (m, corrected, bad) := m.checkAccess (some r.cmd) p.reads (p.writes.map (·.1))
        let m := m.updSum id.lane fun s => { s.counts p.counts with corrected := s.corrected + corrected }
        match bad with
        | some n => (m.complete id .faultDetected n, true)
        | none =>
          let m := ((m.land d.j id rd p.writes).updRunning id.lane fun r => { r with cut := cut }).setWork id.lane (.stream peer tag (p.writes ++ got) true true (chunks.concat x.chunk))
          ((m.ackWale j x).endRecv id, true)
    | _, _ => (m, false)

/-- GATHER of a bucket (R311), or of a BROADCAST (bucket 0; log 57); what cannot be taken yet is held. -/
def Mod.onGather (m : Mod) (j : Job) (x : WaleMsg) : Mod × Bool :=
  let job := j.plan.job
  if x.bucket = 0 then
    let mine (r : Running) : Bool := r.cmd.job == job && match r.work with
      | .broadcast _ true stored _ _ => !stored.contains x.chunk
      | _ => false
    let fits (id : CmdId) : Option Data := (m.dataAt? id).bind fun (_, d) =>
      let t := d.castTree
      let g := d.j.plan.group (d.c.pkt.u 2 2)
      let q := g.findIdx (· == d.j.plan.rank)
      if t.s == x.shard && (t.parent q).map (fun k => g.getD k 0) == some x.source then some d else none
    match (m.runnings.filter fun (_, r) => mine r).findSome? fun (l, r) => (fits (r.cmd.id l)).map fun d => (r.cmd.id l, d) with
    | none => (m, false)
    | some (id, d) => (((m.ackWale j x).takeCast id d x.chunk x.vfmt x.body x.last).endBroadcast id, true)
  else
    match j.plan.bucket? x.bucket with
    | none => (m, true)
    | some b =>
      let step := j.waleStep x.step
      let n := (j.plan.group b.group).length
      let c := (b.shard n x.shard).1 + x.chunk
      let m := m.ensureGather job b.id step
      match (m.job? job).bind fun j => j.gather? b.id step with
      | none => (m, true)
      | some g =>
        if g.stored.contains (x.shard, c) then (m, false)
        else (((m.ackWale j x).takeGather j b step x.shard c x.vfmt x.body).endGathers job, true)

/-- CHUNK (R293, R307). -/
def Mod.onChunk (m : Mod) (j : Job) (x : WaleMsg) : Mod :=
  let job := j.plan.job
  match j.plan.bucket? x.bucket with
  | none => m
  | some b =>
    let m := m.ackWale j x
    let step := j.waleStep x.step
    if step + 16 < j.step.toNat then m.countJob job .WALE_STALE
    else
      let n := (j.plan.group b.group).length
      let t : Tree := ⟨n, x.shard⟩
      match (t.children (j.plan.posIn b.group)).find? fun c => j.plan.rankOf b.group c.2 == x.source with
      | none => m
      | some (e, _) =>
        let c := (b.shard n x.shard).1 + x.chunk
        let m := (m.ensureNode job b.id step x.shard).passNode job b.id step x.shard
        let inp : WaleInput :=
          { edge := e, chunk := c, values := decodeChunk x.vfmt (b.chunkElems c) x.body, contrib := x.contrib
            missing := x.missing, scales := bodyCodes x.vfmt x.body }
        (m.giveInput job b.id step x.shard inp).endReduces job b.id step

/-- ACK (R297, R309, R311, R313, R314): of a CHUNK when it comes from the parent, else of a gathered or streamed
chunk. -/
def Mod.onAck (m : Mod) (j : Job) (x : WaleMsg) : Mod :=
  let job := j.plan.job
  if x.bucket = 0 then
    match (m.streams job .send x.source x.step).find? fun s => match s.2.work with
      | .stream _ _ _ _ true chunks => !chunks.contains x.chunk
      | _ => false with
    | some (id, r) =>
      match m.dataAt? id, r.work with
      | some (_, d), .stream peer tag got ready clear chunks =>
        let chunks := chunks.concat x.chunk
        let m := m.setWork id.lane (.stream peer tag got ready clear chunks)
        if chunks.length == (d.v 0x10).d.chunkCount then m.endBody id got [] else m
      | _, _ => m
    | none =>
      m.runnings.foldl (fun m (l, r) =>
        match r.work with
        | .broadcast got ready stored unacked total =>
          if r.cmd.job == job && unacked.contains (x.chunk, x.source) then
            (m.setWork l (.broadcast got ready stored (unacked.erase (x.chunk, x.source)) total)).endBroadcast (r.cmd.id l)
          else m
        | _ => m) m
  else
    match j.plan.bucket? x.bucket with
    | none => m
    | some b =>
      let step := j.waleStep x.step
      let n := (j.plan.group b.group).length
      let t : Tree := ⟨n, x.shard⟩
      let c := (b.shard n x.shard).1 + x.chunk
      if (t.parent (j.plan.posIn b.group)).map (j.plan.rankOf b.group) == some x.source then
        (m.updNode job b.id step x.shard fun nd =>
          { nd with
            formed := nd.formed.map (fun f => if f.chunk == c then { f with acked := true } else f)
            inputs := nd.inputs.filter fun i => i.chunk != c || i.contrib == 0 }).endReduces job b.id step
      else
        (m.updGather job b.id step fun g => { g with unacked := g.unacked.erase (x.shard, c, x.source) }).endGathers job

/-- SCALES (R299). -/
def Mod.onScales (m : Mod) (j : Job) (x : WaleMsg) : Mod :=
  let job := j.plan.job
  match j.plan.bucket? x.bucket with
  | none => m
  | some b =>
    let step := j.waleStep x.step
    let codes := x.body.map BitVec.toNat
    let m := m.storeScales job b.id (step + 1) x.shard codes
    let m := m.ensureNode job b.id step x.shard
    let m := match m.nodeAt? job b.id step x.shard with
      | some a => m.sendScales a codes
      | none => m
    let m := m.formNode job b.id (step + 1) x.shard false
    (m.endReduces job b.id (step + 1)).pokeScales job

/-- A deadline of a node (R306). -/
def Mod.waleDeadline (m : Mod) (job bucket step shard : Nat) : Mod :=
  match m.nodeAt? job bucket step shard with
  | none => m
  | some a =>
    if (a.n.deadline.map fun d => decide (d ≤ m.now)).getD false && a.j.phase != .loaded then
      (m.expireNode a).endReduces job bucket step
    else m

end Sys2Proof.Machine
end

