-- ==== Sys2Proof/Machine/Norm.lean ====
section
/-!
DEFINITION. NORM and the verdict (R315–R319, R339, R349, R443), and the entry of every wale packet into its job
(R62, R64, R296, R353).
-/

namespace Sys2Proof.Machine

/-! ### Verdict records (R317, R339) -/

def Mod.verdict? (m : Mod) (job step : Nat) : Option VerdictRec :=
  m.verdicts.find? fun v => v.job == job && v.step == step && (m.current? job v.inc).isSome

/-- Records a verdict; the newest 16 records of a job stay. -/
def Mod.recordVerdict (m : Mod) (v : VerdictRec) : Mod :=
  if (m.verdict? v.job v.step).isSome then m
  else
    let mine := lastN 16 ((m.verdicts.filter fun o => o.job == v.job).concat v)
    { m with verdicts := m.verdicts.filter (fun (o : VerdictRec) => o.job != v.job) ++ mine }.mirror

/-- The reply payload of NORM (R319): 16 values and the verdict word. -/
def VerdictRec.payload (v : VerdictRec) : Bytes := v.vec.flatMap (fun x => leBytes 4 x.toNat) ++ leBytes 8 v.word.toNat

/-- Bits of a verdict word (R317). -/
def vDegraded (w : BitVec 64) : Bool := wordBit w 1
def vSpoiled (w : BitVec 64) : Bool := wordBit w 2
def vNonfinite (w : BitVec 64) : Bool := wordBit w 3
def vSpike (w : BitVec 64) : Bool := wordBit w 4
def vVerdict (w : BitVec 64) : Nat := w.toNat / 32 % 8
def vSpoiler (w : BitVec 64) : Nat := w.toNat / 65536 % 65536

/-- Completes a NORM from its verdict record (R319). -/
def Mod.endNorm (m : Mod) (id : CmdId) (v : VerdictRec) : Mod :=
  let degraded := vVerdict v.word == 1
  let m := m.updSum id.lane fun s => { s with degraded := s.degraded || degraded }
  m.complete id (if degraded then .okDegraded else .ok) (v.word.toNat % 2 ^ 32) v.payload

/-- Completes the NORM commands that wait for a verdict of a step. -/
def Mod.endNorms (m : Mod) (v : VerdictRec) : Mod :=
  (m.runnings.filter fun (_, r) => r.cmd.job == v.job && r.work == .norm v.step).foldl
    (fun m (l, r) => m.endNorm (r.cmd.id l) v) m

/-! ### The reduction (R316, R349) -/

def Job.norm? (j : Job) (step : Nat) : Option NormNode := j.norms.find? fun n => n.step == step

def Mod.updNorm (m : Mod) (job step : Nat) (f : NormNode → NormNode) : Mod :=
  m.updJob job fun j => { j with norms := j.norms.map fun n => if n.step == step then f n else n }

/-- Nodes stay for 16 steps. -/
def Mod.ensureNorm (m : Mod) (job step : Nat) : Mod :=
  m.updJob job fun j =>
    if (j.norm? step).isSome then j
    else { j with norms := (j.norms.filter fun n => j.step.toNat ≤ n.step + 16).concat { step := step } }

/-- The tree of NORM. -/
def Plan.normTree (p : Plan) : Tree := ⟨p.ranks, 0⟩

/-- The edges of this rank's node: its own and its children. -/
def Plan.normEdges (p : Plan) : List Nat := 0 :: (p.normTree.children p.rank).map (·.1)

/-- The rank behind an edge. -/
def Plan.normRank (p : Plan) (e : Nat) : Nat :=
  (((p.normTree.children p.rank).find? fun c => c.1 == e).map (·.2)).getD p.rank

/-- Adds bits to a node, keeping the lowest spoiler. -/
def NormNode.mark (n : NormNode) (degraded spoiled nonfinite : Bool) (spoiler : Nat) : NormNode :=
  { n with
    bits := { degraded := n.bits.degraded || degraded, spoiled := n.bits.spoiled || spoiled
              nonfinite := n.bits.nonfinite || nonfinite }
    spoiler := if spoiled then some ((n.spoiler.map (Nat.min spoiler)).getD spoiler) else n.spoiler }

/-- Takes an edge as spoiled. -/
def NormNode.lose (n : NormNode) (p : Plan) (e : Nat) : NormNode :=
  if n.gone.contains e || n.inputs.any fun i => i.1 == e then n
  else ({ n with gone := n.gone.concat e }).mark false true false (p.normRank e)

/-- The node's vector in R293's order. -/
def NormNode.sum (n : NormNode) (p : Plan) : List (BitVec 32) :=
  p.normEdges.foldl (fun acc e =>
    match n.inputs.find? fun i => i.1 == e with
    | some i => acc.zipWith add32 i.2
    | none => acc) (List.replicate 16 negZero32)

/-- The step's loss from a reduced vector, when the WATCH section names its elements and it exists (R349). -/
def Watch.lossOf (w : Watch) (vec : List (BitVec 32)) : Option (BitVec 32) :=
  match w.loss with
  | none => none
  | some (s, c) =>
    let n := vec.getD c 0#32
    let x := div32 (vec.getD s 0#32) n
    if (f32 n).isZero || nonfinite32 x then none else some x

/-- The spike test (R349). -/
def Job.spikes (j : Job) (vec : List (BitVec 32)) : Bool :=
  match j.plan.watch with
  | none => false
  | some w =>
    match w.lossOf vec with
    | none => false
    | some x =>
      w.warmup ≤ j.loss.count.toNat &&
        lt32 (add32 j.loss.mean (mul32 (BitVec.ofNat 32 w.kSigma) (sqrt32 j.loss.var))) x

/-- Forms the node when every edge has come or counts as spoiled: the root forms the one verdict of the step, records
it and sends it to every rank (R316, R318, R339). -/
def Mod.formNorm (m : Mod) (job step : Nat) : Mod :=
  match m.job? job with
  | none => m
  | some j =>
    match j.norm? step with
    | none => m
    | some n =>
      let here (e : Nat) : Bool := n.gone.contains e || n.inputs.any fun i => i.1 == e
      if n.formed || !j.plan.normEdges.all here then m
      else
        let vec := n.sum j.plan
        let m := m.updNorm job step fun n => { n with formed := true, deadline := none }
        let spoiler := n.spoiler.getD 0
        match j.plan.normTree.parent j.plan.rank with
        | some up =>
          m.emit (.wale up .normUp { j.plan.waleMsg 0 step 0 0 with
            vec := vec, word := verdictWord step spoiler n.bits.degraded n.bits.spoiled n.bits.nonfinite false })
        | none =>
          if (m.verdict? job step).isSome then m
          else
            let nonfinite := n.bits.nonfinite || vec.any nonfinite32
            let v : VerdictRec := { job := job, inc := j.plan.inc, step := step, vec := vec
                                    word := verdictWord step spoiler n.bits.degraded n.bits.spoiled nonfinite (j.spikes vec) }
            let m := m.recordVerdict v
            let m := (j.plan.peers).foldl (fun m r =>
              m.emit (.wale r .verdict { j.plan.waleMsg 0 step 0 0 with vec := vec, word := v.word })) m
            m.endNorms v

/-- A node's deadline passes: SPOILED for each missing input (R316). -/
def Mod.normDeadline (m : Mod) (job step : Nat) : Mod :=
  match m.job? job with
  | none => m
  | some j =>
    match j.norm? step with
    | none => m
    | some n =>
      if !(n.deadline.map fun d => decide (d ≤ m.now)).getD false || n.formed || j.phase == .loaded then m
      else
        let lost := j.plan.normEdges.filter fun e => !(n.gone.contains e || n.inputs.any fun i => i.1 == e)
        let m := m.trace_ { time := 0, kind := 6, job := job, inc := j.plan.inc, arg1 := lost.length }
        let m := m.updNorm job step fun n => lost.foldl (fun n e => n.lose j.plan e) n
        (m.updJob job fun j => { j with deadlines := j.deadlines + lost.length }).formNorm job step

/-- What a node's deadline does once it has passed, before an input that comes after it is judged (R305, R316). -/
def Mod.passNorm (m : Mod) (job step : Nat) : Mod :=
  match (m.job? job).bind fun j => j.norm? step with
  | some n => if (n.deadline.map fun d => decide (d < m.now)).getD false then m.normDeadline job step else m
  | none => m

/-- An input reaches the node; its first arms the deadline (R305), and one that comes after it is not taken (R316). -/
def Mod.giveNorm (m : Mod) (j : Job) (step e : Nat) (vec : List (BitVec 32)) (degraded spoiled nonfinite : Bool)
    (spoiler : Nat) : Mod :=
  let h := j.plan.normTree.height j.plan.rank
  let deadline := m.now + j.plan.normDeadline * h
  let m := m.passNorm j.plan.job step
  let m := (m.ensureNorm j.plan.job step).updNorm j.plan.job step fun n =>
    if n.formed || n.gone.contains e || n.inputs.any (fun i => i.1 == e) then n
    else
      let n := { n with inputs := n.inputs.concat (e, vec) }
      let n := if n.deadline.isNone && h != 0 then { n with deadline := some deadline } else n
      n.mark degraded spoiled nonfinite spoiler
  m.formNorm j.plan.job step

/-- A rank is known to have reset: as a child it counts as spoiled in the current step (R463). -/
def Mod.normNotice (m : Mod) (job rank : Nat) : Mod :=
  match m.job? job with
  | none => m
  | some j =>
    match (j.plan.normTree.children j.plan.rank).find? fun c => c.2 == rank with
    | none => m
    | some (e, _) =>
      let m := m.ensureNorm job j.step.toNat
      let steps := ((m.job? job).map fun j => j.norms.map (·.step)).getD []
      steps.foldl (fun m s => (m.updNorm job s fun n => if n.formed then n else n.lose j.plan e).formNorm job s) m

/-! ### The command (R315, R443) -/

/-- The lanes have been tested: the rank's vector and local verdict enter the tree. -/
def Mod.beginNorm (m : Mod) (id : CmdId) : Mod :=
  match m.cmd? id with
  | none => m
  | some r =>
    match m.job? r.cmd.job with
    | none => m
    | some j =>
      let step := j.step.toNat
      match m.verdict? r.cmd.job step with
      | some v => m.endNorm id v
      | none =>
        let vec := (List.range 16).map fun i => BitVec.ofNat 32 (r.cmd.pkt.u (0x10 + 4 * i) 4)
        let force := decide (r.cmd.pkt.u 1 1 % 2 = 1)
        (m.setWork id.lane (.norm step)).giveNorm j step 0 vec j.local_.degraded (j.local_.spoiled || force) j.local_.nonfinite
          j.plan.rank

/-- NORM at the head of its lane waits for a lane test of every LPDDR6 channel in service (R443). -/
def Mod.startNorm (m : Mod) (id : CmdId) (c : Cmd) : Mod :=
  let m := m.updJob c.job fun j => { j with normStarted := true }
  let chans := (List.range 96).filter fun n => !m.badChannels.contains n
  if chans.isEmpty then m.beginNorm id else m.setWork id.lane (.normLanes chans)

/-- A lane test of a channel ended: NORM commands wait for one channel less. -/
def Mod.normLane (m : Mod) (channel : Nat) : Mod :=
  m.runnings.foldl (fun m (l, r) =>
    match r.work with
    | .normLanes cs =>
      match cs.erase channel with
      | [] => m.beginNorm (r.cmd.id l)
      | rest => m.setWork l (.normLanes rest)
    | _ => m) m

/-! ### Packets (R62, R64, R296, R353) -/

/-- NORM_UP: a child's vector and bits. -/
def Mod.onNormUp (m : Mod) (j : Job) (x : WaleMsg) : Mod :=
  match (j.plan.normTree.children j.plan.rank).find? fun c => c.2 == x.source with
  | none => m
  | some (e, _) =>
    m.giveNorm j (j.waleStep x.step) e x.vec (vDegraded x.word) (vSpoiled x.word) (vNonfinite x.word) (vSpoiler x.word)

/-- VERDICT: recorded, and the step's NORM ends. -/
def Mod.onVerdict (m : Mod) (j : Job) (x : WaleMsg) : Mod :=
  let step := j.waleStep x.step
  match m.verdict? j.plan.job step with
  | some v => m.endNorms v
  | none =>
    let v : VerdictRec := { job := j.plan.job, inc := j.plan.inc, step := step, word := x.word, vec := x.vec }
    (m.recordVerdict v).endNorms v

/-- Whether an acknowledgement answers a packet of this kind (R297, R311, R314). -/
def waleAcks : WaleKind → Bool
  | .chunk | .gather | .sendData => true
  | _ => false

/-- A packet of a running job; false when it must wait (log 57). -/
def Mod.takeWale (m : Mod) (j : Job) (kind : WaleKind) (x : WaleMsg) : Mod × Bool :=
  match kind with
  | .chunk => (m.onChunk j x, true)
  | .ack => (m.onAck j x, true)
  | .scales => (m.onScales j x, true)
  | .gather => m.onGather j x
  | .normUp => (m.onNormUp j x, true)
  | .verdict => (m.onVerdict j x, true)
  | .clear => (m.onClear j x, true)
  | .sendData => m.onSendData j x

/-- Takes the packets that a job held, in order; what still cannot be taken stays. -/
def Mod.replayFuel : Nat → Mod → Nat → List (WaleKind × WaleMsg) → Mod
  | 0, m, _, _ => m
  | _ + 1, m, _, [] => m
  | n + 1, m, job, (k, x) :: rest =>
    match m.job? job with
    | none => m
    | some j =>
      let (m', took) := m.takeWale j k x
      replayFuel n (if took then m' else m'.holdWale job k x) job rest

/-- One pass over what a job holds; a job that has not started holds everything (R64). -/
def Mod.replayWale (m : Mod) (job : Nat) : Mod :=
  match m.job? job with
  | none => m
  | some j =>
    if j.phase == .loaded || j.heldWale.isEmpty then m
    else (m.updJob job fun j => { j with heldWale := [] }).replayFuel (j.heldWale.length) job j.heldWale

/-- Whether a packet carries a step number: CLEAR and SEND_DATA carry a match tag. -/
def waleStepped : WaleKind → Bool
  | .clear | .sendData => false
  | _ => true

/-- A wale packet reaches this rank. -/
def Mod.onWale (m : Mod) (kind : WaleKind) (x : WaleMsg) : Mod :=
  if m.resettingFor x.job then m.turnAway (.wale x.source kind x)
  else match m.current? x.job x.inc with
  | none => (m.count .staleTraffic).countJob x.job .WALE_STALE
  | some j =>
    if j.phase == .loaded then m.holdWale x.job kind x
    else if j.rollbackUntil.isSome && waleStepped kind && j.waleStep x.step == j.step.toNat then
      (if waleAcks kind then m.ackWale j x else m).countJob x.job .WALE_STALE
    else
      let (m, took) := m.takeWale j kind x
      (if took then m else m.holdWale x.job kind x).replayWale x.job

/-! ### Verdict requests at the root (R339) -/

/-- The root answers a rank from its record and forms nothing. -/
def Mod.verdictRequest (m : Mod) (job step rank : Nat) : Mod :=
  if m.resettingFor job then m.turnAway (.request (((m.job? job).map fun j => j.plan.addrOf rank).getD 0))
  else match m.verdicts.reverse.find? fun v => v.job == job && v.step == step with
  | some v => m.emit (.verdictTell rank job step v.word v.vec)
  | none => m

/-! ### The commands of this family -/

def execChunk (x : WaleMsg) (s : State) : Host.Outcome State Fault Refusal := lift (fun m => m.onWale .chunk x) s
def execAck (x : WaleMsg) (s : State) : Host.Outcome State Fault Refusal := lift (fun m => m.onWale .ack x) s
def execScales (x : WaleMsg) (s : State) : Host.Outcome State Fault Refusal := lift (fun m => m.onWale .scales x) s
def execGatherChunk (x : WaleMsg) (s : State) : Host.Outcome State Fault Refusal := lift (fun m => m.onWale .gather x) s
def execNormUp (x : WaleMsg) (s : State) : Host.Outcome State Fault Refusal := lift (fun m => m.onWale .normUp x) s
def execClear (x : WaleMsg) (s : State) : Host.Outcome State Fault Refusal := lift (fun m => m.onWale .clear x) s
def execSendData (x : WaleMsg) (s : State) : Host.Outcome State Fault Refusal := lift (fun m => m.onWale .sendData x) s

def execWaleDeadline (job bucket step shard : Nat) (s : State) : Host.Outcome State Fault Refusal :=
  lift (fun m => m.waleDeadline job bucket step shard) s

def execNormDeadline (job step : Nat) (s : State) : Host.Outcome State Fault Refusal :=
  lift (fun m => m.normDeadline job step) s

def execVerdictRequest (job step rank : Nat) (s : State) : Host.Outcome State Fault Refusal :=
  lift (fun m => m.verdictRequest job step rank) s

end Sys2Proof.Machine
end

