-- ==== Sys2Proof/Machine/Optim.lean ====
section
/-!
DEFINITION. The optimizer sweep and the training aids (R324–R344, R348–R353): OPTIM_SWEEP, its pages, journal and
verdict gate, LOSS_WATCH, STEP_COMMIT and STEP_ROLLBACK.
-/

namespace Sys2Proof.Machine

/-! ### Sweep pages and stamps (R330, R331) -/

/-- The sweep unit, 0–23, of the package that holds a slab. -/
def Job.slabUnit (j : Job) (r : RangeDecl) (s : Nat) : Nat :=
  match j.place? r.weightLo with
  | some p => (lpddrPlace (p.place.addr (256 * s))).2.1
  | none => 0

/-- The slabs of a range that belong to a unit, in increasing order. -/
def Job.unitSlabs (j : Job) (r : RangeDecl) (u : Nat) : List Nat := (List.range (j.plan.slabs r)).filter fun s => j.slabUnit r s == u

/-- The number of a unit's pages of a range. -/
def Job.unitPages (j : Job) (r : RangeDecl) (u : Nat) : Nat := ((j.unitSlabs r u).length + 15) / 16

/-- The elements of a page. -/
def Job.pageElems (j : Job) (r : RangeDecl) (u p : Nat) : List Nat :=
  (((j.unitSlabs r u).drop (16 * p)).take 16).flatMap fun s =>
    (List.range (min 128 (j.plan.rangeLen r - 128 * s))).map (128 * s + ·)

/-- Every page of a range, as (range, unit, page). -/
def Job.rangePages (j : Job) (r : RangeDecl) : List (Nat × Nat × Nat) :=
  (List.range 24).flatMap fun u => (List.range (j.unitPages r u)).map fun p => (r.id, u, p)

/-- The value of a stamp that no step has written. -/
def noStamp : Nat := 0xFFFFFFFFFFFFFFFF

def Job.stamp (j : Job) (pg : Nat × Nat × Nat) : Nat :=
  ((j.stamps.find? fun s => s.range == pg.1 && s.unit == pg.2.1 && s.page == pg.2.2).map (·.step)).getD noStamp

/-- Writes a page stamp. -/
def Job.setStamp (j : Job) (range unit page step now : Nat) : Job :=
  let rest := j.stamps.filter fun s => !(s.range == range && s.unit == unit && s.page == page)
  { j with stamps := { range := range, unit := unit, page := page, step := step, wroteAt := now } :: rest }

/-- The scale codes of a page's m and v (R335). -/
def Job.pageScale (j : Job) (range unit page : Nat) : Nat × Nat :=
  ((j.pageScales.find? fun s => s.range == range && s.unit == unit && s.page == page).map fun s => (s.m, s.v)).getD (127, 127)

/-- Sets the scale codes of a page, which a range under BF16_SCALED has. -/
def Job.setPageScale (j : Job) (range unit page : Nat) (sc : Nat × Nat) : Job :=
  if ((j.plan.range? range).map (·.scaled)).getD false then
    let rest := j.pageScales.filter fun s => !(s.range == range && s.unit == unit && s.page == page)
    { j with pageScales := { range := range, unit := unit, page := page, m := sc.1, v := sc.2 } :: rest }
  else j

/-! ### Check 13 (R332, R541) -/

/-- The ranges that OPTIM_SWEEP names. -/
def sweepRanges (p : Packet) : List Nat := ((List.range (p.u 0 2)).map fun i => p.u (0x40 + 2 * i) 2).eraseDups

/-- The scalars of Table 11.2 that an optimizer uses, in the order LR, B1, OMB1, B2, OMB2, EPS, WD, BC1, BC2,
MAX_NORM, GRAD_SCALE. -/
def scalarUsed (o : Optimizer) (clip : Bool) (i : Nat) : Bool :=
  match i with
  | 0 | 1 | 2 | 6 | 10 => true
  | 3 | 4 => o == .adamw || o == .lion
  | 5 | 7 | 8 => o == .adamw
  | _ => clip

def sweepFault (j : Job) (p : Packet) : Option Nat :=
  let n := p.u 0 2
  let at_ (i : Nat) : Option RangeDecl := j.plan.range? (p.u (0x40 + 2 * i) 2)
  let first := ((at_ 0).map (·.optimizer)).getD .adamw
  let clip := (List.range n).any fun i => ((at_ i).map (·.clip)).getD false
  firstViol (fieldRule (n == 0 || 256 < n) 0 ++
    (List.range 11).flatMap (fun i =>
      fieldRule ((at_ 0).isSome && !scalarUsed first clip i && p.u (8 + 4 * i) 4 != 0) (8 + 4 * i)) ++
    (List.range n).flatMap fun i =>
      fieldRule ((at_ i).isNone || ((at_ 0).isSome && (at_ i).map (·.optimizer) != some first)) (0x40 + 2 * i))

/-- STEP_COMMIT and STEP_ROLLBACK name the job's step (R541). -/
def stepFault (j : Job) (p : Packet) : Option Nat := if p.u 0 8 = j.step.toNat then none else some 0x40

/-! ### The update of one element (R333–R335) -/

/-- One rounding to FP32. -/
def rn (x : Val) : Val := f32 (rnd32 x)

/-- The factor s of R333. -/
def sweepFactor (sc : Nat → Val) (clip : Bool) (vec0 : BitVec 32) : Val :=
  let g := f32 (sqrt32 vec0)
  let c := if !clip || g.le (sc 9) then Val.ofInt 1 else rn ((sc 9).div g)
  rn (c.mul (sc 10))

/-- sign(x) of R334. -/
def Val.sign (x : Val) : Val :=
  if x.isNan then .nan else if x.isZero then .zero else Val.ofInt (if x.negative then -1 else 1)

/-- R334: the new w, m and v. -/
def sweepElem (o : Optimizer) (sc : Nat → Val) (s w g0 m v : Val) : Val × Val × Val :=
  let mul (a b : Val) : Val := rn (a.mul b)
  let add (a b : Val) : Val := rn (a.add b)
  let sub (a b : Val) : Val := rn (a.sub b)
  let g := mul g0 s
  match o with
  | .adamw =>
    let m := add (mul (sc 1) m) (mul (sc 2) g)
    let v := add (mul (sc 3) v) (mul (sc 4) (mul g g))
    let u := rn ((mul m (sc 7)).div (add (rn (mul v (sc 8)).sqrt) (sc 5)))
    (sub w (mul (sc 0) (add u (mul (sc 6) w))), m, v)
  | .sgd =>
    let g := add g (mul (sc 6) w)
    let m := add (mul (sc 1) m) (mul (sc 2) g)
    (sub w (mul (sc 0) m), m, v)
  | .nesterov =>
    let g := add g (mul (sc 6) w)
    let m := add (mul (sc 1) m) (mul (sc 2) g)
    (sub w (mul (sc 0) (add g (mul (sc 1) m))), m, v)
  | .lion =>
    let d := (add (mul (sc 1) m) (mul (sc 2) g)).sign
    (sub w (mul (sc 0) (add d (mul (sc 6) w))), add (mul (sc 3) m) (mul (sc 4) g), v)

/-- The E8M0 code of a page's new values (R335). -/
def scaledCode (xs : List Val) : Nat :=
  if xs.any Val.nonfinite then 127
  else
    match maxAbs xs with
    | .fin _ m e => if m = 0 then 127 else (min 254 (max 0 (e + Nat.log2 m + 127))).toNat
    | _ => 127

/-- A run of a range's tensor: FP32 or BF16 under its page scale. -/
def RangeDecl.stateElems (r : RangeDecl) (t : Nat) : Elems := ⟨t, if r.scaled then 0x01 else 0x00, 0⟩

/-- Writes of one element as raw bytes, at home and at a valid copy (R247). -/
def Elems.raw (x : Elems) (j : Job) (i code : Nat) : List (Nat × Byte) :=
  let bs := leBytes x.f.size code
  (x.home j i).zip bs ++ match j.copyOf x.tensor with
    | some _ => (x.locs j i).zip bs
    | none => []

/-- Writes of a state tensor's new values, and what the encoding counts (R335). -/
def RangeDecl.putState (r : RangeDecl) (j : Job) (t code : Nat) (xs : List (Nat × Val)) : Put :=
  let x := r.stateElems t
  xs.foldl (fun p (i, v) =>
    let c := if r.scaled then bf16.convert ⟨.sr, true, false⟩ ((j.draw t).state i) (v.scale (127 - (code : Int)))
      else fp32.convert {} 0 v
    p.add { writes := x.raw j i c.code
            counts := { saturated := if c.saturated then 1 else 0, nonfinite := if c.nonfinite then 1 else 0 } }) {}

/-- What one page's update reads, writes and counts. -/
structure PageWork where
  reads : List Nat
  put : Put
  m : Nat
  v : Nat
  deriving DecidableEq, Repr

/-- The update of a page: `j` as the sweep reads it, `jw` as it writes (R247). -/
def Job.pageWork (j jw : Job) (r : RangeDecl) (sc : Nat → Val) (vec0 : BitVec 32) (u p : Nat) (rd : Nat → Byte) : PageWork :=
  let b := (j.plan.bucket? r.bucket).getD default
  let hi : Elems := ⟨r.weightHi, 0x01, r.weightHiOff⟩
  let lo : Elems := ⟨r.weightLo, 0x01, 0⟩
  let grad : Elems := ⟨b.shardOut, b.shardFmt, 0⟩
  let adam := r.optimizer == .adamw
  let (mc, vc) := j.pageScale r.id u p
  let old (t code i : Nat) : Val :=
    let v := (r.stateElems t).val j rd i
    if r.scaled then v.scale ((code : Int) - 127) else v
  let raw (x : Elems) (i : Nat) : Nat := leNat ((x.locs j i).map rd)
  let s := sweepFactor sc r.clip vec0
  let els := j.pageElems r u p
  let news := els.map fun i =>
    let w := f32 (BitVec.ofNat 32 (raw hi i * 65536 + raw lo i))
    (i, sweepElem r.optimizer sc s w (grad.val j rd i) (old r.m mc i) (if adam then old r.v vc i else .zero))
  let ms := news.map fun x => (x.1, x.2.2.1)
  let vs := if adam then news.map fun x => (x.1, x.2.2.2) else []
  let mc' := if r.scaled then scaledCode (ms.map (·.2)) else 127
  let vc' := if r.scaled then scaledCode (vs.map (·.2)) else 127
  let wput := news.foldl (fun (q : Put) x =>
    let w := (rnd32 x.2.1).toNat
    q.add { writes := hi.raw jw x.1 (w / 65536) ++ lo.raw jw x.1 (w % 65536)
            counts := { nonfinite := if x.2.1.nonfinite then 1 else 0 } }) {}
  { reads := els.flatMap fun i => hi.locs j i ++ lo.locs j i ++ grad.locs j i ++ (r.stateElems r.m).locs j i ++
      (if adam then (r.stateElems r.v).locs j i else [])
    put := (wput.add (r.putState jw r.m mc' ms)).add (r.putState jw r.v vc' vs)
    m := mc', v := vc' }

/-! ### The verdict gate (R338) -/

inductive Gate where
  | spoiled (detail : Nat)
  | skip
  | apply
  deriving DecidableEq, Repr

/-- R338 on a verdict word. -/
def gateOf (w : Watch) (spikeRun : Nat) (word : BitVec 64) : Gate :=
  let set (p : WatchPolicy) : Bool := (vSpike word && w.spike == p) || (vNonfinite word && w.nonfinite == p) ||
    (vDegraded word && w.degraded == p)
  if vSpoiled word then .spoiled (vSpoiler word)
  else if set .stop || (vSpike word && w.spike == .skip && w.spikeLimit ≤ spikeRun) then .spoiled (2 ^ 63 + word.toNat % 2 ^ 32)
  else if set .skip then .skip
  else .apply

def Job.gate (j : Job) (word : BitVec 64) : Gate := gateOf (j.plan.watch.getD {}) j.loss.spikeRun.toNat word

/-! ### Journal (R341–R343) -/

/-- Adds a journal record: a unit keeps the newest 16. -/
def Mod.journal (m : Mod) (r : JournalRec) : Mod :=
  let mine := m.journals.filter fun o => o.job == r.job && o.unit == r.unit
  let rest := m.journals.filter fun o => !(o.job == r.job && o.unit == r.unit)
  { m with journals := rest ++ lastN 16 (mine.concat r) }

/-- Rolls a job's sweep units forward: COMPLETE records that are not in place are applied, WRITING ones emptied. -/
def Mod.rollForward (m : Mod) (job : Nat) : Mod :=
  m.journals.foldl (fun m r =>
    if r.job != job then m
    else
      let now := m.now
      let set (state : Nat) (m : Mod) : Mod :=
        { m with journals := m.journals.map fun o => if o == r then { o with state := state } else o }
      match r.state with
      | 1 => set 0 m
      | 2 =>
        let stamp := (((m.job? job).map fun j => j.stamp (r.range + 1, r.unit, r.page))).getD noStamp
        if stamp = r.step then set 3 m
        else set 3 (((m.store r.writes).updJob job fun j =>
          (j.setStamp (r.range + 1) r.unit r.page r.step now).setPageScale (r.range + 1) r.unit r.page r.scales).countJob job
          .SWEEP_ROLLED_FORWARD)
      | _ => m) m

/-! ### OPTIM_SWEEP (R333, R338, R339, R344) -/

/-- The ranges of a job's running sweeps. -/
def Mod.sweeping (m : Mod) (job : Nat) : List (CmdId × List Nat) :=
  (m.runnings.filter fun (_, r) => r.cmd.job == job && r.cmd.op == .optimSweep && match r.work with
    | .sweep .. | .verdictAsk => true
    | _ => false).map fun (l, r) => (r.cmd.id l, sweepRanges r.cmd.pkt)

/-- The reply payload of OPTIM_SWEEP (R541). -/
def sweepPayload (skipped : Bool) (pages : Nat) : Bytes := leBytes 4 (if skipped then 1 else 0) ++ leBytes 4 pages

/-- Ends a sweep whose pages are done. A sweep substitutes no contribution of its own, so DETAIL is 0 (log 58). -/
def Mod.endSweep (m : Mod) (id : CmdId) (degraded : Bool) (pages : Nat) : Mod :=
  let m := m.updSum id.lane fun s => { s with degraded := s.degraded || degraded }
  m.complete id (if degraded then .okDegraded else .ok) 0 (sweepPayload false pages)

/-- The tensors of a range that a sweep reads and writes. -/
def RangeDecl.swept (r : RangeDecl) : List Nat := [r.weightHi, r.weightLo, r.m, r.v].filter (· != 0)

/-- Runs the gate on a verdict that is here. -/
def Mod.gateSweep (m : Mod) (id : CmdId) (c : Cmd) (j : Job) (v : VerdictRec) : Mod :=
  match j.gate v.word with
  | .spoiled d =>
    ((m.updJob c.job fun j => { j with sweepSpoiled := true }).countJob c.job .SWEEPS_SKIPPED).complete id .spoiled d
  | .skip => (m.countJob c.job .SWEEPS_SKIPPED).complete id .ok 0 (sweepPayload true 0)
  | .apply =>
    let all := ((sweepRanges c.pkt).filterMap j.plan.range?).flatMap j.rangePages
    let left := all.filter fun pg => j.stamp pg != j.step.toNat
    let m := m.countJob c.job .SWEEP_STAMP_SKIPS (all.length - left.length)
    let reads := ((sweepRanges c.pkt).filterMap j.plan.range?).flatMap RangeDecl.swept
    if left.isEmpty then m.endSweep id (vDegraded v.word) 0 else (m.noteTensors id j reads).setWork id.lane (.sweep left 0)

/-- Asks the root's Pholer for a verdict (R339). -/
def Mod.askVerdict (m : Mod) (j : Job) : Mod :=
  if j.plan.rank = 0 then m else m.sendReq (j.plan.addrOf 0) (.verdictAsk 0 j.plan.job j.step.toNat)

def Mod.startSweep (m : Mod) (id : CmdId) (c : Cmd) (j : Job) : Mod :=
  let rs := sweepRanges c.pkt
  if rs.any j.sweepBlocked.contains then
    let (st, d) := refuseFit .jobState 0
    m.complete id st d
  else
    match (m.sweeping c.job).find? fun o => o.1 != id && o.2.any rs.contains with
    | some o => (m.countJob c.job .OVERLAP_REFUSED).complete id .overlap (overlapDetail o.1)
    | none =>
      match m.verdict? c.job j.step.toNat with
      | some v => m.gateSweep id c j v
      | none => (m.askVerdict j).setWork id.lane .verdictAsk

/-- Sweeps that waited for the verdict of the job's step go on. -/
def Mod.pokeVerdict (m : Mod) (job : Nat) : Mod :=
  m.runnings.foldl (fun m (l, r) =>
    match m.job? job with
    | some j =>
      if r.cmd.job == job && r.work == .verdictAsk then
        match m.verdict? job j.step.toNat with
        | some v => m.gateSweep (r.cmd.id l) r.cmd j v
        | none => m
      else m
    | none => m) m

/-- A verdict request is repeated. -/
def Mod.verdictRetry (m : Mod) (id : CmdId) : Mod :=
  match m.cmd? id with
  | none => m
  | some r =>
    match r.work, m.job? r.cmd.job with
    | .verdictAsk, some j => m.askVerdict j
    | _, _ => m

/-- The root's verdict arrives at this rank. -/
def Mod.verdictHere (m : Mod) (x : WaleMsg) : Mod := (m.onWale .verdict x).pokeVerdict x.job

/-! ### Commit and rollback (R350, R352, R353) -/

/-- The loss statistics after a step that was applied (R350). -/
def LossStats.after (l : LossStats) (x : BitVec 32) : LossStats :=
  let k6 : BitVec 32 := 0x3C800000
  let rest := sub32 one32 k6
  let count := BitVec.ofNat 32 (min (2 ^ 32 - 1) (l.count.toNat + 1))
  if l.count = 0 then { l with mean := x, var := 0, count := count }
  else
    let d := sub32 x l.mean
    { l with
      mean := add32 l.mean (mul32 d k6)
      var := mul32 rest (add32 l.var (mul32 k6 (mul32 d d)))
      count := count }

/-- The statistics at STEP_COMMIT; without a verdict record the step counts as not applied (log 59). -/
def Job.commitLoss (j : Job) (v : Option VerdictRec) : LossStats :=
  match v with
  | none => { j.loss with spikeRun := 0 }
  | some v =>
    let x := (j.plan.watch.bind fun w => w.lossOf v.vec)
    let l := match j.gate v.word, x with
      | .apply, some x => j.loss.after x
      | _, _ => j.loss
    { l with spikeRun := if vSpike v.word then BitVec.ofNat 8 (min 255 (j.loss.spikeRun.toNat + 1)) else 0 }

/-- Whether some range has some pages stamped with the step and others not. -/
def Job.partlySwept (j : Job) : Bool :=
  j.plan.ranges.any fun r =>
    let ps := j.rangePages r
    ps.any (fun p => j.stamp p == j.step.toNat) && ps.any fun p => j.stamp p != j.step.toNat

/-- STEP_COMMIT, once no sweep is in flight. -/
def Mod.goCommit (m : Mod) (id : CmdId) (c : Cmd) (j : Job) : Mod :=
  if !(m.sweeping c.job).isEmpty then m.setWork id.lane .commitWait
  else if j.partlySwept || j.sweepSpoiled then
    let (st, d) := refuseFit .jobState 0
    m.complete id st d
  else
    let loss := j.commitLoss (m.verdict? c.job j.step.toNat)
    let next := j.step + 1
    let m := m.updJob c.job fun j =>
      { j with loss := loss, local_ := {}, step := next, normStarted := false, sweepSpoiled := false }
    m.complete id .ok 0 (leBytes 8 next.toNat)

/-- Whether a command is an operation of the job's current step on wale, exchange or sweep. -/
def Work.ofStep : Work → Bool
  | .exchange .. | .reduce .. | .gathering .. | .broadcast .. | .scales .. | .normLanes _ | .norm _ | .stream ..
  | .verdictAsk | .sweep .. => true
  | _ => false

/-- Whether operations of the job's step are in flight on this rank. -/
def Mod.stepBusy (m : Mod) (j : Job) : Bool :=
  m.runnings.any (fun (_, r) => r.cmd.job == j.plan.job && r.work.ofStep) ||
    { j with waleNodes := j.waleNodes.filter fun n => n.step == j.step.toNat
             norms := j.norms.filter fun n => n.step == j.step.toNat
             gathers := j.gathers.filter fun g => g.step == j.step.toNat }.waleBusy

/-- Frees an exchange's step (R285, R353); parcels held elsewhere may be pulled (R273). -/
def Mod.dropExStep (m : Mod) (j : Job) (s : ExStep) : Mod :=
  let drop (m : Mod) : Mod :=
    m.updJob j.plan.job fun j => { j with exSteps := j.exSteps.filter fun o => !(o.exch == s.exch && o.step == s.step) }
  match j.plan.exchange? s.exch with
  | some e => (drop ((m.freeRecv j.plan e s).freeLedger j.plan e s)).pullsOf j.plan.job e.recvPool
  | none => drop m

/-- STEP_ROLLBACK, once nothing of the step is in flight. -/
def Mod.goRollback (m : Mod) (id : CmdId) (c : Cmd) (j : Job) : Mod :=
  if m.stepBusy j then m.setWork id.lane .rollbackWait
  else
    let n := j.step.toNat
    let until_ := m.now + 100000
    let m := (j.exSteps.filter fun s => s.step == n).foldl (fun m s => m.dropExStep j s) m
    let m := m.updJob c.job fun j =>
      { j with
        waleNodes := j.waleNodes.filter fun x => x.step != n
        norms := j.norms.filter fun x => x.step != n
        gathers := j.gathers.filter fun x => x.step != n
        local_ := {}, normStarted := false, sweepSpoiled := false, rollbackUntil := some until_ }
    { m with verdicts := m.verdicts.filter fun (v : VerdictRec) => !(v.job == c.job && v.step == n) }.mirror.complete id .ok 0

def Mod.startRollback (m : Mod) (id : CmdId) (c : Cmd) (j : Job) : Mod :=
  if j.stamps.any fun s => s.step == j.step.toNat then
    let (st, d) := refuseFit .jobState 0
    m.complete id st d
  else m.goRollback id c j

/-- Commits and rollbacks that wait look again. -/
def Mod.pokeSteps (m : Mod) (job : Nat) : Mod :=
  m.runnings.foldl (fun m (l, r) =>
    match r.work, m.job? job with
    | .commitWait, some j => if r.cmd.job == job then m.goCommit (r.cmd.id l) r.cmd j else m
    | .rollbackWait, some j => if r.cmd.job == job then m.goRollback (r.cmd.id l) r.cmd j else m
    | _, _ => m) m

/-- The discarding after a rollback ends. -/
def Mod.rollbackEnd (m : Mod) (job : Nat) : Mod :=
  match m.job? job with
  | none => m
  | some j =>
    if (j.rollbackUntil.map fun t => decide (t ≤ m.now)).getD false then m.updJob job fun j => { j with rollbackUntil := none } else m

/-! ### One page (R342) -/

/-- The scalars of an OPTIM_SWEEP in the order of Table 11.2. -/
def Running.scalar (r : Running) (i : Nat) : Val := f32 (BitVec.ofNat 32 (r.cmd.pkt.u (8 + 4 * i) 4))

/-- The journal of a unit when its sweep is cut short: at most 16 pages stand between steps 1 and 4, and the records of the
first of them are COMPLETE, of the others WRITING (R342). How many they are is free (log 114); a page that cannot be read has no
COMPLETE record. -/
def Mod.cutUnit (m : Mod) (id : CmdId) (r : Running) (j : Job) (v : VerdictRec) (left : List (Nat × Nat × Nat)) (u : Nat) : Mod :=
  let mine := left.filter fun pg => pg.2.1 == u
  if mine.isEmpty then m
  else
    let (a, m) := m.freeNat
    let (b, m) := m.freeNat
    let n := a % (min 16 mine.length + 1)
    ((mine.take n).zipIdx.foldl (fun (m : Mod) (x : (Nat × Nat × Nat) × Nat) =>
      match j.plan.range? x.1.1 with
      | none => m
      | some rg =>
        let w := (j.readBy id).pageWork j rg r.scalar (v.vec.headD 0#32) u x.1.2.2 m.byte
        let whole := decide (x.2 < b % (n + 1)) && (m.checkAccess none w.reads (w.put.writes.map (·.1))).2.2.isNone
        m.journal { job := r.cmd.job, unit := u, step := j.step.toNat, range := x.1.1 - 1, page := x.1.2.2
                    state := if whole then 2 else 1, writes := if whole then w.put.writes else [], scales := (w.m, w.v) }) m)

/-- What stands in the journals when a running sweep is cut short (R342, R343). -/
def Mod.cutSweep (m : Mod) (id : CmdId) : Mod :=
  match m.cmd? id with
  | none => m
  | some r =>
    match r.work, m.job? r.cmd.job with
    | .sweep left _, some j =>
      match m.verdict? r.cmd.job j.step.toNat with
      | some v => (List.range 24).foldl (fun m u => m.cutUnit id r j v left u) m
      | none => m
    | _, _ => m

/-- A sweep that a fault, an abort or a reset ends: what is COMPLETE in its journals is rolled forward (R343). -/
def Mod.failSweep (m : Mod) (id : CmdId) (job : Nat) (st : Status) (detail : Nat) : Mod :=
  (((m.cutSweep id).rollForward job).complete id st detail).pokeSteps job

/-- A unit finishes its next page of the oldest sweep that has one left for it. A page's bits follow from its inputs alone (R358). -/
def Mod.sweepPage (m : Mod) (u : Nat) : Mod :=
  let mine := sortBy (fun (a b : Lane × Running) => a.2.headAt ≤ b.2.headAt) (m.runnings.filter fun (_, r) => match r.work with
    | .sweep left _ => left.any fun pg => pg.2.1 == u
    | _ => false)
  match mine with
  | [] => m
  | (l, r) :: _ =>
    let id := r.cmd.id l
    match r.work, m.job? r.cmd.job with
    | .sweep left pages, some j =>
      if m.stoppedAt (.sweep u) then m else
      match left.find? fun pg => pg.2.1 == u, m.verdict? r.cmd.job j.step.toNat with
      | some pg, some v =>
        match j.plan.range? pg.1 with
        | none => m
        | some rg =>
          let w := (j.readBy id).pageWork j rg r.scalar (v.vec.headD 0#32) u pg.2.2 m.byte
          let (m, corrected, bad) := m.checkAccess (some r.cmd) w.reads (w.put.writes.map (·.1))
          let m := (m.updSum l fun s => { s with corrected := s.corrected + corrected }).noteReads id r.cmd.job true w.reads
          match bad with
          | some n => m.failSweep id r.cmd.job .faultDetected n
          | none =>
            let step := j.step.toNat
            let now := m.now
            let m := m.journal { job := r.cmd.job, unit := u, step := step, range := pg.1 - 1, page := pg.2.2, state := 3
                                 writes := w.put.writes, scales := (w.m, w.v) }
            let m := (m.store w.put.writes).updJob r.cmd.job fun j =>
              (j.setStamp pg.1 u pg.2.2 step now).setPageScale pg.1 u pg.2.2 (w.m, w.v)
            let m := (m.countJob r.cmd.job .SWEEP_PAGES).updSum l fun s => s.counts w.put.counts
            match left.erase pg with
            | [] => (m.endSweep id (vDegraded v.word) (pages + 1)).pokeSteps r.cmd.job
            | rest => m.setWork l (.sweep rest (pages + 1))
      | _, _ => m
    | _, _ => m

/-! ### LOSS_WATCH (R351) -/

def Mod.startLoss (m : Mod) (id : CmdId) (c : Cmd) (j : Job) : Mod :=
  if c.op == .lossRead then m.complete id .ok 0 (leBytes 16 j.loss.word)
  else if j.normStarted then
    let (st, d) := refuseFit .jobState 0
    m.complete id st d
  else (m.updJob c.job fun j => { j with loss := LossStats.ofWord (leNat (c.pkt.payload.take 16)) }).complete id .ok 0

/-- The Training commands at the head of their lane. -/
def Mod.startTraining (m : Mod) (id : CmdId) (c : Cmd) (j : Job) : Mod :=
  match c.op with
  | .optimSweep => m.startSweep id c j
  | .stepCommit => m.goCommit id c j
  | .stepRollback => m.startRollback id c j
  | _ => m.startLoss id c j

/-! ### The commands of this family -/

def execVerdict (x : WaleMsg) (s : State) : Host.Outcome State Fault Refusal := lift (fun m => m.verdictHere x) s

def execVerdictRequestRetry (id : CmdId) (s : State) : Host.Outcome State Fault Refusal := lift (fun m => m.verdictRetry id) s

def execRollbackWindowEnd (job : Nat) (s : State) : Host.Outcome State Fault Refusal := lift (fun m => m.rollbackEnd job) s

def execSweepPage (unit : Nat) (s : State) : Host.Outcome State Fault Refusal := lift (fun m => m.sweepPage unit) s

end Sys2Proof.Machine
end

