-- ==== Sys2Proof/Machine/Tiers.lean ====
section
/-!
DEFINITION. Upkeep of the memory tiers (R230–R233, R237, R239–R245) and the checkpoints in Tier C (R354–R356): CHECKPOINT,
RESTORE, PATROL_SCRUB and HBM_TRAFFIC.
-/

namespace Sys2Proof.Machine

/-! ### Tier C (R230) -/

/-- Bytes of a block. -/
def blockBytes : Nat := 65536

/-- The key of a byte of an extent. -/
def tierCKey (extent off : Nat) : Nat := extent * 2 ^ 48 + off

/-- The error vector of a code word of a block (R236). -/
def Mod.flashErrorAt (m : Mod) (g : Nat) : BitVec 144 := ((m.flashErrors.find? fun e => e.1 == g).map (·.2)).getD 0

/-- A byte of Tier C as a read returns it, with whatever error the decoder leaves in place. -/
def Mod.byteC (m : Mod) (key : Nat) : Byte :=
  let e := m.flashErrorAt (key / 16)
  let left := match decodeWord e with
    | .corrected i x => flipSymbol e i x
    | _ => e
  m.tierC.get key ^^^ BitVec.ofNat 8 (left.toNat / 256 ^ (key % 16))

def Mod.readC (m : Mod) (extent off n : Nat) : Bytes :=
  if m.flashErrors.isEmpty then m.tierC.read (tierCKey extent off) n
  else (List.range n).map fun i => m.byteC (tierCKey extent off + i)

/-- Whether every page of a range still reads (R233). -/
def Mod.pagesRead (m : Mod) (key n : Nat) : Bool := !(m.flashPages.any fun p => key < 4096 * p + 4096 && 4096 * p < key + n)

/-- What a command's read of Tier C meets: the words corrected, and the record (FLASH) of a 4 KiB page that still fails after
its read retries, or of an uncorrectable word (R232, R233, R236, R237). -/
def Mod.checkC (m : Mod) (c : Cmd) (extent off n : Nat) : Mod × Nat × Option Nat :=
  let lo := tierCKey extent off
  let words := m.flashErrors.filter fun e => lo < 16 * e.1 + 16 && 16 * e.1 < lo + n
  let pages := m.flashPages.filter fun p => lo < 4096 * p + 4096 && 4096 * p < lo + n
  let lost := (words.filter fun e => decodeWord e.2 == .uncorrectable).map fun e => 16 * e.1
  let bad := (pages.map (4096 * ·) ++ lost).head?
  let fixed := words.countP fun e => decodeWord e.2 != .clean && decodeWord e.2 != .uncorrectable
  match bad with
  | none => (m, fixed, none)
  | some key =>
    let block := key % 2 ^ 48 / blockBytes
    (m.addLog { time := 0, record := 0, cls := 0x0A, outcome := 2, unit := ⟨6, flashChannel extent block⟩, job := c.job
                inc := c.pkt.inc.toNat, queue := c.pkt.queue.toNat, seq := c.pkt.seq.toNat, info0 := extent * 2 ^ 32 + block },
      fixed, some m.record)

/-- The words and pages that a write programs whole are clean again: each block goes to a place that reads back clean (R233). -/
def Mod.programmed (m : Mod) (key n : Nat) : Mod :=
  { m with
    flashErrors := m.flashErrors.filter fun e => 16 * e.1 < key || key + n < 16 * e.1 + 16
    flashPages := m.flashPages.filter fun p => 4096 * p < key || key + n < 4096 * p + 4096 }

def Mod.writeC (m : Mod) (extent off : Nat) (bs : Bytes) : Mod :=
  { m with tierC := m.tierC.write (tierCKey extent off) bs }.programmed (tierCKey extent off) bs.length

/-- Ends a command that read Tier C as `k` says, unless the read met a fault. -/
def Mod.afterC (m : Mod) (id : CmdId) (c : Cmd) (extent off n : Nat) (k : Mod → Mod) : Mod :=
  let (m, fixed, bad) := m.checkC c extent off n
  let m := m.updSum id.lane fun s => { s with corrected := s.corrected + fixed }
  match bad with
  | some rec_ => m.complete id .faultDetected rec_
  | none => k m

/-- Writes whole blocks: the bytes, then +0 up to the end of the last block. -/
def Mod.writeBlocks (m : Mod) (extent first : Nat) (bs : Bytes) : Mod :=
  let n := (bs.length + blockBytes - 1) / blockBytes * blockBytes
  let key := tierCKey extent (first * blockBytes)
  { m with tierC := (m.tierC.clear key n).write key bs }.programmed key n

/-! ### The training state as numbers (R354; log 60) -/

/-- A list of numbers behind its length. -/
def withLength (l : List Nat) : List Nat := l.length :: l

/-- What TRAINING_STATE adds beside tensors: statistics, stamps, page scales, carries and agreed scale tables. -/
def Job.trainingWords (j : Job) : List Nat :=
  [j.loss.mean.toNat, j.loss.var.toNat, j.loss.count.toNat, j.loss.spikeRun.toNat] ++
    withLength (j.stamps.flatMap fun s => [s.range, s.unit, s.page, s.step]) ++
    withLength (j.pageScales.flatMap fun s => [s.range, s.unit, s.page, s.m, s.v]) ++
    (j.carried.length :: j.carried.flatMap fun c =>
      [c.step, (c.usedAt.map (· + 1)).getD 0, c.bucket, c.shard, c.edge, c.chunk, c.count] ++
        withLength (c.values.map BitVec.toNat)) ++
    (j.scales.length :: j.scales.flatMap fun t => [t.bucket, t.step, t.shard] ++ withLength t.codes)

/-- Takes the list behind a length. -/
def takeList (l : List Nat) : List Nat × List Nat :=
  match l with
  | [] => ([], [])
  | n :: rest => (rest.take n, rest.drop n)

def readCarried : Nat → List Nat → List Carried × List Nat
  | 0, l => ([], l)
  | n + 1, l =>
    let x (i : Nat) : Nat := l.getD i 0
    let (vs, rest) := takeList (l.drop 7)
    let c : Carried :=
      { step := x 0, usedAt := if x 1 = 0 then none else some (x 1 - 1), bucket := x 2, shard := x 3, edge := x 4
        chunk := x 5, values := vs.map (BitVec.ofNat 32), count := x 6 }
    let (cs, rest) := readCarried n rest
    (c :: cs, rest)

def readTables : Nat → List Nat → List ScaleTable
  | 0, _ => []
  | n + 1, l =>
    let x (i : Nat) : Nat := l.getD i 0
    let (cs, rest) := takeList (l.drop 3)
    { bucket := x 0, step := x 1, shard := x 2, codes := cs } :: readTables n rest

/-- Groups of `n` of a list. -/
def groupsOfN (n : Nat) (l : List Nat) : List (List Nat) := blocksOf n (l.length / Nat.max 1 n) l

/-- Reads the training state back into a job. -/
def Job.restoreWords (j : Job) (l : List Nat) : Job :=
  let x (i : Nat) : Nat := l.getD i 0
  let (stamps, l) := takeList (l.drop 4)
  let (pages, l) := takeList l
  let (carried, l) := readCarried (l.headD 0) (l.drop 1)
  { j with
    loss := ⟨BitVec.ofNat 32 (x 0), BitVec.ofNat 32 (x 1), BitVec.ofNat 32 (x 2), BitVec.ofNat 8 (x 3)⟩
    stamps := (groupsOfN 4 stamps).map fun g => { range := g.getD 0 0, unit := g.getD 1 0, page := g.getD 2 0, step := g.getD 3 0 }
    pageScales := (groupsOfN 5 pages).map fun g =>
      { range := g.getD 0 0, unit := g.getD 1 0, page := g.getD 2 0, m := g.getD 3 0, v := g.getD 4 0 }
    carried := carried
    scales := readTables (l.headD 0) (l.drop 1) }

/-- The words as bytes, 8 each, and back. -/
def wordsBytes (l : List Nat) : Bytes := l.flatMap (leBytes 8)
def bytesWords (b : Bytes) : List Nat := (List.range (b.length / 8)).map fun i => leNat ((b.drop (8 * i)).take 8)

/-! ### CHECKPOINT (R354, R355) -/

/-- Flag TRAINING_STATE (R524). -/
def trainingFlag (p : Packet) : Bool := p.flag 7

/-- The tensors that CHECKPOINT names. -/
def checkpointNames (p : Packet) : List Nat := ((List.range (p.u 2 1)).map fun i => p.u (8 + 4 * i) 4).eraseDups

def checkpointFault (j : Job) (p : Packet) : Option Nat :=
  firstViol (fieldRule (!(j.plan.extents.any fun e => e.1 == p.u 0 2)) 0 ++ fieldRule (64 < p.u 2 1) 2 ++
    (List.range (p.u 2 1)).flatMap fun i => fieldRule ((j.place? (p.u (8 + 4 * i) 4)).isNone) (8 + 4 * i))

def restoreFault (j : Job) (p : Packet) : Option Nat :=
  firstViol (fieldRule (!(j.plan.extents.any fun e => e.1 == p.u 0 2)) 0)

/-- The tensors of every sweep range and the error memories (R354). -/
def Plan.trainingTensors (p : Plan) : List Nat :=
  ((p.ranges.flatMap fun r => [r.weightHi, r.weightLo, r.m, r.v]) ++ p.buckets.map (·.errorMem)).filter (· != 0)

/-- The kind of a manifest entry: a tensor, or the training state as numbers. -/
def kindTensor : Nat := 0
def kindTraining : Nat := 1

/-- An entry of a manifest: tensor, kind and content. -/
structure Entry where
  tensor : Nat
  kind : Nat
  content : Bytes
  deriving DecidableEq, Repr

def Entry.blocks (e : Entry) : Nat := (e.content.length + blockBytes - 1) / blockBytes

/-- An entry of Table 11.7 whose content starts at a block. -/
def Entry.record (e : Entry) (first : Nat) : Bytes :=
  leBytes 4 e.tensor ++ leBytes 2 e.kind ++ leBytes 2 0 ++ leBytes 4 first ++ leBytes 8 e.content.length ++ leBytes 4 0 ++
    (sm3 e.content).take 16 ++ List.replicate 16 0#8 ++ leBytes 8 0

/-- The entries with their first blocks, from block 1 on. -/
def layEntries : Nat → List Entry → List (Entry × Nat)
  | _, [] => []
  | n, e :: es => (e, n) :: layEntries (n + e.blocks) es

/-- The manifest of Table 11.7. -/
def manifest (j : Job) (training : Bool) (es : List (Entry × Nat)) : Bytes :=
  leBytes 4 (0x514B + 2 ^ 16 + es.length % 256 * 2 ^ 24) ++ leBytes 4 (j.plan.job + j.plan.inc * 2 ^ 12) ++
    leBytes 8 j.step.toNat ++ leBytes 8 j.plan.seed.toNat ++ leBytes 8 (if training then 1 else 0) ++
    es.flatMap fun e => e.1.record e.2

/-- The home locations of a tensor's bytes in order. -/
def TensorPlace.locs (t : TensorPlace) : List Nat := (List.range t.decl.bytes).map t.place.addr

/-- The locations from which a command that starts now reads a tensor: its valid copy, or home (R247). -/
def Job.readLocs (j : Job) (t : TensorPlace) : List Nat :=
  match j.copyOf t.decl.id with
  | some c => (List.range t.decl.bytes).map (c + ·)
  | none => t.locs

/-- What a checkpoint holds. -/
def Mod.entries (m : Mod) (j : Job) (p : Packet) : List Entry :=
  let ts := (checkpointNames p ++ if trainingFlag p then j.plan.trainingTensors else []).eraseDups
  let tensors := ts.filterMap fun t => (j.place? t).map fun pl => { tensor := t, kind := kindTensor, content := (j.readLocs pl).map m.byte }
  tensors ++ if trainingFlag p then [{ tensor := 0, kind := kindTraining, content := wordsBytes j.trainingWords }] else []

def Mod.startCheckpoint (m : Mod) (id : CmdId) (c : Cmd) (j : Job) : Mod :=
  let extent := c.pkt.u 0 2
  if j.stamps.any fun s => s.step == j.step.toNat then
    let (st, d) := refuseFit .jobState 0
    m.complete id st d
  else
    let es := m.entries j c.pkt
    let have_ := ((j.plan.extents.find? fun e => e.1 == extent).map (·.2)).getD 0
    let need := 1 + (es.map Entry.blocks).sum
    if have_ < need then
      let (st, d) := refuseFit .tierC ((need - have_) * blockBytes)
      m.complete id st d
    else
      let locs := (es.filterMap fun e => j.place? e.tensor).flatMap j.readLocs
      let (m, corrected, bad) := m.checkLocal (some c) locs
      let m := (m.updSum id.lane fun s => { s with corrected := s.corrected + corrected }).noteReads id c.job false locs
      match bad with
      | some n => (m.writeBlocks extent 0 (List.replicate blockBytes 0#8)).complete id .faultDetected n
      | none =>
        let laid := layEntries 1 es
        let m := m.writeBlocks extent 0 (List.replicate blockBytes 0#8)
        let m := laid.foldl (fun m e => m.writeBlocks extent e.2 e.1.content) m
        (m.writeBlocks extent 0 (manifest j (trainingFlag c.pkt) laid)).complete id .ok 0

/-! ### RESTORE (R356) -/

/-- An entry as a manifest gives it. -/
structure Stored where
  tensor : Nat
  kind : Nat
  first : Nat
  length : Nat
  hash : Bytes
  deriving DecidableEq, Repr

def storedEntry (b : Bytes) (i : Nat) : Stored :=
  let e := (b.drop (0x20 + 64 * i)).take 64
  ⟨leNat (e.take 4), leNat ((e.drop 4).take 2), leNat ((e.drop 8).take 4), leNat ((e.drop 12).take 8), (e.drop 24).take 16⟩

/-- Whether an entry fits the plan. -/
def Job.entryOk (j : Job) (e : Stored) : Bool :=
  if e.kind = kindTraining then e.tensor == 0
  else ((j.place? e.tensor).map fun p => p.decl.bytes == e.length).getD false

/-- What an entry's content writes: its tensor's home, and a valid Tier A copy (R247). -/
def Job.contentWrites (j : Job) (e : Stored) (content : Bytes) : List (Nat × Byte) :=
  match j.place? e.tensor with
  | some p =>
    if e.kind = kindTraining then []
    else p.locs.zip content ++ match j.copyOf e.tensor with
      | some c => content.zipIdx.map fun (x : Byte × Nat) => (c + x.2, x.1)
      | none => []
  | none => []

/-- Writes the entries in order, up to the first that does not read well or whose hash does not match: the record of the
fault. -/
def Mod.restoreAll (m : Mod) (id : CmdId) (cmd : Cmd) (job extent : Nat) : List Stored → Mod × Option Nat
  | [] => (m, none)
  | e :: es =>
    let (m, fixed, bad) := m.checkC cmd extent (e.first * blockBytes) e.length
    let m := m.updSum id.lane fun s => { s with corrected := s.corrected + fixed }
    if bad.isSome then (m, bad) else
    let content := m.readC extent (e.first * blockBytes) e.length
    let ok := (sm3 content).take 16 == e.hash
    let ws := ((m.job? job).map fun j => j.contentWrites e content).getD []
    let (m, bad) := m.checkWrite (some cmd) (ws.map (·.1))
    if bad.isSome then (m, bad) else
    let m := if e.kind = kindTraining && ok then m.updJob job fun j => j.restoreWords (bytesWords content) else m.store ws
    if ok then m.restoreAll id cmd job extent es
    else
      (m.addLog { time := 0, record := 0, cls := 0x0A, outcome := 2, unit := ⟨6, flashChannel extent e.first⟩, job := job
                  inc := cmd.pkt.inc.toNat, queue := cmd.pkt.queue.toNat, seq := cmd.pkt.seq.toNat
                  info0 := extent * 2 ^ 32 + e.first }, some m.record)

def Mod.startRestore (m : Mod) (id : CmdId) (c : Cmd) (j : Job) : Mod :=
  let extent := c.pkt.u 0 2
  let head := m.readC extent 0 0x20
  let n := leNat ((head.drop 3).take 1)
  let b := m.readC extent 0 (0x20 + 64 * n)
  let es := (List.range n).map (storedEntry b)
  m.afterC id c extent 0 (0x20 + 64 * n) fun m =>
  let headOk := leNat (head.take 3) == 0x514B + 2 ^ 16 && leNat ((head.drop 4).take 4) % 4096 == j.plan.job && n != 0
  if !headOk then
    -- no rule names the DETAIL of a mismatch outside the entries (log 60)
    let (d, m) := m.freeNat
    m.complete id .badDescriptor d
  else
    match es.findIdx? fun e => !j.entryOk e with
    | some i => m.complete id .badDescriptor i
    | none =>
      let training := leNat ((head.drop 0x18).take 4) % 2 = 1
      let (m, bad) := m.restoreAll id c c.job extent es
      match bad with
      | some rec_ => m.complete id .faultDetected rec_
      | none =>
        let step := BitVec.ofNat 64 (leNat ((b.drop 8).take 8))
        let m := m.updJob c.job fun j =>
          if training then { j with step := step, sweepBlocked := [], sweepSpoiled := false, normStarted := false }
          else { j with sweepBlocked := [], scales := [] }
        let m := if training then
            { m with verdicts := m.verdicts.filter fun (v : VerdictRec) => !(v.job == c.job && v.inc == j.plan.inc && step.toNat ≤ v.step) }.mirror
          else m
        m.complete id .ok 0

/-! ### Patrol scrub and spare rows (R239, R242) -/

/-- Ticks of a patrol pass over the tiers: 8 h. -/
def patrolTicks : Nat := 8 * 3600 * 100000000

/-- Notes that a row gave corrected symbols in this pass; the third pass moves it. -/
def Mod.hitRow (m : Mod) (a : Nat) : Mod :=
  match rowOf a with
  | none => m
  | some r =>
    let pass := m.now / patrolTicks
    let old := (m.rowHits.find? fun h => h.1 == r).map (·.2)
    let n := match old with
      | some (p, n) => if p = pass then n else n + 1
      | none => 1
    if 3 ≤ n then m.moveRow a else { m with rowHits := (r, pass, n) :: m.rowHits.filter fun h => h.1 != r }

/-- The SRAM row that holds an address: a physical stake, or 1,000 plus a Side for the Rim, with bank or slice and row. -/
def Mod.sramOf (m : Mod) (a : Nat) : Option (Nat × Nat × Nat) :=
  let r := Config.sramRow a
  match regionOf a with
  | .stake l => (m.stakeMap.getD l none).map fun p => (p, r.1 % 32, r.2)
  | .rim s => some (1000 + s, rimSlice a, r.2)
  | _ => none

/-- Ticks of a patrol pass over the stake stores and Rim buffers: 100 ms. -/
def sramPatrolTicks : Nat := 10000000

/-- Notes that an SRAM row gave corrected words in this pass; after the third pass it joins the repair list (R472). -/
def Mod.hitSram (m : Mod) (a : Nat) : Mod :=
  match m.sramOf a with
  | none => m
  | some r =>
    if m.sramList.contains r then m
    else
      let key := (1000000 + 100 * r.1 + r.2.1, r.2.2)
      let pass := m.now / sramPatrolTicks
      let n := match (m.rowHits.find? fun h => h.1 == key).map (·.2) with
        | some (p, n) => if p = pass then n else n + 1
        | none => 1
      let rest := m.rowHits.filter fun h => h.1 != key
      if 3 ≤ n then { m with sramList := m.sramList.concat r, rowHits := rest }
      else { m with rowHits := (key, pass, n) :: rest }

/-- Repairs the rows of the repair list that `p` picks, while spare rows are left: 8 for a bank of a stake store, 16 for a
Rim slice (R470, R472). The contents move first. -/
def Mod.repairSram (m : Mod) (p : Nat → Bool) : Mod :=
  m.sramList.foldl (fun m r =>
    if !p r.1 then m
    else
      let used := m.sramRepairs.countP fun x => x.1 == r.1 && x.2.1 == r.2.1
      if (if r.1 < 1000 then 8 else 16) ≤ used then m
      else
        let unit : UnitRef := if r.1 < 1000 then ⟨1, r.1⟩ else ⟨3, r.1 - 1000⟩
        let here := m.memErrors.filterMap fun e => if m.sramOf (16 * e.1) == some r then some e.1 else none
        ({ m.scrubWords here with
          sramList := m.sramList.erase r
          sramRepairs := m.sramRepairs.concat r }.addOpen
          { time := 0, record := 0, cls := 0x31, outcome := 5, unit := unit, sub := r.2.1 * 65536 + r.2.2 % 65536 }).count .SPARES_USED) m

/-- The memories that the patrol scrub reads (R239). -/
def Region.scrubbed : Region → Bool
  | .tierA _ | .tierB | .rim _ | .stake _ => true
  | _ => false

/-- The patrol scrub reads one code word (R239). -/
def Mod.patrolScrub (m : Mod) (g : Nat) : Mod :=
  let a := 16 * g
  if !(regionOf a).scrubbed then m
  else
    match decodeWord (m.errorAt g) with
    | .clean => m
    | .corrected .. => (((m.scrubWords [g]).countOwner a .SCRUB_CORRECTED).hitRow a).hitSram a
    | .uncorrectable => (m.logRead a none none).moveRow a

/-- Each row of the tables becomes a permanent repair at training, and its entry free, while its stack's or package's repair
resources last: no rule counts them (R242, log 108). -/
def Mod.repairRows (m : Mod) : Mod :=
  m.rowTable.foldl (fun m r =>
    if m.repairSpent.contains (rowDevice r) then m
    else
      let (spent, m) := m.freeBool
      if spent then { m with repairSpent := m.repairSpent.concat (rowDevice r) }.sparesGone r
      else { m with rowTable := m.rowTable.erase r }) m

/-- Step 5 of training on one pseudo-channel (R240, R243): the spare lane takes the place of a lane that fails, and any further
one stays in service, with a record and ALERT_N. -/
def Mod.laneFails (m : Mod) (pc lane : Nat) : Mod :=
  if (m.hbmSpares ++ m.hbmBadLanes).contains (pc, lane) then m
  else if m.hbmSpares.any fun x => x.1 == pc then
    ({ m with hbmBadLanes := m.hbmBadLanes.concat (pc, lane) }.addLog
      { time := 0, record := 0, cls := 0x42, outcome := 2, unit := ⟨4, pc / 64⟩, sub := pc % 64, info0 := pc }).raiseCause 2
  else { m with hbmSpares := m.hbmSpares.concat (pc, lane) }

/-- Steps 5 and 6 of training (R240, R241), from the lanes that failed. -/
def Mod.trainMemory (m : Mod) (lanes : List (Nat × Nat)) : Mod :=
  ((lanes.filter fun x => x.1 < 768 && x.2 < 36).eraseDups.foldl (fun m x => m.laneFails x.1 x.2) m).repairRows

/-! ### HBM_TRAFFIC (R244, R245) -/

def hbmFault (p : Packet) : Option Nat :=
  firstViol (fieldRule (11 < p.u 0 1) 0 ++ fieldRule (1 < p.u 1 1) 1 ++ fieldRule (3 < p.u 2 1) 2 ++ fieldRule (p.u 4 2 == 0) 4 ++
    fieldRule (2 ^ 22 ≤ p.u 0x10 4) 0x10 ++ fieldRule (2 ^ 22 < p.u 0x10 4 + p.u 0x14 4) 0x14)

/-- Whether an address lies in the selected range. -/
def hbmIn (p : Packet) (a : Nat) : Bool :=
  match regionOf a with
  | .tierA _ =>
    let h := hbmPlace a
    h.1 == p.u 0 1 && p.u 8 8 / 2 ^ (2 * h.2.1 + h.2.2.1) % 2 == 1 &&
      p.u 0x10 4 ≤ h.2.2.2 && h.2.2.2 < p.u 0x10 4 + p.u 0x14 4
  | _ => false

/-- The reply of HBM_TRAFFIC: 37 counts of 12 bits, then the two word counts (R544). -/
def hbmReply (lanes : List Nat) (corrected bad : Nat) : Bytes :=
  leBytes 56 (packBits 12 (lanes.map (min 4095))) ++ leBytes 4 (min corrected (2 ^ 32 - 1)) ++ leBytes 4 (min bad (2 ^ 32 - 1))

def ones (n : Nat) : Nat := ((List.range 4).map fun i => n / 2 ^ i % 2).sum

/-- Whether the selected range holds words of a pseudo-channel with a failed lane in service (R243). -/
def Mod.degradedIn (m : Mod) (p : Packet) : Bool :=
  m.hbmBadLanes.any fun x => x.1 / 64 == p.u 0 1 && p.u 8 8 / 2 ^ (x.1 % 64) % 2 == 1

/-- READ_CHECK. The counts of a pseudo-channel with a failed lane in service are free. An uncorrectable word does not say which lanes erred, so its lane counts are free (log 39). -/
def Mod.startReadCheck (m : Mod) (id : CmdId) (c : Cmd) : Mod :=
  let p := c.pkt
  let found := (m.memErrors.filter fun e => hbmIn p (16 * e.1)).map fun e => decodeWord (m.errorAt e.1)
  let fixed := found.filterMap fun d => match d with
    | .corrected s e => some (s, e)
    | _ => none
  let bad := found.countP fun d => d == .uncorrectable
  let n := p.u 4 2
  let free := m.free
  let lanes := (List.range 37).map fun l =>
    n * ((fixed.filter fun x => x.1 == l).map fun x => ones x.2).sum +
      if bad = 0 && !m.degradedIn p then 0 else Config.laneErrors free l
  let m := { m with free := free + 1 }
  let (more, m) := if m.degradedIn p then m.freeNat else (0, m)
  let (lost, m) := if m.degradedIn p then m.freeNat else (0, m)
  let m := m.updSum id.lane fun s => { s with corrected := s.corrected + n * fixed.length + more }
  m.complete id .ok 0 (hbmReply lanes (n * fixed.length + more) (n * bad + lost))

/-- PATTERN: what the compare finds is a matter of the lanes; the range then holds +0 code words. -/
def Mod.startPattern (m : Mod) (id : CmdId) (c : Cmd) : Mod :=
  match m.jobs.length with
  | 0 =>
    let p := c.pkt
    let free := m.free
    let lanes := (List.range 37).map (Config.laneErrors free)
    let m := { m with
      free := free + 1
      mem := m.mem.filter fun x => !hbmIn p x.1
      memErrors := m.memErrors.filter fun x => !hbmIn p (16 * x.1) }
    let (corrected, m) := m.freeNat
    let (bad, m) := m.freeNat
    m.complete id .ok 0 (hbmReply lanes corrected bad)
  | n =>
    let (st, d) := refuseFit .jobSlot n
    m.complete id st d

def execPatrolScrub (granule : Nat) (s : State) : Host.Outcome State Fault Refusal := lift (fun m => m.patrolScrub granule) s

end Sys2Proof.Machine
end

