-- ==== Sys2Proof/Machine/Owners.lean ====
section
/-!
DEFINITION. Ownership of the 2 MiB regions of TRAY_SHARED tensors (R427–R431): OWN_TAKE and OWN_GIVE, the steward's
table and queue, and the entries that the home modules hold.
-/

namespace Sys2Proof.Machine

/-- The region of a tray address: its bits [51:21] (R427). -/
def regionNo (slot loc : Nat) : Nat := slot * 2 ^ 27 + loc / stripe

/-- The address of the module in a slot of this module's tray (R396). -/
def Mod.trayAddr (m : Mod) (slot : Nat) : Nat := m.modAddr / 8 * 8 + slot

/-! ### The home's entries -/

/-- The owner of a region that this module holds. -/
def Mod.homeOwner (m : Mod) (region : Nat) : Option (Nat × Nat) :=
  (m.homeOwners.find? fun e => e.1 == region).map (·.2)

/-- A copy of an ownership entry reaches the home (R427). -/
def Mod.setHome (m : Mod) (region : Nat) (owner : Option (Nat × Nat)) : Mod :=
  let rest := m.homeOwners.filter fun e => e.1 != region
  { m with homeOwners := match owner with
    | some o => (region, o) :: rest
    | none => rest }

/-! ### The requester -/

/-- The steward's answer ends a command: a take, or a give; a full queue makes the take wait for its retry. -/
def Mod.stewardAnswered (m : Mod) (id : CmdId) (stale full : Bool) : Mod :=
  match m.cmd? id with
  | none => m
  | some r =>
    match r.work with
    | .steward _ =>
      if full then m.setWork id.lane (.steward 1)
      else
        let region := (m.job? r.cmd.job).bind fun j =>
          ((r.cmd.op.opnds j.plan r.cmd.pkt).head?).bind fun o =>
            match j.find o with
            | .ok v => some (match v.place with
              | .here p => regionNo (slotOf m.modAddr) (p.addr (stripe * r.cmd.pkt.u 0 4))
              | .tray slot p => regionNo slot (p.addr (stripe * r.cmd.pkt.u 0 4))
              | .window _ => 0)
            | _ => none
        let n := region.getD 0
        if r.cmd.op == .ownTake then
          (m.updJob r.cmd.job fun j => { j with owned := n :: j.owned.filter (· != n) }).complete id .ok 0
            (leBytes 8 (if stale then 1 else 0))
        else (m.updJob r.cmd.job fun j => { j with owned := j.owned.filter (· != n) }).complete id .ok 0
    | _ => m

/-! ### The steward (R428, R429, R431) -/

def Mod.ownEntry (m : Mod) (region : Nat) : OwnEntry :=
  (m.ownTable.find? fun e => e.region == region).getD { region := region, owner := none, stale := m.ownStale }

/-- Records an entry and copies it to the region's home. -/
def Mod.setOwner (m : Mod) (region : Nat) (owner : Option (Nat × Nat)) (stale : Bool) : Mod :=
  let m := { m with ownTable := { region := region, owner := owner, stale := stale } :: m.ownTable.filter fun e => e.region != region }
  let home := m.trayAddr (region / 2 ^ 27)
  if home = m.modAddr then m.setHome region owner else m.emit (.ownEntry home region owner)

/-- Answers a take or a give. -/
def Mod.answerOwner (m : Mod) (addr : Nat) (id : CmdId) (stale full : Bool) : Mod :=
  if addr = m.modAddr then m.stewardAnswered id stale full else m.emit (.stewardAnswer addr id stale full)

/-- Grants an unowned region; STALE is reported and cleared. -/
def Mod.grantRegion (m : Mod) (w : OwnTakeWait) : Mod :=
  let stale := (m.ownEntry w.region).stale
  (m.setOwner w.region (some (w.owner, w.job)) false).answerOwner w.owner w.id stale false

/-- Grants an unowned region to the oldest take that waits for it. -/
def Mod.grantNext (m : Mod) (region : Nat) : Mod :=
  match m.ownWaits.find? fun w => w.region == region with
  | none => m
  | some w => { m with ownWaits := m.ownWaits.erase w }.grantRegion w

/-- A take reaches the steward. -/
def Mod.ownTake (m : Mod) (id : CmdId) (owner job region : Nat) : Mod :=
  let w : OwnTakeWait := { region := region, owner := owner, job := job, id := id }
  if m.resetting.isSome then m.turnAway (.request owner)
  else
    match (m.ownEntry region).owner with
    | none => m.grantRegion w
    | some (a, j) =>
      if a = owner ∧ j = job then m.answerOwner owner id false false
      else if 256 ≤ m.ownWaits.length then m.answerOwner owner id false true
      else
        let m := { m with ownWaits := m.ownWaits.concat w }
        if a = m.modAddr then m else m.emit (.takeWaits a region)

/-- A give reaches the steward: it clears the entry, grants the oldest take and answers. -/
def Mod.ownGive (m : Mod) (id : CmdId) (owner job region : Nat) : Mod :=
  if m.resetting.isSome then m.turnAway (.request owner)
  else
    let m := if (m.ownEntry region).owner == some (owner, job) then (m.setOwner region none false).grantNext region else m
    m.answerOwner owner id false false

/-- An owner ends: the steward clears its regions and grants the takes that wait (R431). -/
def Mod.clearOwner (m : Mod) (owner : Nat) (job : Option Nat) (stale : Bool) : Mod :=
  let mine := m.ownTable.filter fun e => match e.owner with
    | some (a, j) => a == owner && (job.map (· == j)).getD true
    | none => false
  let m := { m with ownWaits := m.ownWaits.filter fun w => !(w.owner == owner && (job.map (· == w.job)).getD true) }
  mine.foldl (fun m e => (m.setOwner e.region none stale).grantNext e.region) m

/-! ### The commands OWN_TAKE and OWN_GIVE -/

/-- Sends a take or a give to the tray's steward; without a known steward it waits (R435). -/
def Mod.askSteward (m : Mod) (id : CmdId) (op : Op) (job region : Nat) : Mod :=
  let m := m.setWork id.lane (.steward 0)
  if m.isSteward then
    (if op == .ownTake then m.ownTake id m.modAddr job region else m.ownGive id m.modAddr job region)
  else m.emit (if op == .ownTake then .ownTake id job region else .ownGive id job region)

/-- Whether an operand names a tensor of this rank that is not TRAY_SHARED. -/
def Plan.notShared (p : Plan) (o : Opnd) : Bool :=
  o.desc.rank == p.rank && !(p.tensors.any fun t => t.id == o.desc.tensor && t.trayShared)

/-- Check 13 of OWN_TAKE and OWN_GIVE: a REMOTE descriptor of a TRAY_SHARED tensor. -/
def ownFault (op : Op) (j : Job) (p : Packet) : Option Nat :=
  let os := op.opnds j.plan p
  firstViol (entryViols op j.plan p ++ os.flatMap fun o =>
    o.rule (!o.desc.remote) 2 ++ o.rule (j.plan.notShared o) 4)

/-- OWN_TAKE and OWN_GIVE at the head of their lane. The region lies within the tensor; a give names a region that the
job owns, and waits for this module's writes to it. -/
def Mod.startOwn (m : Mod) (id : CmdId) (c : Cmd) (j : Job) : Mod :=
  match (c.op.opnds j.plan c.pkt).head? with
  | none => m.complete id .badDescriptor 0x50
  | some o =>
    match j.find o with
    | .waits r => m.setWork id.lane (.placement r)
    | .missing => m.complete id .badDescriptor (o.field 4)
    | .ok v =>
      let off := stripe * c.pkt.u 0 4
      if v.len ≤ off then m.complete id .badDescriptor 0x40
      else
        let region := match v.place with
          | .here p => regionNo (slotOf m.modAddr) (p.addr off)
          | .tray slot p => regionNo slot (p.addr off)
          | .window _ => 0
        if c.op == .ownGive && !j.owned.contains region then m.complete id .badDescriptor 0x40
        else if c.op == .ownGive && m.trayOps.any (fun t => t.op != .load && t.addr / stripe == region) then
          m.setWork id.lane (.steward 3)
        else m.askSteward id c.op c.job region

/-- A command that waits on the steward asks again: after a full queue, after the steward's reset, or once its writes are
acknowledged. -/
def Mod.retryOwn (m : Mod) (id : CmdId) (phase : Nat) : Mod :=
  match m.cmd? id with
  | none => m
  | some r =>
    match m.job? r.cmd.job with
    | none => m
    | some j => if r.work = .steward phase then m.startOwn id r.cmd j else m

def execOwnTakeRequest (id : CmdId) (owner job : Nat) (region : BitVec 31) (s : State) : Host.Outcome State Fault Refusal :=
  lift (fun m => if m.isSteward then m.ownTake id owner job region.toNat else m) s

def execOwnGiveRequest (id : CmdId) (owner job : Nat) (region : BitVec 31) (s : State) : Host.Outcome State Fault Refusal :=
  lift (fun m => if m.isSteward then m.ownGive id owner job region.toNat else m) s

def execOwnTakeRetry (id : CmdId) (s : State) : Host.Outcome State Fault Refusal := lift (fun m => m.retryOwn id 1) s

def execStewardRetry (id : CmdId) (s : State) : Host.Outcome State Fault Refusal := lift (fun m => m.retryOwn id 2) s

def execStewardAnswer (id : CmdId) (stale full : Bool) (s : State) : Host.Outcome State Fault Refusal :=
  lift (fun m => m.stewardAnswered id stale full) s

def execOwnershipEntryCopy (region : BitVec 31) (owner : Option (Nat × Nat)) (s : State) : Host.Outcome State Fault Refusal :=
  lift (fun m => m.setHome region.toNat owner) s

end Sys2Proof.Machine
end

