-- ==== Sys2Proof/Machine/Jobs.lean ====
section
/-!
DEFINITION. The life of a job (R60–R79): the end of a running command by another one, PLAN_LOAD, PLAN_START, QUIESCE,
PLAN_UNLOAD, JOB_ABORT, JOB_NOTICE, and the job states (R63).
-/

namespace Sys2Proof.Machine

/-! ### Ending a command that runs -/

/-- Withdraws a far wait (R369). -/
def Mod.withdrawFar (m : Mod) (id : CmdId) : Mod :=
  match m.farCmd? id with
  | some (r, p, t) => if r.work = .farSignal then m else m.sendReq (p.addrOf t.rank) (.farWithdraw t.rank (farMsg p id t.ref false 0 (r.cmd.pkt.u 8 4)))
  | none => m

/-- Ends a command at the head of a lane with a status, whatever it is doing: array passes are discarded (R128), a split
request aborts or commits whole (R213), an exchange step is spoiled (R285), a reduction is given up (R310), a sweep is
rolled forward (R343), a far wait is withdrawn (R369). -/
def Mod.endWith (m : Mod) (id : CmdId) (st : Status) (d : Nat) : Mod :=
  match m.cmd? id with
  | none => m
  | some r =>
    match r.work with
    | .passes .. => ((m.stopFeeding fun w => w.id == id).complete id st d).dropCommand id
    | .split unstaged _ left =>
      if !unstaged.isEmpty then (m.countJob r.cmd.job .SPLIT_ABORTED).complete id st d
      else ((left.foldl (fun m part => (m.splitCommit id part).freeStaged id part) m).payOwed id).complete id st d
    | .exchange exch step _ _ => m.endEx r.cmd.job exch step [id] st d
    | .reduce b s | .scales b s => (m.giveUp r.cmd.job b s).complete id st d
    | .sweep .. | .verdictAsk => m.failSweep id r.cmd.job st d
    | .tieWait true | .farRetry | .farDecision _ => (m.withdrawFar id).complete id st d
    | _ => m.complete id st d

/-- Ends a command that was accepted and has not reached the head of its lane. -/
def Mod.endQueued (m : Mod) (l : Lane) (c : Cmd) (st : Status) (d : Nat) : Mod :=
  let rep := c.reply m.timer st d {} []
  let m := (m.storeReply l rep).sendReply c.sid c.pkt.quiet rep
  let m := m.updJob c.job fun j => { j with local_ := j.local_.after st {} }
  m.trace_ { time := 0, kind := 2, job := c.job, inc := c.pkt.inc.toNat, queue := c.pkt.queue.toNat
             seq := c.pkt.seq.toNat, arg0 := st.code, arg1 := d }

/-- Ends every accepted command that `p` picks, at the head of a lane or behind it; `detail` draws the DETAIL. -/
def Mod.endCommands (m : Mod) (p : CmdId → Cmd → Bool) (st : Status) (detail : Mod → Nat × Mod) : Mod :=
  let running := (m.runnings.filter fun (l, r) => p (r.cmd.id l) r.cmd).map fun (l, r) => r.cmd.id l
  let m := running.foldl (fun m id =>
    let (d, m) := detail m
    m.endWith id st d) m
  let queued := m.lanes.flatMap fun s => (s.accepted.filter fun c => p (c.id s.lane) c).map fun c => (s.lane, c)
  let m := queued.foldl (fun m (l, c) =>
    let (d, m) := detail m
    m.endQueued l c st d) m
  { m with lanes := m.lanes.map fun s => { s with accepted := s.accepted.filter fun c => !p (c.id s.lane) c } }

/-- A DETAIL that the manual leaves open (log 30). -/
def freeDetail (m : Mod) : Nat × Mod :=
  let (d, m) := m.freeNat
  (d % 2 ^ 64, m)

/-! ### PLAN_LOAD (R65–R69, R499, R531, R532) -/

def planLoadFault (p : Packet) : Option Nat :=
  let off := p.u 0 8
  let len := p.u 8 4
  let max := 64 * 2 ^ 20
  firstViol (fieldRule (off % 16 != 0) 0 ++ fieldRule (len < 64 || max < len) 8 ++ fieldRule (max < off + len) 0)

/-- The wale operations of a job that are in flight on this rank (R67), as their number. -/
def Job.waleOps (j : Job) : Nat :=
  let nodes := j.waleNodes.filter fun n => { j with waleNodes := [n], norms := [], gathers := [] }.waleBusy
  ((nodes.map fun n => (n.bucket, n.step)) ++ j.gathers.map fun g => (g.bucket, g.step)).eraseDups.length +
    j.norms.countP fun n => !n.formed && !n.inputs.isEmpty

/-- A plan that passed every check, as the job it becomes. -/
def Mod.newJob (m : Mod) (p : Plan) (s : Placed) (sid : Nat) : Job :=
  let place (t : TensorDecl) : TensorPlace :=
    match m.adoptable p.job t with
    | some r => ⟨t, r.place.place⟩
    | none => ⟨t, placementOf s.got t⟩
  let part (k : Part) : List (Demand × Nat) := s.got.filter fun g => g.1.part == k
  { plan := p, phase := .loaded, places := p.tensors.map place
    arenas := (part .arena ++ part .slot).map fun g => (g.2, g.1.len)
    slots := (part .slot).map fun g => (g.1.owner, g.2)
    residency := p.residencies fun e i => ((e.slotsOf p.rank).getD i (0, 0)).1
    bound := if p.cls = 2 then (m.primary?.map fun j => j.plan.job).getD 0 else 0
    loadSid := sid }

/-- Reply payload of PLAN_LOAD with OK (Table 16.7). -/
def Plan.loadReply (p : Plan) : Bytes :=
  let hosts := p.tensors.filter (·.host)
  leBytes 4 (if p.againstBytes then 1 else 0) ++ leBytes 2 hosts.length ++ leBytes 2 p.rdmaQps ++
    hosts.flatMap (fun t => leBytes 4 t.id ++ leBytes 4 (Config.rdmaKey p.job t.id).toNat ++
      leBytes 8 (Config.rdmaVa p.job t.id).toNat ++ leBytes 8 t.bytes) ++
    (List.range p.rdmaQps).flatMap fun i => leBytes 4 (Config.qpNumber p.job i).toNat

/-- Places a plan: memory filled with +0 but for adopted entries, ties and pools in their declared state, the sequence
state of its queues fresh (R70, R73, R362, R527), and the plan's bytes in M4 (R494). -/
def Mod.installPlan (m : Mod) (p : Plan) (s : Placed) (sid : Nat) : Mod :=
  let j := m.newJob p s sid
  let fresh := s.got.map fun g => (g.2, g.1.len)
  let m := fresh.foldl (fun m e => m.zeroFill e.1 e.2) m
  let adopted := p.tensors.filterMap fun t => m.adoptable p.job t
  let lanes := p.queueIds.map fun q => ({ lane := .queue q } : LaneState)
  let states := p.pools.map fun d =>
    ({ job := p.job, pool := d.id, requesters := d.requesters, nextReserves := d.reserves
       nextRequesters := d.requesters } : PoolState)
  let others : List LaneState := m.lanes.filter fun (l : LaneState) => !(lanes.any fun (x : LaneState) => x.lane == l.lane)
  let m := { m with
    jobs := m.jobs.concat j
    retained := m.retained.filter fun (r : Retained) => !adopted.contains r
    loads := { job := p.job, inc := p.inc, unloadedAt := none } :: m.loads
    lanes := others ++ lanes
    poolStates := m.poolStates.filter (fun (x : PoolState) => x.job != p.job) ++ states }
  ((m.initTies p).initPools p).extend 4 p.bytes

/-- PLAN_LOAD at the head of its lane. -/
def Mod.startPlanLoad (m : Mod) (id : CmdId) (c : Cmd) : Mod :=
  let job := c.job
  match m.job? job with
  | some j =>
    if j.waleBusy then m.complete id .busyReducing j.waleOps
    else
      let (st, d) := refuseFit .jobLoaded 0
      m.complete id st d
  | none =>
    let len := c.pkt.u 8 4
    let b := ((m.session? c.sid).map fun s => s.staging.read (c.pkt.u 0 8) len).getD []
    let p := planOf b
    let keys := (m.policy.map (·.planKeys)).getD []
    if p.hasSection 1 && !keys.contains p.ownerKey then
      -- no RIGHTS entry refuses here, so the clause number is open (log 30)
      let (d, m) := freeDetail m
      m.complete id .refusedAuth d
    else
      match fitChecks m p b job c.pkt.inc.toNat len with
      | .error u => m.complete id .refusedFit (fitDetail u.res u.index u.short)
      | .ok s => (m.installPlan p s c.sid).complete id .ok 0 p.loadReply

/-! ### PLAN_START (R64, R70, R385, R421) -/

/-- The configuration that POOL_CONFIG has left takes effect; LOW_WATER counts from here. -/
def Mod.applyPools (m : Mod) (job : Nat) : Mod :=
  let next (pool cls : Nat) : Nat := (((m.poolState? job pool).map (·.nextReserves)).getD []).getD cls 0
  { m with
    pools := m.pools.map fun c =>
      if c.job == job then { c with reserve := next c.pool c.cls, lowWater := c.free } else c
    poolStates := m.poolStates.map fun s => if s.job == job then { s with requesters := s.nextRequesters } else s }

/-- The bases of a placement in order. -/
def Placement.bases : Placement → List Nat
  | .flat b => [b]
  | .stripes bs => bs
  | .planes hi lo => [hi, lo]

/-- This rank's placement table: its Tier A and Tier B tensors (R421). -/
def Job.placementTable (j : Job) : List RemotePlace :=
  j.places.filterMap fun t =>
    let e : RemotePlace := ⟨t.decl.id, t.place.bases, (match t.place with | .planes .. => true | _ => false), t.decl.bytes⟩
    match t.decl.tier with
    | .a | .b => some e
    | _ => none

/-- Ranks of a plan in this module's tray. -/
def Plan.trayPeers (p : Plan) : List Nat := p.peers.filter fun r => sameTray (p.addrOf p.rank) (p.addrOf r)

def Mod.startPlanStart (m : Mod) (id : CmdId) (c : Cmd) : Mod :=
  match m.job? c.job with
  | none => m.complete id .staleIncarnation 0xFFFF
  | some j =>
    let m := if j.phase == .quiesced then m.renewTies j.plan else m
    let m := (m.applyPools c.job).updJob c.job fun j => { j with phase := .running }
    let m := j.plan.trayPeers.foldl (fun m r => m.sendReq (j.plan.addrOf r) (.placementTable r c.job j.placementTable)) m
    (((m.answerHolds c.job).replayWale c.job).pokeVerdict c.job).complete id .ok 0

/-! ### QUIESCE and its drain (R71, R72) -/

/-- Whether exchanges still move rows of a job. -/
def Job.exBusy (j : Job) : Bool := j.exSteps.any fun s => s.spoiled.isNone &&
  (s.parcelsOut.any (fun o => o.phase != .accepted || (o.grad.isSome && o.grad != some .accepted)) ||
    s.parcelsIn.any fun x => x.phase != .run)

/-- Whether the drain of a job is complete. -/
def Mod.drained (m : Mod) (j : Job) : Bool :=
  (m.lanes.all fun s => match s.lane with
    | .queue q => !j.plan.queueIds.contains q || (s.current.isNone && s.accepted.isEmpty && s.held.isEmpty)
    | .control _ => true) &&
    !j.exBusy && !j.waleBusy

def Mod.startQuiesce (m : Mod) (id : CmdId) (c : Cmd) : Mod :=
  match m.job? c.job with
  | none => m.complete id .staleIncarnation 0xFFFF
  | some j => (m.updJob c.job fun j => { j with phase := .quiescing }).setWork id.lane (.drain j.deadlines)

/-- The drain of a quiescing job ends. -/
def Mod.drainComplete (m : Mod) (job : Nat) : Mod :=
  match m.job? job with
  | none => m
  | some j =>
    if j.phase != .quiescing || !m.drained j then m
    else
      let m := m.updJob job fun j => { j with phase := .quiesced }
      m.runnings.foldl (fun m (l, r) =>
        match r.work with
        | .drain before =>
          if r.cmd.job != job then m
          else
            let n := j.deadlines - before
            let id := r.cmd.id l
            if n = 0 then m.complete id .ok 0
            else (m.updSum l fun s => { s with degraded := true }).complete id .okDegraded n
        | _ => m) m

/-! ### PLAN_UNLOAD (R73, R79, R375) -/

/-- Fills a tensor's memory with +0. -/
def Mod.fillPlace (m : Mod) (t : TensorPlace) : Mod := t.extents.foldl (fun m e => m.zeroFill e.1 e.2) m

/-- Retains the memory of an entry; an older entry of the same tensor is filled at once. -/
def Mod.retain (m : Mod) (job : Nat) (t : TensorPlace) : Mod :=
  let old := m.retained.filter fun r => r.job == job && r.place.decl.id == t.decl.id
  let m := old.foldl (fun m r => m.fillPlace r.place) m
  { m with retained := (m.retained.filter fun r => !old.contains r).concat { job := job, place := t, since := m.now } }

/-- Releases a job: ties still waited on are ABANDONED, memory is retained or filled with +0. The manual does not say how a
command that still runs on a queue of the job ends, such as a RESTORE: it goes with its queue, without a reply
(DESIGN CHOICE, log 101). -/
def Mod.unload (m : Mod) (j : Job) : Mod :=
  let job := j.plan.job
  let m := m.abandonTies fun t => t.job == job && !t.waiters.isEmpty
  let m := j.places.foldl (fun m t => if t.decl.retain then m.retain job t else m.fillPlace t) m
  let m := j.arenas.foldl (fun m e => m.zeroFill e.1 e.2) m
  let now := m.now
  let close (l : LoadRec) : LoadRec :=
    if l.job == job && l.inc == j.plan.inc && l.unloadedAt.isNone then { l with unloadedAt := some now } else l
  let m := m.dropPools job
  let m := { m with
    ties := m.ties.filter fun t => t.job != job
    jobs := m.jobs.filter fun o => o.plan.job != job
    journals := m.journals.filter fun r => r.job != job
    trayOps := m.trayOps.filter fun t => t.job != job
    lanes := m.lanes.filter fun s => match s.lane with
      | .queue q => !j.plan.queueIds.contains q
      | .control _ => true
    loads := m.loads.map close }
  if m.isSteward then m.clearOwner m.modAddr (some job) false else m

def Mod.startUnload (m : Mod) (id : CmdId) (c : Cmd) : Mod :=
  match m.job? c.job with
  | none => m.complete id .staleIncarnation 0xFFFF
  | some j =>
    let n := m.jobs.countP fun o => o.plan.cls == 2 && o.bound == c.job
    if n ≠ 0 then
      let (st, d) := refuseFit .fillerBound n
      m.complete id st d
    else (m.unload j).complete id .ok 0

/-- A retained entry that no plan adopted within 60 s is filled and released. -/
def Mod.retainExpiry (m : Mod) (job tensor : Nat) : Mod :=
  let due := m.retained.filter fun r => r.job == job && r.place.decl.id == tensor && r.since + 6000000000 ≤ m.now
  let m := due.foldl (fun m r => m.fillPlace r.place) m
  { m with retained := m.retained.filter fun r => !due.contains r }

/-! ### JOB_ABORT (R74, R343, R375, R384) -/

/-- Discards what a job has in flight on this module beside its commands: exchange and wale traffic, staged parts,
withies, tray operations, gateway blocks, passes; sweeps are rolled forward. -/
def Mod.discardTraffic (m : Mod) (j : Job) : Mod :=
  let job := j.plan.job
  let m := j.exSteps.foldl (fun m s => m.dropExStep j s) m
  let m := m.updJob job fun j =>
    { j with exSteps := [], waleNodes := [], norms := [], gathers := [], heldWale := [], clears := [], stageBlocks := []
             fetching := [], fetchers := [], readBlocks := [], copyReads := [] }
  let empty (c : PoolCell) : PoolCell := if c.job == job then { c with busy := [] } else c
  let m := { m with
    staged := m.staged.filter fun s => s.job != job
    trayOps := m.trayOps.filter fun t => t.job != job
    pools := m.pools.map empty }
  (m.dropPasses fun w => w.job == job).rollForward job

/-- Ends the work of a job as JOB_ABORT does: its commands but `keep`, its ties, its traffic. -/
def Mod.abortJob (m : Mod) (job : Nat) (keep : Option CmdId) (st : Status) (detail : Mod → Nat × Mod) : Mod :=
  let m := m.updJob job fun j => { j with phase := .aborting }
  let m := m.abandonTies fun t => t.job == job
  let m := m.endCommands (fun id c => c.job == job && some id != keep) st detail
  match m.job? job with
  | none => m
  | some j => m.discardTraffic j

/-- The regions that a job owned are cleared by the steward (R431). -/
def Mod.disown (m : Mod) (job : Nat) : Mod :=
  let m := m.updJob job fun j => { j with owned := [] }
  if m.isSteward then m.clearOwner m.modAddr (some job) false else m

def Mod.startAbort (m : Mod) (id : CmdId) (c : Cmd) : Mod :=
  let m := (m.abortJob c.job (some id) .abandoned freeDetail).disown c.job
  (m.updJob c.job fun j => { j with phase := .quiesced }).complete id .ok 0

/-! ### JOB_NOTICE (R75, R437, R463) -/

/-- Record `i` of a JOB_NOTICE. -/
def noticeRecord (p : Packet) (i : Nat) : NoticeRec :=
  let w := p.u (32 * i + 21) 3
  { noticeId := p.u (32 * i + 28) 4, kind := p.u (32 * i + 27) 1, rank := p.u (32 * i + 24) 2
    job := w / 2 ^ 12, inc := w / 2 ^ 4 % 256, record := p.u (32 * i + 4) 4 }

def noticeCount (p : Packet) : Nat := p.payload.length / 32

/-- Check 13 of JOB_NOTICE: each record names the header's job and a kind of the table. -/
def noticeFault (p : Packet) : Option Nat :=
  firstViol ((List.range (noticeCount p)).flatMap fun i =>
    let n := noticeRecord p i
    fieldRule (n.job != p.job.toNat) (32 * i + 22) ++ fieldRule (n.kind = 0 || 5 < n.kind) (32 * i + 27))

/-- Commands that wait on far ties homed at a rank. -/
def Mod.farWaitsAt (m : Mod) (job rank : Nat) : List CmdId :=
  (m.runnings.filterMap fun (l, r) =>
    let id := r.cmd.id l
    if r.cmd.job != job then none
    else match m.farCmd? id with
      | some (r, _, t) => if r.work != .farSignal && t.rank == rank then some id else none
      | none => none)

/-- Ends the reductions of a job whose roles a notice has completed. -/
def Mod.endAllReduces (m : Mod) (job : Nat) : Mod :=
  match m.job? job with
  | none => m
  | some j => ((j.waleNodes.map fun n => (n.bucket, n.step)).eraseDups).foldl (fun m x => m.endReduces job x.1 x.2) m

/-- A rank of a job has reset: what its notice does here (R463). -/
def Mod.rankReset (m : Mod) (job rank : Nat) : Mod :=
  let m := (((m.spoilRank job rank).waleNotice job rank).endAllReduces job).normNotice job rank
  m.completeAll (m.farWaitsAt job rank) .targetResetting rank

/-- A notice acts once by its ID; a stale one is recorded only. -/
def Mod.applyNotice (m : Mod) (n : NoticeRec) : Mod :=
  if m.noticeIds.contains n.noticeId then m
  else
    let m := { m with noticeIds := n.noticeId :: m.noticeIds }
    match m.current? n.job n.inc with
    | none => m
    | some j =>
      let m := if m.isSteward && (n.kind == 1 || n.kind == 4) then m.clearOwner (j.plan.addrOf n.rank) none true else m
      if n.kind == 1 || n.kind == 2 || n.kind == 4 then m.rankReset n.job n.rank else m

def Mod.startNotice (m : Mod) (id : CmdId) (c : Cmd) : Mod :=
  ((List.range (noticeCount c.pkt)).foldl (fun m i => m.applyNotice (noticeRecord c.pkt i)) m).complete id .ok 0

/-- The Jobs commands at the head of their lane. -/
def Mod.startJobs (m : Mod) (id : CmdId) (c : Cmd) : Mod :=
  match c.op with
  | .planLoad => m.startPlanLoad id c
  | .planStart => m.startPlanStart id c
  | .quiesce => m.startQuiesce id c
  | .planUnload => m.startUnload id c
  | .jobAbort => m.startAbort id c
  | _ => m.startNotice id c

/-! ### Job states (R63) -/

/-- Whether a job's state accepts an operation: those of the job's queues, of the Jobs group, and POOL_CONFIG. -/
def JobPhase.accepts (ph : JobPhase) (op : Op) : Bool :=
  let stat := op == .poolStatRecords || op == .poolStatRequesters
  match ph with
  | .loaded => stat || op == .planStart || op == .planUnload || op == .jobAbort || op == .poolConfig || op == .restore
  | .running => !op.control || op == .quiesce || op == .jobAbort || op == .jobNotice
  | .quiescing => stat || op == .jobAbort || op == .jobNotice
  | .quiesced => stat || op == .planUnload || op == .planStart || op == .jobAbort || op == .checkpoint || op == .restore
  | .aborting => false

def execDrainComplete (job : Nat) (s : State) : Host.Outcome State Fault Refusal := lift (fun m => m.drainComplete job) s

def execRetainExpiry (job tensor : Nat) (s : State) : Host.Outcome State Fault Refusal :=
  lift (fun m => m.retainExpiry job tensor) s

def execNotice (n : NoticeRec) (s : State) : Host.Outcome State Fault Refusal := lift (fun m => m.applyNotice n) s

end Sys2Proof.Machine
end

