-- ==== Sys2Proof/Machine/Resets.lean ====
section
/-!
DEFINITION. Hangs, context stops and replay isolation, the reset levels and their escalation, reset notices and crash
dumps (R445–R461, R477–R479).
-/

namespace Sys2Proof.Machine

/-! ### Engines and the work on them (R445, R446) -/

/-- The physical stakes that serve a queue's group. -/
def Mod.physOf (m : Mod) (j : Job) (q : Nat) : List Nat :=
  (((j.plan.groupOf q).map (·.stakes)).getD []).filterMap fun l => m.stakeMap.getD l none

/-- Whether a command holds an engine while it does this work (R55). -/
def Work.holds : Work → Bool
  | .passes .. => true
  | .segments .. => true
  | .split .. => true
  | .sweep .. => true
  | .remote _ acks => !acks
  | _ => false

/-- Whether a job uses a Side: it holds stakes or Rim space there (R453). -/
def Plan.usesSide (p : Plan) (side : Nat) : Bool :=
  p.stakes.any (fun l => l / 56 == side) || p.tensors.any fun t => match t.tier with
    | .rim s => s == side
    | _ => false

/-- Whether a running command has work issued to an engine. -/
def Mod.worksOn (m : Mod) (e : Engine) (r : Running) : Bool :=
  match m.job? r.cmd.job with
  | none => false
  | some j =>
    let here (p : Nat) : Bool := (m.physOf j r.cmd.pkt.queue.toNat).contains p
    match e with
    | .sequencer p => r.work.holds && r.cmd.op.group == 3 && here p
    | .transfer p => r.work.holds && r.cmd.op.group == 2 && here p
    | .slew s | .pairing s => (match r.work with | .exchange .. => true | _ => false) && j.plan.usesSide s
    | .sweep u => match r.work with
      | .sweep left _ => left.any fun pg => pg.2.1 == u
      | _ => false
    | .adder p => (match r.work with | .reduce .. => true | _ => false) &&
        (j.plan.stakes.filterMap fun l => m.stakeMap.getD l none).contains p

/-- The commands that have work on an engine, with their jobs. -/
def Mod.workOn (m : Mod) (e : Engine) : List (CmdId × Nat) :=
  (m.runnings.filter fun (_, r) => m.worksOn e r).map fun (l, r) => (r.cmd.id l, r.cmd.job)

/-- The suspects of a hang, in the order of replay: FILLER jobs last, otherwise by job ID (R446, R457). -/
def Mod.suspects (m : Mod) (e : Engine) : List Nat :=
  let js := sortBy (fun a b => a ≤ b) ((m.workOn e).map (·.2)).eraseDups
  (js.filter fun j => !m.filler j) ++ js.filter m.filler

/-- The unit of an engine in a fault log record. -/
def unitOfEngine : Engine → UnitRef
  | .sequencer p | .transfer p | .adder p => ⟨1, p⟩
  | .slew s | .pairing s => ⟨3, s⟩
  | .sweep u => ⟨12, u⟩

/-- The number by which the bound of a Context level names its engine. -/
def codeOfEngine : Engine → Nat
  | .sequencer p => p
  | .transfer p => 256 + p
  | .slew s => 512 + s
  | .pairing s => 516 + s
  | .sweep u => 520 + u
  | .adder p => 768 + p

/-! ### Reset notices (R461) -/

/-- The datagram of a notice. -/
def Notice.bytes (n : Notice) (m : Mod) : Bytes :=
  let jobs := (n.jobs.take 4).flatMap fun (job, inc, rank) => leBytes 4 (job + inc * 2 ^ 12) ++ leBytes 4 rank
  let body := leBytes 2 0x514E ++ leBytes 2 (1 + n.kind * 256) ++ leBytes 4 (m.modAddr + n.scope * 2 ^ 16 + n.side * 2 ^ 24) ++
    leBytes 4 n.noticeId ++ leBytes 4 m.boot.resets ++ leBytes 8 n.time.toNat ++ leBytes 4 n.record ++
    leBytes 4 (min 4 n.jobs.length) ++ jobs ++ List.replicate (32 - jobs.length) 0#8
  body ++ tag16 ((m.policy.map (·.noticeKey)).getD []) body

/-- The fabric-manager endpoints of the policy, at port 47100. -/
def Mod.managers (m : Mod) : List Endpoint :=
  ((m.policy.map (·.endpoints)).getD []).map fun e => { e with port := 47100 }

/-- Sends a notice once. -/
def Mod.sendNotice (m : Mod) (n : Notice) : Mod :=
  m.managers.foldl (fun m e => m.emit (.resetNotice e (n.bytes m))) m

/-- A notice is sent now, and twice more, 1 ms apart. -/
def Mod.notify (m : Mod) (n : Notice) : Mod :=
  let m := m.sendNotice n
  { m with notices := m.notices.concat { n with sent := 1 } }

/-- The next repetition of the notices that are due. -/
def Mod.resendNotices (m : Mod) : Mod :=
  let due (n : Notice) : Bool := n.sent < 3 && n.time.toNat + 100000 * n.sent ≤ m.now
  let m' := (m.notices.filter due).foldl (fun m n => m.sendNotice n) m
  { m' with
    notices := (m.notices.map fun n => if due n then { n with sent := n.sent + 1 } else n).filter fun n => n.sent < 3 }

/-- The affected jobs that a notice lists. -/
def Mod.noticeJobs (js : List Job) : List (Nat × Nat × Nat) := js.map fun j => (j.plan.job, j.plan.inc, j.plan.rank)

/-! ### Crash dumps (R477, R478) -/

/-- A journal record's header granule (Table 11.4). -/
def JournalRec.header (r : JournalRec) : Nat :=
  r.step * 2 ^ 64 + r.range % 256 * 2 ^ 56 + r.page % 2 ^ 32 * 2 ^ 24 + r.state % 4 * 2 ^ 22

/-- The queues section: one entry a queue of a job. -/
def Mod.dumpQueues (m : Mod) : Bytes :=
  m.lanes.flatMap fun s => match s.lane with
    | .control _ => []
    | .queue q =>
      let job := ((m.jobs.find? fun j => j.plan.queueIds.contains q).map fun j => j.plan.job).getD 0
      let head := (s.current.map fun r => (r.cmd.pkt.header r.cmd.op.major r.cmd.op.variant).take 48 ++ r.cmd.pkt.tag).getD []
      Config.dumpQueue job s.expected.toNat head

/-- The references of the module's ties, in increasing order (Table 12.1). -/
def tieRefs : List Nat :=
  ((List.range 224).flatMap fun l => (List.range 512).map (l / 56 * 2 ^ 27 + l % 56 * 2 ^ 21 + ·)) ++
  ((List.range 4).flatMap fun s => (List.range 4096).map (2 ^ 29 + s * 2 ^ 27 + ·)) ++ (List.range 1024).map (2 ^ 30 + ·)

/-- One record per tie of the module; an undeclared tie holds the reset value 0 (R363, R377). -/
def Mod.dumpTies (m : Mod) : Bytes :=
  tieRefs.flatMap fun r => match m.tie? r with
    | some t => tieRecords [t]
    | none => leBytes 16 (r * 2 ^ 96)

/-- The sections of a dump, in the order of their IDs. -/
def Mod.dumpSections (m : Mod) : List (Nat × Bytes) :=
  [(1, Config.dumpSummary m.trail), (2, Config.dumpStakes m.stakeMap m.ribs),
   (3, (List.range 1024).flatMap fun a => leBytes 16 (m.array a).word.word), (4, m.dumpTies), (5, m.dumpQueues),
   (6, m.pools.flatMap PoolCell.record), (7, m.ports.flatMap fun p => leBytes 8 p.word),
   (8, (lastN 256 m.log).flatMap LogRec.bytes), (9, m.journals.flatMap fun r => leBytes 16 r.header)]

/-- A dump: header, directory, sections. -/
def Mod.dumpBytes (m : Mod) (record level : Nat) : Bytes :=
  let secs := m.dumpSections
  let n := secs.length
  let head := leBytes 4 (0x5144 + 2 ^ 16 + n * 2 ^ 24) ++ leBytes 4 record ++ leBytes 8 m.now ++
    leBytes 4 (m.modAddr + level * 2 ^ 16 + 2 ^ 24) ++ leBytes 4 m.boot.resets ++ leBytes 4 m.boot.powerUps ++
    List.replicate 36 0#8
  let dir := (secs.foldl (fun (acc : Bytes × Nat) s =>
    (acc.1 ++ leBytes 4 s.1 ++ leBytes 4 acc.2 ++ leBytes 4 s.2.length ++ leBytes 4 0, acc.2 + s.2.length)) ([], 64 + 16 * n)).1
  head ++ dir ++ secs.flatMap (·.2)

/-- Bytes of a dump slot, and the first slot's place behind the log area of extent 0xFF02. -/
def dumpSlotBytes : Nat := 256 * 2 ^ 20

/-- Takes a crash dump when a management complex runs: the summary into keep RAM, the whole into the next of 15 slots. -/
def Mod.takeDump (m : Mod) (record level : Nat) : Mod :=
  if m.boot.noFirmware then m
  else
    let slot := m.nextDump % 15
    let m := { m with summary := Config.dumpSummary m.trail }.mirror
    let b := m.dumpBytes record level
    let m := m.writeC 0xFF02 (dumpSlotBytes * (1 + slot)) b
    { m with
      dumps := (m.dumps.filter fun d => d.slot != slot).concat { slot := slot, complete := true }
      nextDump := (slot + 1) % 15 }

/-! ### What a level takes down (R30, R384, R449) -/

/-- An array as a reset of its stake leaves it; its counters stay. -/
def ArrayState.fresh (s : ArrayState) : ArrayState := { arr := s.arr, counters := s.counters }

/-- A SMALL mailbox as a reset of its stake leaves it. -/
def SmallMailbox.fresh (b : SmallMailbox) : SmallMailbox := { stake := b.stake }

/-- The takeover that runs in a rib stops; its spare is a spare again (R479). -/
def Mod.stopMove (m : Mod) (rib : Nat) : Mod :=
  let stop (r : RibState) : RibState :=
    match r.moving with
    | some (_, s) => if r.rib == rib then { r with moving := none, spare := some s } else r
    | none => r
  { m with ribs := m.ribs.map stop }

/-- The ribs of a unit of the Engine level, and of a Side. -/
def unitRibs (u : Nat) : List Nat := if u < 256 then [u / 8] else [u - 256]
def sideRibs (side : Nat) : List Nat := (List.range 8).map (8 * side + ·)

/-- Takes down physical stakes: arrays, sequencers, mailboxes, the ties and withies homed there. -/
def Mod.dropStakes (m : Mod) (ps : List Nat) : Mod :=
  let arrays := m.arrays.map fun (s : ArrayState) => if ps.contains (s.arr / 4) then s.fresh else s
  let small := m.small.map fun (b : SmallMailbox) => if ps.contains b.stake then b.fresh else b
  let ls := ps.filterMap m.logicalOf
  let m := { m with arrays := arrays, small := small, sequencers := m.sequencers.filter fun s => !ls.contains s.stake }
  let m := m.abandonTies fun t => tieLevel t.ref == 0 && ls.contains (tieLogical t.ref)
  m.freePlaces fun pl => 0x100 ≤ pl && ls.contains (pl - 0x100)

/-- The physical stakes of a unit of the Engine level: a stake, or a rib as 256 plus its number. -/
def unitStakes (u : Nat) : List Nat := if u < 256 then [u] else (List.range 8).map (8 * (u - 256) + ·)

/-- The Side of such a unit. -/
def unitSide (u : Nat) : Nat := if u < 256 then u / 64 else (u - 256) / 8

/-- The stakes of a Side. -/
def sideStakes (side : Nat) : List Nat := (List.range 64).map (64 * side + ·)

/-- Whether a physical stake is under an Engine or Partition reset; commands for it wait at their queue heads. -/
def Mod.stakeDown (m : Mod) (p : Nat) : Bool :=
  m.escalations.any fun e => (e.level == 2 && (unitStakes e.unit).contains p) || (e.level == 3 && e.unit == p / 64)

/-- Commands in flight on physical stakes: those that their ties have released and that have started. -/
def Mod.inFlight (m : Mod) (ps : List Nat) : List CmdId :=
  m.runnings.filterMap fun (l, r) =>
    let started := match r.work with
      | .ties _ => false
      | .ready => false
      | _ => true
    match m.job? r.cmd.job, l with
    | some j, .queue q => if started && (m.physOf j q).any ps.contains then some (r.cmd.id l) else none
    | _, _ => none

/-- Ends commands one by one with a status. -/
def Mod.endEach (m : Mod) (ids : List CmdId) (st : Status) (d : Nat) : Mod := ids.foldl (fun m id => m.endWith id st d) m

/-! ### Levels (R447–R449, R453, R460, R465, R479) -/

/-- Whether a level that runs covers a level that would start: it is the same or a wider one of the same unit. -/
def Escalation.covers (e : Escalation) (level unit : Nat) : Bool :=
  if 4 ≤ e.level then level ≤ e.level
  else if e.level = 3 then (level = 2 && unitSide unit == e.unit) || (level = 3 && unit == e.unit)
  else level = 2 && (unit == e.unit || (256 ≤ e.unit && unit / 8 == e.unit - 256))

/-- The record of a reset (CLASS RESET). -/
def Mod.logReset (m : Mod) (level : Nat) (unit : UnitRef) : Mod :=
  m.addOpen { time := 0, record := 0, cls := 0x40, outcome := 7, level := level, unit := unit }

/-- The unit of a level in its record. -/
def levelUnit (level unit : Nat) : UnitRef :=
  if level = 2 then (if unit < 256 then ⟨1, unit⟩ else ⟨2, unit - 256⟩) else if level = 3 then ⟨3, unit⟩ else ⟨15, 0⟩

/-- A level begins: narrower ones that it covers end without completing, and a RESET that waits for one of them ends
with the record of the wider one (log 64). -/
def Mod.beginLevel (m : Mod) (e : Escalation) : Mod :=
  let gone := m.escalations.filter fun o => e.covers o.level o.unit
  let m := { m with
    escalations := (m.escalations.filter fun o => !gone.contains o).concat e
    trail := m.trail.concat (e, none) }.mirror
  gone.foldl (fun m o => match o.reply with
    | some id => m.complete id .faultDetected e.record
    | none => m) m

/-- The Engine level on a stake or rib: the rib when a second stake of it enters within 1 ms, or when a takeover moves a
stake of it (R465). -/
def Mod.engineUnit (m : Mod) (u : Nat) : Nat :=
  let second := m.trail.any fun t =>
    t.1.level == 2 && t.1.unit < 256 && t.1.unit != u && t.1.unit / 8 == u / 8 && m.now ≤ t.1.started + 100000
  if u < 256 && (second || m.ribs.any fun r => r.rib == u / 8 && r.moving.isSome) then 256 + u / 8 else u

def Mod.enterEngine (m : Mod) (u : Nat) (reply : Option CmdId) : Mod :=
  let rec_ := m.record
  let m := m.logReset 2 (levelUnit 2 u)
  let m := m.beginLevel { level := 2, unit := u, started := m.now, record := rec_, reply := reply }
  let m := (unitRibs u).foldl Mod.stopMove m
  let ps := unitStakes u
  (m.endEach (m.inFlight ps) .faultDetected rec_).dropStakes ps

/-- The Partition level on a Side: its jobs end as under JOB_ABORT, but with FAULT_DETECTED; recorded commits complete
from their staged copies (R453, R479). -/
def Mod.enterPartition (m : Mod) (side : Nat) (reply : Option CmdId) : Mod :=
  let rec_ := m.record
  let m := { m with boot := { m.boot with resets := m.boot.resets + 1 } }
  let m := m.logReset 3 (levelUnit 3 side)
  let m := m.beginLevel { level := 3, unit := side, started := m.now, record := rec_, noticeId := m.nextNotice, reply := reply }
  let jobs := m.jobs.filter fun j => j.plan.usesSide side
  let n : Notice := { kind := 1, scope := 1, side := side, noticeId := m.nextNotice, time := m.timer, record := rec_
                      jobs := Mod.noticeJobs jobs, sent := 0 }
  let m := ({ m with nextNotice := m.nextNotice + 1 }.notify n).takeDump rec_ 3
  let done := m.staged.filter fun s => s.recorded && jobs.any fun j => j.plan.job == s.job
  let m := done.foldl (fun m s => m.store s.writes) m
  let m := jobs.foldl (fun m j => m.abortJob j.plan.job none .faultDetected fun m => (rec_, m)) m
  let m := ((sideRibs side).foldl Mod.stopMove m).dropStakes (sideStakes side)
  let m := m.abandonTies fun t => tieLevel t.ref == 1 && tieSide t.ref == side
  let side' (b : Nat × MailboxRegs) : Nat × MailboxRegs := if b.1 == side then (b.1, {}) else b
  let m := { m with sideBoxes := m.sideBoxes.map side' }
  m.freePlaces fun pl => pl == side

/-- Acknowledges the sideband request that is busy (R391), with a response body when there is one. -/
def Mod.ackSideband (m : Mod) (code : Nat) (body : Option Bytes) : Mod :=
  let b := m.sideband
  let rsp := match body with
    | some x => [b.latched.getD 0 0#8, 0#8, b.latched.getD 2 0#8, b.latched.getD 3 0#8] ++ leBytes 4 x.length ++ x
    | none => b.rspBuf
  let m := { m with sideband :=
    { b with returnCode := BitVec.ofNat 16 code, ackSeq := b.latched.getD 0 0#8, valid := true, busy := false
             cancel := false, rspBuf := rsp } }
  m.raiseIbi 1

/-- The Module level and MOD_RST_N after READY: packets are turned away, the notice goes out, a request that is busy
gets RESETTING, and the module domain falls (R452, R460, R462, R392). -/
def Mod.enterModule (m : Mod) (reply : Option CmdId) : Mod :=
  let m := { m with boot := { m.boot with resets := m.boot.resets + 1 } }
  let rec_ := m.record
  let m := m.logReset 4 (levelUnit 4 0)
  match m.resetting with
  | some _ => m
  | none =>
    let m := m.beginLevel { level := 4, unit := 0, started := m.now, record := rec_, reply := reply }
    let id := m.nextNotice
    let m := { m with resetting := some { started := m.now, record := rec_, noticeId := id }, nextNotice := id + 1 }
    let m := m.notify { kind := 1, scope := 2, side := 0, noticeId := id, time := m.timer, record := rec_
                        jobs := Mod.noticeJobs m.jobs, sent := 0 }
    let m := m.takeDump rec_ 4
    let m := if m.sideband.busy then m.ackSideband 0x21 none else m
    let park (r : Running) : Running := match r.work with
      | .split .. => r
      | _ => { r with work := .ready }
    let lanes := m.lanes.map fun (s : LaneState) => { s with current := s.current.map park }
    { m with
      boot := { m.boot with stage := .resetting, noFirmware := true }
      lanes := lanes
      arrays := m.arrays.map ArrayState.fresh
      small := m.small.map SmallMailbox.fresh
      sequencers := []
      sideBoxes := m.sideBoxes.map fun b => (b.1, {})
      isolations := []
      proposal := none
      registry := [] }

/-! ### Log flush (R475) -/

/-- Records in the log area of extent 0xFF02. -/
def logAreaRecords : Nat := 4194304

/-- Writes every record that is not in Tier C there, and the verdict records. -/
def Mod.flushLog (m : Mod) : Mod :=
  if m.boot.noFirmware then m
  else
    let m' := (m.log.filter fun r => !r.flushed).foldl
      (fun m r => m.writeC 0xFF02 (64 * (r.record % logAreaRecords)) r.bytes) m
    { m' with
      log := m'.log.map fun (r : LogRec) => { r with flushed := true }
      verdicts := m'.verdicts.map fun (v : VerdictRec) => { v with flushed := true } }.mirror

/-! ### The levels of a power cycle, and the start of a level (R448, R451) -/

/-- A power-cycle request to the tray controller: what the active complex can flush of keep RAM is flushed first (R451). -/
def Mod.enterPowerCycle (m : Mod) : Mod :=
  let rec_ := m.record
  let m := m.logReset 5 (levelUnit 5 0)
  let m := m.beginLevel { level := 5, unit := 0, started := m.now, record := rec_ }
  let n : Notice := { kind := 1, scope := 3, side := 0, noticeId := m.nextNotice, time := m.timer, record := rec_
                      jobs := Mod.noticeJobs m.jobs, sent := 0 }
  let m := (({ m with nextNotice := m.nextNotice + 1 }.notify n).takeDump rec_ 5).flushLog
  { m with power := { m.power with cycleReq := true } }

/-- Starts a level, unless a level that covers it runs already. -/
def Mod.startLevel (m : Mod) (level unit : Nat) (reply : Option CmdId) : Mod :=
  let u := if level = 2 then m.engineUnit unit else unit
  match m.escalations.find? fun e => e.covers level u with
  | some e =>
    if level = 4 then m.enterModule none
    else match reply with
      | some id => m.complete id .faultDetected e.record
      | none => m
  | none =>
    if level = 2 then m.enterEngine u reply
    else if level = 3 then m.enterPartition u reply
    else if level = 4 then m.enterModule reply
    else m.enterPowerCycle

/-- The level that follows the Context level of an engine: the narrowest domain that holds the engine (log 65). -/
def Mod.afterContext (m : Mod) (e : Engine) : Mod :=
  match e with
  | .sequencer p | .transfer p | .adder p => m.startLevel 2 p none
  | .slew s | .pairing s => m.startLevel 3 s none
  | .sweep _ => m.startLevel 4 0 none

/-! ### Hangs and replay isolation (R445, R446, R456–R459) -/

/-- The SUSPECT record of an isolation. -/
def Mod.logSuspects (m : Mod) (e : Engine) : Mod :=
  m.addOpen { time := 0, record := 0, cls := 0x22, outcome := 4, level := 1, unit := unitOfEngine e }

/-- The timeouts of the held suspects' commands stood still (R457). -/
def Mod.resume (m : Mod) (i : Isolation) : Mod :=
  let mine := m.workOn i.engine
  let d := m.now - i.started
  mine.foldl (fun m x => m.updRunning x.1.lane fun r => { r with headAt := r.headAt + d }) m

/-- A hang is found on an engine: its record is written and the Context level starts. A hang found during replay
isolation on the same engine ends the isolation with the next level (R459, R479). -/
def Mod.hang (m : Mod) (e : Engine) (cause : Option CmdId) : Mod :=
  let c := (cause.bind m.cmd?).map (·.cmd)
  let suspects := m.suspects e
  let m := (m.count .HANGS).addOpen
    { time := 0, record := 0, cls := 0x20, outcome := 3, level := 1, unit := unitOfEngine e
      job := (c.map fun c => c.job).getD 0, inc := (c.map fun c => c.pkt.inc.toNat).getD 0
      queue := (c.map fun c => c.pkt.queue.toNat).getD 0, seq := (c.map fun c => c.pkt.seq.toNat).getD 0 }
  if m.isolations.any fun i => i.engine == e then
    ({ m with isolations := m.isolations.filter fun i => i.engine != e }.afterContext e).logSuspects e
  else
    let i : Isolation := { engine := e, started := m.now, stopped := false, left := suspects, innocent := [], guilty := []
                           cause := cause }
    { m with isolations := m.isolations.concat i }

/-- A progress watchdog fires on an engine that has work. -/
def Mod.watchdog (m : Mod) (e : Engine) : Mod := if (m.workOn e).isEmpty then m else m.hang e none

/-- Every suspect has stopped. -/
def Mod.contextStopped (m : Mod) (e : Engine) : Mod :=
  let stop (i : Isolation) : Isolation := if i.engine == e then { i with stopped := true } else i
  { m with isolations := m.isolations.map stop }

/-- A job is aborted whole, as JOB_ABORT does (R74). -/
def Mod.abortWhole (m : Mod) (job : Nat) : Mod :=
  let m := (m.abortJob job none .abandoned freeDetail).disown job
  m.updJob job fun j => { j with phase := .quiesced }

/-- A guilty suspect: its commands on the engine end, and a FILLER job ends whole (R458). -/
def Mod.convict (m : Mod) (e : Engine) (job : Nat) : Mod :=
  let rec_ := m.record
  let m := m.addOpen { time := 0, record := 0, cls := 0x21, outcome := 4, level := 1, unit := unitOfEngine e, job := job
                       inc := ((m.job? job).map fun j => j.plan.inc).getD 0 }
  let mine := ((m.workOn e).filter fun x => x.2 == job).map (·.1)
  let m := m.endEach mine .faultDetected rec_
  if m.filler job then m.abortWhole job else m

/-- Isolation ends: the innocent resume, the guilty meet a Context abort, and with none guilty all resume. -/
def Mod.endIsolation (m : Mod) (i : Isolation) : Mod :=
  let m := { m with isolations := m.isolations.filter fun o => o.engine != i.engine }
  let m := m.resume i
  if i.guilty.isEmpty then m.logSuspects i.engine else i.guilty.foldl (fun m j => m.convict i.engine j) m

/-- A replayed suspect is found innocent or guilty. -/
def Mod.replayVerdict (m : Mod) (e : Engine) (guilty : Bool) : Mod :=
  match m.isolations.find? fun i => i.engine == e with
  | none => m
  | some i =>
    match i.stopped, i.left with
    | true, s :: rest =>
      let m := (m.count .REPLAYS).count .GUILTY_FOUND (if guilty then 1 else 0)
      let i' : Isolation :=
        if guilty then { i with left := rest, guilty := i.guilty.concat s } else { i with left := rest, innocent := i.innocent.concat s }
      if rest.isEmpty then m.endIsolation i'
      else { m with isolations := m.isolations.map fun o => if o.engine == e then i' else o }
    | true, [] => m.endIsolation i
    | false, _ => m

end Sys2Proof.Machine
end

