-- ==== Sys2Proof/Machine/Faults.lean ====
section
/-!
DEFINITION. Takeovers of management complexes and stakes, fault detection and its entry into the levels, the end of a
level, lane tests, log flush, RESET and SPARE_SWAP (R443, R444, R447–R455, R464–R475).
-/

namespace Sys2Proof.Machine

/-! ### Management complexes (R32, R455) -/

/-- The complex of a Border. -/
def Boot.complex (b : Boot) (border : Nat) : MgmtPhase := if border = 0 then b.mgmt.1 else b.mgmt.2

def Boot.setComplex (b : Boot) (border : Nat) (p : MgmtPhase) : Boot :=
  { b with mgmt := if border = 0 then (p, b.mgmt.2) else (b.mgmt.1, p) }

/-- The standby pair becomes active: the control-lane commands that the failed pair had accepted end FAULT_DETECTED, a
busy sideband request gets FAILED, a pending proposal is dropped (R392, R455, R501). `keep` is a command that goes on. -/
def Mod.takeover (m : Mod) (border record : Nat) (keep : Option CmdId) : Mod :=
  let other := 1 - border
  let boot := (m.boot.setComplex border .testing).setComplex other .active
  let m := ({ m with boot := { boot with activeB1 := other == 1, staging := false }, proposal := none }).count .TAKEOVERS_MGMT
  let control (id : CmdId) : Bool := match id.lane with
    | .control _ => true
    | .queue _ => false
  let m := m.endCommands (fun id _ => control id && some id != keep) .faultDetected fun m => (record, m)
  if m.sideband.busy then m.ackSideband 0x30 none else m

/-- A management complex fails: the active one is taken over by the standby, or resets the module when there is none;
a standby leaves for its self-test. -/
def Mod.mgmtFails (m : Mod) (border cls : Nat) : Mod :=
  let rec_ := m.record
  match m.boot.complex border with
  | .active =>
    let m := m.addOpen { time := 0, record := 0, cls := cls, outcome := 7, unit := ⟨10, border⟩ }
    if m.boot.complex (1 - border) == .standby then m.takeover border rec_ none
    else m.startLevel 4 0 none
  | .standby =>
    let m := m.addOpen { time := 0, record := 0, cls := cls, outcome := 2, unit := ⟨10, border⟩ }
    { m with boot := m.boot.setComplex border .testing }
  | _ => m

/-- A failed pair's self-test ends (R455). -/
def Mod.mgmtTested (m : Mod) (border : Nat) (pass : Bool) : Mod :=
  if m.boot.complex border != .testing then m
  else if pass then { m with boot := m.boot.setComplex border .standby }
  else
    let m := m.addOpen { time := 0, record := 0, cls := 0x30, outcome := 6, unit := ⟨10, border⟩ }
    ({ m with boot := m.boot.setComplex border .out }).raiseCause 3

/-! ### Entry into the levels (R450) -/

/-- The router half of a Border leaves service: its ports become FENCED, and ALERT_N is asserted through DEGRADED
(log 66). A port of an odd number lies on B1 (R397). -/
def Mod.fence (m : Mod) (border : Nat) : Mod :=
  let ports := m.ports.zipIdx.map fun (p, i) => if i % 2 == border % 2 then { p with state := 4 } else p
  ({ m with ports := ports }).raiseCause 2

/-- Writes the record of a detected fault that enters a level. -/
def Mod.logFault (m : Mod) (cls level : Nat) (unit : UnitRef) : Mod :=
  m.addOpen { time := 0, record := 0, cls := cls, outcome := if level = 0 then 2 else 7, level := level, unit := unit }

/-- A clock loses lock (Table 14.3). -/
def Mod.clockFails (m : Mod) (c : Clock) : Mod :=
  match c with
  | .aclk s => (m.logFault 0x12 3 ⟨13, s⟩).startLevel 3 s none
  | .nclkSide s => (m.logFault 0x12 3 ⟨13, 4 + s⟩).startLevel 3 s none
  | .nclkBorder b => (m.logFault 0x12 4 ⟨13, 8 + b⟩).startLevel 4 0 none
  | .mclk b => m.mgmtFails b 0x12
  | .fclk b => (m.logFault 0x12 0 ⟨13, 12 + b⟩).fence b
  | .aoclk => (m.logFault 0x12 5 ⟨13, 14⟩).startLevel 5 0 none

/-- The clock that a clock unit's number names (log 66). -/
def clockOf (n : Nat) : Clock :=
  if n < 4 then .aclk n else if n < 8 then .nclkSide (n - 4) else if n < 10 then .nclkBorder (n - 8)
  else if n < 12 then .mclk (n - 10) else if n < 14 then .fclk (n - 12) else .aoclk

/-! ### Stake takeovers (R40, R464–R469) -/

def Mod.rib? (m : Mod) (r : Nat) : Option RibState := m.ribs.find? fun x => x.rib == r

def Mod.updRib (m : Mod) (r : Nat) (f : RibState → RibState) : Mod :=
  { m with ribs := m.ribs.map fun x => if x.rib == r then f x else x }

/-- A logical number becomes ABSENT: the commands in flight there end, later ones at their start (R39, R469). -/
def Mod.goAbsent (m : Mod) (l : Nat) : Mod :=
  let rec_ := m.record
  let ids := m.runnings.filterMap fun (lane, r) => match lane, m.job? r.cmd.job with
    | .queue q, some j =>
      if r.work.holds && (((j.plan.groupOf q).map (·.stakes)).getD []).contains l then some (r.cmd.id lane) else none
    | _, _ => none
  let m := m.addLog { time := 0, record := 0, cls := 0x32, outcome := 6, unit := ⟨2, l / 7⟩, logical := l, info0 := l }
  (({ m with stakeMap := m.stakeMap.set l none }).endEach ids .faultDetected rec_)

/-- Stops the passes of an array at their next resumable boundary. -/
def ArrayState.pause (s : ArrayState) : ArrayState :=
  if s.word.state == 1 || s.word.state == 2 then
    let w := { s.word with state := 4 }
    let r := { s.toPassRun with word := w }
    { s with toPassRun := r, suspended := r :: s.suspended, ramp := .gated, eighths := 8, gap := 0, inGap := false, preempt := false }
  else s

/-- The work of a stake stops, and the commands it pauses carry PREEMPTED (R40). -/
def Mod.pauseStake (m : Mod) (p : Nat) : Mod :=
  let paused := m.inFlight [p]
  let m := paused.foldl (fun m id => m.updSum id.lane fun s => { s with preempted := true }) m
  { m with arrays := m.arrays.map fun (s : ArrayState) => if s.arr / 4 == p then s.pause else s }

/-- The rib's spare begins to take over a logical stake, whose work stops. The map keeps the number at its old stake until
the move ends (R40). -/
def Mod.beginMove (m : Mod) (l spare : Nat) : Mod :=
  match m.stakeMap.getD l none with
  | none => m
  | some p => (m.pauseStake p).updRib (p / 8) fun r => { r with spare := none, moving := some (l, spare) }

/-- Exchanges the arrays and mailboxes of two physical stakes: the state moves with the logical number. -/
def Mod.swapStakes (m : Mod) (p q : Nat) : Mod :=
  let to_ (x : Nat) : Nat := if x == p then q else if x == q then p else x
  let arrays := m.arrays.map fun (s : ArrayState) => { s with arr := 4 * to_ (s.arr / 4) + s.arr % 4 }
  let small := m.small.map fun (b : SmallMailbox) => { b with stake := to_ b.stake }
  { m with arrays := arrays, small := small }

/-- The commands that own an uncorrectable word of a logical stake's store: their own extents name its tensor. -/
def Mod.lostWords (m : Mod) (l : Nat) : List CmdId :=
  let gs := (m.memErrors.filter fun e => regionOf (16 * e.1) == .stake l && decodeWord e.2 == .uncorrectable).map (·.1)
  (m.registry.filter fun r => match (m.job? r.job).bind fun j => j.place? r.desc.tensor with
    | some t => t.extents.any fun e => gs.any fun g => e.1 < 16 * g + 16 && 16 * g < e.1 + e.2
    | none => false).map (·.id)

/-- The stake of a logical number must leave service: the rib's spare takes over, after the takeover that it is in, or,
without a spare, the number becomes ABSENT (R464, R469). -/
def Mod.replaceStake (m : Mod) (l p : Nat) : Mod :=
  match m.rib? (p / 8) with
  | none => m.goAbsent l
  | some r =>
    match r.moving, r.spare with
    | some _, _ => m.pauseStake p
    | none, some s => if m.outOfService.contains s then m.goAbsent l else m.beginMove l s
    | none, none => m.goAbsent l

/-- Replaces the stake of a logical number when that stake is out of service and no takeover of the number runs. -/
def Mod.retireOut (m : Mod) (l : Nat) : Mod :=
  match m.stakeMap.getD l none with
  | some p => if m.outOfService.contains p && !m.inMove l then m.replaceStake l p else m
  | none => m

/-- After a reset of ribs, the numbers whose stakes left service take their spares (R464). -/
def Mod.replaceOut (m : Mod) (ribs : List Nat) : Mod :=
  (ribs.flatMap fun r => (List.range 7).map (7 * r + ·)).foldl Mod.retireOut m

/-- A takeover's move ends: work goes on at the new stake, and the released one becomes the spare, under its self-test; a
number that waited for the spare has its turn (R464, R466, R467). -/
def Mod.finishMove (m : Mod) (rib : Nat) : Mod :=
  match m.rib? rib with
  | none => m
  | some r =>
    match r.moving with
    | none => m
    | some (l, s) =>
      let old := m.stakeMap.getD l none
      let keepOld := old.filter fun p => !m.outOfService.contains p
      let m := match old with
        | some p => m.swapStakes p s
        | none => m
      let now := m.now
      let m := { m with stakeMap := m.stakeMap.set l (some s) }.updRib rib fun x =>
        { x with moving := none, testing := keepOld.isSome, spare := keepOld
                 since := (s, now) :: x.since.filter fun y => y.1 != s }
      let rec_ := m.record
      let lost := m.lostWords l
      let m := (m.addOpen { time := 0, record := 0, cls := 0x31, outcome := 5, unit := ⟨1, s⟩, logical := l }).count .SPARES_USED
      let m := m.endEach lost .faultDetected rec_
      let waits := m.runnings.filterMap fun (lane, x) =>
        if x.cmd.op == .spareStake && x.work == .takeover s then some (x.cmd.id lane) else none
      (m.completeAll waits .ok 0).replaceOut [rib]

/-- The move of a takeover ends; a spare that was under self-test first passes its memory test (R469). -/
def Mod.moveDone (m : Mod) (rib : Nat) : Mod :=
  match m.rib? rib with
  | some r => if r.testing then m else m.finishMove rib
  | none => m

/-- Pholer takes a physical stake out of service (R464). A takeover that moves its state, or moves state to it, stops (R479). -/
def Mod.takeOut (m : Mod) (p : Nat) : Mod :=
  if m.outOfService.contains p then m
  else
    let l := m.logicalOf p
    let m := { m with outOfService := m.outOfService.concat p }.count .STAKES_OUT
    let m := m.addOpen { time := 0, record := 0, cls := 0x31, outcome := 6, unit := ⟨1, p⟩, logical := l.getD 0xFF }
    let move := (m.rib? (p / 8)).bind (·.moving)
    let m := match move with
      | some (l, s) => if s == p || m.stakeMap.getD l none == some p then m.stopMove (p / 8) else m
      | none => m
    let m := m.updRib (p / 8) fun r => if r.spare == some p then { r with spare := none, testing := false } else r
    m.replaceOut [p / 8]

/-- A detected fault of a stake: the third within 24 h takes it out of service (R464). -/
def Mod.stakeFault (m : Mod) (p : Nat) : Mod :=
  let day := 24 * 3600 * 100000000
  let now := m.now
  let recent := (m.stakeFaults.filter fun x => x.1 != p || now < x.2 + day).concat (p, now)
  let n : Nat := recent.countP fun x => x.1 == p
  let m := { m with stakeFaults := recent }
  if 3 ≤ n then m.takeOut p else m

/-! ### Faults of duplicated units and of checkers (R442, R468) -/

/-- A duplicated state machine mismatches (Table 14.3); that of a stake counts as a fault of the stake (R464). -/
def Mod.dupFails (m : Mod) (u : DupUnit) : Mod :=
  match u with
  | .stake p => ((m.logFault 0x11 2 ⟨1, p⟩).startLevel 2 p none).stakeFault p
  | .sideUnit s => (m.logFault 0x11 3 ⟨3, s⟩).startLevel 3 s none
  | .borderUnit b => (m.logFault 0x11 4 ⟨9, b⟩).startLevel 4 0 none
  | .router b => (m.logFault 0x11 0 ⟨11, b⟩).fence b
  | .escalation => (m.logFault 0x11 5 ⟨15, 0⟩).startLevel 5 0 none

def Mod.lockstepFails (m : Mod) (p : LockPair) : Mod :=
  match p with
  | .side s => (m.logFault 0x10 3 ⟨3, s⟩).startLevel 3 s none
  | .mgmt b => m.mgmtFails b 0x10

/-- Master timer mismatch: a power cycle. -/
def Mod.timerFails (m : Mod) : Mod := (m.logFault 0x13 5 ⟨14, 0⟩).startLevel 5 0 none

/-- A checker that does not report its injected error is a fault of its unit, which enters Table 14.3 (R468). -/
def Mod.checkerFails (m : Mod) (u : UnitRef) : Mod :=
  if u.kind = 1 then m.dupFails (.stake u.num)
  else if u.kind = 2 then (m.logFault 0x11 2 u).startLevel 2 (256 + u.num) none
  else if u.kind = 3 then m.dupFails (.sideUnit u.num)
  else if u.kind = 4 then (m.logFault 0x11 3 u).startLevel 3 (u.num / 3) none
  else if u.kind = 7 then (m.logFault 0x11 0 u).fence (u.num % 2)
  else if u.kind = 10 then m.lockstepFails (.mgmt u.num)
  else if u.kind = 11 then m.dupFails (.router u.num)
  else if u.kind = 13 then m.clockFails (clockOf u.num)
  else if u.kind = 14 then m.timerFails
  else if u.kind = 15 then m.dupFails .escalation
  else if u.kind = 0 ∨ u.kind = 8 then m.logFault 0x30 0 u
  else (m.logFault 0x11 4 u).startLevel 4 0 none

def Mod.inject (m : Mod) (u : UnitRef) (reported : Bool) : Mod :=
  let m := m.count .SELF_TESTS
  if reported then m else (m.count .SELF_TEST_FAILS).checkerFails u

/-! ### Rotation and self-tests (R466, R469) -/

/-- A rotating takeover (R466): every 175 minutes for a rib, 10 minutes apart within a Side. -/
def Mod.rotate (m : Mod) (rib : Nat) : Mod :=
  match m.rib? rib with
  | none => m
  | some r =>
    let minute := 60 * 100000000
    let last (x : RibState) : Nat := (x.since.map (·.2)).foldl Nat.max 0
    let due := last r + 175 * minute ≤ m.now
    let clear := m.ribs.all fun x => x.rib == rib || x.rib / 8 != rib / 8 || (x.moving.isNone && last x + 10 * minute ≤ m.now)
    let active := sortBy (fun (a b : Nat × Nat) => a.2 ≤ b.2) (r.since.filter fun x => (m.logicalOf x.1).isSome)
    match active, r.spare with
    | (p, _) :: _, some s =>
      match m.logicalOf p with
      | some l => if due && clear && !r.testing && r.moving.isNone && !m.outOfService.contains s then m.beginMove l s else m
      | none => m
    | _, _ => m

/-- An entry of BIST_RUN's reply (R509): result 0 PASS, 1 FAIL; a memory test that fails names free repair rows. -/
def Mod.bistEntry (m : Mod) (unit : UnitRef) (test : Nat) (pass : Bool) : Bytes × Mod :=
  let (rows, m) := if !pass && test == 2 then m.freeNat else (0, m)
  let sig := Config.bistSignature m.free
  let m := { m with free := m.free + 1 }
  (leBytes 16 (unit.kind * 2 ^ 120 + unit.num % 65536 * 2 ^ 104 + test * 2 ^ 96 +
    (rows % 2 ^ 24 * 256 + if pass then 0 else 1) * 2 ^ 64 + sig.toNat), m)

/-- Ends BIST_RUN of a stake whose test is over. -/
def Mod.endStakeBist (m : Mod) (phys : Nat) (pass : Bool) (record : Nat) : Mod :=
  let waits := m.runnings.filterMap fun (lane, x) =>
    if x.cmd.op == .bistStake && x.work == .takeover phys then some (x.cmd.id lane) else none
  waits.foldl (fun m id =>
    -- which of the two tests of a failed stake failed is free (log 30)
    let (logicBad, m) := m.freeBool
    let (e1, m) := m.bistEntry ⟨1, phys⟩ 1 (pass || !logicBad)
    let (e2, m) := m.bistEntry ⟨1, phys⟩ 2 (pass || logicBad)
    m.complete id (if pass then .ok else .faultDetected) (if pass then 0 else record) (e1 ++ e2)) m

/-- A released stake's self-test ends (R464, R466, R469, R472). -/
def Mod.selfTested (m : Mod) (phys : Nat) (pass : Bool) : Mod :=
  let rib := phys / 8
  match m.rib? rib with
  | none => m
  | some r =>
    let rec_ := m.record
    let moving := (r.moving.filter fun x => x.2 == phys).isSome
    if !r.testing || !(moving || r.spare == some phys) then m
    else
      let m := (m.count .SELF_TESTS).updRib rib fun x => { x with testing := false }
      if pass then
        let m := (m.repairSram fun x => x == phys).endStakeBist phys true 0
        if moving then m.finishMove rib else m
      else
        let m := (m.count .SELF_TEST_FAILS).addOpen
          { time := 0, record := 0, cls := 0x30, outcome := 6, unit := ⟨1, phys⟩ }
        (m.takeOut phys).endStakeBist phys false rec_

/-! ### Detected faults (R129, R441, R442) -/

/-- An array check fails. -/
def Mod.arrayCheck (m : Mod) (a : Nat) : Mod :=
  match m.faultyPass a with
  | (none, m) => m
  | (some r, m) =>
    let w := r.word
    let p := a / 4
    let rec_ := m.record
    let m := m.addLog
      { time := 0, record := 0, cls := 0x01, outcome := 2, unit := ⟨1, p⟩, logical := (m.logicalOf p).getD 0xFF, sub := a % 4
        job := w.job, inc := w.inc, queue := w.queue, seq := w.seq, info0 := w.word % 2 ^ 64 }
    let m := m.discardFaulty a r rec_
    if w.reissued then m.takeOut p else m.stakeFault p

/-- A residue check fails. The operation is formed again from its inputs and gives the same value; a second failure ends
its command (R297, R343, R441, R464). -/
def Mod.residue (m : Mod) (u : ResidueAt) (again : Bool) : Mod :=
  let rec_ := m.record
  let log (unit : UnitRef) (m : Mod) : Mod :=
    m.addOpen { time := 0, record := 0, cls := 0x02, outcome := 2, unit := unit }
  match u with
  | .vector p lane =>
    let m := log ⟨1, p⟩ m
    if !again then m.stakeFault p
    else
      let m := match m.running? lane with
        | some r => m.endWith (r.cmd.id lane) .faultDetected rec_
        | none => m
      m.takeOut p
  | .adder job bucket step shard chunk =>
    match m.nodeAt? job bucket step shard with
    | none => m
    | some a =>
      if !(a.chunks.contains (a.chunks.headD 0 + chunk)) then m
      else
        let m := log ⟨0, 0⟩ m
        if again then m.endEach (m.reducing job bucket step) .faultDetected rec_ else m
  | .sweep u =>
    let on := m.workOn (.sweep u)
    let m := log ⟨12, u⟩ m
    match on with
    | [] => m
    | (id, job) :: _ => if again then m.endWith id .faultDetected rec_ else m.countJob job .SWEEP_RECOMPUTED

/-- A transfer engine's duplicated converter mismatches: the commands that it runs end FAULT_DETECTED. -/
def Mod.converterFails (m : Mod) (p : Nat) : Mod :=
  let rec_ := m.record
  let ids := (m.workOn (.transfer p)).map (·.1)
  let m := m.addOpen { time := 0, record := 0, cls := 0x11, outcome := 2, unit := ⟨1, p⟩ }
  (m.endEach ids .faultDetected rec_).stakeFault p

/-! ### Lane tests (R238, R443, R444) -/

/-- The stamps of the pages that sweeps of a job wrote since `from_` become "never", and their ranges are refused until a
RESTORE. -/
def Job.blockSweeps (j : Job) (from_ : Nat) (ranges : List Nat) : Job :=
  let hit (s : Stamp) : Bool := decide (from_ ≤ s.wroteAt) && s.step != noStamp
  let written := (j.stamps.filter hit).map (·.range)
  { j with
    stamps := j.stamps.map fun s => if hit s then { s with step := noStamp } else s
    sweepBlocked := (j.sweepBlocked ++ ranges ++ written).eraseDups }

/-- A lane fault: the channel leaves service; what read it since its last clean test is ended or spoiled. -/
def Mod.laneFault (m : Mod) (ch : Nat) : Mod :=
  let from_ := ((m.laneTestAt.find? fun x => x.1 == ch).map (·.2)).getD 0
  let reads := (m.channelReads.filter fun r => r.1 == ch && from_ ≤ r.2.1).map (·.2.2)
  let reads := reads.eraseDups
  let m := { m with badChannels := ch :: m.badChannels }
  let base : LogRec := { time := 0, record := 0, cls := 0x08, outcome := 2, unit := ⟨5, ch / 4⟩, sub := ch, info0 := from_ }
  if reads.isEmpty then m.addLog base
  else
    reads.foldl (fun m (id, job, sweep) =>
      let rec_ := m.record
      let ranges := match m.cmd? id with
        | some r => if sweep then sweepRanges r.cmd.pkt else []
        | none => []
      let q := match id.lane with
        | .queue q => q
        | .control _ => 0
      let m := m.addLog { base with job := job, inc := ((m.job? job).map fun j => j.plan.inc).getD 0, queue := q, seq := id.seq }
      let m := match m.cmd? id with
        | some _ => m.endWith id .faultDetected rec_
        | none => m.updJob job fun j => { j with local_ := { j.local_ with spoiled := true } }
      if sweep then m.updJob job fun j => j.blockSweeps from_ ranges else m) m

/-- A lane test of a channel ends. -/
def Mod.laneTested (m : Mod) (ch : Nat) (mismatch : Bool) : Mod :=
  if mismatch then
    if m.badChannels.contains ch then m else (m.laneFault ch).normLane ch
  else if m.badChannels.contains ch then m
  else
    let now := m.now
    ({ m with
      laneTestAt := (ch, now) :: m.laneTestAt.filter fun x => x.1 != ch
      channelReads := m.channelReads.filter fun r => r.1 != ch }).normLane ch

/-! ### Levels end or go on (R447, R448, R454, R464, R472) -/

/-- Enters the completion of a level in the trail. -/
def Mod.closeLevel (m : Mod) (e : Escalation) : Mod :=
  let now := m.now
  { m with
    escalations := m.escalations.filter fun o => o != e
    trail := m.trail.map fun (t : Escalation × Option Nat) => if t.1 == e && t.2.isNone then (t.1, some now) else t }.mirror

/-- An Engine or Partition reset completes: the memories of the unit hold +0, repairs are applied, affected jobs stand
QUIESCED, RESET replies. -/
def Mod.levelDone (m : Mod) (level unit : Nat) : Mod :=
  match m.escalations.find? fun e => e.level == level && e.unit == unit with
  | none => m
  | some e =>
    if level = 2 then
      let ps := unitStakes unit
      let m := (ps.filterMap m.logicalOf).foldl (fun m l => m.zeroFill (stakeBase l) 0x400000) m
      let m := (((m.repairSram ps.contains).closeLevel e).count .ENGINE_RESETS).replaceOut (unitRibs unit)
      match e.reply with
      | some id => m.complete id .ok 0
      | none => m
    else if level = 3 then
      let ps := sideStakes unit
      let m := (ps.filterMap m.logicalOf).foldl (fun m l => m.zeroFill (stakeBase l) 0x400000) m
      let m := (m.zeroFill (rimBase unit) 0x4000000).repairSram fun x => ps.contains x || x == 1000 + unit
      let jobs := m.jobs.filter fun j => j.plan.usesSide unit && j.phase == .aborting
      let quiet (j : Job) : Job := if j.plan.usesSide unit && j.phase == .aborting then { j with phase := .quiesced } else j
      let m := (({ m with jobs := m.jobs.map quiet }.closeLevel e).count .PARTITION_RESETS).replaceOut (sideRibs unit)
      let m := m.notify { kind := 2, scope := 1, side := unit, noticeId := e.noticeId, time := BitVec.ofNat 64 e.started
                          record := e.record, jobs := Mod.noticeJobs jobs, sent := 0 }
      match e.reply with
      | some id => m.complete id .ok 0
      | none => m
    else m

/-- The bound of a level. -/
def levelBound (level : Nat) : Nat :=
  if level = 1 then 1000 else if level = 2 then 100000 else if level = 3 then 2000000 else 200000000

/-- A level's bound passes: the escalation controller starts the next level. -/
def Mod.boundPassed (m : Mod) (level unit : Nat) : Mod :=
  if level = 1 then
    match m.isolations.find? fun i => codeOfEngine i.engine == unit && !i.stopped && i.started + levelBound 1 ≤ m.now with
    | none => m
    | some i => ({ m with isolations := m.isolations.filter fun o => o != i }.afterContext i.engine).logSuspects i.engine
  else
    match m.escalations.find? fun e => e.level == level && e.unit == unit && e.started + levelBound level ≤ m.now with
    | none => m
    | some _ =>
      if level = 2 then
        let m := m.startLevel 3 (unitSide unit) none
        (unitStakes unit).foldl Mod.takeOut m
      else if level = 3 then m.startLevel 4 0 none
      else if level = 4 then m.startLevel 5 0 none
      else m

/-! ### Timer copies (R37, R441) -/

/-- A number as a signed one. -/
def zigzag (n : Nat) : Int := if n % 2 = 0 then (n / 2 : Nat) else -((n / 2 + 1 : Nat) : Int)

/-- How far a copy of the timer stands from the master (R37); a copy that nothing has compared since its reload stands at it. -/
def Mod.deviation (m : Mod) (copy : Nat) : Int := ((m.timerDev.find? fun d => d.1 == copy).map (·.2)).getD 0

/-- Compares a timer copy with the master: what its counter shows is free. A copy that is off by more than one tick is a
detected fault, and it is reloaded (R37, R441, log 67). -/
def Mod.compareCopy (m : Mod) (copy : Nat) : Mod :=
  let (x, m) := m.freeNat
  let m := { m with timerDev := (copy, zigzag x) :: m.timerDev.filter fun d => d.1 != copy }
  if (m.deviation copy).natAbs ≤ 1 then m
  else { m.addOpen { time := 0, record := 0, cls := 0x13, outcome := 2, unit := ⟨14, 0⟩, sub := copy } with
      timerDev := m.timerDev.filter fun d => d.1 != copy }

/-- Reloads every copy of the timer, 65,536 ticks after the reload before (R37). -/
def Mod.reloadCopies (m : Mod) : Mod :=
  if m.now < m.timerReload + 65536 then m else { m with timerDev := [], timerReload := m.now }

/-! ### RESET and SPARE_SWAP (R454, R471) -/

/-- The unit that RESET names, as a unit of its level. -/
def Mod.resetUnit (m : Mod) (c : Cmd) : Nat :=
  if c.op == .resetEngine then
    let p := (m.stakeMap.getD (c.pkt.u 0 2) none).getD 0
    if c.pkt.flag 0 then 256 + p / 8 else p
  else if c.op == .resetPartition then c.pkt.u 0 2
  else 0

def Mod.resetFault (m : Mod) (op : Op) (p : Packet) : Option Nat :=
  let u := p.u 0 2
  firstViol (fieldRule (if op == .resetEngine then 223 < u || !m.present u
    else if op == .resetPartition then 3 < u else u != 0) 0)

/-- Whether a unit holds work of another session's job (R454). -/
def Mod.foreignWork (m : Mod) (op : Op) (p : Packet) (sid : Nat) : Bool :=
  let u := p.u 0 2
  m.jobs.any fun j => j.loadSid != sid &&
    (if op == .resetEngine then
      j.plan.stakes.any fun l => if p.flag 0 then l / 7 == u / 7 else l == u
    else if op == .resetPartition then j.plan.usesSide u
    else false)

def Mod.startReset (m : Mod) (id : CmdId) (c : Cmd) : Mod :=
  match c.op with
  | .resetEngine =>
    let u := m.engineUnit (m.resetUnit c)
    (m.setWork id.lane (.level 2 u)).startLevel 2 u (some id)
  | .resetPartition =>
    let u := m.resetUnit c
    (m.setWork id.lane (.level 3 u)).startLevel 3 u (some id)
  | .resetModule => (m.complete id .ok 0).startLevel 4 0 none
  | _ => (m.complete id .ok 0).startLevel 5 0 none

def spareFault (p : Packet) : Option Nat :=
  let k := p.u 0 1
  let u := p.u 4 2
  let s1 := p.u 6 1
  let s2 := p.u 7 1
  let s3 := p.u 8 2
  let a := p.u 0x10 8
  firstViol (fieldRule (5 < k) 0 ++
    fieldRule (match k with | 0 => 223 < u | 1 => 15 < u | 2 => 11 < u | 4 => 255 < u | _ => u != 0) 4 ++
    fieldRule (match k with | 1 => 7 < s1 | 2 => 31 < s1 | 4 => 31 < s1 | _ => s1 != 0) 6 ++
    fieldRule (match k with | 2 => 1 < s2 | _ => s2 != 0) 7 ++
    fieldRule (match k with | 2 => 35 < s3 | 4 => false | _ => s3 != 0) 8 ++
    fieldRule (if k = 3 then (rowOf a).isNone else a != 0) 0x10)

/-- A spare comes into service at once: its record and SPARES_USED. -/
def Mod.spareIn (m : Mod) (unit : UnitRef) (sub : Nat) : Mod :=
  (m.addOpen { time := 0, record := 0, cls := 0x31, outcome := 5, unit := unit, sub := sub }).count .SPARES_USED

/-- A stake number within its rib: logical stakes stand by sevens, physical ones by eights. -/
def ribOf (l : Nat) : Nat := l / 56 * 8 + l % 56 / 7

def Mod.startSpare (m : Mod) (id : CmdId) (c : Cmd) : Mod :=
  let p := c.pkt
  let u := p.u 4 2
  let none_ (m : Mod) : Mod :=
    let (st, d) := refuseFit .spare 1
    m.complete id st d
  match c.op with
  | .spareStake =>
    match m.rib? (ribOf u), m.present u with
    | some r, true =>
      match r.spare, r.moving with
      | some s, none =>
        if m.outOfService.contains s then none_ m
        else if r.testing then m.setWork id.lane .ready
        else (m.setWork id.lane (.takeover s)).beginMove u s
      | _, some _ => m.setWork id.lane .ready
      | none, none => none_ m
    | _, _ => none_ m
  | .spareWeaveLane =>
    let port := m.ports.getD u {}
    if port.spareFor != 0xF then none_ m
    else
      let m := { m with ports := m.ports.set u { port with spareFor := p.u 6 1 } }
      ((m.spareIn ⟨7, u⟩ (p.u 6 1)).complete id .ok 0)
  | .spareHbmLane =>
    let pc := 64 * u + 2 * p.u 6 1 + p.u 7 1
    if m.hbmSpares.any fun x => x.1 == pc then none_ m
    else ({ m with hbmSpares := m.hbmSpares.concat (pc, p.u 8 2) }.spareIn ⟨4, u⟩ (p.u 8 2)).complete id .ok 0
  | .spareDramRow =>
    let a := p.u 0x10 8
    match rowOf a with
    | none => none_ m
    | some r =>
      if 32 ≤ m.rowTable.countP fun x => x.1 == r.1 then none_ m else (m.moveRow a).complete id .ok 0
  | .spareSramRow =>
    let row := (u, p.u 6 1, p.u 8 2)
    if 8 ≤ m.sramRepairs.countP fun x => x.1 == row.1 && x.2.1 == row.2.1 then none_ m
    else (({ m with sramList := m.sramList.concat row }.repairSram fun x => x == u)).complete id .ok 0
  | _ =>
    let b := m.activeBorder
    if m.boot.complex (1 - b) != .standby then none_ m
    else
      let rec_ := m.record
      ((m.spareIn ⟨10, 1 - b⟩ 0).takeover b rec_ (some id)).complete id .ok 0

/-! ### Meanings -/

def execArrayCheckFault (arr : Nat) (s : State) : Host.Outcome State Fault Refusal := lift (fun m => m.arrayCheck arr) s

def execLaneTest (channel : Nat) (mismatch : Bool) (s : State) : Host.Outcome State Fault Refusal :=
  lift (fun m => m.laneTested channel mismatch) s

def execTimerCopyReload (s : State) : Host.Outcome State Fault Refusal := lift Mod.reloadCopies s
def execTimerCopyCompare (copy : Nat) (s : State) : Host.Outcome State Fault Refusal := lift (fun m => m.compareCopy copy) s
def execTimerMismatch (s : State) : Host.Outcome State Fault Refusal := lift Mod.timerFails s
def execClockLockLoss (clock : Clock) (s : State) : Host.Outcome State Fault Refusal := lift (fun m => m.clockFails clock) s
def execLockstepMismatch (pair : LockPair) (s : State) : Host.Outcome State Fault Refusal := lift (fun m => m.lockstepFails pair) s
def execDupStateMismatch (unit : DupUnit) (s : State) : Host.Outcome State Fault Refusal := lift (fun m => m.dupFails unit) s

def execResidueFault (at_ : ResidueAt) (again : Bool) (s : State) : Host.Outcome State Fault Refusal :=
  lift (fun m => m.residue at_ again) s

def execConverterMismatch (stake : Nat) (s : State) : Host.Outcome State Fault Refusal := lift (fun m => m.converterFails stake) s
def execProgressWatchdog (engine : Engine) (s : State) : Host.Outcome State Fault Refusal := lift (fun m => m.watchdog engine) s

/-- The firmware watchdog: a hang without suspects, and a takeover (R445, R446, R450). -/
def execFirmwareWatchdog (border : Nat) (s : State) : Host.Outcome State Fault Refusal :=
  lift (fun m => (m.count .HANGS).mgmtFails border 0x20) s

def execContextStopDone (engine : Engine) (s : State) : Host.Outcome State Fault Refusal :=
  lift (fun m => m.contextStopped engine) s

def execReplayVerdict (engine : Engine) (guilty : Bool) (s : State) : Host.Outcome State Fault Refusal :=
  lift (fun m => m.replayVerdict engine guilty) s

def execEscalationBoundExpiry (level unit : Nat) (s : State) : Host.Outcome State Fault Refusal :=
  lift (fun m => m.boundPassed level unit) s

def execEscalationLevelDone (level unit : Nat) (s : State) : Host.Outcome State Fault Refusal :=
  lift (fun m => m.levelDone level unit) s

def execNoticeResend (s : State) : Host.Outcome State Fault Refusal := lift Mod.resendNotices s
def execRotatingTakeover (rib : Nat) (s : State) : Host.Outcome State Fault Refusal := lift (fun m => m.rotate rib) s
def execStakeTakeoverDone (rib : Nat) (s : State) : Host.Outcome State Fault Refusal := lift (fun m => m.moveDone rib) s

def execSelfTestDone (phys : Nat) (pass : Bool) (s : State) : Host.Outcome State Fault Refusal :=
  lift (fun m => m.selfTested phys pass) s

def execMgmtSelfTestDone (border : Nat) (pass : Bool) (s : State) : Host.Outcome State Fault Refusal :=
  lift (fun m => m.mgmtTested border pass) s

def execCheckerInjection (unit : UnitRef) (reported : Bool) (s : State) : Host.Outcome State Fault Refusal :=
  lift (fun m => m.inject unit reported) s

def execLogFlush (s : State) : Host.Outcome State Fault Refusal := lift Mod.flushLog s

end Sys2Proof.Machine
end

