-- ==== Sys2Proof/Machine/Packets.lean ====
section
/-!
DEFINITION. Messages of the Weave in bytes: the header granule of exchange messages (R264, R265), the two header granules of
wale packets (R294), their bodies, and the words of a packet on a link (R403, R404). The spec gives no placement of rows,
bitmaps and values within the granules of a body: the model's is that of log 109.
-/

namespace Sys2Proof

open Sys2Proof.Machine

/-- Table 9.5. -/
def ExKind.code : ExKind → Nat
  | .counts => 1
  | .parcel => 2
  | .accept => 3
  | .hold => 4
  | .pull => 5
  | .result => 6
  | .tags => 7
  | .keep => 8
  | .grad => 9
  | .dgrad => 0xA
  | .spoil => 0xB

/-- Every kind of exchange message. -/
def ExKind.all : List ExKind := [.counts, .parcel, .accept, .hold, .pull, .result, .tags, .keep, .grad, .dgrad, .spoil]

def ExKind.ofCode (n : Nat) : Option ExKind := ExKind.all.find? fun k => k.code == n

/-- Table 10.2. -/
def WaleKind.code : WaleKind → Nat
  | .chunk => 0x21
  | .ack => 0x22
  | .scales => 0x23
  | .gather => 0x24
  | .normUp => 0x25
  | .verdict => 0x26
  | .clear => 0x27
  | .sendData => 0x28

/-- Every kind of wale packet. -/
def WaleKind.all : List WaleKind := [.chunk, .ack, .scales, .gather, .normUp, .verdict, .clear, .sendData]

def WaleKind.ofCode (n : Nat) : Option WaleKind := WaleKind.all.find? fun k => k.code == n

/-- A Weave class (R403). -/
def ExKind.cls : ExKind → Nat
  | .counts | .parcel | .pull | .tags | .grad => 2
  | _ => 1

def WaleKind.cls : WaleKind → Nat
  | .ack | .verdict | .clear => 1
  | _ => 3

end Sys2Proof

namespace Sys2Proof.Machine

/-- Granules that hold `n` bytes. -/
def granules (n : Nat) : Nat := (n + 15) / 16

/-- Bytes in whole granules. -/
def inGranules (b : Bytes) : Bytes := b ++ List.replicate (16 * granules b.length - b.length) 0#8

/-- A bit of a header. -/
def headerBit (b : Bool) (i : Nat) : Nat := if b then 2 ^ i else 0

end Sys2Proof.Machine

namespace Sys2Proof

open Sys2Proof.Machine

/-! ### Exchange messages (R264, R265) -/

/-- COUNT: the entries or rows that follow. -/
def ExMsg.countOf (x : ExMsg) (k : ExKind) : Nat :=
  match k with
  | .counts => x.entries.length
  | .keep => x.keep.length
  | .parcel | .result | .tags | .grad | .dgrad => x.tags.length
  | .accept | .hold | .pull | .spoil => 0

/-- The header granule of Table 9.4; its reserved bits are 0. -/
def ExMsg.header (x : ExMsg) (k : ExKind) : Nat :=
  k.code * 2 ^ 120 + x.inc % 256 * 2 ^ 112 + x.job % 4096 * 2 ^ 100 + x.source % 65536 * 2 ^ 80 + x.exch % 65536 * 2 ^ 64 +
    x.group % 2 ^ 24 * 2 ^ 40 + x.step % 256 * 2 ^ 32 + headerBit x.lastGroup 31 + x.countOf k % 8192 * 2 ^ 16 + x.slot % 65536

/-- An entry of a COUNTS message: TOTAL over SENT (R265). -/
def countsEntry (e : Nat × Nat) : Nat := e.1 % 65536 * 65536 + e.2 % 65536

/-- The body of an exchange message (Table 9.5). -/
def ExMsg.bodyBytes (x : ExMsg) (k : ExKind) : Bytes :=
  let tags := x.tags.flatMap fun t => leBytes 16 t.word
  match k with
  | .counts => inGranules (x.entries.flatMap fun e => leBytes 4 (countsEntry e))
  | .parcel | .result | .dgrad => tags ++ x.rows.flatMap inGranules
  | .tags => tags
  | .keep => inGranules (leBytes ((x.keep.length + 7) / 8) (packBits 1 (x.keep.map Bool.toNat)))
  | .grad => tags ++ x.rows.flatMap inGranules ++ x.rows2.flatMap inGranules
  | .accept | .hold | .pull | .spoil => []

/-- An exchange message in bytes: its header granule and its body. -/
def ExMsg.bytes (x : ExMsg) (k : ExKind) : Bytes := leBytes 16 (x.header k) ++ x.bodyBytes k

/-- The fields of a header granule (Table 9.4). -/
def ExMsg.ofHeader (h : Nat) : ExMsg :=
  { job := h / 2 ^ 100 % 4096, inc := h / 2 ^ 112 % 256, source := h / 2 ^ 80 % 65536, exch := h / 2 ^ 64 % 65536
    group := h / 2 ^ 40 % 2 ^ 24, step := h / 2 ^ 32 % 256, lastGroup := h / 2 ^ 31 % 2 == 1, slot := h % 65536
    entries := [], tags := [], rows := [], rows2 := [], keep := [], held := false }

/-- `n` pieces of `size` bytes that each start a granule, from byte `at_` of a body. -/
def piecesAt (b : Bytes) (at_ size n : Nat) : List Bytes :=
  (List.range n).map fun i => (b.drop (at_ + 16 * granules size * i)).take size

/-- Reads an exchange message whose rows have `inB` and `outB` bytes. -/
def ExMsg.ofBytes (inB outB : Nat) (k : ExKind) (b : Bytes) : ExMsg :=
  let h := leNat (b.take 16)
  let n := h / 2 ^ 16 % 8192
  let body := b.drop 16
  let x := ExMsg.ofHeader h
  let tags := (piecesAt body 0 16 n).map fun w => Tag.ofWord (leNat w)
  let held := tags.any (·.held)
  match k with
  | .counts => { x with entries := (List.range n).map fun i =>
      let w := leNat ((body.drop (4 * i)).take 4)
      (w / 65536, w % 65536) }
  | .parcel | .dgrad => { x with tags := tags, rows := piecesAt body (16 * n) inB n, held := held }
  | .result => { x with tags := tags, rows := piecesAt body (16 * n) outB n, held := held }
  | .tags => { x with tags := tags, held := held }
  | .keep => { x with keep := (unpackBits 1 n (leNat body)).map (· == 1) }
  | .grad => { x with
      tags := tags, rows := piecesAt body (16 * n) outB n
      rows2 := piecesAt body (16 * n + 16 * granules outB * n) inB n, held := held }
  | .accept | .hold | .pull | .spoil => x

/-! ### Wale packets (R294) -/

/-- Whether CONTRIB of a kind holds an element count: R314 gives the count no field of its own (log 109). -/
def WaleKind.counts : WaleKind → Bool
  | .sendData | .clear | .ack => true
  | _ => false

/-- Granule 0 of a wale packet. -/
def WaleMsg.header0 (x : WaleMsg) (k : WaleKind) : Nat :=
  k.code * 2 ^ 120 + x.inc % 256 * 2 ^ 112 + x.job % 4096 * 2 ^ 100 + x.source % 65536 * 2 ^ 80 + x.bucket % 65536 * 2 ^ 64 +
    x.step % 2 ^ 32 * 2 ^ 32 + x.shard % 65536 * 2 ^ 16 + x.chunk % 65536

/-- Granule 1 of a wale packet. -/
def WaleMsg.header1 (x : WaleMsg) (k : WaleKind) : Nat :=
  x.vfmt % 16 * 2 ^ 124 + headerBit x.esc 123 + headerBit x.carried 122 + headerBit x.nonfinite 121 + headerBit x.last 120 +
    (if k.counts then x.count else x.contrib) % 2 ^ 32 * 2 ^ 64 + min 65535 x.missing * 2 ^ 48

/-- The body of a wale packet (Table 10.2). -/
def WaleMsg.bodyBytes (x : WaleMsg) (k : WaleKind) : Bytes :=
  match k with
  | .normUp | .verdict => inGranules ((x.vec.flatMap fun v => leBytes 4 v.toNat) ++ leBytes 8 x.word.toNat)
  | .ack | .clear => []
  | .chunk | .scales | .gather | .sendData => inGranules x.body

/-- A wale packet in bytes: its two header granules and its body. -/
def WaleMsg.bytes (x : WaleMsg) (k : WaleKind) : Bytes := leBytes 16 (x.header0 k) ++ leBytes 16 (x.header1 k) ++ x.bodyBytes k

/-- Reads a wale packet. -/
def WaleMsg.ofBytes (k : WaleKind) (b : Bytes) : WaleMsg :=
  let g := leNat (b.take 16)
  let h := leNat ((b.drop 16).take 16)
  let body := b.drop 32
  let n := h / 2 ^ 64 % 2 ^ 32
  let norm := k == .normUp || k == .verdict
  { inc := g / 2 ^ 112 % 256, job := g / 2 ^ 100 % 4096, source := g / 2 ^ 80 % 65536, bucket := g / 2 ^ 64 % 65536
    step := g / 2 ^ 32 % 2 ^ 32, shard := g / 2 ^ 16 % 65536, chunk := g % 65536
    vfmt := h / 2 ^ 124, esc := h / 2 ^ 123 % 2 == 1, carried := h / 2 ^ 122 % 2 == 1, nonfinite := h / 2 ^ 121 % 2 == 1
    last := h / 2 ^ 120 % 2 == 1, contrib := if k.counts then 0 else n, missing := h / 2 ^ 48 % 65536
    body := if norm then [] else body
    vec := if norm then (List.range 16).map fun i => BitVec.ofNat 32 (leNat ((body.drop (4 * i)).take 4)) else []
    word := if norm then BitVec.ofNat 64 (leNat ((body.drop 64).take 8)) else 0
    count := if k.counts then n else 0 }

/-! ### Words on a link (R403, R404) -/

/-- What the router leaves of a word's error: corrected words carry at most a whole code word (R235, R404). -/
def leftOf (e : BitVec 144) : BitVec 144 :=
  match decodeWord e with
  | .corrected i x => flipSymbol e i x
  | _ => e

/-- A packet behind a router's port: words with one symbol in error are corrected there, and an uncorrectable word goes on as
it is (R404). -/
def WeavePkt.routed (p : WeavePkt) : WeavePkt :=
  let stays (e : Nat × BitVec 144) : Bool := decodeWord e.2 == .uncorrectable
  let spoil (d : Bytes) (e : Nat × BitVec 144) : Bytes :=
    if stays e || leftOf e.2 == 0 then d
    else d.zipIdx.map fun (x : Byte × Nat) =>
      if x.2 / 16 = e.1 then x.1 ^^^ BitVec.ofNat 8 ((leftOf e.2).toNat / 256 ^ (x.2 % 16)) else x.1
  { p with errs := p.errs.filter stays, data := p.errs.foldl spoil p.data }

/-- MSG ID of a packet's route granule. -/
def WeavePkt.msgId (p : WeavePkt) : Nat := p.operand.toNat / 2 ^ 48

end Sys2Proof
end

