-- ==== Sys2Proof/Machine/Routes.lean ====
section
/-!
DEFINITION. The Weave routers and links: coordinates and ports, the paths of R407–R409 and R412, atomics that wait in
output queues and combine (R424), transit (R410, R415), words counted at ports, and the link layer (R398–R402).
-/

namespace Sys2Proof.Machine

/-! ### Coordinates and ports (R395–R397) -/

/-- The extent of ring `d` (0 x, 1 y, 2 z). -/
def ringLen (d : Nat) : Nat := Nat.max 1 (Config.ringExtent d)

/-- The coordinate of a module address in a ring, and its weight in the address. -/
def axisAt (a d : Nat) : Nat := if d = 0 then a % 8 else if d = 1 then a / 8 % 16 else a / 128 % 32
def axisWeight (d : Nat) : Nat := if d = 0 then 1 else if d = 1 then 8 else 128

/-- The address with another coordinate. -/
def setAxis (a d v : Nat) : Nat := a - axisAt a d * axisWeight d + v * axisWeight d

/-- The ports of a direction in the order of the cabling table. -/
def dirPorts (d : Nat) (plus : Bool) : List Nat :=
  if d = 0 then (if plus then [0, 1, 2] else [3, 4, 5])
  else if d = 1 then (if plus then [6, 7] else [8, 9])
  else if plus then [10, 11] else [12, 13]

/-- The neighbour's port of a port; a trunk port faces a switch. -/
def matePort (p : Nat) : Option Nat :=
  if p < 3 then some (p + 3) else if p < 6 then some (p - 3)
  else if p < 8 then some (p + 2) else if p < 10 then some (p - 2)
  else if p < 12 then some (p + 2) else if p < 14 then some (p - 2) else none

/-- The next module in a direction. -/
def stepAxis (a d : Nat) (plus : Bool) : Nat :=
  let e := ringLen d
  let c := axisAt a d
  setAxis a d (if plus then (c + 1) % e else (c + e - 1) % e)

/-- Whether a hop crosses the dateline of its ring, the link between positions extent − 1 and 0 (R409). -/
def crossesDateline (a d : Nat) (plus : Bool) : Bool :=
  if plus then axisAt a d + 1 == ringLen d else axisAt a d == 0

/-- A port that carries traffic. -/
def Port.up (p : Port) : Bool := p.state == 2 || p.state == 3

/-- Whether a link is dead at a module's port in a direction: in the fault table from either end, or a port of this
module that is not UP or DEGRADED (R402, R412). -/
def Mod.linkDead (m : Mod) (a d : Nat) (plus : Bool) (p : Nat) : Bool :=
  m.faultTable.contains (a, p) ||
    (match matePort p with
      | some q => m.faultTable.contains (stepAxis a d plus, q)
      | none => false) ||
    (a == m.modAddr && !(m.ports.getD p {}).up)

/-- Whether a way round a ring is cut for a packet: for the request class, when a link of it is dead; for the others,
when every link of some hop is. -/
def Mod.wayCut (m : Mod) (request : Bool) (d : Nat) (plus : Bool) : Nat → Nat → Bool
  | 0, _ => false
  | k + 1, a =>
    let dead := (dirPorts d plus).map fun p => m.linkDead a d plus p
    (if request then dead.any id else dead.all id) || m.wayCut request d plus k (stepAxis a d plus)

/-- Hops from `a` to coordinate `t` in a ring, each way. -/
def ringHops (a d t : Nat) (plus : Bool) : Nat :=
  let e := ringLen d
  let c := axisAt a d
  if plus then (t + e - c % e) % e else (c + e - t % e) % e

/-- The ways round a ring in the order in which they are tried: the shorter first; equal ones by u[1] for the request
class, and both at once for the others. -/
def Mod.ringWays (m : Mod) (request : Bool) (u a d t : Nat) : List (List Bool) :=
  let f := ringHops a d t true
  let b := ringHops a d t false
  let open_ (p : Bool) : List Bool := if m.wayCut request d p (if p then f else b) a then [] else [p]
  if f < b then [open_ true, open_ false]
  else if b < f then [open_ false, open_ true]
  else if request then (if u / 2 % 2 = 0 then [open_ true, open_ false] else [open_ false, open_ true])
  else [open_ true ++ open_ false]

/-- The directions in which a packet crosses a ring: the first way that is not cut. -/
def Mod.ringDirs (m : Mod) (request : Bool) (u a d t : Nat) : List Bool :=
  ((m.ringWays request u a d t).find? fun w => !w.isEmpty).getD []

/-- One step in the next dimension, when both ways round a ring are cut (R412). -/
def Mod.detour (m : Mod) (a d : Nat) : List (Nat × Bool × Nat) :=
  let e := (d + 1) % 3
  if ringLen e < 2 then []
  else [true, false].flatMap fun plus => ((dirPorts e plus).filter fun p => !m.linkDead a e plus p).map fun p => (e, plus, p)

/-- The hops that a packet may take at this module, as (dimension, direction, port); a trunk hop has dimension 3. -/
def Mod.hops (m : Mod) (request escape : Bool) (u dest : Nat) : List (Nat × Bool × Nat) :=
  let a := m.modAddr
  let trunkUp (p : Nat) : Bool := !m.faultTable.contains (a, p) && (m.ports.getD p {}).up
  if dest / 4096 != a / 4096 then
    if request then
      let p := 14 + u % 2
      let q := 15 - u % 2
      if trunkUp p then [(3, true, p)] else if trunkUp q then [(3, true, q)] else []
    else ([14, 15].filter trunkUp).map fun p => (3, true, p)
  else
    let dims := [0, 1, 2].filter fun d => axisAt a d != axisAt dest d
    match dims with
    | [] => []
    | d :: _ =>
      let first := m.ringDirs request u a d (axisAt dest d)
      if request || escape then
        let pick := first.flatMap fun plus =>
          let ps := dirPorts d plus
          if request then [(d, plus, ps.getD (u % ps.length) 0)]
          else (ps.filter fun p => !m.linkDead a d plus p).map fun p => (d, plus, p)
        if pick.isEmpty then m.detour a d else pick
      else
        let short := dims.flatMap fun d =>
          let t := axisAt dest d
          let f := ringHops a d t true
          let b := ringHops a d t false
          [true, false].flatMap fun plus =>
            let mine := if plus then f else b
            let other := if plus then b else f
            if other < mine || m.wayCut false d plus mine a then []
            else ((dirPorts d plus).filter fun p => !m.linkDead a d plus p).map fun p => (d, plus, p)
        if !short.isEmpty then short
        else
          let round := first.flatMap fun plus =>
            ((dirPorts d plus).filter fun p => !m.linkDead a d plus p).map fun p => (d, plus, p)
          if round.isEmpty then m.detour a d else round

/-- The hop that is taken: among several, the one whose next router has most credit, which is free (log 38). -/
def Mod.takeHop (m : Mod) (hs : List (Nat × Bool × Nat)) : Option (Nat × Bool × Nat) × Mod :=
  match hs with
  | [] => (none, m)
  | [h] => (some h, m)
  | h :: _ =>
    let i := Config.portChoice m.free (hs.map fun x => x.2.2)
    (some (hs.getD (i % hs.length) h), { m with free := m.free + 1 })

/-! ### Words at the ports (R438) -/

def Mod.countPort (m : Mod) (port : Nat) (k : Ctr) (n : Nat) : Mod :=
  let f (p : Port) : Port := { p with counters := p.counters.bump k n }
  { m with ports := m.ports.modify port f }

/-- Words of a message of `w` words after its route granules: packets of at most 1,023 words. -/
def packetWords (w : Nat) : Nat := w + Nat.max 1 ((w + 1022) / 1023)

/-- The words of an exchange message and of a wale packet. -/
def exWords (k : ExKind) (x : ExMsg) : Nat := (x.bytes k).length / 16
def waleWords (k : WaleKind) (x : WaleMsg) : Nat := (x.bytes k).length / 16

/-- The destination, class, path hash and words of what this module sends on the Weave; sizes without a layout are
free (log 68). -/
def Mod.weaveOf (m : Mod) (o : Out) : Option (Nat × Bool × Nat × Nat) :=
  let addr (job rank : Nat) : Option Nat := (m.job? job).map fun j => j.plan.addrOf rank
  let open_ := Config.msgWords m.free
  match o with
  | .exchange r k x => (addr x.job r).map fun a => (a, false, 0, packetWords (exWords k x))
  | .wale r k x => (addr x.job r).map fun a => (a, false, 0, packetWords (waleWords k x))
  | .far r x _ => (addr x.job r).map fun a => (a, true, m.free, open_)
  | .farWithdraw r x => (addr x.job r).map fun a => (a, true, m.free, open_)
  | .trayRequest a op r => some (a, true, r.addr.toNat / 256,
      packetWords (if op == .store then Nat.max 1 (granules r.operand.length) else 1))
  | .trayResponse a _ r => some (a, false, 0, packetWords (Nat.max 1 (granules r.data.length)))
  | .verdictAsk r job _ => (addr job r).map fun a => (a, true, m.free, open_)
  | .verdictTell r job _ _ _ => (addr job r).map fun a => (a, false, 0, open_)
  | .placementTable r job _ => (addr job r).map fun a => (a, true, m.free, open_)
  | .stewardAnswer a _ _ _ => some (a, false, 0, open_)
  | .ownEntry a _ _ => some (a, true, m.free, open_)
  | .takeWaits a _ => some (a, true, m.free, open_)
  | .gatewayFlush r job _ _ _ _ => (addr job r).map fun a => (a, true, m.free, 8 * 513)
  | .gatewayFetch r job _ _ _ => (addr job r).map fun a => (a, true, m.free, open_)
  | .gatewayFlushAck r job _ _ => (addr job r).map fun a => (a, false, 0, open_)
  | .gatewayFetchData r job _ _ b => (addr job r).map fun a => (a, false, 0, packetWords (granules ((b.map (·.length)).getD 65536)))
  | .notice a _ => some (a, true, m.free, open_)
  | .roster a _ => some (a, true, m.free, open_)
  | .attestChallenge a _ => some (a, true, m.free, open_)
  | .attestReport a _ => some (a, false, 0, open_)
  | _ => none

/-- Counts the words of what has left since the last count, at the ports on which it left (INJECTED_WORDS). -/
def Mod.countInjected (m : Mod) : Mod :=
  let news := (m.out.take (m.out.length - m.injectedFrom)).reverse
  let m := news.foldl (fun m o =>
    match m.weaveOf o with
    | none => m
    | some (a, request, u, w) =>
      let m := { m with free := m.free + 1 }
      if a == m.modAddr then m
      else
        let (h, m) := m.takeHop (m.hops request false u a)
        match h with
        | some (_, _, p) => m.countPort p .INJECTED_WORDS w
        | none => m) m
  { m with injectedFrom := m.out.length }

/-! ### Output queues and combining (R424) -/

/-- The bytes of a SIZE code (Table 13.4). -/
def sizeBytes (s : Nat) : Nat := if s = 0 then 4 else if s = 1 then 8 else if s = 2 then 16 else if s = 3 then 64 else 256

/-- The value that atomics combine to, in order of entry. -/
def combineParts (op : TrayOp) (n : Nat) : List Nat → Nat
  | [] => 0
  | x :: xs => xs.foldl (fun acc y => (trayNew op n acc y 0).getD acc) x

/-- A packet leaves through a port. -/
def Mod.leave (m : Mod) (port : Nat) (p : WeavePkt) : Mod :=
  (m.emit (.transit port p)).countPort port .TRANSIT_WORDS (p.length + 1)

/-- A waiting atomic leaves; a combined one with FETCH is remembered until its response comes. -/
def Mod.leaveAtomic (m : Mod) (port : Nat) (h : HeldAtomic) : Mod :=
  let n := sizeBytes h.size
  let x := combineParts h.op n (h.parts.map (·.2.2))
  let p := if h.parts.length < 2 then h.pkt else { h.pkt with data := leBytes 8 x ++ h.pkt.data.drop 8 }
  let m := m.leave port p
  if h.fetch && 2 ≤ h.parts.length then { m with combined := m.combined.concat h } else m

/-- Drains the queue of a port. -/
def Mod.drainPort (m : Mod) (port : Nat) : Mod :=
  let q := (m.ports.getD port {}).queue
  let m := q.foldl (fun m h => m.leaveAtomic port h) m
  { m with ports := m.ports.modify port fun p => { p with queue := [] } }

/-- Drains every port. -/
def Mod.drainPorts (m : Mod) : Mod := (List.range 16).foldl Mod.drainPort m

/-- Whether two atomics combine. -/
def HeldAtomic.joins (h : HeldAtomic) (op : TrayOp) (size : Nat) (fetch : Bool) (addr fclk : Nat) : Bool :=
  h.op == op && h.size == size && h.fetch == fetch && h.addr == addr && op != .cas && op != .load && op != .store &&
    !(op == .fadd && fetch) && h.parts.length < 16 && fclk ≤ h.entered + 16

/-- Adds to ATOMICS_COMBINED of a router half. -/
def Mod.countHalf (m : Mod) (half : Nat) : Mod :=
  let old := ((m.halfCounters.find? fun h => h.1 == half).map (·.2)).getD 0
  { m with halfCounters := (half, min ctrMax (old + 1)) :: m.halfCounters.filter fun h => h.1 != half }

/-- An atomic enters the queue of a port, and combines with one that waits there when it can. A router half holds at
most 64 combined entries. -/
def Mod.queueAtomic (m : Mod) (port fclk : Nat) (op : TrayOp) (p : WeavePkt) : Mod :=
  let w := p.operand.toNat
  let size := w / 2 ^ 57 % 8
  let fetch := w / 2 ^ 56 % 2 == 1
  let addr := w % 2 ^ 52
  let part := (p.src.toNat, p.pkt, leNat (p.data.take 8))
  let q := (m.ports.getD port {}).queue
  let half := ((m.ports.zipIdx.filter fun (_, i) => i % 2 == port % 2).flatMap fun (x, _) => x.queue).countP fun h => 2 ≤ h.parts.length
  match q.findIdx? fun h => h.joins op size fetch addr fclk && (2 ≤ h.parts.length || half < 64) with
  | some i =>
    let join (h : HeldAtomic) : HeldAtomic := { h with parts := h.parts.concat part }
    ({ m with ports := m.ports.modify port fun x => { x with queue := x.queue.modify i join } }).countHalf (port % 2)
  | none =>
    let h : HeldAtomic := { pkt := p, op := op, size := size, fetch := fetch, addr := addr, entered := fclk, parts := [part] }
    { m with ports := m.ports.modify port fun x => { x with queue := x.queue.concat h } }

/-! ### Transit (R407–R410, R412, R414, R415) -/

def Mod.quarantinedAddr (m : Mod) (a : Nat) : Bool := m.roster.any fun r => r.addr == a && r.state == 3

/-- The virtual channel and dateline bits of a packet on the link that it takes (R409). The choice of an adaptive channel
is free (log 38). -/
def Mod.channelOn (m : Mod) (p : WeavePkt) (d : Nat) (plus : Bool) : WeavePkt × Mod :=
  let line := if d < 3 && crossesDateline m.modAddr d plus then p.dateline ||| BitVec.ofNat 3 (2 ^ d) else p.dateline
  let esc := if d < 3 && line.getLsbD d then 1 else 0
  if p.cls = 0 then ({ p with vc := esc, dateline := line }, m)
  else if p.vc < 2 then ({ p with vc := esc, dateline := line }, m)
  else
    let (x, m) := m.freeNat
    ({ p with vc := if x % 3 = 0 then esc else 1 + x % 3, dateline := line }, m)

/-- Routes one packet for another module. -/
def Mod.forward (m : Mod) (op : Option TrayOp) (p : WeavePkt) (fclk : Nat) : Mod :=
  let request := p.cls == 0
  let (h, m) := m.takeHop (m.hops request (!request && p.vc < 2) p.u p.dest.toNat)
  match h with
  | none => (m.emit (.unreachable p.src.toNat p.pkt)).count .UNREACHABLE
  | some (d, plus, port) =>
    let (p, m) := m.channelOn p d plus
    match op with
    | some o =>
      if request && o != .load && o != .store then m.queueAtomic port fclk o p else (m.drainPort port).leave port p
    | none => (m.drainPort port).leave port p

/-- The response to a combined FETCH is split: the k-th atomic gets the old value with the earlier operands (R424). -/
def Mod.splitResponse (m : Mod) (h : HeldAtomic) (p : WeavePkt) (fclk : Nat) : Mod :=
  let n := sizeBytes h.size
  let old := leNat (p.data.take n)
  let m := { m with combined := m.combined.erase h }
  (h.parts.zipIdx).foldl (fun m (part, k) =>
    let v := ((h.parts.take k).map (·.2.2)).foldl (fun acc y => (trayNew h.op n acc y 0).getD acc) old
    m.forward none { p with dest := BitVec.ofNat 16 part.1, pkt := part.2.1, data := leBytes n v ++ p.data.drop n } fclk) m

/-- A transit packet: dropped when it names a quarantined module, split when it answers a combined atomic, and otherwise
forwarded. -/
def Mod.transit (m : Mod) (op : Option TrayOp) (p : WeavePkt) (fclk : Nat) : Mod :=
  if m.quarantinedAddr p.src.toNat || m.quarantinedAddr p.dest.toNat then m.count .QUARANTINE_DROPS
  else
    match m.combined.find? fun h => p.cls == 1 && (h.parts.headD (0, 0, 0)).1 == p.dest.toNat && (h.parts.headD (0, 0, 0)).2.1 == p.pkt &&
        h.pkt.dest == p.src with
    | some h => m.splitResponse h p fclk
    | none => if p.dest.toNat == m.modAddr then m else m.forward op p fclk

/-! ### Links (R398–R402, R470) -/

def Mod.updPort (m : Mod) (i : Nat) (f : Port → Port) : Mod := { m with ports := m.ports.modify i f }

/-- A record about a link, with the port's status word. -/
def Mod.logLink (m : Mod) (cls outcome i lane : Nat) : Mod :=
  let w := (m.ports.getD i {}).word
  m.addLog { time := 0, record := 0, cls := cls, outcome := outcome, unit := ⟨7, i⟩, sub := lane
             info0 := if cls = 0x0B then w else i }

/-- A frame is replayed. -/
def Mod.replayed (m : Mod) (i : Nat) (uncorrectable : Bool) : Mod :=
  let m := (m.countPort i .RETRIES 1).countPort i .FEC_UNCORRECTABLE (if uncorrectable then 1 else 0)
  (m.updPort i fun p => { p with retriesNow := min 65535 (p.retriesNow + 1) }).logLink 0x0B 0 i 0

/-- A 1 s window of a lane ends. The windows of a port's lanes end together; lane 0's starts the next second of
RETRIES_1S (log 69). A lane over the error ratio starts the spare's training while the spare is unused. -/
def Mod.fecWindow (m : Mod) (i lane corrected : Nat) (excess : Bool) : Mod :=
  let m := m.countPort i .FEC_CORRECTED corrected
  m.updPort i fun p =>
    let p := if lane = 0 then { p with retries1s := p.retriesNow, retriesNow := 0 } else p
    if excess && p.spareFor == 0xF && p.training.isNone && p.up then { p with training := some lane } else p

/-- The trained spare takes over its lane. -/
def Mod.laneSwitched (m : Mod) (i : Nat) : Mod :=
  match (m.ports.getD i {}).training with
  | none => m
  | some lane =>
    let m := m.updPort i fun p => { p with spareFor := lane, training := none }
    (m.countPort i .LANE_SWAPS 1).spareIn ⟨7, i⟩ lane

/-- The lanes of a port that can carry payload, the spare L8 among them. -/
def usableLanes (failed : List Nat) : Nat := (List.range 9).countP fun l => !failed.contains l

/-- A narrowed port is DEGRADED with 4 lanes, or DOWN with fewer; each change is recorded and raises ALERT_N. A further fault
in a narrowed port is detected: a record (R439, R440). -/
def Mod.narrow (m : Mod) (i lane : Nat) : Mod :=
  let p := m.ports.getD i {}
  let state := if usableLanes p.failed < 4 then 0 else 3
  if p.state == state then m.logLink 0x0B 2 i lane
  else
    let m := m.updPort i fun p => { p with state := state, width := if state = 0 then 0 else 4, training := none }
    (m.logLink 0x42 2 i lane).raiseCause 2

/-- A lane fails abruptly, or with the spare in use (R400). -/
def Mod.laneFailed (m : Mod) (i lane : Nat) : Mod :=
  if !(m.ports.getD i {}).up || (m.ports.getD i {}).failed.contains lane then m
  else (m.updPort i fun p => { p with failed := (lane :: p.failed).eraseDups }).narrow i lane

/-- Link training of a port: the spare stands in for one failed lane, more narrow the port, and a wrong neighbour port
leaves it MISCABLED (R397, R399). -/
def Mod.trainPort (m : Mod) (i : Nat) (t : PortTrain) : Mod :=
  let failed := t.lanesFailed.eraseDups
  let base (p : Port) : Port := { p with neighbour := t.neighbour, neighbourPort := t.neighbourPort, failed := failed, training := none }
  let wrong := match matePort i with
    | some q => t.neighbourPort != q
    | none => false
  let data := failed.filter (· < 8)
  if wrong then m.updPort i fun p => { base p with state := 5, width := 0 }
  else if data.isEmpty then m.updPort i fun p => { base p with state := 2, width := 8, spareFor := 0xF }
  else if data.length = 1 && !failed.contains 8 then
    let m := m.updPort i fun p => { base p with state := 2, width := 8, spareFor := data.headD 0 }
    (m.countPort i .LANE_SWAPS 1).spareIn ⟨7, i⟩ (data.headD 0)
  else (m.updPort i fun p => { base p with state := 1 }).narrow i (data.headD 0)

def execLinkReplay (port : Nat) (uncorrectable : Bool) (s : State) : Host.Outcome State Fault Refusal :=
  lift (fun m => m.replayed port uncorrectable) s

def execFecWindowEnd (port lane corrected : Nat) (excess : Bool) (s : State) : Host.Outcome State Fault Refusal :=
  lift (fun m => m.fecWindow port lane corrected excess) s

def execLaneSwitch (port : Nat) (s : State) : Host.Outcome State Fault Refusal := lift (fun m => m.laneSwitched port) s

def execLaneFailure (port lane : Nat) (s : State) : Host.Outcome State Fault Refusal := lift (fun m => m.laneFailed port lane) s

end Sys2Proof.Machine
end

