-- ==== Sys2Proof/Machine/Weave.lean ====
section
/-!
DEFINITION. What reaches this module over the Weave beside exchange and wale traffic: tray operations at their target and
their responses (R421–R426), TARGET_RESETTING and UNREACHABLE answers (R414), placement tables, gateway windows
(R432–R434), relayed notices, the steward's role and the roster (R435–R437), the fault table (R412) and timing marks (R515).
-/

namespace Sys2Proof.Machine

/-! ### Tray operations at the target (R222, R423, R425, R427) -/

/-- Whether the target performs an operation: an aligned address in Tier A or Tier B of its own slot, and a size that the
operation admits (log 70). -/
def Mod.trayReachable (m : Mod) (op : TrayOp) (r : TrayReq) : Bool :=
  let a := r.addr.toNat
  let loc := a % 2 ^ 48
  let n := sizeBytes r.size
  let ok (x : Nat) : Bool := match regionOf x with
    | .tierA _ | .tierB => true
    | _ => false
  a / 2 ^ 48 == slotOf m.modAddr && traySizeOk op r.size && loc % n == 0 && ok loc && ok (loc + n - 1)

/-- Whether a region's owner keeps a write of another job or module out. -/
def Mod.keepsOut (m : Mod) (op : TrayOp) (r : TrayReq) : Bool :=
  let a := r.addr.toNat
  match m.homeOwner (a / stripe) with
  | some (o, j) => op != .load && !(o == r.src && j == r.job)
  | none => false

/-- The memory controller performs a request, and answers it. -/
def Mod.serveTray (m : Mod) (op : TrayOp) (r : TrayReq) : Mod :=
  let answer (m : Mod) (result : Nat) (data : Bytes) (bad : Bool) : Mod :=
    m.emit (.trayResponse r.src op { tag := r.tag, result := result, data := data, bad := bad })
  if m.resettingFor r.job then m.turnAway (.tray r.src r.tag)
  else if !m.trayReachable op r then answer m 1 [] false
  else if m.keepsOut op r then answer m 2 [] false
  else
    let loc := r.addr.toNat % 2 ^ 48
    let n := sizeBytes r.size
    let (m, _, bad) := m.checkAccess none (if op == .store then [] else (List.range n).map (loc + ·)) ((List.range n).map (loc + ·))
    if bad.isSome then answer m 0 (List.replicate n 0#8) true
    else
      let (old, m) := m.trayDo op n loc r.operand
      let returns := op == .load || op == .cas || (r.fetch && op != .store)
      answer m 0 (if returns then old else []) false

/-! ### Going on with a command -/

/-- Goes on with a command whose bytes or acknowledgements have come. -/
def Mod.poke (m : Mod) (id : CmdId) : Mod :=
  match m.cmd? id with
  | none => m
  | some r =>
    match r.work with
    | .remote _ _ =>
      if r.cmd.op.group == 2 || r.cmd.op.group == 3 then m.resumeData id
      else if r.cmd.op == .route then m.resumeRoute id
      else m.resumeCounts id
    | .exchange .. => m.moveEx id
    | .broadcast got ready _ _ _ =>
      if ready then m.endBroadcast id
      else match m.dataAt? id with
        | some (_, x) => m.goBroadcast id x got
        | none => m
    | .stream .. => if r.cmd.op == .send then m.pokeSend id else m.pokeRecv id
    | .fence [] [] => m.complete id .ok 0
    | .steward 3 => m.retryOwn id 3
    | _ => m

/-- Adds bytes that have arrived to what a command holds. -/
def arrive (w : Work) (bs : List (Nat × Byte)) : Work :=
  match w with
  | .remote got acks => .remote (bs ++ got) acks
  | .exchange e s got n => .exchange e s (bs ++ got) n
  | .broadcast got ready st un t => .broadcast (bs ++ got) ready st un t
  | .stream p t got ready clear c => .stream p t (bs ++ got) ready clear c
  | w => w

/-- Running commands that a predicate picks. -/
def Mod.pick (m : Mod) (p : Running → Bool) : List CmdId := (m.runnings.filter fun x => p x.2).map fun x => x.2.cmd.id x.1

/-- Goes on with commands in turn. -/
def Mod.pokeAll (m : Mod) (ids : List CmdId) : Mod := ids.foldl Mod.poke m

/-- A tray operation has been answered: its tag leaves the fences that wait for it (R371). -/
def Mod.dropTag (m : Mod) (tag : Nat) : Mod :=
  let drop (r : Running) : Running := match r.work with
    | .fence ts bs => { r with work := .fence (ts.filter (· != tag)) bs }
    | _ => r
  { m with
    trayOps := m.trayOps.filter fun t => t.tag != tag
    lanes := m.lanes.map fun (s : LaneState) => { s with current := s.current.map drop } }

/-- What may go on after an answer: requests that a changed path held back, the fences, and the gives that wait for writes. -/
def Mod.pokeWaiting (m : Mod) : Mod :=
  let m := m.letGo
  m.pokeAll (m.pick fun r => match r.work with
    | .fence [] [] => true
    | .steward 3 => true
    | _ => false)

/-! ### Responses (R425) -/

/-- A response reaches the requester. -/
def Mod.trayAnswered (m : Mod) (x : TrayResp) : Mod :=
  match m.trayOps.find? fun t => t.tag == x.tag with
  | none => m
  | some t =>
    let m := m.dropTag t.tag
    let m :=
      if x.bad then
        let rec_ := m.record
        (m.addOpen { time := 0, record := 0, cls := 0x04, outcome := 2, unit := ⟨11, 0⟩, job := t.job
                     queue := (match t.id.lane with
                       | .queue q => q
                       | .control _ => 0)
                     seq := t.id.seq }).endWith t.id .faultDetected rec_
      else if x.result = 1 then m.endWith t.id .bounds (boundsDetail 15 (t.addr % 2 ^ 52))
      else if x.result = 2 then m.endWith t.id .bounds (boundsDetail 14 (t.addr % 2 ^ 52))
      else
        let bs := match t.into with
          | some l => x.data.zipIdx.map fun (b, i) => (l + i, b)
          | none => []
        (m.updRunning t.id.lane fun r => if r.cmd.pkt.seq.toNat == t.id.seq then { r with work := arrive r.work bs } else r).poke t.id
    m.pokeWaiting

/-! ### TARGET_RESETTING and UNREACHABLE (R285, R309, R414) -/

/-- The commands of a job that wait on a gateway window: those that name its proxy and still miss bytes, and the fences
over its blocks. -/
def Mod.onWindow (m : Mod) (job window : Nat) : List CmdId :=
  match m.job? job with
  | none => []
  | some j =>
    let proxy := ((j.plan.gateways.find? fun g => g.window == window).map (·.proxy)).getD 0
    m.pick fun r => r.cmd.job == job && (match r.work with
      | .fence _ bs => bs.any fun b => b.1 == window
      | .remote .. | .exchange .. | .broadcast .. | .stream .. =>
        (r.cmd.op.opnds j.plan r.cmd.pkt).any fun o => o.desc.tensor == proxy
      | _ => false)

/-- A window's requests were turned away: its blocks are open again, and its fetches are asked for anew. -/
def Mod.reopen (m : Mod) (job window : Nat) : Mod :=
  m.updJob job fun j =>
    { j with
      stageBlocks := j.stageBlocks.map fun b => if b.window == window then { b with flushing := false } else b
      fetching := j.fetching.filter fun f => f.1 != window
      fetchers := j.fetchers.filter fun f => f.1.1 != window }

/-- Ends commands that an answer meets; an unreachable target is a fault with a record. -/
def Mod.endAnswered (m : Mod) (ids : List CmdId) (unreachable : Bool) (rank job : Nat) : Mod :=
  if ids.isEmpty then m
  else if unreachable then
    let rec_ := m.record
    let m := m.addOpen { time := 0, record := 0, cls := 0x0B, outcome := 2, unit := ⟨11, 0⟩, job := job }
    ids.foldl (fun m id => m.endWith id .faultDetected rec_) m
  else ids.foldl (fun m id => m.endWith id .targetResetting rank) m

/-- The steward challenges a module of its tray (R505). -/
def Mod.challenge (m : Mod) (x : Nat) : Mod :=
  let (nonce, m) := m.freeBytes 32
  let join (r : RosterRec) : RosterRec := if slotOf r.addr == x then { r with state := 1 } else r
  let m := { m with roster := m.roster.map join, joins := (x, m.now, nonce) :: m.joins.filter fun j => j.1 != x }
  m.emit (.attestChallenge (m.trayAddr x) nonce)

/-- An answer reaches the sender. A challenge that a Module reset turned away is repeated (R516; log 80). -/
def Mod.answered (m : Mod) (a : Answered) (unreachable : Bool) : Mod :=
  let live (id : CmdId) : List CmdId := if (m.cmd? id).isSome then [id] else []
  let jobOf (id : CmdId) : Nat := ((m.cmd? id).map fun r => r.cmd.job).getD 0
  match a with
  | .exchange job exch step rank =>
    match (m.job? job).bind fun j => j.stepOf exch step with
    | some s => m.spoilBy job exch s rank
    | none => m
  | .wale job bucket step shard chunk _ =>
    match m.job? job with
    | some j =>
      let m := m.chunkRefused job bucket (j.waleStep step) shard chunk
      m.endReduces job bucket (j.waleStep step)
    | none => m
  | .far id rank => m.endAnswered (live id) unreachable rank (jobOf id)
  | .tray tag rank =>
    match m.trayOps.find? fun t => t.tag == tag with
    | none => m
    | some t => ((m.dropTag tag).endAnswered (live t.id) unreachable rank t.job).pokeWaiting
  | .steward id =>
    match m.cmd? id with
    | some r =>
      match r.work with
      | .steward 0 => if unreachable then m.endAnswered [id] true 0 r.cmd.job else m.setWork id.lane (.steward 2)
      | _ => m
    | none => m
  | .stream id rank => m.endAnswered (live id) unreachable rank (jobOf id)
  | .gateway job window rank => (m.reopen job window).endAnswered (m.onWindow job window) unreachable rank job
  | .join x => if unreachable || !(m.joins.any fun j => j.1 == x) then m else m.challenge x

/-! ### Placement tables (R421) -/

def Mod.placed (m : Mod) (job inc rank : Nat) (ps : List RemotePlace) : Mod :=
  match m.current? job inc with
  | none => if m.resettingFor job then m else m.count .staleTraffic
  | some _ =>
    let m := m.updJob job fun j => { j with placements := (rank, ps) :: j.placements.filter fun p => p.1 != rank }
    let go (r : Running) : Running := if r.cmd.job == job && r.work == .placement rank then { r with work := .ready } else r
    { m with lanes := m.lanes.map fun (s : LaneState) => { s with current := s.current.map go } }

/-! ### Gateway windows at the target and back (R433, R434) -/

/-- The local address of a byte of a tensor. -/
def Job.tensorAddr (j : Job) (tensor off : Nat) : Option Nat :=
  match j.place? tensor with
  | some p => if off < p.decl.bytes then some (p.place.addr off) else none
  | none => none

/-- The bytes that a store of one byte of a tensor changes: at home, and in a valid Tier A copy (R247). -/
def Job.tensorWrites (j : Job) (tensor off : Nat) (v : Byte) : List (Nat × Byte) :=
  match j.tensorAddr tensor off with
  | some a => (a, v) :: ((j.copyOf tensor).map fun c => (c + off, v)).toList
  | none => []

/-- A flush: only the masked bytes are written, and the acknowledgement follows; bytes that cannot be
written are never acknowledged (R238). -/
def Mod.gatewayFlushed (m : Mod) (job inc rank tensor window block : Nat) (data : List (Nat × Byte)) : Mod :=
  match m.current? job inc with
  | none => m.count .staleTraffic
  | some j =>
    if m.resettingFor job then m.turnAway (.request (j.plan.addrOf rank))
    else
      let ws := data.flatMap fun (o, b) => j.tensorWrites tensor (65536 * block + o) b
      match m.checkWrite none (ws.map (·.1)) with
      | (m, none) => (m.store ws).emit (.gatewayFlushAck rank job window block)
      | (m, some _) => m

/-- A fetch: the whole block returns; a word that cannot be read arrives as such (R237, R404). -/
def Mod.gatewayFetched (m : Mod) (job inc rank tensor window block : Nat) : Mod :=
  match m.current? job inc with
  | none => m.count .staleTraffic
  | some j =>
    if m.resettingFor job then m.turnAway (.request (j.plan.addrOf rank))
    else
      let at_ := (List.range 65536).map fun o => j.tensorAddr tensor (65536 * block + o)
      let (m, _, bad) := m.checkLocal none (at_.filterMap id)
      m.emit (.gatewayFetchData rank job window block (if bad.isSome then none else some (at_.map fun a => (a.map m.byte).getD 0#8)))

/-- Running commands of a job that wait for bytes. -/
def Mod.lacking (m : Mod) (job : Nat) : List CmdId :=
  m.pick fun r => r.cmd.job == job && (match r.work with
    | .remote _ acks => !acks
    | .exchange .. => true
    | .broadcast _ ready _ _ _ => !ready
    | .stream _ _ _ ready _ _ => !ready
    | _ => false)

/-- Fetched data with an uncorrectable word: the commands that wait for the block end with FAULT_DETECTED (R237, R404). -/
def Mod.gatewayLost (m : Mod) (job window block : Nat) : Mod :=
  match m.job? job with
  | none => m
  | some j =>
    let ids := (j.fetchers.filter fun f => f.1 == (window, block)).map (·.2)
    let rec_ := m.record
    let m := m.updJob job fun j =>
      { j with fetching := j.fetching.erase (window, block), fetchers := j.fetchers.filter fun f => f.1 != (window, block) }
    let m := m.addOpen { time := 0, record := 0, cls := 0x04, outcome := 2, unit := ⟨11, 0⟩, job := job }
    (ids.filter fun id => (m.cmd? id).isSome).foldl (fun m id => m.endWith id .faultDetected rec_) m

/-- Fetched data fills a read block of its window's 16, in place of the least recently used one. -/
def Mod.gatewayFilled (m : Mod) (job window block : Nat) (data : Option Bytes) : Mod :=
  match m.job? job with
  | none => m
  | some j =>
    if !j.fetching.contains (window, block) then m
    else match data with
    | none => m.gatewayLost job window block
    | some data =>
      let rest := j.readBlocks.filter fun b => !(b.window == window && b.block == block)
      let mine : Nat := (rest.filter fun b => b.window == window).length
      let oldest := rest.find? fun b => b.window == window
      let rest := match oldest with
        | some b => if 16 ≤ mine then rest.erase b else rest
        | none => rest
      let new : GatewayBlock := { window := window, block := block, data := data.zipIdx.map fun (b, i) => (i, b) }
      let m := m.updJob job fun j => 
        { j with
          readBlocks := rest.concat new, fetching := j.fetching.erase (window, block)
          fetchers := j.fetchers.filter fun f => f.1 != (window, block) }
      let m := m.letGo
      m.pokeAll (m.lacking job)

/-- Running commands of a job that wait for acknowledgements. -/
def Mod.unacked (m : Mod) (job : Nat) : List CmdId :=
  m.pick fun r => r.cmd.job == job && (match r.work with
    | .remote _ acks => acks
    | .exchange .. => true
    | .broadcast .. => true
    | .stream .. => true
    | _ => false)

/-- The target has written a flush. -/
def Mod.gatewayAcked (m : Mod) (job window block : Nat) : Mod :=
  match m.job? job with
  | none => m
  | some j =>
    match j.stageBlocks.find? fun b => b.window == window && b.block == block && b.flushing with
    | none => m
    | some b =>
      let m := m.updJob job fun j => { j with stageBlocks := j.stageBlocks.erase b }
      let drop (r : Running) : Running := match r.work with
        | .fence ts bs => if r.cmd.job == job then { r with work := .fence ts (bs.erase (window, block)) } else r
        | _ => r
      let m := { m with lanes := m.lanes.map fun (s : LaneState) => { s with current := s.current.map drop } }
      (m.pokeAll (m.unacked job)).pokeWaiting

/-! ### Notices, steward, roster (R435–R437, R507) -/

/-- The members of this tray's roster beside this module. -/
def Mod.members (m : Mod) : List Nat :=
  (m.roster.filter fun r => r.state == 2 && r.addr != m.modAddr).map (·.addr)

/-- The steward relays a notice to the members that hold its job, as far as it knows the job's ranks, and acts on it. -/
def Mod.relay (m : Mod) (n : NoticeRec) : Mod :=
  if !m.isSteward then m
  else
    let holds (a : Nat) : Bool := match m.job? n.job with
      | some j => (List.range j.plan.ranks).any fun r => j.plan.addrOf r == a
      | none => true
    let m := (m.members.filter holds).foldl (fun m a => m.emit (.notice a n)) m
    m.applyNotice n

/-- A signed notice moves the steward's role within the tray, once by its ID. -/
def Mod.assignSteward (m : Mod) (addr noticeId : Nat) (sig : Bytes) : Mod :=
  let key := (m.policy.map (·.noticeKey)).getD []
  if m.noticeIds.contains noticeId || !Config.assignOk key addr noticeId sig || !sameTray addr m.modAddr then m
  else { m with noticeIds := noticeId :: m.noticeIds, isSteward := addr == m.modAddr }

/-- A roster record as its 64 bytes. -/
def rosterBytes (r : RosterRec) (epoch : Nat) : Bytes :=
  leBytes 4 (r.addr % 65536 + r.state % 256 * 2 ^ 24) ++ leBytes 4 epoch ++ (r.digest ++ List.replicate 16 0#8).take 16 ++
    leBytes 4 r.ipv4 ++ leBytes 4 0 ++ leBytes 16 r.ipv6 ++ List.replicate 16 0#8

/-- A module's roster record by its identity digest. -/
def rosterOf (rs : List RosterRec) : Option RosterRec := rs.find? fun r => r.digest == Config.identityDigest.take 16

/-- Takes a roster into use: M3 is extended, and the module takes its slot, its state and the addresses of its Ethernet ports
from its own record (R43, R436). -/
def Mod.useRoster (m : Mod) (epoch : Nat) (rs : List RosterRec) : Mod :=
  let m := ({ m with roster := rs, rosterEpoch := epoch }).extend 3 (leBytes 4 epoch ++ rs.flatMap fun (r : RosterRec) => rosterBytes r epoch)
  match rosterOf rs with
  | some r =>
    let set (p : EthPort) (i : Nat) : EthPort := { p with ipv4 := BitVec.ofNat 32 (r.ipv4 + i), ipv6 := BitVec.ofNat 128 (r.ipv6 + i) }
    { m with modAddr := r.addr, boot := { m.boot with quarantined := r.state == 3 }, eth := m.eth.zipIdx.map fun (p, i) => set p i }
  | none => m

/-- A roster of the steward: an unknown steward's is refused, and an old one changes nothing. -/
def Mod.rosterHere (m : Mod) (r : RosterMsg) : Mod :=
  if !(m.roster.any fun x => x.state == 2 && x.digest == r.steward) then m.raiseCause 6
  else if r.epoch ≤ m.rosterEpoch then m
  else m.useRoster r.epoch r.records

/-! ### The fault table (R412, R413) -/

/-- The ways that the request class takes from this module to another, dimension by dimension. -/
def Mod.requestPath (m : Mod) (u dest : Nat) : List (List Bool) :=
  ([0, 1, 2].foldl (fun (acc : Nat × List (List Bool)) d =>
    let t := axisAt dest d
    if axisAt acc.1 d == t then acc else (setAxis acc.1 d t, acc.2.concat (m.ringDirs true u acc.1 d t))) (m.modAddr, [])).2

/-- A new fault table: where it alters the path of requests, what is on its way on the old one is answered first. The hash of
a tray operation comes from its address; that of any other request is its MSG ID, and any may be its (R407). -/
def Mod.setFaultTable (m : Mod) (links : List (Nat × Nat)) : Mod :=
  if 256 < links.length then m
  else
    let m' := { m with faultTable := links }
    let sent := m.outstanding
    let hashes (q : Sent) : List Nat := match q with
      | .tray tag => (m.trayOps.filter fun t => t.tag == tag).map fun t => t.addr / 256
      | _ => [0, 2]
    let moved := (sent.filter fun x => (hashes x.2).any fun u => m.requestPath u x.1 != m'.requestPath u x.1).map (·.1)
    let dests := moved.eraseDups.filter fun d => !(m.stalled.any fun s => s.1 == d)
    { m' with stalled := m.stalled ++ dests.map fun d => (d, (sent.filter fun x => x.1 == d).map (·.2)) }

/-! ### Marks and links (R399, R505, R515) -/

/-- A mark arrives: it is recorded and answered. -/
def Mod.markHere (m : Mod) (port src markId : Nat) : Mod :=
  (m.trace_ { time := 0, kind := 17, unit := ⟨7, port⟩, seq := markId, arg0 := port, arg1 := src }).emit (.markReply port markId)

def Mod.markReplied (m : Mod) (port src markId : Nat) : Mod :=
  m.trace_ { time := 0, kind := 18, unit := ⟨7, port⟩, seq := markId, arg0 := port, arg1 := src }

/-- A port trains to a neighbour; a steward challenges one of its tray. -/
def Mod.linkTrained (m : Mod) (port : Nat) (t : PortTrain) : Mod :=
  let m := m.trainPort port t
  if m.isSteward && sameTray t.neighbour m.modAddr && t.neighbour != m.modAddr && (m.ports.getD port {}).up then
    m.challenge (slotOf t.neighbour)
  else m

def execTrayLoad (r : TrayReq) (s : State) : Host.Outcome State Fault Refusal := lift (fun m => m.serveTray .load r) s
def execTrayStore (r : TrayReq) (s : State) : Host.Outcome State Fault Refusal := lift (fun m => m.serveTray .store r) s
def execTrayAdd (r : TrayReq) (s : State) : Host.Outcome State Fault Refusal := lift (fun m => m.serveTray .add r) s
def execTrayMin (r : TrayReq) (s : State) : Host.Outcome State Fault Refusal := lift (fun m => m.serveTray .min r) s
def execTrayMax (r : TrayReq) (s : State) : Host.Outcome State Fault Refusal := lift (fun m => m.serveTray .max r) s
def execTrayCas (r : TrayReq) (s : State) : Host.Outcome State Fault Refusal := lift (fun m => m.serveTray .cas r) s
def execTrayFadd (r : TrayReq) (s : State) : Host.Outcome State Fault Refusal := lift (fun m => m.serveTray .fadd r) s
def execTrayResponse (r : TrayResp) (s : State) : Host.Outcome State Fault Refusal := lift (fun m => m.trayAnswered r) s

def execTargetResettingAnswer (a : Answered) (s : State) : Host.Outcome State Fault Refusal := lift (fun m => m.answered a false) s

def execUnreachableAnswer (a : Answered) (s : State) : Host.Outcome State Fault Refusal := lift (fun m => m.answered a true) s

def execPlacementTable (job inc rank : Nat) (places : List RemotePlace) (s : State) : Host.Outcome State Fault Refusal :=
  lift (fun m => m.placed job inc rank places) s

def execGatewayFlush (job inc rank tensor window block : Nat) (data : List (Nat × Byte)) (s : State) : Host.Outcome State Fault Refusal :=
  lift (fun m => m.gatewayFlushed job inc rank tensor window block data) s

def execGatewayFetch (job inc rank tensor window block : Nat) (s : State) : Host.Outcome State Fault Refusal :=
  lift (fun m => m.gatewayFetched job inc rank tensor window block) s

def execGatewayFetchData (job window block : Nat) (data : Option Bytes) (s : State) : Host.Outcome State Fault Refusal :=
  lift (fun m => m.gatewayFilled job window block data) s

def execGatewayFlushAck (job window block : Nat) (s : State) : Host.Outcome State Fault Refusal :=
  lift (fun m => m.gatewayAcked job window block) s

def execNoticeRelay (n : NoticeRec) (s : State) : Host.Outcome State Fault Refusal := lift (fun m => m.relay n) s

def execStewardAssign (addr noticeId : Nat) (signature : Bytes) (s : State) : Host.Outcome State Fault Refusal :=
  lift (fun m => m.assignSteward addr noticeId signature) s

def execRoster (r : RosterMsg) (s : State) : Host.Outcome State Fault Refusal := lift (fun m => m.rosterHere r) s

def execFaultTableUpdate (links : List (Nat × Nat)) (s : State) : Host.Outcome State Fault Refusal :=
  lift (fun m => m.setFaultTable links) s

def execMark (port src markId : Nat) (s : State) : Host.Outcome State Fault Refusal := lift (fun m => m.markHere port src markId) s

def execMarkReply (port src markId : Nat) (s : State) : Host.Outcome State Fault Refusal :=
  lift (fun m => m.markReplied port src markId) s

def execWeaveLinkTrained (port : Nat) (t : PortTrain) (s : State) : Host.Outcome State Fault Refusal :=
  lift (fun m => m.linkTrained port t) s

end Sys2Proof.Machine
end

