-- ==== Sys2Proof/Machine/Assembly.lean ====
section
/-!
DEFINITION. Packets that reach this module: messages put together from their packets (R405), what a whole one is, and
messages with an uncorrectable word (R404).
-/

namespace Sys2Proof.Machine

/-! ### Whole messages -/

/-- An exchange message acts as its kind says (Table 9.5). -/
def Mod.exchangeHere (m : Mod) (k : ExKind) (x : ExMsg) : Mod :=
  match k with
  | .counts => m.onCounts x
  | .parcel => m.onRows x false
  | .accept => m.onAccept x
  | .hold => m.onHold x
  | .pull => m.onPull x
  | .result => m.onResult x
  | .tags => m.onTags x
  | .keep => m.onKeep x
  | .grad => m.onRows x true
  | .dgrad => m.onDgrad x
  | .spoil => m.onSpoil x

/-- A wale packet acts as its kind says (Table 10.2). -/
def Mod.waleHere (m : Mod) (k : WaleKind) (x : WaleMsg) : Mod :=
  match k with
  | .verdict => m.verdictHere x
  | .chunk | .ack | .scales | .gather | .normUp | .clear | .sendData => m.onWale k x

/-- The exchange message in some bytes, whose rows the job's plan measures. -/
def Mod.exchangeOf (m : Mod) (k : ExKind) (b : Bytes) : ExMsg :=
  let h := ExMsg.ofHeader (leNat (b.take 16))
  match (m.current? h.job h.inc).bind fun j => j.plan.exchanges.find? fun e => e.id == h.exch with
  | some e => ExMsg.ofBytes e.inBytes e.outBytes k b
  | none => ExMsg.ofBytes 0 0 k b

/-- KIND of a message. -/
def kindCode (b : Bytes) : Nat := leNat (b.take 16) / 2 ^ 120

/-- A whole message of the exchange or wale service. Messages of other kinds have no layout in bytes (log 109). -/
def Mod.takeMessage (m : Mod) (b : Bytes) : Mod :=
  match ExKind.ofCode (kindCode b), WaleKind.ofCode (kindCode b) with
  | some k, _ => m.exchangeHere k (m.exchangeOf k b)
  | none, some k => m.waleHere k (WaleMsg.ofBytes k b)
  | none, none => m

/-! ### Messages with an uncorrectable word (R404) -/

/-- The commands that a wale packet concerns. -/
def Mod.concerned (m : Mod) (k : WaleKind) (x : WaleMsg) : List CmdId :=
  m.pick fun r => r.cmd.job == x.job && (match k, r.work with
    | .chunk, .reduce b _ | .ack, .reduce b _ | .scales, .reduce b _ => b == x.bucket
    | .scales, .scales b _ => b == x.bucket
    | .gather, .gathering b _ _ | .ack, .gathering b _ _ => b == x.bucket
    | .gather, .broadcast .. => x.bucket == 0
    | .normUp, .norm _ | .verdict, .norm _ => true
    | .clear, .stream p t .. | .sendData, .stream p t .. => p == x.source && t == x.step
    | _, _ => false)

/-- A message with an uncorrectable word: a record, and the commands that it concerns end with FAULT_DETECTED, as far as its
header can be read. -/
def Mod.damaged (m : Mod) (b : Bytes) (headerBad : Bool) : Mod :=
  let h := ExMsg.ofHeader (leNat (b.take 16))
  let rec_ := m.record
  let m := m.addOpen { time := 0, record := 0, cls := 0x04, outcome := 2, unit := ⟨11, 0⟩, job := if headerBad then 0 else h.job
                       inc := if headerBad then 0 else h.inc }
  if headerBad then m
  else match ExKind.ofCode (kindCode b), WaleKind.ofCode (kindCode b) with
  | some _, _ => m.exchangeMsg h fun m j e step => m.bodyFailed j e step .faultDetected rec_
  | none, some k => m.completeAll (m.concerned k (WaleMsg.ofBytes k b)) .faultDetected rec_
  | none, none => m

/-! ### Reassembly (R405) -/

/-- Whether a message's packets from index 0 to the one with LAST are all there. -/
def wholePackets (ps : List WeavePkt) : Option Nat :=
  match ps.find? (·.last) with
  | some l => if (List.range l.pkt).all fun i => ps.any fun p => p.pkt == i then some l.pkt else none
  | none => none

/-- The packet with an index. -/
def packetAt (ps : List WeavePkt) (i : Nat) : Option WeavePkt := ps.find? fun p => p.pkt == i

/-- The words of a message, ordered by PKT. -/
def messageBytes (ps : List WeavePkt) (last : Nat) : Bytes :=
  (List.range (last + 1)).flatMap fun i => ((packetAt ps i).map fun p =>
    (p.data ++ List.replicate (16 * p.length - p.data.length) 0#8).take (16 * p.length)).getD []

/-- Whether a header word of a message arrived uncorrectable. -/
def headerLost (ps : List WeavePkt) (b : Bytes) : Bool :=
  let words := if (WaleKind.ofCode (kindCode b)).isSome then 2 else 1
  ((packetAt ps 0).map fun p => p.errs.any fun e => e.1 < words).getD false

/-- A packet of a message reaches this module: the message acts once it is whole. -/
def Mod.takePacket (m : Mod) (p : WeavePkt) : Mod :=
  let mine (x : Partial) : Bool := x.src == p.src.toNat && x.cls == p.cls && x.msgId == p.msgId
  let old := ((m.assembly.find? mine).map (·.packets)).getD []
  let ps := p :: old.filter fun q => q.pkt != p.pkt
  let rest := m.assembly.filter fun x => !mine x
  match wholePackets ps with
  | none => { m with assembly := rest.concat { src := p.src.toNat, cls := p.cls, msgId := p.msgId, packets := ps } }
  | some last =>
    let m := { m with assembly := rest }
    let b := messageBytes ps last
    if ps.any fun q => q.pkt ≤ last && !q.errs.isEmpty then m.damaged b (headerLost ps b) else m.takeMessage b

/-! ### Tray operations in packets (R422, R425) -/

/-- The request of a packet (Table 13.4). No field names the requester's job: the model takes the job that owns the region
from the requester's module (log 109). -/
def Mod.requestOf (m : Mod) (p : WeavePkt) : TrayReq :=
  let w := p.operand.toNat
  let a := w % 2 ^ 52
  { src := p.src.toNat, tag := p.pkt, size := w / 2 ^ 57 % 8, fetch := w / 2 ^ 56 % 2 == 1, addr := BitVec.ofNat 52 a
    operand := p.data
    job := match m.homeOwner (a / stripe) with
      | some (o, j) => if o == p.src.toNat then j else 0
      | none => 0 }

/-- The response of a packet. -/
def responseOf (p : WeavePkt) : TrayResp :=
  { tag := p.pkt, result := p.operand.toNat / 2 ^ 56 % 16, data := p.data, bad := !p.errs.isEmpty }

/-- A tray operation for this module. A request whose operand word arrives uncorrectable is answered as such. -/
def Mod.trayPacket (m : Mod) (op : TrayOp) (p : WeavePkt) : Mod :=
  if p.cls == 1 then m.trayAnswered (responseOf p)
  else if !p.errs.isEmpty then
    m.emit (.trayResponse p.src.toNat op { tag := p.pkt, result := 0, data := [], bad := true })
  else m.serveTray op (m.requestOf p)

/-- Whether a response answers an atomic that this module combined. -/
def Mod.answersCombined (m : Mod) (p : WeavePkt) : Bool :=
  m.combined.any fun h => p.cls == 1 && (h.parts.headD (0, 0, 0)).1 == p.dest.toNat && (h.parts.headD (0, 0, 0)).2.1 == p.pkt &&
    h.pkt.dest == p.src

/-- A packet arrives at a port: for this module, or in transit. -/
def Mod.arrivePacket (m : Mod) (op : Option TrayOp) (p : WeavePkt) (fclk : Nat) : Mod :=
  if p.dest.toNat != m.modAddr || m.quarantinedAddr p.src.toNat || m.quarantinedAddr p.dest.toNat || m.answersCombined p then
    m.transit op p fclk
  else match op with
  | some o => m.trayPacket o p
  | none => m.takePacket p

def execWeaveTransit (inPort : Nat) (op : Option TrayOp) (pkt : WeavePkt) (fclk : Nat) (s : State) :
    Host.Outcome State Fault Refusal :=
  lift (fun m => if 15 < inPort then m else m.arrivePacket op pkt.routed fclk) s

end Sys2Proof.Machine
end

