-- ==== Sys2Proof/Machine/Boot.lean ====
section
/-!
DEFINITION. Firmware slots and the boot sequence (R38, R39, R240–R243, R484–R490), the end of a Module reset (R452), and
what a loss of power leaves (R30, R475, R476).
-/

namespace Sys2Proof.Machine

/-! ### What survives a loss of power (R30, R475, R476) -/

/-- The newest 16 flushed verdict records of each job ID; the list holds the newest last. -/
def keptVerdicts (vs : List VerdictRec) : List VerdictRec :=
  let flushed := vs.filter (·.flushed)
  flushed.zipIdx.filterMap fun (v, i) =>
    let newer : Nat := (flushed.drop (i + 1)).countP fun o => o.job == v.job
    if newer < 16 then some v else none

/-- The record number that follows the newest of some records. -/
def nextAfter (log : List LogRec) : BitVec 32 :=
  match log.getLast? with
  | some r => BitVec.ofNat 32 (r.record + 1)
  | none => 0

/-- The module after a loss of power: Tier C and what Pholer reloads from it, the fuses, and the pins' levels stand. -/
def Mod.powerLost (m : Mod) : Mod :=
  let log := m.log.filter (·.flushed)
  { power := { inputMv := m.power.inputMv, inRange := m.power.inRange, charged := m.power.charged
               standby := m.power.standby, mainEnabled := m.power.mainEnabled, pwrEn := m.power.pwrEn }
    boot := { stage := .off, modRst := m.boot.modRst, unclaimed := true, bistOnce := m.boot.bistOnce
              powerUps := m.boot.powerUps, fuse := m.boot.fuse, fuseB1 := m.boot.fuseB1 }
    policy := m.policy
    keepCopy := { log := log, verdicts := keptVerdicts m.verdicts }
    rowTable := m.rowTable, deadRows := m.deadRows, repairSpent := m.repairSpent, badChannels := m.badChannels
    tierC := m.tierC, flashErrors := m.flashErrors, flashPages := m.flashPages
    sramList := m.sramList, sramRepairs := m.sramRepairs
    verdicts := keptVerdicts m.verdicts
    log := log, nextRecord := nextAfter log
    dumps := m.dumps, nextDump := m.nextDump
    ownStale := true
    free := m.free, nextTag := m.nextTag, nextSid := m.nextSid, nextNotice := m.nextNotice
    out := m.out, injectedFrom := m.out.length }

/-- The main rails are off and the standby rail is up: the module domain is lost; the always-on domains stand. -/
def Mod.mainLost (m : Mod) : Mod :=
  let n := m.powerLost
  { n with
    timer := m.timer, timerOn := m.timerOn
    power := { m.power with groups := 0, pwrGood := false, holding := none, window := [], arraysMw := 0 }
    boot := { m.boot with stage := .off, noFirmware := true, staging := false, trainedOnce := false }
    alertCause := m.alertCause, alertMask := m.alertMask
    sideband := m.sideband, i3c := m.i3c, tap := m.tap
    timerDev := m.timerDev, timerReload := m.timerReload
    log := m.log, nextRecord := m.nextRecord, verdicts := m.verdicts, summary := m.summary, trail := m.trail
    keepCopy := m.keepCopy, eth := m.eth
    notices := m.notices, noticeIds := m.noticeIds, modAddr := m.modAddr, ports := m.ports, faultTable := m.faultTable
    halfCounters := m.halfCounters, counters := m.counters }

/-! ### Firmware slots (R488, R489) -/

/-- Raises the fuse counter in the fuse blocks of both Borders (R31, R492, log 99). -/
def Boot.blow (b : Boot) (n : Nat) : Boot := { b with fuse := Nat.max b.fuse n, fuseB1 := Nat.max b.fuseB1 n }

/-- The fuse counter as the Border of the active management complex holds it (R31, R489). -/
def Boot.fuses (b : Boot) : Nat := if b.activeB1 then b.fuseB1 else b.fuse

/-- The extent of slot 0 (A) or 1 (B). -/
def slotExtent (s : Nat) : Nat := 0xFF00 + s

def Mod.slotHeader (m : Mod) (s : Nat) : Bytes := m.readC (slotExtent s) 0 256

/-- A field of a slot header. -/
def Mod.slotField (m : Mod) (s off n : Nat) : Nat := leNat (((m.slotHeader s).drop off).take n)

def Mod.slotState (m : Mod) (s : Nat) : Nat := m.slotField s 3 1
def Mod.slotTries (m : Mod) (s : Nat) : Nat := m.slotField s 5 1
def Mod.slotSequence (m : Mod) (s : Nat) : Nat := m.slotField s 0x0C 4
def Mod.slotSecurity (m : Mod) (s : Nat) : Nat := m.slotField s 0x08 4

def Mod.setSlot (m : Mod) (s off n v : Nat) : Mod := m.writeC (slotExtent s) off (leBytes n v)

/-- The image, from block 1 on. -/
def Mod.slotImage (m : Mod) (s : Nat) : Bytes := m.readC (slotExtent s) blockBytes (m.slotField s 0x10 8)

/-- Whether a slot's signature and digest verify, whatever its state; the signature takes state and tries as 0. -/
def Mod.slotVerifies (m : Mod) (s : Nat) : Bool :=
  let h := m.slotHeader s
  let plain := h.take 3 ++ [0#8] ++ (h.drop 4).take 1 ++ [0#8] ++ h.drop 6
  m.pagesRead (tierCKey (slotExtent s) 0) (blockBytes + m.slotField s 0x10 8) && m.slotField s 0 2 == 0x5149 && m.slotField s 2 1 == 1 && m.slotSecurity s ≤ 64 && m.boot.fuses ≤ m.slotSecurity s &&
    m.slotField s 0x10 8 ≤ 255 * 2 ^ 20 && sm3 (m.slotImage s) == (h.drop 0x18).take 32 && Config.slotVerifies plain (m.slotImage s)

/-- The slots from which a boot chooses. -/
def Mod.slotCandidates (m : Mod) : List Nat :=
  [0, 1].filter fun s => (m.slotState s == 3 || (m.slotState s == 2 && !m.boot.wakeLow)) && m.slotVerifies s

/-- The slot of highest SEQUENCE. -/
def Mod.newestSlot (m : Mod) : List Nat → Option Nat
  | [] => none
  | [s] => some s
  | s :: t :: _ => if m.slotSequence t ≤ m.slotSequence s then some s else some t

/-- The choice of R489: a trial slot that has booted twice is rejected. `first` is the slot tried first. -/
def Mod.chooseSlot (m : Mod) (first : Option Nat) : Nat → List Nat → Option Nat × Mod
  | 0, _ => (none, m)
  | n + 1, cand =>
    match (first.filter cand.contains).or (m.newestSlot cand) with
    | none => (none, m)
    | some s =>
      if m.slotState s == 2 then
        if m.slotTries s == 2 then
          ((((m.setSlot s 3 1 4).raiseCause 4).count .TRIAL_FALLBACKS)).chooseSlot none n (cand.filter (· != s))
        else (some s, m.setSlot s 5 1 (m.slotTries s + 1))
      else (some s, m)

/-- After a Module reset the choice starts from the slot that last booted, unless the other one is a trial slot that has
not booted yet (R489, R492, log 72). -/
def Mod.resetFirst (m : Mod) : Option Nat :=
  let s := m.boot.slot
  let o := 1 - s
  if m.slotState o == 2 && m.slotTries o == 0 && m.slotSequence s < m.slotSequence o then none else some s

/-! ### Step 6 (R32, R484, R494) -/

/-- The boot self-test of the two management pairs: B0 is active when it passes. -/
def Mod.testPairs (m : Mod) (b0ok b1ok : Bool) : Mod :=
  let fails (m : Mod) (border : Nat) : Mod :=
    (m.addOpen { time := 0, record := 0, cls := 0x30, outcome := 6, unit := ⟨10, border⟩ }).raiseCause 3
  let ok0 := b0ok && m.boot.complex 0 != .out
  let ok1 := b1ok && m.boot.complex 1 != .out
  let m := if m.boot.complex 0 != .out && !b0ok then fails m 0 else m
  let m := if m.boot.complex 1 != .out && !b1ok then fails m 1 else m
  let mgmt : MgmtPhase × MgmtPhase :=
    if ok0 then (.active, if ok1 then .standby else .out) else (.out, if ok1 then .active else .out)
  { m with boot := { m.boot with mgmt := mgmt, activeB1 := !ok0 && ok1 } }

/-- Whether a pair runs. -/
def Mod.pairRuns (m : Mod) : Bool := m.boot.mgmt.1 == .active || m.boot.mgmt.2 == .active

/-- The boot fails. -/
def Mod.bootFails (m : Mod) : Mod :=
  { m with boot := { m.boot with stage := .failed, noFirmware := true } }.raiseCause 4

/-- The boot ROM: registers to zero, the choice of a slot, M0 and M1; Pholer starts. -/
def Mod.bootRom (m : Mod) (first : Option Nat) : Mod :=
  let m := { m with measures := List.replicate 8 (List.replicate 32 0#8) }
  if !m.pairRuns then m.bootFails
  else
    match m.chooseSlot first 3 m.slotCandidates with
    | (none, m) => m.bootFails
    | (some s, m) =>
      let m := { m with boot := { m.boot with slot := s, wakeLow := false, noFirmware := false, stage := .memoryTraining } }
      (m.extend 0 (Config.romVersion ++ leBytes 8 m.boot.fuses)).extend 1 ((m.slotHeader s).take 0x38)

/-- MOD_RST_N is released. -/
def Mod.rstReleased (m : Mod) (wakeLow b0ok b1ok : Bool) : Mod :=
  if !m.boot.modRst || !m.power.pwrGood then m
  else
    let m := { m with boot := { m.boot with modRst := false, wakeLow := wakeLow } }
    match m.boot.stage with
    | .powerGood | .bootRom => ((m.testPairs b0ok b1ok).bootRom none)
    | .resetting => m.testPairs b0ok b1ok
    | _ => m

/-- MOD_RST_N is asserted: a Module reset after READY, a restart of the boot at step 6 before it (R486). -/
def Mod.rstAsserted (m : Mod) (micros : Nat) : Mod :=
  if micros < 10 || !m.power.pwrGood then m
  else
    let m := { m with boot := { m.boot with modRst := true } }
    match m.boot.stage with
    | .ready | .resetting => m.startLevel 4 0 none
    | .powerGood => m
    | _ => { m with boot := { m.boot with stage := .bootRom, noFirmware := true } }

/-! ### Steps 7 and 8 (R38, R39, R240, R243) -/

/-- Fills the memories that a predicate picks with +0 code words. -/
def Mod.fillWhere (m : Mod) (p : Region → Bool) : Mod :=
  { m with
    mem := m.mem.filter fun c => !p (regionOf c.1)
    memErrors := m.memErrors.filter fun e => !p (regionOf (16 * e.1)) }

def Region.dram : Region → Bool
  | .tierA _ => true
  | .tierB => true
  | _ => false

def Region.sram : Region → Bool
  | .rim _ => true
  | .stake _ => true
  | _ => false

/-- Memory training ends: the spares of failed lanes and the permanent repairs are in, and the tiers hold +0 after the first
training (R240). -/
def Mod.memoryTrained (m : Mod) (failedLanes : List (Nat × Nat)) : Mod :=
  if m.boot.stage != .memoryTraining then m
  else
    let m := m.trainMemory failedLanes
    let m := if m.boot.trainedOnce then m else m.fillWhere Region.dram
    { m with boot := { m.boot with stage := .bist, trainedOnce := true } }

/-- The slots of a rib that failed. -/
def failedSlots (failed : List Nat) (g : Nat) : List Nat := (List.range 8).filter fun s => failed.contains (8 * g + s)

/-- The spare slot of a rib (R38). -/
def spareSlot (failed : List Nat) (g : Nat) : Option Nat :=
  match failedSlots failed g with
  | [] => some 7
  | [f] => some f
  | _ => none

/-- The slots of a rib that serve logical numbers, in order. -/
def servingSlots (failed : List Nat) (g : Nat) : List Nat :=
  (List.range 8).filter fun s => !failed.contains (8 * g + s) && spareSlot failed g != some s

/-- The map from logical to physical stakes (R38). -/
def bootMap (failed : List Nat) : List (Option Nat) :=
  (List.range 32).flatMap fun g =>
    (List.range 7).map fun n => ((servingSlots failed g)[n]?).map fun s => 8 * g + s

/-- The state of the ribs after boot: a spare that failed stays out of service. -/
def bootRibs (failed : List Nat) (now : Nat) : List RibState :=
  (List.range 32).map fun g =>
    { rib := g
      spare := if (failedSlots failed g).isEmpty then some (8 * g + 7) else none
      since := (servingSlots failed g).map fun s => (8 * g + s, now) }

/-- The level of the boot BIST: BOOT_CONTROL's once, else the policy's; without a policy none (R484, R498, R504, log 73). -/
def Mod.bootLevel (m : Mod) : Nat := m.boot.bistOnce.getD ((m.policy.map (·.bootBist)).getD 0)

/-- The boot BIST ends: the map stands, repairs are applied, tested memories hold +0, each ABSENT number is recorded. -/
def Mod.bootTested (m : Mod) (failedStakes : List Nat) : Mod :=
  if m.boot.stage != .bist then m
  else
    let failed := (failedStakes.filter (· < 256)).eraseDups
    let level := m.bootLevel
    let map := bootMap failed
    let m := { m with stakeMap := map, ribs := bootRibs failed m.now, outOfService := failed, arrays := [] }
    let m := failed.foldl (fun m p =>
      ((m.addOpen { time := 0, record := 0, cls := 0x30, outcome := 6, unit := ⟨1, p⟩ }).count .SELF_TEST_FAILS).count .STAKES_OUT) m
    let m := m.count .SELF_TESTS 256
    let m := map.zipIdx.foldl (fun m (x, l) =>
      if x.isNone then
        m.addLog { time := 0, record := 0, cls := 0x32, outcome := 6, unit := ⟨2, l / 7⟩, logical := l, info0 := l }
      else m) m
    let m := m.repairSram fun _ => true
    let m := if level = 2 then m.fillWhere fun r => r.dram || r.sram else if level = 1 then m.fillWhere Region.sram else m
    { m with boot := { m.boot with stage := .linkTraining, bistOnce := none } }

/-! ### Steps 9 and 10 (R399, R435, R490) -/

/-- Pholer's slot becomes CONFIRMED. -/
def Mod.confirmSlot (m : Mod) : Mod := m.setSlot m.boot.slot 3 1 3

/-- Pholer installs the policy, with its roster when that is newer than the one in use, and M2 and M3 hold them. -/
def Mod.policyUp (m : Mod) : Mod :=
  match m.policy with
  | none => { m with boot := { m.boot with unclaimed := true } }
  | some p =>
    let m := { m with boot := { m.boot with unclaimed := false } }.extend 2 p.bytes
    if m.rosterEpoch < p.rosterEpoch then m.useRoster p.rosterEpoch p.roster else m.useRoster m.rosterEpoch m.roster

/-- At power-up a strapped module takes the steward's role, unless one at a lower X is strapped: then it records a fault
and stands by (R435). -/
def Mod.takeRole (m : Mod) : Mod :=
  if !m.boot.stewardSel then m
  else if Config.otherSteward then
    (m.addOpen { time := 0, record := 0, cls := 0x41, outcome := 2, unit := ⟨15, 0⟩ }).raiseCause 6
  else { m with isSteward := true }

/-- A steward challenges the neighbours of its tray to which its links are up (R505). -/
def Mod.challengeAll (m : Mod) : Mod :=
  if !m.isSteward then m
  else
    let near := (m.ports.filter fun p => p.up && sameTray p.neighbour m.modAddr && p.neighbour != m.modAddr).map fun p => slotOf p.neighbour
    near.eraseDups.foldl Mod.challenge m

/-- Link training ends, and the module reaches READY. -/
def Mod.linksTrained (m : Mod) (ts : List PortTrain) : Mod :=
  if m.boot.stage != .linkTraining then m
  else
    let m := (ts.take 16).zipIdx.foldl (fun m (t, i) => m.trainPort i t) m
    let m := { m with eth := m.eth.map fun (p : EthPort) => { p with up := true } }.policyUp.takeRole.confirmSlot
    { m with boot := { m.boot with stage := .ready, woken := [] } }.challengeAll

/-! ### The end of a Module reset (R452) -/

/-- Ends every command that was accepted and not completed, and leaves each resident job QUIESCED with its ties ABANDONED
and its pools free. -/
def Mod.quietAll (m : Mod) (record : Nat) : Mod :=
  let m := m.endCommands (fun _ _ => true) .faultDetected fun m => (record, m)
  let m := m.abandonTies fun _ => true
  let m := m.jobs.foldl (fun m j => m.discardTraffic j) m
  let m := m.freePlaces fun _ => true
  { m with jobs := m.jobs.map fun (j : Job) => { j with phase := .quiesced } }

/-- Steps 6 to 10 of R452. A pair under test when the reset began is judged by the boot self-test, whose outcome is free
(R32, R479). -/
def Mod.resetDone (m : Mod) : Mod :=
  match m.resetting with
  | none => m
  | some r =>
    if m.boot.modRst || m.power.cycleReq || !m.power.pwrGood then m
    else
      let testing := m.boot.mgmt.1 == .testing || m.boot.mgmt.2 == .testing
      let m := if testing then
          let (ok, m) := m.freeBool
          m.testPairs (m.boot.mgmt.1 != .testing || ok) (m.boot.mgmt.2 != .testing || ok)
        else m
      let m := m.bootRom m.resetFirst
      if m.boot.stage == .failed then m.startLevel 5 0 none
      else
        let m := ({ m with free := m.free + 1 }.trainMemory (Config.trainedLanes m.free)).fillWhere Region.sram
        let m := m.repairSram fun _ => true
        let m := (List.range 32).foldl Mod.stopMove m
        let still (x : RibState) : RibState := { x with testing := false }
        let m := { m with ribs := m.ribs.map still }.replaceOut (List.range 32)
        let m := m.finishCommits
        let m := (m.jobs.map (·.plan.job)).foldl Mod.rollForward m
        let m := (m.quietAll r.record).policyUp
        let plans := sortBy (fun (a b : Job) => a.plan.job ≤ b.plan.job) m.jobs
        let m := plans.foldl (fun m j => m.extend 4 j.plan.bytes) m
        let m := (m.log.filter fun x => x.record == r.record).foldl (fun m x => m.extend 6 x.bytes) m
        let m := m.confirmSlot
        let done := m.escalations.filter fun e => e.level ≤ 4
        let m := done.foldl Mod.closeLevel m
        let m := { m with resetting := none, boot := { m.boot with stage := .ready, woken := [] } }.count .MODULE_RESETS
        m.notify { kind := 2, scope := 2, side := 0, noticeId := r.noticeId, time := BitVec.ofNat 64 r.started, record := r.record
                   jobs := Mod.noticeJobs m.jobs, sent := 0 }

def execModRstNAssert (micros : Nat) (s : State) : Host.Outcome State Fault Refusal := lift (fun m => m.rstAsserted micros) s

def execModRstNRelease (wakeLow b0ok b1ok : Bool) (s : State) : Host.Outcome State Fault Refusal :=
  lift (fun m => m.rstReleased wakeLow b0ok b1ok) s

/-- A falling edge of WAKE_N is a doorbell of the sideband mailbox (R393, R487). -/
def execWakeNFall (s : State) : Host.Outcome State Fault Refusal :=
  lift (fun m => { m with boot := { m.boot with wakes := m.boot.wakes + 1 } }.wakeUnit ⟨10, if m.boot.activeB1 then 1 else 0⟩) s

def execMemoryTrainingDone (failedLanes : List (Nat × Nat)) (s : State) : Host.Outcome State Fault Refusal :=
  lift (fun m => m.memoryTrained failedLanes) s

def execBootBistDone (failedStakes : List Nat) (s : State) : Host.Outcome State Fault Refusal :=
  lift (fun m => m.bootTested failedStakes) s

def execLinkTrainingDone (ports : List PortTrain) (s : State) : Host.Outcome State Fault Refusal :=
  lift (fun m => m.linksTrained ports) s

def execModuleResetDone (s : State) : Host.Outcome State Fault Refusal := lift Mod.resetDone s

end Sys2Proof.Machine
end

