-- ==== Sys2Proof/Machine/Power.lean ====
section
/-!
DEFINITION. Supply, rails, the power limiter and the sensors (chapter 17).
-/

namespace Sys2Proof.Machine

/-! ### Supply and rails (R548, R549, R552, R553) -/

/-- The input enters its range; at 47 V the controller enables the main rails. -/
def Mod.inputApplied (m : Mod) (mv : Nat) : Mod :=
  { m with power := { m.power with
      inputMv := mv, inRange := 48000 ≤ mv && mv ≤ 58000, mainEnabled := m.power.mainEnabled || 47000 ≤ mv } }

/-- The bulk capacitance is charged and the standby rail rises. -/
def Mod.bulkCharged (m : Mod) : Mod :=
  if m.power.inRange then { m with power := { m.power with charged := true, standby := true } } else m

/-- The input stays below 46 V: every main rail goes off at once. Below 36 V the standby rail falls too. -/
def Mod.inputFails (m : Mod) (mv : Nat) : Mod :=
  if 46000 ≤ mv then m
  else
    let m := m.powerLost
    { m with power := { m.power with
        inputMv := mv, inRange := false, mainEnabled := false, charged := m.power.charged && 36000 ≤ mv
        standby := m.power.standby && 36000 ≤ mv } }

/-- PWR_EN rises: sequencing starts, and the strap is read. -/
def Mod.pwrEnRises (m : Mod) : Mod :=
  if m.power.pwrEn || !m.power.standby then m
  else
    { m with
      power := { m.power with pwrEn := true, lowSince := none, groups := 0 }
      boot := { m.boot with stage := .rails, stewardSel := Config.stewardSel } }

/-- The group of each rail by its number (R550, R551). -/
def railGroup (rail : Nat) : Nat :=
  if rail < 14 then 2
  else match rail with
    | 14 | 15 | 18 | 21 => 1
    | 16 | 19 | 22 => 3
    | 17 | 20 => 4
    | _ => 0

/-- Whether a rail is in regulation: its group has come up; the standby rail follows the input (R552). -/
def Power.railUp (p : Power) (rail : Nat) : Bool := if railGroup rail = 0 then p.standby else railGroup rail ≤ p.groups

/-- A rail group is in regulation; the last one sets PWR_GOOD, starts the timer and counts a power-up. -/
def Mod.railsUp (m : Mod) (group : Nat) : Mod :=
  if !m.power.pwrEn || !m.power.mainEnabled || m.power.pwrGood || group != m.power.groups + 1 || 4 < group ||
      m.boot.stage == .failed then m
  else if group < 4 then { m with power := { m.power with groups := group }, boot := { m.boot with stage := .rails } }
  else
    let fresh := !m.timerOn
    let m := { m with
      power := { m.power with groups := 4, pwrGood := true }
      timer := if fresh then 0 else m.timer
      timerOn := true
      boot := { m.boot with stage := .powerGood, powerUps := m.boot.powerUps + 1, resets := if fresh then 0 else m.boot.resets } }
    m.raiseIbi 3

/-- The rails are not in regulation 50 ms after PWR_EN. -/
def Mod.railsTimeout (m : Mod) : Mod :=
  if !m.power.pwrEn || m.power.pwrGood then m
  else
    { m with power := { m.power with groups := 0 }, boot := { m.boot with stage := .failed } }.raiseCause 7

/-- PWR_EN falls: the rail groups go off. -/
def Mod.pwrEnFalls (m : Mod) : Mod :=
  if !m.power.pwrEn then m
  else
    let now := m.now
    let m := m.mainLost
    { m with power := { m.power with pwrEn := false, lowSince := some now } }

/-- PWR_EN has been low for 200 ms: the always-on domains reset, and PWR_CYCLE_REQ_N is released (R553, R555). -/
def Mod.alwaysOnResets (m : Mod) : Mod := if m.power.pwrEn then m else m.powerLost

/-! ### The limiter (R548, R557–R559, R78) -/

/-- A sample of voltage and current at J1, and of the arrays' part of the power in mW. -/
def Mod.sampled (m : Mod) (mv ma arrays : Nat) : Mod :=
  let m := { m with power := { m.power with
    inputMv := mv, inputMa := ma, arraysMw := arrays, window := (mv * ma / 1000 :: m.power.window).take 100 } }
  if m.power.pwrGood && 46000 ≤ mv && mv < 48000 then m.raiseCause 7 else m

/-- The average of the window in mW. -/
def Power.average (p : Power) : Nat := p.window.sum / Nat.max 1 p.window.length

/-- The effective limit in W. -/
def Power.effective (p : Power) : Nat := min p.limit p.thermal

/-- The array budget in mW: what the limit leaves beside everything but the arrays. -/
def Power.budget (p : Power) : Nat := 980 * p.effective - (p.window.headD 0 - p.arraysMw)

/-- The number of 256-cycle units of the smallest gap under which an ungapped power fits a budget; 64 when none does. -/
def gapUnits (power budget : Nat) : Nat := ((List.range 64).find? fun k => power ≤ budget * (1 + k)).getD 64

/-- The power of arrays without their gap. -/
def ungapped (power gap : Nat) : Nat := power * (256 + gap) / 256

/-- The jobs whose passes run on arrays, with their array power. The power of each of several jobs is measured and is
free; one job alone has all of it (log 74). -/
def Mod.arrayJobs (m : Mod) : List (Nat × Nat) :=
  let js := ((m.arrays.filter fun s => s.word.live).map fun s => s.word.job).eraseDups
  match js with
  | [j] => [(j, m.power.arraysMw)]
  | js => js.zipIdx.map fun (j, i) => (j, Config.freeNat (m.free + i) % (m.power.arraysMw + 1))

/-- The gaps of FILLER jobs that run, in increasing job ID: each takes what is still missing, as far as a gap can (R79). `rest`
is the power of the other jobs and of the FILLER jobs before. -/
def fillerGaps (b : Nat) : Nat → List (Nat × Nat) → List (Nat × Nat)
  | _, [] => []
  | rest, (j, w) :: more =>
    let k := gapUnits w (b - rest - (more.map (·.2)).sum)
    (j, 256 * k) :: fillerGaps b (rest + w / (1 + k)) more

/-- Sets the budget and the gaps: FILLER jobs that run take them first (R78); without one, each job over its part takes the
gap that brings it there. -/
def Mod.limit (m : Mod) : Mod :=
  let p := m.power
  let b := p.budget
  let js := m.arrayJobs.map fun (j, w) => (j, ungapped w (m.limiterGap j))
  let total := (js.map (·.2)).sum
  let units := gapUnits (if js.isEmpty then ungapped p.arraysMw p.gap else total) b
  let fill := js.filter fun j => m.filler j.1
  let others := js.filter fun j => !m.filler j.1
  let share (j : Nat) : Nat := ((m.job? j).map fun x => x.plan.powerShare).getD 1
  let shares := ((m.jobs.filter fun j => j.plan.cls != 2).map fun j => j.plan.powerShare).sum
  let gaps :=
    if units = 0 then []
    else if !fill.isEmpty then
      fillerGaps b ((others.map (·.2)).sum) (sortBy (fun a c => a.1 ≤ c.1) fill)
    else others.map fun j => (j.1, 256 * gapUnits j.2 (b * share j.1 / Nat.max 1 shares))
  let above : Bool := 1000 * p.effective < p.average
  let m := { m with
    free := m.free + m.arrayJobs.length
    power := { p with gap := 256 * units, gapPrimary := gaps.filter fun g => g.2 != 0, atMaximum := units == 64 } }
  if units == 64 && above then m.raiseCause 7 else m

/-! ### Sensors (R560–R562). They are numbered in the order of the table: 64 Side and 8 Border junctions, 12 HBM4 stacks,
24 LPDDR6 packages, outlet, inlet; values are in units of 0.125 °C (log 75). -/

def sensorCount : Nat := 110

/-- The throttle, release and shutdown points of a sensor; the inlet has none. -/
def sensorPoints (i : Nat) : Option (Int × Int × Int) :=
  if i < 72 then some (760, 736, 880) else if i < 108 then some (760, 736, 840)
  else if i = 108 then some (480, 456, 560) else none

/-- Sensors with a property of their value and points. -/
def sensorsWhere (vs : List Int) (p : Int → Int × Int × Int → Bool) : List Nat :=
  vs.zipIdx.filterMap fun (v, i) => match sensorPoints i with
    | some x => if p v x then some i else none
    | none => none

/-- The hold before a shutdown starts: every array ramps down and feeds no rows. `thermal` says what caused it, and `n`
is the sensor or rail. The first cause stands (R571). -/
def Mod.beginHold (m : Mod) (thermal : Bool) (n : Nat) : Mod :=
  if m.power.holding.isSome || !m.power.pwrGood then m
  else
    let down (s : ArrayState) : ArrayState := if s.ramp == .none then { s with ramp := .down } else s
    { m with power := { m.power with holding := some (thermal, n) }, arrays := m.arrays.map down }

/-- Since when the thermal limit has been below the power limit. -/
def Mod.noteBelow (m : Mod) : Mod :=
  let p := m.power
  { m with power := { p with
      belowSince := if p.thermal < p.limit then (match p.belowSince with
        | some t => some t
        | none => some m.now) else none } }

/-- The sensors are read. -/
def Mod.sensed (m : Mod) (vs : List Int) : Mod :=
  if vs.length != sensorCount then m
  else
    let hot := !(sensorsWhere vs fun v x => x.1 ≤ v).isEmpty
    let cool := (sensorsWhere vs fun v x => x.2.1 ≤ v).isEmpty
    let p := m.power
    let m := { m with power := { p with
      sensors := vs, throttling := hot, released := cool
      thermal := if hot then Nat.max 2400 (p.thermal - 100) else p.thermal } }.noteBelow
    let m := if 96 < vs.getD 108 0 - vs.getD 109 0 then m.raiseCause 7 else m
    match sensorsWhere vs fun v x => x.2.2 ≤ v with
    | i :: _ => m.beginHold true i
    | [] => m

/-- Every 1 ms with every sensor below its release point, the thermal limit rises. -/
def Mod.thermalRaised (m : Mod) : Mod :=
  let p := m.power
  if !p.released || p.throttling || p.sensors.isEmpty then m
  else { m with power := { p with thermal := min 4800 (p.thermal + 100) } }.noteBelow

/-- The thermal limit has stayed below the power limit for more than 1 s. -/
def Mod.thermalPersists (m : Mod) : Mod :=
  match m.power.belowSince with
  | some t => if t + 100000000 < m.now then m.raiseCause 7 else m
  | none => m

/-- The hold ends: what Pholer could flush is flushed, the record of level 5 is written with the sensor or rail in INFO0, the
rails go off and PWR_CYCLE_REQ_N is asserted. Before READY the stage becomes FAILED. -/
def Mod.shutDown (m : Mod) : Mod :=
  match m.power.holding with
  | none => m
  | some (_, n) =>
    let early := m.boot.stage != .ready && m.boot.stage != .resetting
    let m := m.flushLog
    let rec_ := m.record
    let m := m.addLog { time := 0, record := 0, cls := 0x40, outcome := 7, level := 5, unit := ⟨15, 0⟩, info0 := n }
    let m := m.beginLevel { level := 5, unit := 0, started := m.now, record := rec_ }
    let x : Notice := { kind := 1, scope := 3, side := 0, noticeId := m.nextNotice, time := m.timer, record := rec_
                        jobs := Mod.noticeJobs m.jobs, sent := 0 }
    let m := ({ m with nextNotice := m.nextNotice + 1 }.notify x).takeDump rec_ 5
    let m := m.mainLost
    { m with
      power := { m.power with cycleReq := true }
      boot := { m.boot with stage := if early then .failed else .off } }

/-! ### Sideband requests about power (R556, R568) -/

/-- The body of GET_POWER. -/
def Mod.powerBody (m : Mod) : Bytes :=
  let p := m.power
  leBytes 4 p.inputMv ++ leBytes 4 p.inputMa ++ leBytes 4 (p.average / 1000) ++ leBytes 2 p.limit ++ leBytes 2 p.effective ++
    leBytes 2 p.gap ++ leBytes 2 ((if p.thermal < p.limit then 1 else 0) + if p.atMaximum then 2 else 0)

/-- Whether a power limit is in range. -/
def limitOk (w : Nat) : Bool := 2400 ≤ w && w ≤ 4800 && w % 10 == 0

/-- A new power limit. -/
def Mod.setLimit (m : Mod) (w : Nat) : Mod := { m with power := { m.power with limit := w } }.noteBelow

/-- Whether the controller of a sensor's memory device doubles its refresh rate: above 85 °C (R560). -/
def Power.refreshDoubled (p : Power) (i : Nat) : Bool := 72 ≤ i && i < 108 && 680 < p.sensors.getD i 0

/-- The hottest of some sensors. -/
def hottest (vs : List Int) : Int := vs.tail.foldl max (vs.headD 0)

/-- The body of GET_THERMAL. -/
def Mod.thermalBody (m : Mod) : Bytes :=
  let vs := m.power.sensors
  let part (a n : Nat) : Int := hottest ((vs.drop a).take n)
  ([part 0 64, part 64 8, part 72 12, part 84 24, vs.getD 109 0, vs.getD 108 0]).flatMap fun v => leBytes 2 (BitVec.ofInt 16 v).toNat

/-- The body of GET_RAILS: measured voltages and currents, which are free. -/
def Mod.railsBody (m : Mod) : Bytes × Mod := m.freeBytes 96

def execInputApplied (mv : Nat) (s : State) : Host.Outcome State Fault Refusal := lift (fun m => m.inputApplied mv) s
def execBulkChargeDone (s : State) : Host.Outcome State Fault Refusal := lift Mod.bulkCharged s
def execInputUndervoltage (mv : Nat) (s : State) : Host.Outcome State Fault Refusal := lift (fun m => m.inputFails mv) s
def execPwrEnRise (s : State) : Host.Outcome State Fault Refusal := lift Mod.pwrEnRises s
def execRailGroupInRegulation (group : Nat) (s : State) : Host.Outcome State Fault Refusal := lift (fun m => m.railsUp group) s
def execPwrGoodTimeout (s : State) : Host.Outcome State Fault Refusal := lift Mod.railsTimeout s
def execPwrEnFall (s : State) : Host.Outcome State Fault Refusal := lift Mod.pwrEnFalls s
def execPwrEnLow200ms (s : State) : Host.Outcome State Fault Refusal := lift Mod.alwaysOnResets s

def execPowerSample (mv ma arrays : Nat) (s : State) : Host.Outcome State Fault Refusal := lift (fun m => m.sampled mv ma arrays) s

def execLimiterUpdate (s : State) : Host.Outcome State Fault Refusal := lift Mod.limit s
def execSensorRead (values : List Int) (s : State) : Host.Outcome State Fault Refusal := lift (fun m => m.sensed values) s
def execShutdownHoldEnd (s : State) : Host.Outcome State Fault Refusal := lift Mod.shutDown s

def execRailFault (rail : Nat) (s : State) : Host.Outcome State Fault Refusal :=
  lift (fun m => if rail < 24 && m.power.railUp rail then m.beginHold false rail else m) s

def execThermalLimitRaise (s : State) : Host.Outcome State Fault Refusal := lift Mod.thermalRaised s
def execThermalLimitPersists (s : State) : Host.Outcome State Fault Refusal := lift Mod.thermalPersists s

end Sys2Proof.Machine
end

