-- ==== Sys2Proof/Machine/Security.lean ====
section
/-!
DEFINITION. Sessions and their handshake (R45, R496, R497), attestation (R493–R495), firmware staging (R491, R492), the policy
(R498–R503) and the attestation of a joining module (R505, R506).
-/

namespace Sys2Proof.Machine

/-! ### Sessions -/

/-- Signs a message by the identity key; the signature of a message is free (log 34). -/
def Mod.sign (m : Mod) (msg : Bytes) : Bytes × Mod := (Config.sm2Sign msg m.free, { m with free := m.free + 1 })

/-- Whether the policy admits a host certificate chain. -/
def Mod.admits (m : Mod) (chain : Bytes) : Bool := (m.policy.map fun p => Config.chainOk chain p.hostAuth).getD false

/-- The session of an endpoint: one network, one source address and UDP source port, on any Ethernet port (R42, R45). -/
def Mod.sessionOf (m : Mod) (ep : Endpoint) : Option Session := m.sessions.find? fun s => s.ep.same ep

/-- Commands that a session had accepted and that have not completed. -/
def Mod.sessionBusy (m : Mod) (sid : Nat) : Bool :=
  m.lanes.any fun s => (s.current.map fun r => r.cmd.sid == sid).getD false || s.accepted.any fun c => c.sid == sid

/-- Control lanes of sessions that have ended, with nothing left on them. -/
def Mod.dropLanes (m : Mod) : Mod :=
  { m with lanes := m.lanes.filter fun s => match s.lane with
      | .control sid => (m.session? sid).isSome || s.current.isSome || !s.accepted.isEmpty
      | .queue _ => true }

/-- A session ends, and with it its staging region and a trace stream that it set (R514). -/
def Mod.endSession (m : Mod) (sid : Nat) : Mod :=
  let m := { m with
    sessions := m.sessions.filter fun s => s.sid != sid
    closing := m.closing.filter (· != sid)
    trace := if m.trace.sid == sid then { m.trace with dest := none } else m.trace }
  m.dropLanes

/-- Ends the sessions that a policy change has closed, once their accepted commands are done (R502). -/
def Mod.closeSessions (m : Mod) : Mod :=
  ((m.closing.filter fun sid => !m.sessionBusy sid).foldl Mod.endSession m).dropLanes

/-- The times of the INITs that an address has had answered within the last second. -/
def Mod.recentInits (m : Mod) (a : BitVec 128) : Nat :=
  m.initTimes.countP fun t => t.1 == a && m.now < t.2 + 100000000

/-- INIT. A REPLY of result 0 carries the module's ephemeral point, its nonce and S_B. A chain over 6,144 bytes makes no INIT
and is discarded (log 79). -/
def Mod.initiate (m : Mod) (src : Endpoint) (point chain nonce : Bytes) : Mod :=
  if m.boot.stage != .ready || 6144 < chain.length then m
  else if 16 ≤ m.recentInits src.addr then m.count .HANDSHAKES_REFUSED
  else
    let recent := m.initTimes.filter fun t => m.now < t.2 + 100000000
    let m := { m with initTimes := (src.addr, m.now) :: recent }
    let refuse (result : Nat) : Mod := (m.emit (.handshake src result [] [] [])).count .HANDSHAKES_REFUSED
    if m.policy.isNone then refuse 3
    else if !m.admits chain then refuse 1
    else if 32 ≤ m.sessions.length then refuse 2
    else
      let (n, m) := m.freeNat
      let h : Handshake :=
        { ep := src, key := Config.kexKey point chain nonce n, chain := chain
          confirm := Config.kexConfirmA point chain nonce n, replyAt := m.now }
      let m := { m with handshakes := h :: m.handshakes.filter fun h => !h.ep.same src }
      m.emit (.handshake src 0 (Config.kexPoint n) (Config.kexNonce n) (Config.kexConfirmB point chain nonce n))

/-- Opens a session; it takes the place of an older one of the same endpoint (log 78). -/
def Mod.openSession (m : Mod) (h : Handshake) : Mod :=
  let m := match m.sessionOf h.ep with
    | some s => m.endSession s.sid
    | none => m
  let s : Session :=
    { sid := m.nextSid, ep := h.ep, key := h.key, chain := h.chain, digest := Config.certDigest h.chain, openedAt := m.now }
  let lane : LaneState := { lane := .control m.nextSid }
  { m with sessions := m.sessions.concat s, lanes := m.lanes.concat lane, nextSid := m.nextSid + 1 }.count .SESSIONS_OPENED

/-- FINISH: checked against S_A and the policy now installed (R496, R516). -/
def Mod.finishHandshake (m : Mod) (src : Endpoint) (confirm : Bytes) : Mod :=
  match m.handshakes.find? fun h => h.ep.same src with
  | none => m
  | some h =>
    let m := { m with handshakes := m.handshakes.filter fun h => !h.ep.same src }
    let full : Bool := (m.sessionOf src).isNone && 32 ≤ m.sessions.length
    if m.boot.stage != .ready || h.replyAt + 100000000 < m.now || confirm != h.confirm || !m.admits h.chain || full then m
    else m.openSession h

/-- FINISH has not come within 1 s of REPLY. -/
def Mod.handshakeLapses (m : Mod) (src : Endpoint) : Mod :=
  { m with handshakes := m.handshakes.filter fun h => !(h.ep.same src && h.replyAt + 100000000 ≤ m.now) }

/-- A session's 2^32 packets or 24 h are over. -/
def Mod.sessionExpires (m : Mod) (sid : Nat) : Mod :=
  match m.session? sid with
  | none => m
  | some s =>
    if s.openedAt + 8640000000000 ≤ m.now || 2 ^ 32 ≤ s.inPkts || 2 ^ 32 ≤ s.outPkts then m.endSession sid else m

/-! ### ATTEST (R494, R495) -/

/-- The report over a nonce, without its signature. -/
def Mod.reportBody (m : Mod) (nonce : Bytes) : Bytes :=
  let s := m.boot.slot
  leBytes 2 0x5141 ++ leBytes 1 1 ++ leBytes 1 8 ++ leBytes 4 m.modAddr ++ Config.identityDigest ++ leBytes 8 m.now ++ nonce ++
    leBytes 4 m.boot.powerUps ++ leBytes 4 m.boot.resets ++ leBytes 4 ((m.policy.map (·.epoch)).getD 0) ++ leBytes 4 m.rosterEpoch ++
    leBytes 1 s ++ leBytes 1 (m.slotField s 4 1) ++ leBytes 1 (m.slotState s) ++ leBytes 1 0 ++ leBytes 4 (m.slotSecurity s) ++
    leBytes 1 m.boot.fuses ++ leBytes 7 0 ++ m.measures.flatten

def Mod.report (m : Mod) (nonce : Bytes) : Bytes × Mod :=
  let b := m.reportBody nonce
  let (sig, m) := m.sign b
  (b ++ sig, m)

def Mod.startAttest (m : Mod) (id : CmdId) (c : Cmd) : Mod :=
  match c.op with
  | .attestReport =>
    let (b, m) := m.report (c.pkt.payload.take 32)
    m.complete id .ok 0 b
  | _ =>
    let chain := Config.vendorChain
    m.complete id .ok 0 (leBytes 4 chain.length ++ (chain.drop (c.pkt.u 0 4)).take 8108)

/-! ### Firmware (R488, R491, R492) -/

/-- Bytes of a slot extent: the header's block and an image of at most 255 MiB. -/
def slotBytes : Nat := blockBytes + 255 * 2 ^ 20

/-- The slot that did not boot. -/
def Mod.otherSlot (m : Mod) : Nat := 1 - m.boot.slot

def fwStageFault (op : Op) (p : Packet) : Option Nat :=
  if op == .fwStageWrite then
    firstViol (fieldRule (slotBytes < p.u 0 4 + p.u 4 2) 0 ++ fieldRule (p.u 4 2 = 0 || 8000 < p.u 4 2) 4)
  else none

/-- Header bytes that a WRITE brings: the state is the device's and stays STAGING (R488, R491; log 118). -/
def keepStaging (off : Nat) (b : Bytes) : Bytes := b.zipIdx.map fun x => if off + x.2 = 3 then 1#8 else x.1

/-- FW_STAGE. A WRITE without a BEGIN names no field, so its DETAIL is free (log 30). -/
def Mod.startFwStage (m : Mod) (id : CmdId) (c : Cmd) : Mod :=
  let s := m.otherSlot
  match c.op with
  | .fwStageBegin =>
    let key := tierCKey (slotExtent s) blockBytes
    let m := { m with tierC := m.tierC.clear key (slotBytes - blockBytes) }.programmed key (slotBytes - blockBytes)
    let m := m.setSlot s 3 1 1
    { m with boot := { m.boot with staging := true } }.complete id .ok 0
  | _ =>
    let off := c.pkt.u 0 4
    if m.boot.staging then (m.writeC (slotExtent s) off (keepStaging off ((c.pkt.payload.drop 8).take (c.pkt.u 4 2)))).complete id .ok 0
    else
      let (d, m) := freeDetail m
      m.complete id .badDescriptor d

/-- M5 takes each FW_ACTIVATE that runs, as slot, SEQUENCE and digest (R494; log 118). -/
def Mod.extendActivate (m : Mod) (s : Nat) : Mod :=
  m.extend 5 (leBytes 1 s ++ leBytes 4 (m.slotSequence s) ++ ((m.slotHeader s).drop 0x18).take 32)

/-- FW_ACTIVATE TRIAL and RESET: the staged slot verifies and becomes TRIAL. A slot that fails is recorded (log 81); it stays as it
is. -/
def Mod.startFwActivate (m : Mod) (id : CmdId) (c : Cmd) : Mod :=
  let s := m.otherSlot
  match c.op with
  | .fwActivateLock =>
    let b := m.boot.slot
    if m.slotState b != 3 then
      let (st, d) := refuseFit .incarnation 0
      m.complete id st d
    else
      let m := { m with boot := m.boot.blow (m.slotSecurity b) }
      (m.extendActivate b).complete id .ok 0
  | _ =>
    if c.op == .fwActivateReset && !m.jobs.isEmpty then
      let (st, d) := refuseFit .jobSlot m.jobs.length
      m.complete id st d
    else m.afterC id c (slotExtent s) 0 (blockBytes + m.slotField s 0x10 8) fun m =>
    if m.slotState s != 1 || !m.slotVerifies s then
      let rec_ := m.record
      ((m.addOpen { time := 0, record := 0, cls := 0x30, outcome := 3, unit := ⟨15, 0⟩ }).extendActivate s).complete id .faultDetected rec_
    else
      let seq := m.slotSequence (1 - s) + 1
      let m := ((m.setSlot s 3 1 2).setSlot s 5 1 0).setSlot s 0x0C 4 seq
      let m := { m with boot := { m.boot with staging := false } }
      let m := (m.extendActivate s).complete id .ok 0
      if c.op == .fwActivateReset then m.startLevel 4 0 none else m

/-! ### Policy (R498–R503) -/

/-- The longest policy. -/
def policyMax : Nat := 7600

/-- A policy document that is well formed. -/
def policyIn (b : Bytes) : Option Policy := if policyMax < b.length then none else Config.policyOf b

/-- A steward sends its roster to the members of its tray. -/
def Mod.spreadRoster (m : Mod) : Mod :=
  let msg : RosterMsg := { epoch := m.rosterEpoch, records := m.roster, steward := Config.identityDigest.take 16 }
  m.members.foldl (fun m a => m.emit (.roster a msg)) m

/-- Modules that the roster holds QUARANTINED, by X. -/
def Mod.quarantinedSlots (m : Mod) : List Nat := (m.roster.filter fun r => r.state == 3).map fun r => slotOf r.addr

/-- The roster of a new policy comes into use when its epoch is newer; a steward sends it on and tests every QUARANTINED module
again (R436, R505). -/
def Mod.newRoster (m : Mod) (p : Policy) : Mod :=
  if p.rosterEpoch ≤ m.rosterEpoch then m
  else
    let before := m.quarantinedSlots
    let m := m.useRoster p.rosterEpoch p.roster
    if m.isSteward then
      (before ++ m.quarantinedSlots).eraseDups.foldl Mod.challenge m.spreadRoster
    else m

/-- Closes the sessions that a predicate picks, once their accepted commands are done. -/
def Mod.closeWhere (m : Mod) (f : Session → Bool) : Mod :=
  let sids := (m.sessions.filter f).map (·.sid)
  { m with closing := (m.closing ++ sids).eraseDups }

/-- Installs a policy. -/
def Mod.installPolicy (m : Mod) (p : Policy) : Mod :=
  let m := { m with policy := some p, boot := { m.boot with unclaimed := false } }.extend 2 p.bytes
  let m := (m.newRoster p).count .POLICY_INSTALLS
  m.closeWhere fun s => !m.admits s.chain

/-- A RELEASE policy is countersigned: the module returns to the factory state. The image slots and the log stay,
and the verdict records in keep RAM are to be written anew. -/
def Mod.releaseModule (m : Mod) : Mod :=
  let keep (k : Nat) : Bool := let x := k / 2 ^ 48; x == 0xFF00 || x == 0xFF01 || x == 0xFF02
  let m := m.closeWhere fun _ => true
  let unwritten (v : VerdictRec) : VerdictRec := { v with flushed := false }
  { m with
    verdicts := m.verdicts.map unwritten
    policy := none, tierC := m.tierC.filter fun c => keep c.1
    flashErrors := m.flashErrors.filter fun e => keep (16 * e.1)
    flashPages := m.flashPages.filter fun p => keep (4096 * p)
    boot := { m.boot with unclaimed := true } }.mirror

/-- A refusal of Table 15.5. -/
def Mod.refusePolicy (m : Mod) (id : CmdId) (code : Nat) : Mod :=
  (m.count .POLICY_REFUSALS).complete id .refusedAuth (0x10000 + code)

def policyFault (op : Op) (p : Packet) : Option Nat :=
  if op == .policyPropose then firstViol (fieldRule (p.u 0 2 = 0) 0) else none

/-- POLICY_PROPOSE: the document, the epoch, then the owner's signature; the time of the command's arrival counts. -/
def Mod.startPropose (m : Mod) (id : CmdId) (c : Cmd) : Mod :=
  let n := c.pkt.u 0 2
  let b := (c.pkt.payload.drop 8).take n
  let sig := (c.pkt.payload.drop (up16 (8 + n))).take 64
  match policyIn b, m.policy with
  | some p, some cur =>
    if p.epoch != cur.epoch + 1 then m.refusePolicy id 4
    else if !Config.sm2Verify cur.ownerKey b sig then m.refusePolicy id 1
    else
      let expiry := c.arrived + 60000000000
      let m := { m with proposal := some { policy := { p with bytes := b }, digest := sm3 b, expiry := expiry } }
      m.complete id .ok 0 (sm3 b ++ leBytes 8 expiry)
  | none, _ => m.refusePolicy id 5
  | _, none => m.refusePolicy id 1

/-- POLICY_COUNTERSIGN; the timer at the command's receipt counts. -/
def Mod.startCountersign (m : Mod) (id : CmdId) (c : Cmd) : Mod :=
  let digest := c.pkt.payload.take 32
  let sig := (c.pkt.payload.drop 32).take 64
  match m.proposal, m.policy with
  | some x, some cur =>
    if x.digest != digest then m.refusePolicy id 3
    else if !Config.sm2Verify cur.custodianKey digest sig then m.refusePolicy id 1
    else if x.expiry < c.arrived then m.refusePolicy id 2
    else
      let m := { m with proposal := none }
      let m := if x.policy.release then m.releaseModule else m.installPolicy x.policy
      (m.complete id .ok 0).closeSessions
  | _, _ => m.refusePolicy id 3

/-! ### Joining a tray (R505, R506) -/

/-- A steward's challenge reaches this module. -/
def Mod.challenged (m : Mod) (steward : Nat) (nonce : Bytes) : Mod :=
  if m.resetting.isSome then m.turnAway (.request steward)
  else if m.boot.stage != .ready then m
  else
    let (b, m) := m.report nonce
    m.emit (.attestReport steward b)

/-- Whether a report makes its module a member. -/
def Mod.joins? (m : Mod) (x : Nat) (r : JoinReport) : Bool :=
  r.chainOk && ((m.roster.find? fun o => slotOf o.addr == x).map fun o => o.digest == r.digest).getD false &&
    ((m.policy.map (·.images)).getD []).contains r.m1

/-- A JOIN_QUARANTINED datagram: the layout of a reset notice with the module's address as record and its digest at 0x20; its
scope and notice ID are free (R506; log 118). -/
def Mod.joinNotice (m : Mod) (addr : Nat) (digest : Bytes) : Bytes × Mod :=
  let (scope, m) := m.freeNat
  let (nid, m) := m.freeNat
  let body := leBytes 2 0x514E ++ leBytes 2 (1 + 3 * 256) ++ leBytes 4 (m.modAddr + scope % 256 * 2 ^ 16) ++ leBytes 4 nid ++
    leBytes 4 m.boot.resets ++ leBytes 8 m.now ++ leBytes 4 addr ++ leBytes 4 0 ++ (digest ++ List.replicate 32 0#8).take 32
  (body ++ tag16 ((m.policy.map (·.noticeKey)).getD []) body, m)

/-- Quarantines a module of the tray, and tells the fabric managers. No rule names the class of the record (log 81). -/
def Mod.quarantine (m : Mod) (x : Nat) (digest : Bytes) : Mod :=
  let m := (m.count .QUARANTINES).addOpen { time := 0, record := 0, cls := 0x41, outcome := 4, unit := ⟨15, 0⟩, sub := x }
  let (b, m) := (m.raiseCause 5).joinNotice (m.trayAddr x) digest
  m.managers.foldl (fun m e => m.emit (.joinQuarantined e b)) m

/-- Sets the roster state of the module at X. -/
def Mod.setRosterState (m : Mod) (x st : Nat) : Mod :=
  let put (r : RosterRec) : RosterRec := if slotOf r.addr == x then { r with state := st } else r
  { m with roster := m.roster.map put, joins := m.joins.filter fun j => j.1 != x }

/-- The steward decides on a report within 1 s of its challenge, or on none after it. -/
def Mod.decideJoin (m : Mod) (x : Nat) (report : Option JoinReport) : Mod :=
  match m.joins.find? fun j => j.1 == x with
  | none => m
  | some (_, at0, _) =>
    let late : Bool := at0 + 100000000 < m.now
    match report with
    | some r =>
      if !late && m.joins? x r then m.setRosterState x 2
      else (m.setRosterState x 3).quarantine x r.digest
    | none => if late then (m.setRosterState x 3).quarantine x (List.replicate 16 0#8) else m

def execInit (src : Endpoint) (point chain nonce : Bytes) (s : State) : Host.Outcome State Fault Refusal :=
  lift (fun m => m.initiate src point chain nonce) s

def execFinish (src : Endpoint) (confirm : Bytes) (s : State) : Host.Outcome State Fault Refusal :=
  lift (fun m => m.finishHandshake src confirm) s

def execHandshakeTimeout (src : Endpoint) (s : State) : Host.Outcome State Fault Refusal :=
  lift (fun m => m.handshakeLapses src) s

def execSessionExpiry (sid : Nat) (s : State) : Host.Outcome State Fault Refusal := lift (fun m => m.sessionExpires sid) s

def execTrayAttest (steward : Nat) (nonce : Bytes) (s : State) : Host.Outcome State Fault Refusal :=
  lift (fun m => m.challenged steward nonce) s

def execJoinDecision (x : Nat) (report : Option JoinReport) (s : State) : Host.Outcome State Fault Refusal :=
  lift (fun m => m.decideJoin x report) s

end Sys2Proof.Machine
end

