-- ==== Sys2Proof/Machine/Sideband.lean ====
section
/-!
DEFINITION. The management side: SIDEBAND, SIDE and SMALL mailboxes (R387–R393), the sideband requests (R503, R504, R556,
R568), the alert registers (R482, R483), the I3C target (R481) and the test access port (R510).
-/

namespace Sys2Proof.Machine

/-! ### Registers as the tray controller reads them (R390, R482) -/

/-- The mailbox registers at 0x004, 0x008 and 0x00C. -/
def MailboxRegs.ack (b : MailboxRegs) : Nat := b.returnCode.toNat * 2 ^ 16 + b.ackSeq.toNat * 2 ^ 8 + if b.valid then 1 else 0

def Mod.boxStatus (m : Mod) (b : MailboxRegs) : Nat :=
  (if b.overrun then 2 ^ 7 else 0) + (if b.busy then 2 ^ 6 else 0) + (if m.boot.activeB1 then 2 ^ 5 else 0) +
    if m.boot.noFirmware then 2 ^ 4 else 0

/-- The register at 0x0400. -/
def Mod.statusWord (m : Mod) : Nat :=
  m.boot.stage.code * 2 ^ 16 + (if m.boot.unclaimed then 2 ^ 11 else 0) + (if m.boot.quarantined then 2 ^ 10 else 0) +
    (if m.slotState m.boot.slot == 2 then 2 ^ 9 else 0) + m.boot.slot * 2 ^ 8 + (if m.power.pwrGood then 4 else 0) +
    if m.alert then 2 else 0

/-! ### Serving a request (R391, R392, R504, R568) -/

/-- The fields of a latched request. -/
def MailboxRegs.code (b : MailboxRegs) : Nat := leNat ((b.latched.drop 2).take 2)
def MailboxRegs.length (b : MailboxRegs) : Nat := leNat ((b.latched.drop 4).take 2)
def MailboxRegs.body (b : MailboxRegs) : Bytes := (b.latched.drop 8).take b.length

/-- Whether a code is defined, and whether a LENGTH suits it. -/
def codeKnown (code : Nat) : Bool := (1 ≤ code && code ≤ 7) || (0x100 ≤ code && code ≤ 0x103)

def lengthSuits (code n : Nat) : Bool :=
  match code with
  | 3 => n == 32
  | 4 => 5 ≤ n && n ≤ 244
  | 5 => n == 128
  | 6 => n == 1
  | 0x101 => n == 2
  | _ => n == 0

/-- The request of a code is served when Pholer runs and holds it. -/
def Mod.serves (m : Mod) (code : Nat) : Bool :=
  m.sideband.busy && m.sideband.code == code && !m.boot.noFirmware && m.sideband.length ≤ 248 &&
    lengthSuits code m.sideband.length

/-- GET_STATUS: its fields are packed in the widths of the registers that hold them (log 76). -/
def Mod.statusBody (m : Mod) : Bytes :=
  let s := m.boot.slot
  leBytes 1 m.boot.stage.code ++ leBytes 8 m.now ++ leBytes 4 m.boot.powerUps ++ leBytes 4 m.boot.resets ++ leBytes 1 s ++
    leBytes 1 (m.slotField s 4 1) ++ leBytes 4 (m.slotSecurity s)

/-- The part number QKE3-M58 in ASCII. -/
def partNumber : Bytes := [0x51#8, 0x4B#8, 0x45#8, 0x33#8, 0x2D#8, 0x4D#8, 0x35#8, 0x38#8]

def Mod.answerStatus (m : Mod) : Mod := m.ackSideband 0 (some m.statusBody)

def Mod.answerIdentity (m : Mod) : Mod :=
  m.ackSideband 0 (some (Config.identityDigest ++ leBytes 8 Config.serial.toNat ++ partNumber))

def Mod.answerAttest (m : Mod) : Mod :=
  let b := Config.identityDigest ++ leBytes 8 m.now ++ m.sideband.body ++ (m.measures.take 2).flatten
  let (sig, m) := m.sign b
  m.ackSideband 0 (some (b ++ sig))

/-- Puts bytes into the claim's staging buffer. -/
def putAt (b : Bytes) (off : Nat) (x : Bytes) : Bytes :=
  (b ++ List.replicate (off - b.length) 0#8).take off ++ x ++ b.drop (off + x.length)

def Mod.answerClaimWrite (m : Mod) : Mod :=
  let off := leNat (m.sideband.body.take 4)
  let x := m.sideband.body.drop 4
  if !m.boot.unclaimed then m.ackSideband 0x12 (some [])
  else if policyMax < off + x.length then m.ackSideband 0x30 (some [])
  else { m with claim := putAt m.claim off x }.ackSideband 0 (some [])

def Mod.answerClaimCommit (m : Mod) : Mod :=
  let d := sm3 m.claim
  if !m.boot.unclaimed then m.ackSideband 0x12 (some [])
  else
    match policyIn m.claim with
    | none => m.ackSideband 0x30 (some [])
    | some p =>
      if p.epoch == 1 && Config.sm2Verify p.ownerKey d (m.sideband.body.take 64) &&
          Config.sm2Verify p.custodianKey d (m.sideband.body.drop 64) then
        (({ m with claim := [] }.installPolicy { p with bytes := m.claim }).ackSideband 0 (some [])).closeSessions
      else m.ackSideband 0x30 (some [])

/-- BOOT_CONTROL; a level out of range is FAILED (log 76). -/
def Mod.answerBootControl (m : Mod) : Mod :=
  let l := (m.sideband.body.headD 0#8).toNat
  if l = 0xFF then { m with boot := { m.boot with bistOnce := none } }.ackSideband 0 (some [])
  else if l ≤ 2 then { m with boot := { m.boot with bistOnce := some l } }.ackSideband 0 (some [])
  else m.ackSideband 0x30 (some [])

/-- LOG_TAIL, the oldest of the three first (log 76). -/
def Mod.answerLogTail (m : Mod) : Mod := m.ackSideband 0 (some ((lastN 3 m.log).flatMap LogRec.bytes))

def Mod.answerSetLimit (m : Mod) : Mod :=
  let w := leNat (m.sideband.body.take 2)
  if limitOk w then (m.setLimit w).ackSideband 0 (some []) else m.ackSideband 0x30 (some [])

def Mod.answerRails (m : Mod) : Mod :=
  let (b, m) := m.railsBody
  m.ackSideband 0 (some b)

/-- Serves a request of one code. -/
def Mod.serve (m : Mod) (code : Nat) (f : Mod → Mod) : Mod := if m.serves code then f m else m

/-! ### Doorbells of the sideband mailbox (R391, R392) -/

/-- A write of REQUEST: ignored with OVERRUN while the mailbox is busy or its acknowledgement stands. Without firmware the
always-on domain answers RESETTING; a limit that comes so is kept (R556; log 74). -/
def Mod.sideRequest (m : Mod) : Mod :=
  let b := m.sideband
  if !m.power.standby then m
  else if b.busy || b.valid then { m with sideband := { b with overrun := true } }.count .MAILBOX_OVERRUNS
  else
    let b : MailboxRegs := { b with latched := b.reqBuf.read 0 256, busy := true, cancel := false }
    let m := { m with sideband := b }.wakeUnit ⟨10, if m.boot.activeB1 then 1 else 0⟩
    if m.boot.noFirmware then
      let w := leNat (b.body.take 2)
      let m := if b.code == 0x101 && b.length == 2 && limitOk w then m.setLimit w else m
      m.ackSideband 0x21 none
    else if 248 < b.length then m.ackSideband 0x11 (some [])
    else if !codeKnown b.code then m.ackSideband 0x10 (some [])
    else if !lengthSuits b.code b.length then m.ackSideband 0x11 (some [])
    else m

/-- A write of CANCEL while BUSY: Pholer stops the request or finishes it; which is free. -/
def Mod.sideCancel (m : Mod) : Mod :=
  if !m.power.standby || !m.sideband.busy then m
  else
    let (stop, m) := m.freeBool
    let m := { m with sideband := { m.sideband with cancel := true } }
    if stop then m.ackSideband 0x20 (some []) else m

def Mod.sideAckClear (m : Mod) : Mod := { m with sideband := { m.sideband with valid := false } }

def Mod.causeClear (m : Mod) (bits : BitVec 32) : Mod := m.setAlert (m.alertCause &&& ~~~(bits.setWidth 8)) m.alertMask

def Mod.maskAlert (m : Mod) (v : BitVec 32) : Mod := m.setAlert m.alertCause (v.setWidth 8)

/-- A write of a word of REQ_BUF. -/
def Mod.sideBuffer (m : Mod) (off : Nat) (v : BitVec 32) : Mod :=
  let b := m.sideband
  if b.busy then { m with sideband := { b with overrun := true } }.count .MAILBOX_OVERRUNS
  else { m with sideband := { b with reqBuf := b.reqBuf.write off (leBytes 4 v.toNat) } }

def Mod.sideWrite (m : Mod) (off : Nat) (v : BitVec 32) : Mod :=
  if !m.power.standby || off % 4 != 0 then m
  else if off = 0 then
    let m := if v.getLsbD 0 then m.sideRequest else m
    if v.getLsbD 1 then m.sideCancel else m
  else if off = 4 then { m with sideband := { m.sideband with mask := v } }
  else if off = 8 then (if v.getLsbD 0 then m.sideAckClear else m)
  else if off = 0xC then (if v.getLsbD 7 then { m with sideband := { m.sideband with overrun := false } } else m)
  else if 0x100 ≤ off ∧ off < 0x200 then m.sideBuffer (off - 0x100) v
  else if off = 0x404 then m.causeClear v
  else if off = 0x408 then m.maskAlert v
  else m

/-! ### SIDE mailboxes (R387, R390) -/

def Mod.sideBox (m : Mod) (n : Nat) : MailboxRegs := ((m.sideBoxes.find? fun b => b.1 == n).map (·.2)).getD {}

def Mod.setSideBox (m : Mod) (n : Nat) (b : MailboxRegs) : Mod :=
  { m with sideBoxes := (n, b) :: m.sideBoxes.filter fun x => x.1 != n }

/-- A request of a Side controller (R20): no rule gives its codes, so the return code and the response are free (log 82). -/
def Mod.sideController (m : Mod) (n : Nat) (msg : Bytes) : Mod :=
  let b := m.sideBox n
  if !m.power.pwrGood then m
  else if b.busy || b.valid then (m.setSideBox n { b with overrun := true }).count .MAILBOX_OVERRUNS
  else
    let req := (msg ++ List.replicate 256 0#8).take 256
    let b : MailboxRegs := { b with latched := req, reqBuf := Memory.write [] 0 req }
    let m := m.wakeUnit ⟨10, if m.boot.activeB1 then 1 else 0⟩
    let (code, m) := m.freeNat
    let (k, m) := m.freeNat
    let (body, m) := m.freeBytes (k % 249)
    let rc := if m.boot.noFirmware then 0x21 else if 248 < b.length then 0x11 else code
    let rsp := if m.boot.noFirmware then b.rspBuf
      else [b.latched.getD 0 0#8, 0#8, b.latched.getD 2 0#8, b.latched.getD 3 0#8] ++ leBytes 4 body.length ++ body
    m.setSideBox n { b with returnCode := BitVec.ofNat 16 rc, ackSeq := b.latched.getD 0 0#8, valid := true, rspBuf := rsp }

def Mod.sideBoxWrite (m : Mod) (n off : Nat) (v : BitVec 32) : Mod :=
  let b := m.sideBox n
  if !m.power.pwrGood || off % 4 != 0 then m
  else if off = 0 then (if v.getLsbD 0 then m.sideController n (b.reqBuf.read 0 256) else m)
  else if off = 4 then m.setSideBox n { b with mask := v }
  else if off = 8 then (if v.getLsbD 0 then m.setSideBox n { b with valid := false } else m)
  else if off = 0xC then (if v.getLsbD 7 then m.setSideBox n { b with overrun := false } else m)
  else if 0x100 ≤ off ∧ off < 0x200 then m.setSideBox n { b with reqBuf := b.reqBuf.write (off - 0x100) (leBytes 4 v.toNat) }
  else m

/-! ### SMALL mailboxes (R387–R389) -/

def Mod.smallBox (m : Mod) (stake : Nat) : SmallMailbox := (m.small.find? fun b => b.stake == stake).getD { stake := stake }

def Mod.setSmallBox (m : Mod) (b : SmallMailbox) : Mod := { m with small := b :: m.small.filter fun x => x.stake != b.stake }

/-- PENDING. -/
def SmallMailbox.pending (b : SmallMailbox) : BitVec 32 := b.doorbell &&& ~~~b.mask

/-- The physical stakes of a job, in order. -/
def Mod.jobStakes (m : Mod) (j : Job) : List Nat :=
  sortBy (fun a b => a ≤ b) (j.plan.stakes.filterMap fun l => m.stakeMap.getD l none)

/-- The channel that Pholer gives a sender at a receiver of the same Side: its place among the other stakes that a job holds in
the Side (log 77). -/
def Mod.channelFor (m : Mod) (receiver sender : Nat) : Option Nat :=
  let both := m.jobs.filter fun j => (m.jobStakes j).contains receiver && (m.jobStakes j).contains sender
  match both with
  | [] => none
  | j :: _ =>
    let others := (m.jobStakes j).filter fun p => p / 64 == receiver / 64 && p != receiver
    match others.findIdx? fun p => p == sender with
    | some i => if i < 32 then some i else none
    | none => none

/-- A sender writes a channel. One that is not its own is dropped, counted and recorded; a full one is refused, and
the sequencer switches threads. -/
def Mod.smallSend (m : Mod) (receiver sender channel : Nat) (msg : Bytes) : Mod :=
  if receiver / 64 != sender / 64 || m.channelFor receiver sender != some channel then
    (m.count .MAILBOX_REJECTED).addOpen
      { time := 0, record := 0, cls := 0x41, outcome := 2, unit := ⟨1, sender⟩, logical := (m.logicalOf sender).getD 0xFF, sub := channel }
  else
    let b := m.smallBox receiver
    if b.doorbell.getLsbD channel then
      match m.logicalOf sender with
      | some l => m.parkThread l (Config.channelThread sender channel % 8) (.channel receiver channel)
      | none => m
    else
      let m := m.setSmallBox { b with
        doorbell := b.doorbell ||| BitVec.ofNat 32 (2 ^ channel)
        channels := (channel, (msg ++ List.replicate 64 0#8).take 64) :: b.channels.filter fun c => c.1 != channel
        empty_ := b.empty_.filter (· != channel) }
      if b.wakeEn.getLsbD channel then m.wakeUnit ⟨1, receiver⟩ else m

/-- The receiver clears a doorbell, which empties the channel and interrupts its sender. -/
def Mod.smallClear (m : Mod) (receiver channel : Nat) : Mod :=
  let b := m.smallBox receiver
  if !b.doorbell.getLsbD channel then m
  else
    (m.setSmallBox { b with
      doorbell := b.doorbell &&& ~~~(BitVec.ofNat 32 (2 ^ channel))
      channels := b.channels.filter fun c => c.1 != channel
      empty_ := channel :: b.empty_.filter (· != channel) }).wakeThreads fun ph => ph == ThreadPhase.channel receiver channel

def Mod.smallWrite (m : Mod) (stake off : Nat) (v : BitVec 32) : Mod :=
  let b := m.smallBox stake
  if off = 0 then ((List.range 32).filter fun c => v.getLsbD c).foldl (fun m c => m.smallClear stake c) m
  else if off = 4 then m.setSmallBox { b with mask := v }
  else if off = 0xC then m.setSmallBox { b with wakeEn := v }
  else m

/-- A write of a register that has no row of its own. -/
def Mod.registerWrite (m : Mod) (box : Mailbox) (off : Nat) (v : BitVec 32) : Mod :=
  match box with
  | .sideband => m.sideWrite off v
  | .side n => m.sideBoxWrite n off v
  | .small p => m.smallWrite p off v

/-! ### I3C (R481) -/

def Mod.setDynamic (m : Mod) (a : Option (BitVec 7)) : Mod := { m with i3c := { m.i3c with dynamic := a } }

def Mod.setdasa (m : Mod) (a : BitVec 7) : Mod := if m.power.standby && m.i3c.dynamic.isNone then m.setDynamic (some a) else m
def Mod.setnewda (m : Mod) (a : BitVec 7) : Mod := if m.power.standby && m.i3c.dynamic.isSome then m.setDynamic (some a) else m
def Mod.rstdaa (m : Mod) : Mod := if m.power.standby then m.setDynamic none else m

/-- Data that the target answers with. -/
def Mod.i3cAnswer (m : Mod) (b : Bytes) : Mod := if m.power.standby then m.emit (.i3cData b) else m

def Mod.i3cGetStatus (m : Mod) : Mod := { m with free := m.free + 1 }.i3cAnswer (Config.i3cStatus m.free)

/-- ENEC and DISEC: bit 0 of the event byte is ENINT. -/
def Mod.setIbi (m : Mod) (events : BitVec 8) (on : Bool) : Mod :=
  if m.power.standby && events.getLsbD 0 then { m with i3c := { m.i3c with ibi := on } } else m

/-! ### The test access port (R510) -/

/-- The states of the IEEE 1149.1 controller. -/
def TapState.next (s : TapState) (tms : Bool) : TapState :=
  match s, tms with
  | .reset, true => .reset
  | .reset, false => .idle
  | .idle, true => .selDr
  | .idle, false => .idle
  | .selDr, true => .selIr
  | .selDr, false => .capDr
  | .capDr, true => .exit1Dr
  | .capDr, false => .shiftDr
  | .shiftDr, true => .exit1Dr
  | .shiftDr, false => .shiftDr
  | .exit1Dr, true => .updDr
  | .exit1Dr, false => .pauseDr
  | .pauseDr, true => .exit2Dr
  | .pauseDr, false => .pauseDr
  | .exit2Dr, true => .updDr
  | .exit2Dr, false => .shiftDr
  | .updDr, true => .selDr
  | .updDr, false => .idle
  | .selIr, true => .reset
  | .selIr, false => .capIr
  | .capIr, true => .exit1Ir
  | .capIr, false => .shiftIr
  | .shiftIr, true => .exit1Ir
  | .shiftIr, false => .shiftIr
  | .exit1Ir, true => .updIr
  | .exit1Ir, false => .pauseIr
  | .pauseIr, true => .exit2Ir
  | .pauseIr, false => .pauseIr
  | .exit2Ir, true => .updIr
  | .exit2Ir, false => .shiftIr
  | .updIr, true => .selDr
  | .updIr, false => .idle

/-- IDCODE's value. -/
def idcode : BitVec 32 := 0x1E3A52F3#32

/-- The data register that an instruction selects, as captured; `free` picks the pins' levels. -/
def captureDr (ir : BitVec 8) (free : Nat) : List Bool :=
  if ir = 0x01#8 then (List.range 32).map idcode.getLsbD
  else if ir = 0x02#8 then (List.range Config.boundaryLength).map (Config.boundaryCell free)
  else [false]

/-- What the current state does at a TCK edge. -/
def Tap.act (t : Tap) (tdi : Bool) (free : Nat) : Tap :=
  match t.state with
  | .capDr => { t with dr := captureDr t.ir free }
  | .shiftDr => { t with dr := t.dr.drop 1 ++ [tdi], tdo := t.dr.headD false }
  | .capIr => { t with shiftIr := 0x01#8 }
  | .shiftIr => { t with shiftIr := t.shiftIr >>> 1 ||| (if tdi then 0x80#8 else 0#8), tdo := t.shiftIr.getLsbD 0 }
  | _ => t

/-- What entering a state does: Test-Logic-Reset selects IDCODE, and an instruction other than the three selects BYPASS. -/
def Tap.enter (t : Tap) (s : TapState) : Tap :=
  match s with
  | .reset => { t with state := s, ir := 0x01#8 }
  | .updIr => { t with state := s, ir := if t.shiftIr = 0x01#8 ∨ t.shiftIr = 0x02#8 then t.shiftIr else 0xFF#8 }
  | .updDr => { t with state := s, boundary := if t.ir = 0x02#8 then t.dr else t.boundary }
  | _ => { t with state := s }

/-- One TCK, or TRST_N low. -/
def Mod.tck (m : Mod) (tms tdi trstN : Bool) : Mod :=
  let t := m.tap
  if !trstN then { m with tap := t.enter .reset }
  else { m with free := m.free + 1, tap := (t.act tdi m.free).enter (t.state.next tms) }

def execGetStatus (s : State) : Host.Outcome State Fault Refusal := lift (fun m => m.serve 1 Mod.answerStatus) s
def execGetIdentity (s : State) : Host.Outcome State Fault Refusal := lift (fun m => m.serve 2 Mod.answerIdentity) s
def execAttestShort (s : State) : Host.Outcome State Fault Refusal := lift (fun m => m.serve 3 Mod.answerAttest) s
def execClaimWrite (s : State) : Host.Outcome State Fault Refusal := lift (fun m => m.serve 4 Mod.answerClaimWrite) s
def execClaimCommit (s : State) : Host.Outcome State Fault Refusal := lift (fun m => m.serve 5 Mod.answerClaimCommit) s
def execBootControl (s : State) : Host.Outcome State Fault Refusal := lift (fun m => m.serve 6 Mod.answerBootControl) s
def execLogTail (s : State) : Host.Outcome State Fault Refusal := lift (fun m => m.serve 7 Mod.answerLogTail) s

def execGetPower (s : State) : Host.Outcome State Fault Refusal :=
  lift (fun m => m.serve 0x100 fun m => m.ackSideband 0 (some m.powerBody)) s

def execSetPowerLimit (s : State) : Host.Outcome State Fault Refusal := lift (fun m => m.serve 0x101 Mod.answerSetLimit) s

def execGetThermal (s : State) : Host.Outcome State Fault Refusal :=
  lift (fun m => m.serve 0x102 fun m => m.ackSideband 0 (some m.thermalBody)) s

def execGetRails (s : State) : Host.Outcome State Fault Refusal := lift (fun m => m.serve 0x103 Mod.answerRails) s

def execSidebandRequest (s : State) : Host.Outcome State Fault Refusal := lift Mod.sideRequest s
def execSidebandCancel (s : State) : Host.Outcome State Fault Refusal := lift Mod.sideCancel s

def execAckValidClear (s : State) : Host.Outcome State Fault Refusal := lift (fun m => m.sideWrite 8 1#32) s

def execAlertCauseClear (bits : BitVec 32) (s : State) : Host.Outcome State Fault Refusal := lift (fun m => m.sideWrite 0x404 bits) s

def execAlertMaskWrite (value : BitVec 32) (s : State) : Host.Outcome State Fault Refusal := lift (fun m => m.sideWrite 0x408 value) s

def execRegisterWrite (box : Mailbox) (offset : Nat) (value : BitVec 32) (s : State) : Host.Outcome State Fault Refusal :=
  lift (fun m => m.registerWrite box offset value) s

def execSideMailboxRequest (side : Nat) (msg : Bytes) (s : State) : Host.Outcome State Fault Refusal :=
  lift (fun m => m.sideController side msg) s

def execSmallMailboxSend (receiver sender channel : Nat) (msg : Bytes) (s : State) : Host.Outcome State Fault Refusal :=
  lift (fun m => m.smallSend receiver sender channel msg) s

def execSmallDoorbellClear (receiver channel : Nat) (s : State) : Host.Outcome State Fault Refusal :=
  lift (fun m => m.smallClear receiver channel) s

def execSetdasa (addr : BitVec 7) (s : State) : Host.Outcome State Fault Refusal := lift (fun m => m.setdasa addr) s
def execSetnewda (addr : BitVec 7) (s : State) : Host.Outcome State Fault Refusal := lift (fun m => m.setnewda addr) s
def execRstdaa (s : State) : Host.Outcome State Fault Refusal := lift Mod.rstdaa s
def execEntdaa (addr : BitVec 7) (s : State) : Host.Outcome State Fault Refusal := lift (fun m => m.setdasa addr) s
def execGetbcr (s : State) : Host.Outcome State Fault Refusal := lift (fun m => m.i3cAnswer Config.i3cBcr) s
def execGetdcr (s : State) : Host.Outcome State Fault Refusal := lift (fun m => m.i3cAnswer Config.i3cDcr) s
def execGetstatus (s : State) : Host.Outcome State Fault Refusal := lift Mod.i3cGetStatus s
def execEnec (events : BitVec 8) (s : State) : Host.Outcome State Fault Refusal := lift (fun m => m.setIbi events true) s
def execDisec (events : BitVec 8) (s : State) : Host.Outcome State Fault Refusal := lift (fun m => m.setIbi events false) s

def execTapTck (tms tdi trstN : Bool) (s : State) : Host.Outcome State Fault Refusal := lift (fun m => m.tck tms tdi trstN) s

end Sys2Proof.Machine
end

