-- ==== Sys2Proof/Machine/Trace.lean ====
section
/-!
DEFINITION. Observation and tests: BIST_RUN (R508, R509), the trace (R512–R515), COUNTERS_READ (R545), LOG_READ and
CRASH_DUMP_READ (R473–R478, R544).
-/

namespace Sys2Proof.Machine

/-! ### BIST_RUN (R508, R509) -/

def bistFault (op : Op) (p : Packet) : Option Nat :=
  let u := p.u 0 2
  firstViol (fieldRule (if op == .bistStake then 223 < u else if op == .bistSide then 3 < u else u != 0) 0)

/-- The tests of a Side: every stake, the mesh and the Rim buffer, and the HBM4 controllers. -/
def sideTests (s : Nat) : List (UnitRef × Nat) :=
  (sideStakes s).flatMap (fun p => [(⟨1, p⟩, 1), (⟨1, p⟩, 2)]) ++ [(⟨3, s⟩, 1), (⟨3, s⟩, 2)] ++
    (List.range 3).map fun k => (⟨4, 3 * s + k⟩, 1)

/-- The tests of the module: its Sides, the memories of Tier A and Tier B, the Borders and the router halves (log 83). -/
def moduleTests : List (UnitRef × Nat) :=
  (List.range 4).flatMap sideTests ++ (List.range 12).map (fun k => (⟨4, k⟩, 2)) ++ (List.range 24).map (fun k => (⟨5, k⟩, 2)) ++
    (List.range 2).map (fun b => (⟨9, b⟩, 1)) ++ (List.range 2).map fun b => (⟨11, b⟩, 1)

/-- The units whose checkers the injection test exercises (log 83). -/
def checkerTests : List (UnitRef × Nat) :=
  let units (kind n : Nat) : List (UnitRef × Nat) := (List.range n).map fun i => (⟨kind, i⟩, 3)
  units 1 256 ++ units 3 4 ++ units 4 12 ++ units 5 24 ++ units 7 16 ++ units 9 2 ++ units 10 2 ++ units 11 2 ++ units 12 24

/-- What a failed test means for its unit: a stake leaves service, another unit enters Table 14.3. -/
def Mod.testFails (m : Mod) (u : UnitRef) : Mod :=
  let m := m.addOpen { time := 0, record := 0, cls := 0x30, outcome := 6, unit := u }
  if u.kind = 1 then m.takeOut u.num else m.checkerFails u

/-- Runs tests: each outcome is free. The entries, the failed units and the module. -/
def Mod.runTests (m : Mod) : List (UnitRef × Nat) → Bytes × List UnitRef × Mod
  | [] => ([], [], m)
  | (u, t) :: ts =>
    let pass := Config.bistPasses m.free
    let (e, m) := { m with free := m.free + 1 }.bistEntry u t pass
    let m := (m.count .SELF_TESTS).count .SELF_TEST_FAILS (if pass then 0 else 1)
    let (es, bad, m) := m.runTests ts
    (e ++ es, if pass then bad else u :: bad, m)

/-- Whether a region belongs to what BIST_RUN SIDE tests as memory. -/
def Region.inSide (r : Region) (side : Nat) : Bool :=
  match r with
  | .rim s => s == side
  | .stake l => l / 56 == side
  | _ => false

/-- Runs a command's tests: the memory tested holds +0, the reply has the entries that fit (R56), and a failure is recorded. -/
def Mod.finishTests (m : Mod) (id : CmdId) (ts : List (UnitRef × Nat)) (wipe : Region → Bool) : Mod :=
  let (es, bad, m) := m.runTests ts
  let m := m.fillWhere wipe
  let es := es.take (16 * 507)
  match bad.eraseDups with
  | [] => m.complete id .ok 0 es
  | us =>
    let rec_ := m.record
    let m := m.complete id .faultDetected rec_ es
    us.foldl Mod.testFails m

def Mod.startBist (m : Mod) (id : CmdId) (c : Cmd) : Mod :=
  let u := c.pkt.u 0 2
  let refuse (n : Nat) : Mod :=
    let (st, d) := refuseFit .jobSlot n
    m.complete id st d
  match c.op with
  | .bistStake =>
    let jobs : Nat := m.jobs.countP fun j => j.plan.stakes.contains u
    match m.rib? (ribOf u) with
    | none => refuse jobs
    | some r =>
      match m.stakeMap.getD u none, r.spare, r.moving with
      | some p, some s, none =>
        if m.outOfService.contains s then refuse jobs
        else if r.testing then m.setWork id.lane .ready
        else (m.setWork id.lane (.takeover p)).beginMove u s
      | _, _, some _ => m.setWork id.lane .ready
      | _, _, none => refuse jobs
  | .bistSide =>
    let n : Nat := m.jobs.countP fun j => j.plan.usesSide u
    if n = 0 then m.finishTests id (sideTests u) fun r => r.inSide u else refuse n
  | .bistModule =>
    if m.jobs.isEmpty then m.finishTests id moduleTests fun r => r.dram || r.sram else refuse m.jobs.length
  | _ => m.finishTests id checkerTests fun _ => false

/-! ### TRACE_CONFIG (R512, R515) -/

def traceFault (op : Op) (p : Packet) : Option Nat :=
  if op == .traceSet then
    firstViol (fieldRule (64 < p.u 0 1) 0 ++ fieldRule (1 < p.u 1 1) 1 ++ fieldRule (1 < p.u 2 1) 2 ++
      fieldRule (p.u 8 1 = 0 || 25 < p.u 8 1) 8)
  else none

/-- Bytes of a trace buffer. -/
def traceBytes (units : Nat) : Nat := 64 * 2 ^ 20 * units

/-- TRACE_CONFIG SET. -/
def Mod.startTraceSet (m : Mod) (id : CmdId) (c : Cmd) : Mod :=
  let p := c.pkt
  if m.trace.running then
    let (st, d) := refuseFit .jobState 0
    m.complete id st d
  else
    let areas := (List.range 4).map areaA
    let busy := { m with trace := {} }.busyExtents
    let len := traceBytes (p.u 0 1)
    let d : Demand := { sec := 0, areas := areas, len := len, part := .whole }
    match memoryCheck areas { busy := busy } (if len = 0 then [] else [d]) with
    | .error (_, short) =>
      let (st, d) := refuseFit .tierA short
      m.complete id st d
    | .ok s =>
      let dest : Endpoint :=
        { network := if p.u 2 1 = 0 then .a else .b, addr := BitVec.ofNat 128 (p.u 16 16), port := BitVec.ofNat 16 (p.u 10 2) }
      let t : Trace :=
        { sizeUnits := p.u 0 1, at_ := (s.got.head?.map (·.2)).getD 0, kinds := BitVec.ofNat 32 (p.u 4 4), stop := p.u 1 1 == 1
          dest := some dest, cap := p.u 8 1, sid := c.sid }
      { m with trace := t }.complete id .ok 0

/-- Sends a mark on every port that is UP or DEGRADED. -/
def Mod.sendMarks (m : Mod) (mark : Nat) : Mod :=
  ((List.range 16).filter fun p => (m.ports.getD p {}).up).foldl (fun m p =>
    (m.trace_ { time := 0, kind := 16, unit := ⟨7, p⟩, seq := mark, arg0 := p, arg1 := mark }).emit (.mark p mark)) m

def Mod.startTrace (m : Mod) (id : CmdId) (c : Cmd) : Mod :=
  match c.op with
  | .traceSet => m.startTraceSet id c
  | .traceStart => { m with trace := { m.trace with running := true } }.complete id .ok 0
  | .traceStop => { m with trace := { m.trace with running := false } }.complete id .ok 0
  | _ => (m.sendMarks (c.pkt.u 0 4)).complete id .ok 0

/-! ### The stream (R513, R514) -/

/-- A trace record as its 32 bytes. -/
def TraceRec.bytes (r : TraceRec) : Bytes :=
  leBytes 16 (r.time.toNat * 2 ^ 64 + r.kind % 256 * 2 ^ 56 + r.unit.kind % 256 * 2 ^ 48 + r.unit.num % 65536 * 2 ^ 32 +
    r.job % 4096 * 2 ^ 20 + r.inc % 256 * 2 ^ 12 + r.queue % 64 * 2 ^ 6) ++
  leBytes 16 (r.seq % 2 ^ 32 * 2 ^ 96 + r.arg0 % 2 ^ 32 * 2 ^ 64 + r.arg1 % 2 ^ 64)

/-- A datagram of the stream with the given records. -/
def Mod.traceDatagram (m : Mod) (key : Bytes) (rs : List TraceRec) : Bytes :=
  let t := m.trace
  let head := leBytes 2 0x5154 ++ leBytes 1 1 ++ leBytes 1 0 ++ leBytes 4 m.modAddr ++ leBytes 4 t.seq ++
    leBytes 8 (t.base + t.streamed) ++ leBytes 4 rs.length ++ leBytes 8 (m.counters.get .TRACE_LOST)
  let body := rs.flatMap TraceRec.bytes
  head ++ tag16 key (head ++ body) ++ body

/-- Up to 254 records that wait leave for the endpoint. -/
def Mod.streamTrace (m : Mod) (records : Nat) : Mod :=
  let t := m.trace
  let rs := (t.buffer.drop t.streamed).take (min 254 records)
  match t.dest, m.session? t.sid with
  | some e, some s =>
    if rs.isEmpty then m
    else
      let b := m.traceDatagram s.key rs
      { m with trace := { t with streamed := t.streamed + rs.length, seq := t.seq + 1 } }.emit (.trace e b)
  | _, _ => m

/-! ### COUNTERS_READ (R545) -/

/-- The counters of a job, in the order of the chapters. -/
def jobCountersA : List (String × Ctr) :=
  [("NONFINITE", .NONFINITE), ("UNDERFLOW", .UNDERFLOW), ("CORRECTED", .CORRECTED), ("SATURATED", .SATURATED),
   ("RIDDLE_PREDICTED", .RIDDLE_PREDICTED), ("RIDDLE_GUARD", .RIDDLE_GUARD), ("RIDDLE_AUDITED", .RIDDLE_AUDITED),
   ("RIDDLE_SKIPPED", .RIDDLE_SKIPPED), ("RIDDLE_MISSED", .RIDDLE_MISSED), ("RIDDLE_MENDED", .RIDDLE_MENDED),
   ("RIDDLE_DOWN_SKIPPED", .RIDDLE_DOWN_SKIPPED), ("NONTRANSPOSABLE_TILES", .NONTRANSPOSABLE_TILES),
   ("TRANSFER_ELEMENTS", .TRANSFER_ELEMENTS), ("PADDING_ELEMENTS", .PADDING_ELEMENTS), ("GATHER_COALESCED", .GATHER_COALESCED),
   ("OWN_CLIPPED", .OWN_CLIPPED), ("OVERLAP_REFUSED", .OVERLAP_REFUSED), ("SPLIT_ABORTED", .SPLIT_ABORTED),
   ("RESIDE_FETCHES", .RESIDE_FETCHES), ("RESIDE_LATE", .RESIDE_LATE), ("RESIDE_EVICTIONS", .RESIDE_EVICTIONS),
   ("RESIDE_BYTES", .RESIDE_BYTES), ("SCRUB_CORRECTED", .SCRUB_CORRECTED), ("ROWS_REMAPPED", .ROWS_REMAPPED)]

def jobCountersB : List (String × Ctr) :=
  [("EXCHANGE_STALE", .EXCHANGE_STALE), ("EXCHANGE_PULLS", .EXCHANGE_PULLS), ("EXCHANGE_HELD_PAIRS", .EXCHANGE_HELD_PAIRS),
   ("EXCHANGE_DROPPED_PAIRS", .EXCHANGE_DROPPED_PAIRS), ("WALE_CHUNKS_SENT", .WALE_CHUNKS_SENT),
   ("WALE_SUBSTITUTED", .WALE_SUBSTITUTED), ("WALE_LATE_CARRIED", .WALE_LATE_CARRIED), ("WALE_LATE_DROPPED", .WALE_LATE_DROPPED),
   ("WALE_STALE", .WALE_STALE), ("WALE_ESCALATIONS", .WALE_ESCALATIONS), ("WALE_UNDERFLOW", .WALE_UNDERFLOW),
   ("WALE_UNDELIVERED", .WALE_UNDELIVERED), ("SWEEP_PAGES", .SWEEP_PAGES), ("SWEEP_STAMP_SKIPS", .SWEEP_STAMP_SKIPS),
   ("SWEEP_ROLLED_FORWARD", .SWEEP_ROLLED_FORWARD), ("SWEEP_RECOMPUTED", .SWEEP_RECOMPUTED), ("SWEEPS_SKIPPED", .SWEEPS_SKIPPED),
   ("TIE_SATURATIONS", .TIE_SATURATIONS), ("TIE_SIGNALS_DISCARDED", .TIE_SIGNALS_DISCARDED), ("TIE_FAR_RETRIES", .TIE_FAR_RETRIES),
   ("TIE_FAR_LATE", .TIE_FAR_LATE), ("POOL_REF_SATURATED", .POOL_REF_SATURATED), ("POOL_BAD_RELEASE", .POOL_BAD_RELEASE)]

/-- The counters of the module. -/
def moduleCounters : List (String × Ctr) :=
  [("MAILBOX_REJECTED", .MAILBOX_REJECTED), ("MAILBOX_OVERRUNS", .MAILBOX_OVERRUNS), ("QUARANTINE_DROPS", .QUARANTINE_DROPS),
   ("UNREACHABLE", .UNREACHABLE), ("GATEWAY_FLUSHES", .GATEWAY_FLUSHES), ("GATEWAY_FETCHES", .GATEWAY_FETCHES),
   ("HANGS", .HANGS), ("REPLAYS", .REPLAYS), ("GUILTY_FOUND", .GUILTY_FOUND), ("ENGINE_RESETS", .ENGINE_RESETS),
   ("PARTITION_RESETS", .PARTITION_RESETS), ("MODULE_RESETS", .MODULE_RESETS), ("TAKEOVERS_MGMT", .TAKEOVERS_MGMT),
   ("SELF_TESTS", .SELF_TESTS), ("SELF_TEST_FAILS", .SELF_TEST_FAILS), ("SPARES_USED", .SPARES_USED), ("STAKES_OUT", .STAKES_OUT),
   ("LOG_LOST", .LOG_LOST), ("SESSIONS_OPENED", .SESSIONS_OPENED), ("HANDSHAKES_REFUSED", .HANDSHAKES_REFUSED),
   ("POLICY_INSTALLS", .POLICY_INSTALLS), ("POLICY_REFUSALS", .POLICY_REFUSALS), ("TRIAL_FALLBACKS", .TRIAL_FALLBACKS),
   ("QUARANTINES", .QUARANTINES), ("TRACE_RECORDS", .TRACE_RECORDS), ("TRACE_LOST", .TRACE_LOST)]

/-- The counters of a port, behind its status word. -/
def portCounters : List (String × Ctr) :=
  [("FEC_CORRECTED", .FEC_CORRECTED), ("FEC_UNCORRECTABLE", .FEC_UNCORRECTABLE), ("RETRIES", .RETRIES),
   ("LANE_SWAPS", .LANE_SWAPS), ("TRANSIT_WORDS", .TRANSIT_WORDS), ("INJECTED_WORDS", .INJECTED_WORDS)]

/-- The counters of an array, per job. -/
def arrayCounters : List (String × Ctr) :=
  [("FED_ROWS", .FED_ROWS), ("MASKED_ROWS", .MASKED_ROWS), ("DUMMY_ROWS", .DUMMY_ROWS), ("RAMPS", .RAMPS),
   ("LIMITER_CYCLES", .LIMITER_CYCLES), ("PASSES_DONE", .PASSES_DONE), ("PASSES_DISCARDED", .PASSES_DISCARDED),
   ("PREEMPTIONS", .PREEMPTIONS)]

def countersFault (op : Op) (p : Packet) : Option Nat :=
  let u := p.u 0 2
  firstViol (fieldRule (match op with
    | .countersPort => 15 < u
    | .countersArray => 223 < u
    | .countersRouterHalf => 1 < u
    | _ => u != 0) 0 ++ fieldRule (if op == .countersArray then 3 < p.u 2 1 else p.u 2 1 != 0) 2)

/-- An entry: the name in 24 bytes, then the value. -/
def counterEntry (name : String) (v : Nat) : Bytes :=
  (name.toList.map (fun c => BitVec.ofNat 8 c.toNat) ++ List.replicate 24 0#8).take 24 ++ leBytes 8 v

/-- A counter of an array, for one job. -/
def ArrayState.counter (s : ArrayState) (job : Nat) (k : Ctr) : Nat :=
  ((s.counters.find? fun x => x.1 == job && x.2.1 == k).map (·.2.2)).getD 0

/-- The entries of a scope. -/
def Mod.counterEntries (m : Mod) (op : Op) (c : Cmd) : List Bytes :=
  let u := c.pkt.u 0 2
  match op with
  | .countersJob =>
    let cs : Counters := ((m.job? c.job).map fun j => j.counters).getD []
    (jobCountersA ++ jobCountersB).map fun x => counterEntry x.1 (cs.get x.2)
  | .countersModule => moduleCounters.map fun x => counterEntry x.1 (m.counters.get x.2)
  | .countersPort =>
    let p := m.ports.getD u {}
    counterEntry "PORT_STATUS" p.word :: portCounters.map fun x => counterEntry x.1 (p.counters.get x.2)
  | .countersArray =>
    let s : ArrayState := match m.stakeMap.getD u none with
      | some p => m.array (4 * p + c.pkt.u 2 1)
      | none => { arr := 0 }
    arrayCounters.map fun x => counterEntry x.1 (s.counter c.job x.2)
  | _ => [counterEntry "ATOMICS_COMBINED" (((m.halfCounters.find? fun x => x.1 == u).map (·.2)).getD 0)]

/-- COUNTERS_READ. -/
def Mod.startCounters (m : Mod) (id : CmdId) (c : Cmd) : Mod :=
  let m := m.countInjected
  let es := m.counterEntries c.op c
  let first := c.pkt.u 4 2
  m.complete id .ok 0 (leBytes 2 es.length ++ leBytes 2 first ++ leBytes 4 0 ++ ((es.drop first).take 253).flatten)

/-! ### LOG_READ and CRASH_DUMP_READ (R473–R478, R544) -/

def logFault (p : Packet) : Option Nat := firstViol (fieldRule (p.u 4 2 = 0 || 126 < p.u 4 2) 4)

/-- The job that a log record's bytes name. -/
def recordJob (b : Bytes) : Nat := leNat ((b.drop 16).take 16) / 2 ^ 52 % 4096

/-- A record by its number: from keep RAM, else from the log area. -/
def Mod.logByNumber (m : Mod) (n : Nat) : Option Bytes :=
  match m.log.find? fun r => r.record == n with
  | some r => some r.bytes
  | none =>
    let b := m.readC 0xFF02 (64 * (n % logAreaRecords)) 64
    if leNat ((b.drop 4).take 4) = n ∧ b.getD 3 0#8 ≠ 0#8 then some b else none

/-- The records of the log area that LOG_READ by number reads (R233). -/
def Mod.checkLogArea (m : Mod) (id : CmdId) (c : Cmd) (ns : List Nat) (k : Mod → Mod) : Mod :=
  let far := ns.filter fun n => !(m.log.any fun r => r.record == n)
  let r := far.foldl (fun (a : Mod × Nat × Option Nat) n =>
    if a.2.2.isSome then a
    else
      let (m, fixed, bad) := a.1.checkC c 0xFF02 (64 * (n % logAreaRecords)) 64
      (m, a.2.1 + fixed, bad)) (m, 0, none)
  let m := r.1.updSum id.lane fun s => { s with corrected := s.corrected + r.2.1 }
  match r.2.2 with
  | some rec_ => m.complete id .faultDetected rec_
  | none => k m

/-- LOG_READ; with a job in the header only the records of that job (R511; log 84). The newest come oldest first. -/
def Mod.startLogRead (m : Mod) (id : CmdId) (c : Cmd) : Mod :=
  let n := c.pkt.u 4 2
  let mine (b : Bytes) : Bool := c.job == 0 || recordJob b == c.job
  match c.op with
  | .logByNumber =>
    let ns := (List.range n).map fun i => (c.pkt.u 0 4 + i) % 2 ^ 32
    m.checkLogArea id c ns fun m => m.complete id .ok 0 ((ns.filterMap m.logByNumber).filter mine).flatten
  | _ => m.complete id .ok 0 (lastN n ((m.log.map LogRec.bytes).filter mine)).flatten

def dumpFault (p : Packet) : Option Nat :=
  firstViol (fieldRule (14 < p.u 0 1 && p.u 0 1 != 0xFF) 0 ++ fieldRule (p.u 4 4 = 0 || 8112 < p.u 4 4) 4 ++
    fieldRule (dumpSlotBytes ≤ p.u 8 8) 8)

/-- CRASH_DUMP_READ. Bytes behind the slot's end, or no complete dump for 0xFF, are BOUNDS (log 85). -/
def Mod.startDumpRead (m : Mod) (id : CmdId) (c : Cmd) : Mod :=
  let n := c.pkt.u 4 4
  let off := c.pkt.u 8 8
  let slot := if c.pkt.u 0 1 = 0xFF then (((m.dumps.filter (·.complete)).getLast?).map (·.slot)) else some (c.pkt.u 0 1)
  let bounds : Mod :=
    let (d, m) := freeDetail m
    m.complete id .bounds d
  match slot with
  | none => bounds
  | some s =>
    if dumpSlotBytes < off + n then bounds
    else
      let at_ := dumpSlotBytes * (1 + s) + off
      m.afterC id c 0xFF02 at_ n fun m => m.complete id .ok 0 (m.readC 0xFF02 at_ n)

def execTraceStream (records : Nat) (s : State) : Host.Outcome State Fault Refusal := lift (fun m => m.streamTrace records) s

end Sys2Proof.Machine
end

