-- ==== Sys2Proof/Machine/Frontend.lean ====
section
/-!
DEFINITION. The checks of a received command packet (R8, R47, R48, R51, R54, R498, R518, R521, R527–R529).
-/

namespace Sys2Proof.Machine

/-- What refuses a packet: its status and DETAIL; no DETAIL stands for one that the manual leaves open. -/
abbrev Refused := Option (Status × Option Nat)

/-- BAD_PACKET with the offset of the field at fault. -/
def badAt (off : Nat) : Status × Option Nat := (.badPacket, some off)

/-! ### Check 5: reserved bits (R8, R518, R521, R524) -/

/-- Tie references of the header, with their packet offsets. -/
def headerTies (p : Packet) : List (Nat × Nat) :=
  [(0x18, p.wait0.toNat), (0x1C, p.wait1.toNat), (0x20, p.sig0.toNat), (0x24, p.sig1.toNat)]

/-- The first byte of the reserved bits [20:12] of a local tie reference that is not zero (R359). -/
def tieReserved (off ref : Nat) : Option Nat :=
  if ref = noTie then none
  else if ref / 2 ^ 12 % 16 ≠ 0 then some (off + 1)
  else if ref / 2 ^ 16 % 32 ≠ 0 then some (off + 2)
  else none

/-- The first header byte with a reserved bit set; `op` is none for an undefined opcode, for which Table 16.2
reserves FLAGS_OP bits 4–1 alone. -/
def headerReserved (op : Option Op) (p : Packet) : Option Nat :=
  let flags := (List.range 15).filter fun k => p.flag k && !((op.map fun o => o.flagOk k).getD (k < 1 || 4 < k))
  match flags with
  | k :: _ => some (if k ≤ 6 then 6 else 7)
  | [] => if p.resv ≠ 0 then some 0x0B else (headerTies p).findSome? fun t => tieReserved t.1 t.2

/-- Where a packet's inline descriptors start in the payload: those within the payload and behind the fixed part. -/
def inlineStarts (op : Op) (p : Packet) : List Nat :=
  ((op.entries p).filterMap fun e =>
    let at_ := 16 * p.u (e.1 + 4) 2
    if p.u e.1 1 = 2 ∧ op.fixedEnd p ≤ at_ ∧ at_ + 176 ≤ p.payload.length then some at_ else none).eraseDups

/-- The mask of the bits of byte `k` of a descriptor that its layout uses (Tables 7.1 and 7.2). -/
def descMask (ndim k : Nat) : Nat :=
  if k = 2 then 0xF8
  else if 0x1C ≤ k ∧ k < 0x20 then 0
  else if 0x20 ≤ k ∧ ndim ≤ (k - 0x20) / 24 then 0
  else 0xFF

/-- The mask of the bits of payload byte `o` that are not reserved. -/
def payloadMask (op : Op) (p : Packet) (starts : List Nat) (o : Nat) : Nat :=
  if o < op.fixedEnd p then op.byteMask p o
  else
    let within := starts.filter fun a => a ≤ o ∧ o < a + 176
    within.foldl (fun acc a => acc ||| descMask (p.u (a + 2) 1 / 32) (o - a)) 0

/-- Where a packet of an opcode must end (R518): the fixed part, or the last inline descriptor beyond it. -/
def payloadEnd (op : Op) (p : Packet) : Nat :=
  (inlineStarts op p).foldl (fun a s => Nat.max a (s + 176)) (op.fixedEnd p)

/-- The first payload byte with a reserved bit set, as a packet offset. -/
def payloadReserved (op : Op) (p : Packet) : Option Nat :=
  let starts := inlineStarts op p
  let n := Nat.min p.payload.length (payloadEnd op p)
  (((p.payload.take n).zipIdx).find? fun (b, o) =>
    b.toNat &&& (255 - payloadMask op p starts o) ≠ 0).map fun x => 0x40 + x.2

/-! ### Checks 6 to 9 -/

/-- The control-lane rule (R51). -/
def Mod.laneRule (m : Mod) (op : Op) (p : Packet) : Bool :=
  if op.control then p.flag 14 && p.queue == 0
  else !p.flag 14 && p.job != 0 &&
    ((m.job? p.job.toNat).map fun j => j.plan.queueIds.contains p.queue.toNat).getD true

/-- PLEN equals the datagram's length less 64 and suits the opcode. -/
def plenOk (op : Op) (p : Packet) : Bool :=
  p.plen.toNat == p.payload.length && p.payload.length ≤ 8128 &&
    (match op with
      | .echo => p.payload.length ≤ 8112 && (!p.flag 6 || 4 ≤ p.payload.length)
      | .jobNotice => p.payload.length ≤ 512 && p.payload.length == op.fixedEnd p
      | _ => p.payload.length == payloadEnd op p)

/-- The first header tie field at fault (R48, R360, R527). -/
def Mod.tieFault (m : Mod) (op : Op) (p : Packet) : Option Nat :=
  let bad (r : Nat) : Bool :=
    r != noTie && (op.control || match m.job? p.job.toNat with
      | some j => !m.tieOk j.plan r
      | none => !m.tieInRange r)
  ((headerTies p).find? fun t => bad t.2).map (·.1)

/-! ### Check 10: the policy (R498, R512, R517) -/

/-- A read of a session's own job needs no right. -/
def Mod.ownRead (m : Mod) (op : Op) (p : Packet) (sid : Nat) : Bool :=
  (op == .countersJob || op == .countersArray || op == .logByNumber || op == .logNewest) && p.job != 0 &&
    ((m.job? p.job.toNat).map fun j => j.loadSid == sid).getD false

/-- Whether a rights entry has the flags that a command asks for. -/
def Mod.flagsOk (m : Mod) (op : Op) (p : Packet) (sid : Nat) (r : Right) : Bool :=
  (if op == .traceSet || op == .traceStart || op == .traceStop || op == .traceMark then r.trace else true) &&
  (if op == .countersJob || op == .countersModule || op == .countersPort || op == .countersArray ||
      op == .countersRouterHalf || op == .logByNumber || op == .logNewest || op == .crashDumpRead then r.countersAll
    else true) &&
  (if op == .fwActivateLock then r.fwLock else true) &&
  (if op == .resetEngine || op == .resetPartition || op == .resetModule || op == .resetPowerCycle then
    r.resetAny || !m.foreignWork op p sid else true)

/-- Whether a rights entry grants a command: its group, its job, its flags. -/
def Mod.grants (m : Mod) (op : Op) (p : Packet) (sid : Nat) (r : Right) : Bool :=
  r.groups / 2 ^ op.group % 2 == 1 && r.jobLo ≤ p.job.toNat && p.job.toNat ≤ r.jobHi && m.flagsOk op p sid r

/-- Check 10. ATTEST needs no right. DETAIL is the index of the session's first entry; a session without one has no
entry that refused. -/
def Mod.authCheck (m : Mod) (op : Op) (p : Packet) (ss : Session) : Refused :=
  if op == .attestReport || op == .attestChain || m.ownRead op p ss.sid then none
  else
    let rights := ((m.policy.map (·.rights)).getD []).zipIdx.filter fun r => r.1.digest == ss.digest
    if rights.any fun r => m.grants op p ss.sid r.1 then none
    else some (.refusedAuth, (rights.head?.map (·.2)))

/-! ### Checks 11 and 12 (R62, R63, R67) -/

def Mod.jobCheck (m : Mod) (op : Op) (p : Packet) : Refused :=
  if op == .planLoad || p.job == 0 then none
  else match m.job? p.job.toNat with
    | none => some (.staleIncarnation, some 0xFFFF)
    | some j => if j.plan.inc = p.inc.toNat then none else some (.staleIncarnation, some j.plan.inc)

/-- Operations that the job's state gates: those of its queues, the Jobs group, POOL_CONFIG. -/
def Op.ofJob (op : Sys2Proof.Op) : Bool := !op.control || op.group == 1 || op == .poolConfig

def Mod.stateCheck (m : Mod) (op : Op) (p : Packet) : Refused :=
  let refused : Refused := some (.refusedFit, some (fitDetail .jobState none 0))
  if !Op.ofJob op then none
  else if p.job == 0 then refused
  else if op == .planLoad then none
  else match m.job? p.job.toNat with
    | some j => if j.phase.accepts op then none else refused
    | none => none

/-! ### Check 13 -/

/-- The first bad field of the payload. -/
def Mod.payloadFault (m : Mod) (op : Op) (p : Packet) : Option Nat :=
  let job := m.job? p.job.toNat
  let with_ (f : Job → Option Nat) : Option Nat := job.bind f
  match op with
  | .tieSignalAdd | .tieSignalReset => with_ fun j => if m.payloadTieOk j.plan (p.u 0 8) then none else some 0x40
  | .tieWait => with_ fun j => if !m.payloadTieOk j.plan (p.u 0 8) then some 0x40 else if p.u 8 4 = 0 then some 0x48 else none
  | .tieDump => if 1 ≤ p.u 4 2 ∧ p.u 4 2 ≤ 507 then none else some 0x44
  | .planLoad => planLoadFault p
  | .jobNotice => noticeFault p
  | .optimSweep => with_ fun j => sweepFault j p
  | .stepCommit | .stepRollback => with_ fun j => stepFault j p
  | .reside | .evict => with_ fun j => residencyFault j p
  | .checkpoint => with_ fun j => checkpointFault j p
  | .restore => with_ fun j => restoreFault j p
  | .ownTake | .ownGive => with_ fun j => ownFault op j p
  | .poolConfig =>
    with_ fun j =>
      match m.poolStates.find? fun (s : PoolState) => s.job == p.job.toNat && s.pool == p.u 0 1 with
      | none => some 0x40
      | some s =>
        if p.u 1 1 = 0 then some 0x41
        else poolConfigFault s (((j.plan.pools.find? fun d => d.id == s.pool).map (·.counts)).getD []) p
  | .poolStatRecords | .poolStatRequesters =>
    if p.u 0 1 = 0 ∨ (m.poolStates.any fun (s : PoolState) => s.job == p.job.toNat && s.pool == p.u 0 1) then none else some 0x40
  | .bistStake | .bistSide | .bistModule | .bistCheckers => bistFault op p
  | .crashDumpRead => dumpFault p
  | .logByNumber | .logNewest => Sys2Proof.Machine.logFault p
  | .countersJob | .countersModule | .countersPort | .countersArray | .countersRouterHalf => countersFault op p
  | .traceSet | .traceStart | .traceStop | .traceMark => traceFault op p
  | .hbmReadCheck | .hbmPattern => hbmFault p
  | .spareStake | .spareWeaveLane | .spareHbmLane | .spareDramRow | .spareSramRow | .spareMgmt => spareFault p
  | .resetEngine | .resetPartition | .resetModule | .resetPowerCycle => m.resetFault op p
  | .fwStageBegin | .fwStageWrite => fwStageFault op p
  | .policyPropose | .policyCountersign => policyFault op p
  | _ =>
    if op.isData then with_ fun j => dataFault op j p
    else if op.group = 4 then with_ fun j => expertFault op j p
    else if op.group = 5 then with_ fun j => collectFault op j p
    else none

/-- Checks 5 to 13 of R54, in their order. -/
def Mod.checkPacket (m : Mod) (op : Op) (p : Packet) (ss : Session) : Refused :=
  match headerReserved (some op) p with
  | some o => some (badAt o)
  | none =>
  match payloadReserved op p with
  | some o => some (badAt o)
  | none =>
  if !m.laneRule op p then some (badAt 0x04)
  else if !plenOk op p then some (badAt 0x14)
  else if 60000000 < p.timeout.toNat then some (badAt 0x10)
  else
  match m.tieFault op p with
  | some o => some (badAt o)
  | none =>
  match m.authCheck op p ss with
  | some r => some r
  | none =>
  match m.jobCheck op p with
  | some r => some r
  | none =>
  match m.stateCheck op p with
  | some r => some r
  | none => (m.payloadFault op p).map fun d => (.badDescriptor, some d)

end Sys2Proof.Machine
end

