-- ==== Sys2Proof/Machine/Queues.lean ====
section
/-!
DEFINITION. Packets and queues: a received packet (R43, R46, R53, R54), commands at the head of their queue (R49, R52,
R55), timeouts (R55), FENCE and ECHO (R371, R516), RDMA (R44), and the tie rows (R364–R374).
-/

namespace Sys2Proof.Machine

/-! ### A command starts (R49, R52) -/

/-- FENCE: tray operations and gateway blocks that it waits for (R371, R433, R434). -/
def Mod.startFence (m : Mod) (id : CmdId) (c : Cmd) (whole : Bool) : Mod :=
  let covers (b : GatewayBlock) : Bool := whole || b.lanes.contains id.lane
  let tags := (m.trayOps.filter fun t => t.op != .load && t.job == c.job &&
    (if whole then (m.cmd? t.id).isNone else t.id.lane == id.lane)).map (·.tag)
  let blocks := (((m.job? c.job).map (·.stageBlocks)).getD []).filter covers |>.map fun b => (b.window, b.block)
  let m := (m.flushBlocks c.job covers).updJob c.job fun j => { j with readBlocks := [] }
  if tags.isEmpty ∧ blocks.isEmpty then m.complete id .ok 0 else m.setWork id.lane (.fence tags blocks)

/-- ECHO: the payload comes back; HOST_MARK writes a trace record with its first word (R515, R530). -/
def Mod.startEcho (m : Mod) (id : CmdId) (c : Cmd) : Mod :=
  let p := c.pkt
  let m := if p.flag 6 then
      m.trace_ { time := 0, kind := 19, job := c.job, inc := p.inc.toNat, queue := p.queue.toNat
                 seq := p.seq.toNat, arg0 := p.u 0 4 }
    else m
  m.complete id .ok 0 p.payload

/-- The commands of the queues, with their job. -/
def Mod.startQueued (m : Mod) (id : CmdId) (c : Cmd) (j : Job) : Mod :=
  match c.op with
  | .nop => m.complete id .ok 0
  | .fenceQueue => m.startFence id c false
  | .fenceJob => m.startFence id c true
  | .tieSignalAdd => m.startTieSignal id c j false
  | .tieSignalReset => m.startTieSignal id c j true
  | .tieWait => m.startTieWait id c j
  | .tieDump => m.startTieDump id c
  | .echo => m.startEcho id c
  | .route => m.startRoute id c j
  | .dispatch | .combine | .dispatchGrad | .combineGrad => m.startTokens id c j
  | .expertCounts => m.startCounts id c j
  | .reduceScatter | .allGather | .allReduce => m.startCollective id c j
  | .norm => m.startNorm id c
  | .broadcast | .send | .recv => m.startStream id c j
  | .optimSweep | .lossRead | .lossLoad | .stepCommit | .stepRollback => m.startTraining id c j
  | .reside => m.startReside id c j
  | .evict => m.startEvict id c
  | .checkpoint => m.startCheckpoint id c j
  | .restore => m.startRestore id c j
  | .ownTake | .ownGive => m.startOwn id c j
  | .poolStatRecords => m.startPoolStat id c false
  | .poolStatRequesters => m.startPoolStat id c true
  | _ => m.startData id c j

/-- The commands of the control lanes. -/
def Mod.startControl (m : Mod) (id : CmdId) (c : Cmd) : Mod :=
  match c.op with
  | .poolConfig => m.startPoolConfig id c
  | .bistStake | .bistSide | .bistModule | .bistCheckers => m.startBist id c
  | .crashDumpRead => m.startDumpRead id c
  | .logByNumber | .logNewest => m.startLogRead id c
  | .countersJob | .countersModule | .countersPort | .countersArray | .countersRouterHalf => m.startCounters id c
  | .traceSet | .traceStart | .traceStop | .traceMark => m.startTrace id c
  | .hbmReadCheck => m.startReadCheck id c
  | .hbmPattern => m.startPattern id c
  | .spareStake | .spareWeaveLane | .spareHbmLane | .spareDramRow | .spareSramRow | .spareMgmt => m.startSpare id c
  | .resetEngine | .resetPartition | .resetModule | .resetPowerCycle => m.startReset id c
  | .attestReport | .attestChain => m.startAttest id c
  | .fwStageBegin | .fwStageWrite => m.startFwStage id c
  | .fwActivateTrial | .fwActivateReset | .fwActivateLock => m.startFwActivate id c
  | .policyPropose => m.startPropose id c
  | .policyCountersign => m.startCountersign id c
  | _ => m.startJobs id c

/-- A command of the control lane starts. An earlier command of the lane may have changed its job: the checks 11 and 12
are made again (log 88). -/
def Mod.startOnControl (m : Mod) (id : CmdId) (c : Cmd) : Mod :=
  if c.op == .planLoad || !Op.ofJob c.op then m.startControl id c
  else match m.job? c.job with
    | none => m.complete id .staleIncarnation 0xFFFF
    | some j =>
      if j.plan.inc ≠ c.pkt.inc.toNat then m.complete id .staleIncarnation j.plan.inc
      else if !j.phase.accepts c.op then m.complete id .refusedFit (fitDetail .jobState none 0)
      else m.startControl id c

/-- Whether the stakes of a command's queue are under a reset or on their way to a spare. -/
def Mod.stakesBusy (m : Mod) (j : Job) (q : Nat) : Bool :=
  (m.physOf j q).any m.stakeDown || (((j.plan.groupOf q).map (·.stakes)).getD []).any m.movingStake

/-- Marks a command as started, with its trace record (R513). -/
def Mod.markStarted (m : Mod) (l : Lane) (r : Running) : Mod :=
  if r.started then m
  else
    let p := r.cmd.pkt
    (m.updRunning l fun r => { r with started := true }).trace_
      { time := 0, kind := 1, job := r.cmd.job, inc := p.inc.toNat, queue := p.queue.toNat, seq := p.seq.toNat
        arg0 := r.cmd.op.major + r.cmd.op.variant * 256, arg1 := p.wait0.toNat + p.wait1.toNat * 2 ^ 32 }

/-- Starts the command at a lane's head that its ties have released, unless its stakes make it wait. -/
def Mod.begin (m : Mod) (l : Lane) : Mod :=
  match m.running? l with
  | none => m
  | some r =>
    let c := r.cmd
    let id := c.id l
    let free := match r.work with
      | .ready => true
      | .placement _ => true
      | _ => false
    if !free || m.resetting.isSome then m
    else match l with
      | .control _ => (m.markStarted l r).startOnControl id c
      | .queue q =>
        match m.job? c.job with
        | none => m.complete id .staleIncarnation 0xFFFF
        | some j => if m.stakesBusy j q then m else (m.markStarted l r).startQueued id c j

/-- The header ties that a command waits on, with their slots (R49); no other barrier stands between the stages (R41). -/
def Cmd.waits (c : Cmd) : List (Nat × Nat) :=
  [(c.pkt.wait0.toNat, 0), (c.pkt.wait1.toNat, 1)].filter fun w => w.1 != noTie

/-- The next accepted command of an idle lane comes to its head: its timeout begins, it waits on its header ties, or starts
(R49, R52, R55, R375). -/
def Mod.reach (m : Mod) (l : Lane) : Mod :=
  match m.lane? l with
  | none => m
  | some s =>
    match s.current, s.accepted with
    | none, c :: rest =>
      let id := c.id l
      let run : Running := { cmd := c, headAt := m.now, work := if c.waits.isEmpty then .ready else .ties c.waits }
      let m := m.updLane l fun s => { s with accepted := rest, current := some run }
      match c.waits.find? fun w => ((m.tie? w.1).map (·.abandoned)).getD false with
      | some w => m.complete id .abandoned w.1
      | none => (c.waits.foldl (fun m w => m.addWaiter w.1 ⟨.cmd id w.2, 1⟩) m).begin l
    | _, _ => m

/-- The head of a lane is looked at: an idle lane takes its next command, and a command that waits for something other than
an answer goes on when it can. -/
def Mod.queueHead (m : Mod) (l : Lane) : Mod :=
  match m.running? l with
  | none => m.reach l
  | some r =>
    let c := r.cmd
    let id := c.id l
    match r.work, m.job? c.job with
    | .ready, _ | .placement _, _ => m.begin l
    | .residency _, some _ => m.pokeResidency c.job
    | .commitWait, some j => m.goCommit id c j
    | .rollbackWait, some j => m.goRollback id c j
    | .exchange .., _ => m.moveEx id
    | .fence [] [], _ => m.complete id .ok 0
    | .steward 3, _ => m.retryOwn id 3
    | _, _ => m

/-! ### A packet arrives (R43, R46, R53, R54) -/

/-- What stands in a reorder window: a command, or the refusal of an undefined opcode. -/
inductive Arrived where
  | cmd (c : Cmd)
  | bad (sid : Nat) (r : Reply)
  deriving DecidableEq, Repr

/-- Refuses a command with a stored reply. -/
def Mod.refuseCmd (m : Mod) (l : Lane) (sid : Nat) (quiet : Bool) (r : Reply) : Mod :=
  let r := { r with doneTime := m.timer }
  (m.storeReply l r).sendReply sid quiet r

/-- Counts a command that a stale incarnation turns away (R62). -/
def Mod.countStale (m : Mod) (st : Status) : Mod := if st = .staleIncarnation then m.count .staleTraffic else m

/-- A packet in sequence: checks 5 to 13, then acceptance. -/
def Mod.takeUp (m : Mod) (l : Lane) (a : Arrived) : Mod :=
  match a with
  | .bad sid r => m.refuseCmd l sid false r
  | .cmd c =>
    match m.session? c.sid with
    | none => m
    | some ss =>
      match m.checkPacket c.op c.pkt ss with
      | some (st, some d) => (m.countStale st).refuseCmd l c.sid c.pkt.quiet (c.reply m.timer st d {} [])
      | some (st, none) =>
        let (d, m) := m.freeNat
        m.refuseCmd l c.sid c.pkt.quiet (c.reply m.timer st (d % 2 ^ 64) {} [])
      | none => (m.updLane l fun s => { s with accepted := s.accepted ++ [c] }).reach l

/-- Takes what now follows in order out of the reorder window. -/
def Mod.catchUp : Nat → Mod → Lane → Mod
  | 0, m, _ => m
  | n + 1, m, l =>
    match m.lane? l with
    | none => m
    | some s =>
      let e := s.expected.toNat
      match s.held.find? fun h => h.2.pkt.seq.toNat == e, s.badHeld.find? fun h => h.2.2.seq == e with
      | some h, _ =>
        let m := m.updLane l fun s => { s with expected := s.expected + 1, held := s.held.filter fun x => x != h }
        (m.takeUp l (.cmd h.2)).catchUp n l
      | none, some h =>
        let m := m.updLane l fun s => { s with expected := s.expected + 1, badHeld := s.badHeld.filter fun x => x != h }
        (m.takeUp l (.bad h.2.1 h.2.2)).catchUp n l
      | none, none => m

/-- Holds what arrived ahead of its turn, once for each number. -/
def LaneState.hold (s : LaneState) (now seq : Nat) (a : Arrived) : LaneState :=
  if (s.held.any fun h => h.2.pkt.seq.toNat == seq) || (s.badHeld.any fun h => h.2.2.seq == seq) then s
  else match a with
    | .cmd c => { s with held := s.held ++ [(now, c)] }
    | .bad sid r => { s with badHeld := s.badHeld ++ [(now, sid, r)] }

/-- Check 4: the sequence number (R53). A queue that no loaded plan owns keeps no numbers: its command goes on to the
checks behind, which refuse it (log 86). `bad` is the reply for a number ahead of the window. -/
def Mod.sequence (m : Mod) (l : Lane) (p : Packet) (ss : Session) (a : Arrived) (bad : Nat → Reply) : Mod :=
  match m.lane? l with
  | none => m.takeUp l a
  | some s =>
    let d := (p.seq - s.expected).toNat
    let seq := p.seq.toNat
    if d = 0 then
      let m := m.updLane l fun s => { s with expected := s.expected + 1 }
      (m.takeUp l a).catchUp 65 l
    else if d ≤ 64 then m.updLane l fun s => s.hold m.now seq a
    else if d < 2 ^ 31 then m.sendReply ss.sid false (bad s.expected.toNat)
    else
      match s.replies.find? fun r => r.1 == seq with
      | some r => m.sendReply ss.sid p.quiet { r.2 with dup := true, dst := p.src }
      | none =>
        if (s.accepted.any fun c => c.pkt.seq.toNat == seq) ||
          (s.current.map fun r => r.cmd.pkt.seq.toNat == seq).getD false then m
        else m.count .discardedSeq

/-- The lane of a packet (R51): CTRL tells the session's control lane. -/
def laneOf (p : Packet) (sid : Nat) : Lane := if p.flag 14 then .control sid else .queue p.queue.toNat

/-- Checks 1 to 3 of R54 on a datagram of an opcode, and what comes behind them. A module that resets discards and counts
every packet (R462); so does one that is not READY. A refused command changes nothing but its lane's sequence state (R59, R547). -/
def Mod.receiveAs (m : Mod) (op : Option Op) (major variant : Nat) (p : Packet) : Mod :=
  if m.resetting.isSome ∨ m.boot.stage ≠ .ready then m.count .discardedReset
  else if 8192 < 64 + p.payload.length then m.count .discardedLong
  else
    match (m.sessionOf p.src).filter fun ss => !m.closing.contains ss.sid with
    | none => m.count .discardedNoSession
    | some ss =>
      let m := m.updSession ss.sid fun s => { s with inPkts := s.inPkts + 1 }
      if tag16 ss.key (p.header major variant ++ p.payload) ≠ p.tag then
        m.updSession ss.sid fun s => { s with integrityFails := s.integrityFails + 1 }
      else
        let refusal (d : Nat) : Reply :=
          { dst := p.src, dup := false, major := major, variant := variant, job := p.job.toNat, inc := p.inc.toNat
            queue := p.queue.toNat, seq := p.seq.toNat, status := .badPacket, detail := d, handle := p.handle.toNat
            doneTime := m.timer, counters := {}, payload := [] }
        if p.magic ≠ 0x5153 ∨ p.version ≠ 1 ∨ p.hlen ≠ 4 then m.sendReply ss.sid false (refusal 0)
        else
          let a : Arrived := match op with
            | some op => .cmd { op := op.actual p, pkt := p, sid := ss.sid, arrived := m.now }
            | none => .bad ss.sid (refusal ((headerReserved none p).getD 0x04))
          m.sequence (laneOf p ss.sid) p ss a refusal

/-- A command packet of a defined opcode arrives. -/
def Mod.receive (m : Mod) (op : Op) (p : Packet) : Mod := (m.receiveAs (some op) op.major op.variant p).closeSessions

/-- A datagram at the command port: one too short for a header fails its integrity check; any other is read as a packet
(R47) and goes through the checks, as one of a command row does (log 89). -/
def Mod.receiveDatagram (m : Mod) (src : Endpoint) (b : Bytes) : Mod :=
  if b.length < 64 then
    if m.resetting.isSome ∨ m.boot.stage ≠ .ready then m.count .discardedReset
    else match (m.sessionOf src).filter fun ss => !m.closing.contains ss.sid with
      | none => m.count .discardedNoSession
      | some ss => m.updSession ss.sid fun s => { s with inPkts := s.inPkts + 1, integrityFails := s.integrityFails + 1 }
  else
    let w := word32 b 4
    let major := w % 256
    let variant := w / 256 % 256
    (m.receiveAs (Op.ofCode major variant) major variant (Packet.ofBytes src b)).closeSessions

/-! ### Timeouts (R55, R53) -/

/-- Ends a command that holds an engine: its timeout is a hang, whose record DETAIL names (R55, R445, R446). -/
def Mod.hangWith (m : Mod) (id : CmdId) (e : Engine) : Mod :=
  let n := m.record
  (m.hang e (some id)).endWith id .timeout n

/-- The engine that a command holds. -/
def Mod.engineOf (m : Mod) (r : Running) : Engine :=
  let p := ((m.job? r.cmd.job).map fun j => (m.physOf j r.cmd.pkt.queue.toNat).headD 0).getD 0
  match r.work with
  | .sweep left _ => .sweep ((left.head?.map (·.2.1)).getD 0)
  | _ => if r.cmd.op.group == 2 then .transfer p else .sequencer p

/-- A command's timeout has expired. While replay isolation holds its engine's work, the timeout waits for the verdict
(R457, log 90). -/
def Mod.timeoutAt (m : Mod) (l : Lane) : Mod :=
  match m.running? l with
  | none => m
  | some r =>
    if !m.expired r || m.resetting.isSome || (m.isolations.any fun i => m.worksOn i.engine r) then m
    else
      let id := r.cmd.id l
      let tie := (m.job? r.cmd.job).map fun j => j.plan.tieRef (r.cmd.pkt.u 0 8)
      let far := (tie.map fun t => tieTimeoutDetail true t.rank t.ref).getD 0
      match r.work with
      | .ties left => m.complete id .timeout (tieTimeoutDetail false 0 ((left.head?.map (·.1)).getD 0))
      | .tieWait false => m.complete id .timeout ((tie.map fun t => tieTimeoutDetail false 0 t.ref).getD 0)
      | .farSignal => m.complete id .timeout far
      | .tieWait true => (m.withdrawFar id).setWork l (.farDecision (m.now + 100000))
      | .farDecision _ => m
      | .farRetry => m.complete id .timeout 0
      | .exchange .. => m.exTimeout id
      | .split .. => m.splitTimeout id
      | .passes .. | .segments .. | .remote _ false | .sweep .. => m.hangWith id (m.engineOf r)
      | _ => m.endWith id .timeout 0

/-- A held command whose gap was not filled for 100 ms is discarded and counted (R53). -/
def Mod.reorderTimeout (m : Mod) (l : Lane) (seq : Nat) : Mod :=
  match m.lane? l with
  | none => m
  | some s =>
    let now := m.now
    let late (t n : Nat) : Bool := n == seq && t + 10000000 ≤ now
    let n : Nat := s.held.countP (fun h => late h.1 h.2.pkt.seq.toNat) + s.badHeld.countP fun h => late h.1 h.2.2.seq
    (m.updLane l fun s =>
      { s with held := s.held.filter (fun h => !late h.1 h.2.pkt.seq.toNat)
               badHeld := s.badHeld.filter fun h => !late h.1 h.2.2.seq }).count .discardedReorder n

/-! ### RDMA (R44, R161, R328, R462) -/

/-- The declared region of a key. -/
def Mod.rdmaRegion? (m : Mod) (key : Nat) : Option (Job × TensorPlace) :=
  m.jobs.findSome? fun j =>
    (j.places.find? fun t => t.decl.host && (Config.rdmaKey j.plan.job t.decl.id).toNat == key).map fun t => (j, t)

/-- Whether an RDMA WRITE may change a part of a tensor: not a MASK region, and not the state of a sweep range, while the job
runs. -/
def Job.rdmaMayWrite (j : Job) (t : TensorPlace) (off len : Nat) : Bool :=
  if j.phase == .running || j.phase == .quiescing then
    !(t.decl.mask.any fun x => off < x.1 + x.2 && x.1 < off + len) &&
      !(j.plan.ranges.any fun r => r.weightLo == t.decl.id || r.m == t.decl.id || (r.v != 0 && r.v == t.decl.id))
  else true

/-- The local addresses of a part of a tensor. -/
def TensorPlace.span (t : TensorPlace) (off len : Nat) : List Nat := (List.range len).map fun i => t.place.addr (off + i)

/-- Whether RDMA is discarded: the module resets or is not READY. -/
def Mod.rdmaClosed (m : Mod) : Bool := m.resetting.isSome || m.boot.stage != .ready

/-- RDMA READ. A request on a queue pair that no job or session holds has no answer in the manual: it is served by its key
(DESIGN CHOICE, log 101). What answers a read of an uncorrectable word is free: a NAK or nothing (log 91). -/
def Mod.rdmaRead (m : Mod) (src : Endpoint) (target : RdmaTarget) (off len : Nat) : Mod :=
  if m.rdmaClosed then m.count .discardedReset
  else match target with
    | .staging sid =>
      match m.session? sid with
      | some ss => if off + len ≤ 64 * 2 ^ 20 then m.emit (.rdmaData src (ss.staging.read off len)) else m.emit (.rdmaAccessNak src)
      | none => m.emit (.rdmaAccessNak src)
    | .region key =>
      match m.rdmaRegion? key with
      | none => m.emit (.rdmaAccessNak src)
      | some (_, t) =>
        if t.decl.bytes < off + len then m.emit (.rdmaAccessNak src)
        else
          let locs := t.span off len
          match m.checkLocal none locs with
          | (m, _, none) => m.emit (.rdmaData src (locs.map m.byte))
          | (m, _, some _) =>
            let (nak, m) := m.freeBool
            if nak then m.emit (.rdmaAccessNak src) else m

/-- RDMA WRITE, on any queue pair (log 101). -/
def Mod.rdmaWrite (m : Mod) (src : Endpoint) (target : RdmaTarget) (off : Nat) (data : Bytes) : Mod :=
  if m.rdmaClosed then m.count .discardedReset
  else match target with
    | .staging sid =>
      if (m.session? sid).isSome ∧ off + data.length ≤ 64 * 2 ^ 20 then
        (m.updSession sid fun s => { s with staging := s.staging.write off data }).emit (.rdmaAck src)
      else m.emit (.rdmaAccessNak src)
    | .region key =>
      match m.rdmaRegion? key with
      | none => m.emit (.rdmaAccessNak src)
      | some (j, t) =>
        if t.decl.bytes < off + data.length || !j.rdmaMayWrite t off data.length then m.emit (.rdmaAccessNak src)
        else
          let copy := match j.copyOf t.decl.id with
            | some b => data.zipIdx.map fun (x, i) => (b + off + i, x)
            | none => []
          let ws := (t.span off data.length).zip data ++ copy
          match m.checkWrite none (ws.map (·.1)) with
          | (m, none) => (m.store ws).emit (.rdmaAck src)
          | (m, some _) =>
            let (nak, m) := m.freeBool
            if nak then m.emit (.rdmaAccessNak src) else m

/-- RDMA atomics, SENDs and datagrams (R44). -/
def Mod.rdmaOther (m : Mod) (src : Endpoint) : Mod :=
  if m.rdmaClosed then m.count .discardedReset else m.emit (.rdmaInvalidNak src)

/-! ### Tie rows -/

/-- Whether a command waits on a tie in a slot. -/
def Running.waitsOn (r : Running) (ref slot : Nat) : Bool :=
  match r.work with
  | .ties left => left.contains (ref, slot)
  | .tieWait false => slot == 2
  | _ => false

/-- A waiter registers at a tie's home: a sequencer thread, a command that waits on the tie and is not registered yet, or a
far waiter while the table has an entry (R364, R367, R374). -/
def Mod.waiterArrives (m : Mod) (ref : Nat) (who : WaiterId) (threshold : Nat) : Mod :=
  match m.tie? ref with
  | none => m
  | some t =>
    if t.abandoned || (t.waiters.any fun w => w.who == who) then m
    else match who with
      | .thread l t =>
        if 8 ≤ t || !m.present l then m else (m.parkThread l t (.tie ref)).addWaiter ref ⟨who, threshold⟩
      | .cmd id slot =>
        if ((m.cmd? id).map fun r => r.waitsOn ref slot).getD false then m.addWaiter ref ⟨who, threshold⟩ else m
      | .far _ _ =>
        if 2048 ≤ m.farWaiters then m else { m with farWaiters := m.farWaiters + 1 }.addWaiter ref ⟨who, threshold⟩

/-- A waiter whose timeout has expired asks the home to remove it: if it still waits it is removed and its command ends with
TIMEOUT; if it was released before, it runs (R369). -/
def Mod.waiterLeaves (m : Mod) (ref : Nat) (who : WaiterId) : Mod :=
  match m.tie? ref with
  | none => m
  | some t =>
    if !(t.waiters.any fun w => w.who == who) then m
    else match who with
      | .thread l t => (m.removeWaiter ref who).wakeThread l t
      | .cmd id _ =>
        if ((m.cmd? id).map m.expired).getD false then m.complete id .timeout (tieTimeoutDetail false 0 ref) else m
      | .far rank id =>
        ({ m with farWaiters := m.farWaiters - 1 }.removeWaiter ref who).emit (.farAnswer rank id .ack)

/-! ### The commands of the block -/

def execQueueHead (lane : Lane) (s : State) : Host.Outcome State Fault Refusal :=
  lift (fun m => (m.queueHead lane).closeSessions) s

def execCommandTimeout (lane : Lane) (s : State) : Host.Outcome State Fault Refusal :=
  lift (fun m => (m.timeoutAt lane).closeSessions) s

def execReorderTimeout (lane : Lane) (seq : Nat) (s : State) : Host.Outcome State Fault Refusal :=
  lift (fun m => m.reorderTimeout lane seq) s

def execCommandPacketRefused (src : Endpoint) (datagram : Bytes) (s : State) : Host.Outcome State Fault Refusal :=
  lift (fun m => m.receiveDatagram src datagram) s

def execRdmaRead (src : Endpoint) (_qp : Nat) (target : RdmaTarget) (offset length : Nat) (s : State) :
    Host.Outcome State Fault Refusal :=
  lift (fun m => m.rdmaRead src target offset length) s

def execRdmaWrite (src : Endpoint) (_qp : Nat) (target : RdmaTarget) (offset : Nat) (data : Bytes) (s : State) :
    Host.Outcome State Fault Refusal :=
  lift (fun m => m.rdmaWrite src target offset data) s

def execRdmaUnsupported (src : Endpoint) (_qp : Nat) (s : State) : Host.Outcome State Fault Refusal :=
  lift (fun m => m.rdmaOther src) s

def execTieWaiterArrival (ref : Nat) (who : WaiterId) (threshold : Nat) (s : State) : Host.Outcome State Fault Refusal :=
  lift (fun m => m.waiterArrives ref who threshold) s

def execTieWaiterRemoval (ref : Nat) (who : WaiterId) (s : State) : Host.Outcome State Fault Refusal :=
  lift (fun m => m.waiterLeaves ref who) s

def execFarTieSignal (f : FarMsg) (s : State) : Host.Outcome State Fault Refusal := lift (fun m => m.farSignal f) s
def execFarTieWait (f : FarMsg) (s : State) : Host.Outcome State Fault Refusal := lift (fun m => m.farWait f) s

def execFarTieRelease (id : CmdId) (value : Nat) (s : State) : Host.Outcome State Fault Refusal :=
  lift (fun m => m.farReleased id value) s

def execFarTieWithdraw (f : FarMsg) (s : State) : Host.Outcome State Fault Refusal := lift (fun m => m.farWithdraw f) s
def execFarWaitRetry (id : CmdId) (s : State) : Host.Outcome State Fault Refusal := lift (fun m => m.farRetried id) s

def execFarWaitDecisionTimeout (id : CmdId) (s : State) : Host.Outcome State Fault Refusal :=
  lift (fun m => m.farUndecided id) s

def execFarTieAnswer (id : CmdId) (a : FarAnswer) (s : State) : Host.Outcome State Fault Refusal :=
  lift (fun m => m.farAnswered id a) s

end Sys2Proof.Machine
end

