-- ==== Sys2Proof/Machine/Shorvo.lean ====
section
/-!
DEFINITION. The meanings of the Shorvo commands: a packet of the opcode arrives (R54), and starts at once when the head of its
lane is free (R49, R52).
-/

namespace Sys2Proof.Machine

def execNop (p : Packet) (s : State) : Host.Outcome State Fault Refusal := lift (fun m => m.receive .nop p) s
def execFenceQueue (p : Packet) (s : State) : Host.Outcome State Fault Refusal := lift (fun m => m.receive .fenceQueue p) s
def execFenceJob (p : Packet) (s : State) : Host.Outcome State Fault Refusal := lift (fun m => m.receive .fenceJob p) s
def execTieSignalAdd (p : Packet) (s : State) : Host.Outcome State Fault Refusal := lift (fun m => m.receive .tieSignalAdd p) s
def execTieSignalReset (p : Packet) (s : State) : Host.Outcome State Fault Refusal := lift (fun m => m.receive .tieSignalReset p) s
def execTieWait (p : Packet) (s : State) : Host.Outcome State Fault Refusal := lift (fun m => m.receive .tieWait p) s
def execTieDump (p : Packet) (s : State) : Host.Outcome State Fault Refusal := lift (fun m => m.receive .tieDump p) s
def execEcho (p : Packet) (s : State) : Host.Outcome State Fault Refusal := lift (fun m => m.receive .echo p) s
def execPlanLoad (p : Packet) (s : State) : Host.Outcome State Fault Refusal := lift (fun m => m.receive .planLoad p) s
def execPlanStart (p : Packet) (s : State) : Host.Outcome State Fault Refusal := lift (fun m => m.receive .planStart p) s
def execQuiesce (p : Packet) (s : State) : Host.Outcome State Fault Refusal := lift (fun m => m.receive .quiesce p) s
def execPlanUnload (p : Packet) (s : State) : Host.Outcome State Fault Refusal := lift (fun m => m.receive .planUnload p) s
def execJobAbort (p : Packet) (s : State) : Host.Outcome State Fault Refusal := lift (fun m => m.receive .jobAbort p) s
def execJobNotice (p : Packet) (s : State) : Host.Outcome State Fault Refusal := lift (fun m => m.receive .jobNotice p) s
def execCopy (p : Packet) (s : State) : Host.Outcome State Fault Refusal := lift (fun m => m.receive .copy p) s
def execGather (p : Packet) (s : State) : Host.Outcome State Fault Refusal := lift (fun m => m.receive .gather p) s
def execScatter (p : Packet) (s : State) : Host.Outcome State Fault Refusal := lift (fun m => m.receive .scatter p) s
def execScatterAdd (p : Packet) (s : State) : Host.Outcome State Fault Refusal := lift (fun m => m.receive .scatterAdd p) s
def execFill (p : Packet) (s : State) : Host.Outcome State Fault Refusal := lift (fun m => m.receive .fill p) s
def execRngFill (p : Packet) (s : State) : Host.Outcome State Fault Refusal := lift (fun m => m.receive .rngFill p) s
def execConvert (p : Packet) (s : State) : Host.Outcome State Fault Refusal := lift (fun m => m.receive .convert p) s
def execMatmul (p : Packet) (s : State) : Host.Outcome State Fault Refusal := lift (fun m => m.receive .matmul p) s
def execHadamard (p : Packet) (s : State) : Host.Outcome State Fault Refusal := lift (fun m => m.receive .hadamard p) s
def execSparseForward (p : Packet) (s : State) : Host.Outcome State Fault Refusal := lift (fun m => m.receive .sparseForward p) s
def execSparseDataGrad (p : Packet) (s : State) : Host.Outcome State Fault Refusal := lift (fun m => m.receive .sparseDataGrad p) s
def execSparseWeightGrad (p : Packet) (s : State) : Host.Outcome State Fault Refusal := lift (fun m => m.receive .sparseWeightGrad p) s
def execSpmm (p : Packet) (s : State) : Host.Outcome State Fault Refusal := lift (fun m => m.receive .spmm p) s
def execRiddleExact (p : Packet) (s : State) : Host.Outcome State Fault Refusal := lift (fun m => m.receive .riddleExact p) s
def execRiddleGuarded (p : Packet) (s : State) : Host.Outcome State Fault Refusal := lift (fun m => m.receive .riddleGuarded p) s
def execRiddleFree (p : Packet) (s : State) : Host.Outcome State Fault Refusal := lift (fun m => m.receive .riddleFree p) s
def execMend (p : Packet) (s : State) : Host.Outcome State Fault Refusal := lift (fun m => m.receive .mend p) s
def execVexpr (p : Packet) (s : State) : Host.Outcome State Fault Refusal := lift (fun m => m.receive .vexpr p) s
def execReduceSum (p : Packet) (s : State) : Host.Outcome State Fault Refusal := lift (fun m => m.receive .reduceSum p) s
def execReduceSumsq (p : Packet) (s : State) : Host.Outcome State Fault Refusal := lift (fun m => m.receive .reduceSumsq p) s
def execReduceMax (p : Packet) (s : State) : Host.Outcome State Fault Refusal := lift (fun m => m.receive .reduceMax p) s
def execReduceMin (p : Packet) (s : State) : Host.Outcome State Fault Refusal := lift (fun m => m.receive .reduceMin p) s
def execDistMinPlus (p : Packet) (s : State) : Host.Outcome State Fault Refusal := lift (fun m => m.receive .distMinPlus p) s
def execDistMaxPlus (p : Packet) (s : State) : Host.Outcome State Fault Refusal := lift (fun m => m.receive .distMaxPlus p) s
def execDistL2 (p : Packet) (s : State) : Host.Outcome State Fault Refusal := lift (fun m => m.receive .distL2 p) s
def execDistL1 (p : Packet) (s : State) : Host.Outcome State Fault Refusal := lift (fun m => m.receive .distL1 p) s
def execRoute (p : Packet) (s : State) : Host.Outcome State Fault Refusal := lift (fun m => m.receive .route p) s
def execDispatch (p : Packet) (s : State) : Host.Outcome State Fault Refusal := lift (fun m => m.receive .dispatch p) s
def execCombine (p : Packet) (s : State) : Host.Outcome State Fault Refusal := lift (fun m => m.receive .combine p) s
def execDispatchGrad (p : Packet) (s : State) : Host.Outcome State Fault Refusal := lift (fun m => m.receive .dispatchGrad p) s
def execCombineGrad (p : Packet) (s : State) : Host.Outcome State Fault Refusal := lift (fun m => m.receive .combineGrad p) s
def execExpertCounts (p : Packet) (s : State) : Host.Outcome State Fault Refusal := lift (fun m => m.receive .expertCounts p) s
def execReduceScatter (p : Packet) (s : State) : Host.Outcome State Fault Refusal := lift (fun m => m.receive .reduceScatter p) s
def execAllGather (p : Packet) (s : State) : Host.Outcome State Fault Refusal := lift (fun m => m.receive .allGather p) s
def execAllReduce (p : Packet) (s : State) : Host.Outcome State Fault Refusal := lift (fun m => m.receive .allReduce p) s
def execNorm (p : Packet) (s : State) : Host.Outcome State Fault Refusal := lift (fun m => m.receive .norm p) s
def execBroadcast (p : Packet) (s : State) : Host.Outcome State Fault Refusal := lift (fun m => m.receive .broadcast p) s
def execSend (p : Packet) (s : State) : Host.Outcome State Fault Refusal := lift (fun m => m.receive .send p) s
def execRecv (p : Packet) (s : State) : Host.Outcome State Fault Refusal := lift (fun m => m.receive .recv p) s
def execOptimSweep (p : Packet) (s : State) : Host.Outcome State Fault Refusal := lift (fun m => m.receive .optimSweep p) s
def execLossRead (p : Packet) (s : State) : Host.Outcome State Fault Refusal := lift (fun m => m.receive .lossRead p) s
def execLossLoad (p : Packet) (s : State) : Host.Outcome State Fault Refusal := lift (fun m => m.receive .lossLoad p) s
def execStepCommit (p : Packet) (s : State) : Host.Outcome State Fault Refusal := lift (fun m => m.receive .stepCommit p) s
def execStepRollback (p : Packet) (s : State) : Host.Outcome State Fault Refusal := lift (fun m => m.receive .stepRollback p) s
def execReside (p : Packet) (s : State) : Host.Outcome State Fault Refusal := lift (fun m => m.receive .reside p) s
def execEvict (p : Packet) (s : State) : Host.Outcome State Fault Refusal := lift (fun m => m.receive .evict p) s
def execCheckpoint (p : Packet) (s : State) : Host.Outcome State Fault Refusal := lift (fun m => m.receive .checkpoint p) s
def execRestore (p : Packet) (s : State) : Host.Outcome State Fault Refusal := lift (fun m => m.receive .restore p) s
def execOwnTake (p : Packet) (s : State) : Host.Outcome State Fault Refusal := lift (fun m => m.receive .ownTake p) s
def execOwnGive (p : Packet) (s : State) : Host.Outcome State Fault Refusal := lift (fun m => m.receive .ownGive p) s
def execPoolConfig (p : Packet) (s : State) : Host.Outcome State Fault Refusal := lift (fun m => m.receive .poolConfig p) s
def execPoolStatRecords (p : Packet) (s : State) : Host.Outcome State Fault Refusal := lift (fun m => m.receive .poolStatRecords p) s
def execPoolStatRequesters (p : Packet) (s : State) : Host.Outcome State Fault Refusal := lift (fun m => m.receive .poolStatRequesters p) s
def execBistStake (p : Packet) (s : State) : Host.Outcome State Fault Refusal := lift (fun m => m.receive .bistStake p) s
def execBistSide (p : Packet) (s : State) : Host.Outcome State Fault Refusal := lift (fun m => m.receive .bistSide p) s
def execBistModule (p : Packet) (s : State) : Host.Outcome State Fault Refusal := lift (fun m => m.receive .bistModule p) s
def execBistCheckers (p : Packet) (s : State) : Host.Outcome State Fault Refusal := lift (fun m => m.receive .bistCheckers p) s
def execCrashDumpRead (p : Packet) (s : State) : Host.Outcome State Fault Refusal := lift (fun m => m.receive .crashDumpRead p) s
def execLogByNumber (p : Packet) (s : State) : Host.Outcome State Fault Refusal := lift (fun m => m.receive .logByNumber p) s
def execLogNewest (p : Packet) (s : State) : Host.Outcome State Fault Refusal := lift (fun m => m.receive .logNewest p) s
def execCountersJob (p : Packet) (s : State) : Host.Outcome State Fault Refusal := lift (fun m => m.receive .countersJob p) s
def execCountersModule (p : Packet) (s : State) : Host.Outcome State Fault Refusal := lift (fun m => m.receive .countersModule p) s
def execCountersPort (p : Packet) (s : State) : Host.Outcome State Fault Refusal := lift (fun m => m.receive .countersPort p) s
def execCountersArray (p : Packet) (s : State) : Host.Outcome State Fault Refusal := lift (fun m => m.receive .countersArray p) s
def execCountersRouterHalf (p : Packet) (s : State) : Host.Outcome State Fault Refusal := lift (fun m => m.receive .countersRouterHalf p) s
def execTraceSet (p : Packet) (s : State) : Host.Outcome State Fault Refusal := lift (fun m => m.receive .traceSet p) s
def execTraceStart (p : Packet) (s : State) : Host.Outcome State Fault Refusal := lift (fun m => m.receive .traceStart p) s
def execTraceStop (p : Packet) (s : State) : Host.Outcome State Fault Refusal := lift (fun m => m.receive .traceStop p) s
def execTraceMark (p : Packet) (s : State) : Host.Outcome State Fault Refusal := lift (fun m => m.receive .traceMark p) s
def execHbmReadCheck (p : Packet) (s : State) : Host.Outcome State Fault Refusal := lift (fun m => m.receive .hbmReadCheck p) s
def execHbmPattern (p : Packet) (s : State) : Host.Outcome State Fault Refusal := lift (fun m => m.receive .hbmPattern p) s
def execSpareStake (p : Packet) (s : State) : Host.Outcome State Fault Refusal := lift (fun m => m.receive .spareStake p) s
def execSpareWeaveLane (p : Packet) (s : State) : Host.Outcome State Fault Refusal := lift (fun m => m.receive .spareWeaveLane p) s
def execSpareHbmLane (p : Packet) (s : State) : Host.Outcome State Fault Refusal := lift (fun m => m.receive .spareHbmLane p) s
def execSpareDramRow (p : Packet) (s : State) : Host.Outcome State Fault Refusal := lift (fun m => m.receive .spareDramRow p) s
def execSpareSramRow (p : Packet) (s : State) : Host.Outcome State Fault Refusal := lift (fun m => m.receive .spareSramRow p) s
def execSpareMgmt (p : Packet) (s : State) : Host.Outcome State Fault Refusal := lift (fun m => m.receive .spareMgmt p) s
def execResetEngine (p : Packet) (s : State) : Host.Outcome State Fault Refusal := lift (fun m => m.receive .resetEngine p) s
def execResetPartition (p : Packet) (s : State) : Host.Outcome State Fault Refusal := lift (fun m => m.receive .resetPartition p) s
def execResetModule (p : Packet) (s : State) : Host.Outcome State Fault Refusal := lift (fun m => m.receive .resetModule p) s
def execResetPowerCycle (p : Packet) (s : State) : Host.Outcome State Fault Refusal := lift (fun m => m.receive .resetPowerCycle p) s
def execAttestReport (p : Packet) (s : State) : Host.Outcome State Fault Refusal := lift (fun m => m.receive .attestReport p) s
def execAttestChain (p : Packet) (s : State) : Host.Outcome State Fault Refusal := lift (fun m => m.receive .attestChain p) s
def execFwStageBegin (p : Packet) (s : State) : Host.Outcome State Fault Refusal := lift (fun m => m.receive .fwStageBegin p) s
def execFwStageWrite (p : Packet) (s : State) : Host.Outcome State Fault Refusal := lift (fun m => m.receive .fwStageWrite p) s
def execFwActivateTrial (p : Packet) (s : State) : Host.Outcome State Fault Refusal := lift (fun m => m.receive .fwActivateTrial p) s
def execFwActivateReset (p : Packet) (s : State) : Host.Outcome State Fault Refusal := lift (fun m => m.receive .fwActivateReset p) s
def execFwActivateLock (p : Packet) (s : State) : Host.Outcome State Fault Refusal := lift (fun m => m.receive .fwActivateLock p) s
def execPolicyPropose (p : Packet) (s : State) : Host.Outcome State Fault Refusal := lift (fun m => m.receive .policyPropose p) s
def execPolicyCountersign (p : Packet) (s : State) : Host.Outcome State Fault Refusal := lift (fun m => m.receive .policyCountersign p) s

end Sys2Proof.Machine
end

