-- ==== Sys2Proof/Machine/Dispatch.lean ====
section
/-! DEFINITION. The dispatch: one arm per command of `Instr`. -/

namespace Sys2Proof.Machine

def exec (i : Instr) (s : State) : Host.Outcome State Fault Refusal :=
  match i with
  | .nop p => Sys2Proof.Machine.execNop p s
  | .fenceQueue p => Sys2Proof.Machine.execFenceQueue p s
  | .fenceJob p => Sys2Proof.Machine.execFenceJob p s
  | .tieSignalAdd p => Sys2Proof.Machine.execTieSignalAdd p s
  | .tieSignalReset p => Sys2Proof.Machine.execTieSignalReset p s
  | .tieWait p => Sys2Proof.Machine.execTieWait p s
  | .tieDump p => Sys2Proof.Machine.execTieDump p s
  | .echo p => Sys2Proof.Machine.execEcho p s
  | .planLoad p => Sys2Proof.Machine.execPlanLoad p s
  | .planStart p => Sys2Proof.Machine.execPlanStart p s
  | .quiesce p => Sys2Proof.Machine.execQuiesce p s
  | .planUnload p => Sys2Proof.Machine.execPlanUnload p s
  | .jobAbort p => Sys2Proof.Machine.execJobAbort p s
  | .jobNotice p => Sys2Proof.Machine.execJobNotice p s
  | .copy p => Sys2Proof.Machine.execCopy p s
  | .gather p => Sys2Proof.Machine.execGather p s
  | .scatter p => Sys2Proof.Machine.execScatter p s
  | .scatterAdd p => Sys2Proof.Machine.execScatterAdd p s
  | .fill p => Sys2Proof.Machine.execFill p s
  | .rngFill p => Sys2Proof.Machine.execRngFill p s
  | .convert p => Sys2Proof.Machine.execConvert p s
  | .matmul p => Sys2Proof.Machine.execMatmul p s
  | .hadamard p => Sys2Proof.Machine.execHadamard p s
  | .sparseForward p => Sys2Proof.Machine.execSparseForward p s
  | .sparseDataGrad p => Sys2Proof.Machine.execSparseDataGrad p s
  | .sparseWeightGrad p => Sys2Proof.Machine.execSparseWeightGrad p s
  | .spmm p => Sys2Proof.Machine.execSpmm p s
  | .riddleExact p => Sys2Proof.Machine.execRiddleExact p s
  | .riddleGuarded p => Sys2Proof.Machine.execRiddleGuarded p s
  | .riddleFree p => Sys2Proof.Machine.execRiddleFree p s
  | .mend p => Sys2Proof.Machine.execMend p s
  | .vexpr p => Sys2Proof.Machine.execVexpr p s
  | .reduceSum p => Sys2Proof.Machine.execReduceSum p s
  | .reduceSumsq p => Sys2Proof.Machine.execReduceSumsq p s
  | .reduceMax p => Sys2Proof.Machine.execReduceMax p s
  | .reduceMin p => Sys2Proof.Machine.execReduceMin p s
  | .distMinPlus p => Sys2Proof.Machine.execDistMinPlus p s
  | .distMaxPlus p => Sys2Proof.Machine.execDistMaxPlus p s
  | .distL2 p => Sys2Proof.Machine.execDistL2 p s
  | .distL1 p => Sys2Proof.Machine.execDistL1 p s
  | .route p => Sys2Proof.Machine.execRoute p s
  | .dispatch p => Sys2Proof.Machine.execDispatch p s
  | .combine p => Sys2Proof.Machine.execCombine p s
  | .dispatchGrad p => Sys2Proof.Machine.execDispatchGrad p s
  | .combineGrad p => Sys2Proof.Machine.execCombineGrad p s
  | .expertCounts p => Sys2Proof.Machine.execExpertCounts p s
  | .reduceScatter p => Sys2Proof.Machine.execReduceScatter p s
  | .allGather p => Sys2Proof.Machine.execAllGather p s
  | .allReduce p => Sys2Proof.Machine.execAllReduce p s
  | .norm p => Sys2Proof.Machine.execNorm p s
  | .broadcast p => Sys2Proof.Machine.execBroadcast p s
  | .send p => Sys2Proof.Machine.execSend p s
  | .recv p => Sys2Proof.Machine.execRecv p s
  | .optimSweep p => Sys2Proof.Machine.execOptimSweep p s
  | .lossRead p => Sys2Proof.Machine.execLossRead p s
  | .lossLoad p => Sys2Proof.Machine.execLossLoad p s
  | .stepCommit p => Sys2Proof.Machine.execStepCommit p s
  | .stepRollback p => Sys2Proof.Machine.execStepRollback p s
  | .reside p => Sys2Proof.Machine.execReside p s
  | .evict p => Sys2Proof.Machine.execEvict p s
  | .checkpoint p => Sys2Proof.Machine.execCheckpoint p s
  | .restore p => Sys2Proof.Machine.execRestore p s
  | .ownTake p => Sys2Proof.Machine.execOwnTake p s
  | .ownGive p => Sys2Proof.Machine.execOwnGive p s
  | .poolConfig p => Sys2Proof.Machine.execPoolConfig p s
  | .poolStatRecords p => Sys2Proof.Machine.execPoolStatRecords p s
  | .poolStatRequesters p => Sys2Proof.Machine.execPoolStatRequesters p s
  | .bistStake p => Sys2Proof.Machine.execBistStake p s
  | .bistSide p => Sys2Proof.Machine.execBistSide p s
  | .bistModule p => Sys2Proof.Machine.execBistModule p s
  | .bistCheckers p => Sys2Proof.Machine.execBistCheckers p s
  | .crashDumpRead p => Sys2Proof.Machine.execCrashDumpRead p s
  | .logByNumber p => Sys2Proof.Machine.execLogByNumber p s
  | .logNewest p => Sys2Proof.Machine.execLogNewest p s
  | .countersJob p => Sys2Proof.Machine.execCountersJob p s
  | .countersModule p => Sys2Proof.Machine.execCountersModule p s
  | .countersPort p => Sys2Proof.Machine.execCountersPort p s
  | .countersArray p => Sys2Proof.Machine.execCountersArray p s
  | .countersRouterHalf p => Sys2Proof.Machine.execCountersRouterHalf p s
  | .traceSet p => Sys2Proof.Machine.execTraceSet p s
  | .traceStart p => Sys2Proof.Machine.execTraceStart p s
  | .traceStop p => Sys2Proof.Machine.execTraceStop p s
  | .traceMark p => Sys2Proof.Machine.execTraceMark p s
  | .hbmReadCheck p => Sys2Proof.Machine.execHbmReadCheck p s
  | .hbmPattern p => Sys2Proof.Machine.execHbmPattern p s
  | .spareStake p => Sys2Proof.Machine.execSpareStake p s
  | .spareWeaveLane p => Sys2Proof.Machine.execSpareWeaveLane p s
  | .spareHbmLane p => Sys2Proof.Machine.execSpareHbmLane p s
  | .spareDramRow p => Sys2Proof.Machine.execSpareDramRow p s
  | .spareSramRow p => Sys2Proof.Machine.execSpareSramRow p s
  | .spareMgmt p => Sys2Proof.Machine.execSpareMgmt p s
  | .resetEngine p => Sys2Proof.Machine.execResetEngine p s
  | .resetPartition p => Sys2Proof.Machine.execResetPartition p s
  | .resetModule p => Sys2Proof.Machine.execResetModule p s
  | .resetPowerCycle p => Sys2Proof.Machine.execResetPowerCycle p s
  | .attestReport p => Sys2Proof.Machine.execAttestReport p s
  | .attestChain p => Sys2Proof.Machine.execAttestChain p s
  | .fwStageBegin p => Sys2Proof.Machine.execFwStageBegin p s
  | .fwStageWrite p => Sys2Proof.Machine.execFwStageWrite p s
  | .fwActivateTrial p => Sys2Proof.Machine.execFwActivateTrial p s
  | .fwActivateReset p => Sys2Proof.Machine.execFwActivateReset p s
  | .fwActivateLock p => Sys2Proof.Machine.execFwActivateLock p s
  | .policyPropose p => Sys2Proof.Machine.execPolicyPropose p s
  | .policyCountersign p => Sys2Proof.Machine.execPolicyCountersign p s
  | .getStatus => Sys2Proof.Machine.execGetStatus s
  | .getIdentity => Sys2Proof.Machine.execGetIdentity s
  | .attestShort => Sys2Proof.Machine.execAttestShort s
  | .claimWrite => Sys2Proof.Machine.execClaimWrite s
  | .claimCommit => Sys2Proof.Machine.execClaimCommit s
  | .bootControl => Sys2Proof.Machine.execBootControl s
  | .logTail => Sys2Proof.Machine.execLogTail s
  | .getPower => Sys2Proof.Machine.execGetPower s
  | .setPowerLimit => Sys2Proof.Machine.execSetPowerLimit s
  | .getThermal => Sys2Proof.Machine.execGetThermal s
  | .getRails => Sys2Proof.Machine.execGetRails s
  | .sidebandRequest => Sys2Proof.Machine.execSidebandRequest s
  | .sidebandCancel => Sys2Proof.Machine.execSidebandCancel s
  | .ackValidClear => Sys2Proof.Machine.execAckValidClear s
  | .alertCauseClear bits => Sys2Proof.Machine.execAlertCauseClear bits s
  | .alertMaskWrite value => Sys2Proof.Machine.execAlertMaskWrite value s
  | .registerWrite box offset value => Sys2Proof.Machine.execRegisterWrite box offset value s
  | .sideMailboxRequest side msg => Sys2Proof.Machine.execSideMailboxRequest side msg s
  | .smallMailboxSend receiver sender channel msg => Sys2Proof.Machine.execSmallMailboxSend receiver sender channel msg s
  | .smallDoorbellClear receiver channel => Sys2Proof.Machine.execSmallDoorbellClear receiver channel s
  | .setdasa addr => Sys2Proof.Machine.execSetdasa addr s
  | .setnewda addr => Sys2Proof.Machine.execSetnewda addr s
  | .rstdaa => Sys2Proof.Machine.execRstdaa s
  | .entdaa addr => Sys2Proof.Machine.execEntdaa addr s
  | .getbcr => Sys2Proof.Machine.execGetbcr s
  | .getdcr => Sys2Proof.Machine.execGetdcr s
  | .getstatus => Sys2Proof.Machine.execGetstatus s
  | .enec events => Sys2Proof.Machine.execEnec events s
  | .disec events => Sys2Proof.Machine.execDisec events s
  | .rdmaRead src qp target offset length => Sys2Proof.Machine.execRdmaRead src qp target offset length s
  | .rdmaWrite src qp target offset data => Sys2Proof.Machine.execRdmaWrite src qp target offset data s
  | .rdmaUnsupported src qp => Sys2Proof.Machine.execRdmaUnsupported src qp s
  | .init src point chain nonce => Sys2Proof.Machine.execInit src point chain nonce s
  | .finish src confirm => Sys2Proof.Machine.execFinish src confirm s
  | .handshakeTimeout src => Sys2Proof.Machine.execHandshakeTimeout src s
  | .sessionExpiry sid => Sys2Proof.Machine.execSessionExpiry sid s
  | .queueHead lane => Sys2Proof.Machine.execQueueHead lane s
  | .commandTimeout lane => Sys2Proof.Machine.execCommandTimeout lane s
  | .reorderTimeout lane seq => Sys2Proof.Machine.execReorderTimeout lane seq s
  | .retainExpiry job tensor => Sys2Proof.Machine.execRetainExpiry job tensor s
  | .drainComplete job => Sys2Proof.Machine.execDrainComplete job s
  | .segmentComplete lane => Sys2Proof.Machine.execSegmentComplete lane s
  | .tieWaiterArrival ref who threshold => Sys2Proof.Machine.execTieWaiterArrival ref who threshold s
  | .tieWaiterRemoval ref who => Sys2Proof.Machine.execTieWaiterRemoval ref who s
  | .farTieSignal m => Sys2Proof.Machine.execFarTieSignal m s
  | .farTieWait m => Sys2Proof.Machine.execFarTieWait m s
  | .farTieRelease id value => Sys2Proof.Machine.execFarTieRelease id value s
  | .farTieWithdraw m => Sys2Proof.Machine.execFarTieWithdraw m s
  | .farWaitRetry id => Sys2Proof.Machine.execFarWaitRetry id s
  | .farWaitDecisionTimeout id => Sys2Proof.Machine.execFarWaitDecisionTimeout id s
  | .withyRequest job pool place cls n r0 requester head => Sys2Proof.Machine.execWithyRequest job pool place cls n r0 requester head s
  | .withyRelease job pool place cls index => Sys2Proof.Machine.execWithyRelease job pool place cls index s
  | .withyAddRef job pool place cls index d => Sys2Proof.Machine.execWithyAddRef job pool place cls index d s
  | .passIssue arr id => Sys2Proof.Machine.execPassIssue arr id s
  | .reloadDone arr => Sys2Proof.Machine.execReloadDone arr s
  | .lastRowFed arr => Sys2Proof.Machine.execLastRowFed arr s
  | .passChecksClean arr => Sys2Proof.Machine.execPassChecksClean arr s
  | .rowBlockBoundary arr => Sys2Proof.Machine.execRowBlockBoundary arr s
  | .dummyRowRun arr => Sys2Proof.Machine.execDummyRowRun arr s
  | .rampDownDone arr => Sys2Proof.Machine.execRampDownDone arr s
  | .rampUpDone arr => Sys2Proof.Machine.execRampUpDone arr s
  | .limiterGapEnd arr => Sys2Proof.Machine.execLimiterGapEnd arr s
  | .preemptRequest stake => Sys2Proof.Machine.execPreemptRequest stake s
  | .passResume arr => Sys2Proof.Machine.execPassResume arr s
  | .arrayCheckFault arr => Sys2Proof.Machine.execArrayCheckFault arr s
  | .residencyFetchDone job tensor => Sys2Proof.Machine.execResidencyFetchDone job tensor s
  | .counts m => Sys2Proof.Machine.execCounts m s
  | .parcel m => Sys2Proof.Machine.execParcel m s
  | .accept m => Sys2Proof.Machine.execAccept m s
  | .hold m => Sys2Proof.Machine.execHold m s
  | .pull m => Sys2Proof.Machine.execPull m s
  | .result m => Sys2Proof.Machine.execResult m s
  | .tags m => Sys2Proof.Machine.execTags m s
  | .keep m => Sys2Proof.Machine.execKeep m s
  | .grad m => Sys2Proof.Machine.execGrad m s
  | .dgrad m => Sys2Proof.Machine.execDgrad m s
  | .spoil m => Sys2Proof.Machine.execSpoil m s
  | .forwardRound job exch slot => Sys2Proof.Machine.execForwardRound job exch slot s
  | .backwardRound job exch slot => Sys2Proof.Machine.execBackwardRound job exch slot s
  | .chunk m => Sys2Proof.Machine.execChunk m s
  | .ack m => Sys2Proof.Machine.execAck m s
  | .scales m => Sys2Proof.Machine.execScales m s
  | .gatherChunk m => Sys2Proof.Machine.execGatherChunk m s
  | .normUp m => Sys2Proof.Machine.execNormUp m s
  | .verdict m => Sys2Proof.Machine.execVerdict m s
  | .clear m => Sys2Proof.Machine.execClear m s
  | .sendData m => Sys2Proof.Machine.execSendData m s
  | .waleDeadline job bucket step shard => Sys2Proof.Machine.execWaleDeadline job bucket step shard s
  | .normDeadline job step => Sys2Proof.Machine.execNormDeadline job step s
  | .verdictRequest job step rank => Sys2Proof.Machine.execVerdictRequest job step rank s
  | .verdictRequestRetry id => Sys2Proof.Machine.execVerdictRequestRetry id s
  | .rollbackWindowEnd job => Sys2Proof.Machine.execRollbackWindowEnd job s
  | .partStaged id part status => Sys2Proof.Machine.execPartStaged id part status s
  | .splitCommit id part => Sys2Proof.Machine.execSplitCommit id part s
  | .splitAbort id part => Sys2Proof.Machine.execSplitAbort id part s
  | .commitAck id part => Sys2Proof.Machine.execCommitAck id part s
  | .trayLoad r => Sys2Proof.Machine.execTrayLoad r s
  | .trayStore r => Sys2Proof.Machine.execTrayStore r s
  | .trayAdd r => Sys2Proof.Machine.execTrayAdd r s
  | .trayMin r => Sys2Proof.Machine.execTrayMin r s
  | .trayMax r => Sys2Proof.Machine.execTrayMax r s
  | .trayCas r => Sys2Proof.Machine.execTrayCas r s
  | .trayFadd r => Sys2Proof.Machine.execTrayFadd r s
  | .trayResponse r => Sys2Proof.Machine.execTrayResponse r s
  | .targetResettingAnswer a => Sys2Proof.Machine.execTargetResettingAnswer a s
  | .unreachableAnswer a => Sys2Proof.Machine.execUnreachableAnswer a s
  | .weaveTransit inPort op pkt fclk => Sys2Proof.Machine.execWeaveTransit inPort op pkt fclk s
  | .placementTable job inc rank places => Sys2Proof.Machine.execPlacementTable job inc rank places s
  | .ownTakeRequest id owner job region => Sys2Proof.Machine.execOwnTakeRequest id owner job region s
  | .ownGiveRequest id owner job region => Sys2Proof.Machine.execOwnGiveRequest id owner job region s
  | .ownTakeRetry id => Sys2Proof.Machine.execOwnTakeRetry id s
  | .stewardRetry id => Sys2Proof.Machine.execStewardRetry id s
  | .gatewayFlush job inc rank tensor window block data => Sys2Proof.Machine.execGatewayFlush job inc rank tensor window block data s
  | .gatewayFetch job inc rank tensor window block => Sys2Proof.Machine.execGatewayFetch job inc rank tensor window block s
  | .gatewayFetchData job window block data => Sys2Proof.Machine.execGatewayFetchData job window block data s
  | .noticeRelay n => Sys2Proof.Machine.execNoticeRelay n s
  | .stewardAssign addr noticeId signature => Sys2Proof.Machine.execStewardAssign addr noticeId signature s
  | .roster r => Sys2Proof.Machine.execRoster r s
  | .faultTableUpdate links => Sys2Proof.Machine.execFaultTableUpdate links s
  | .trayAttest steward nonce => Sys2Proof.Machine.execTrayAttest steward nonce s
  | .joinDecision x report => Sys2Proof.Machine.execJoinDecision x report s
  | .mark port src markId => Sys2Proof.Machine.execMark port src markId s
  | .markReply port src markId => Sys2Proof.Machine.execMarkReply port src markId s
  | .linkReplay port uncorrectable => Sys2Proof.Machine.execLinkReplay port uncorrectable s
  | .fecWindowEnd port lane corrected excess => Sys2Proof.Machine.execFecWindowEnd port lane corrected excess s
  | .laneSwitch port => Sys2Proof.Machine.execLaneSwitch port s
  | .laneFailure port lane => Sys2Proof.Machine.execLaneFailure port lane s
  | .laneTest channel mismatch => Sys2Proof.Machine.execLaneTest channel mismatch s
  | .patrolScrub granule => Sys2Proof.Machine.execPatrolScrub granule s
  | .timerCopyReload => Sys2Proof.Machine.execTimerCopyReload s
  | .timerCopyCompare copy => Sys2Proof.Machine.execTimerCopyCompare copy s
  | .timerMismatch => Sys2Proof.Machine.execTimerMismatch s
  | .clockLockLoss clock => Sys2Proof.Machine.execClockLockLoss clock s
  | .lockstepMismatch pair => Sys2Proof.Machine.execLockstepMismatch pair s
  | .dupStateMismatch unit => Sys2Proof.Machine.execDupStateMismatch unit s
  | .residueFault at_ again => Sys2Proof.Machine.execResidueFault at_ again s
  | .converterMismatch stake => Sys2Proof.Machine.execConverterMismatch stake s
  | .progressWatchdog engine => Sys2Proof.Machine.execProgressWatchdog engine s
  | .firmwareWatchdog border => Sys2Proof.Machine.execFirmwareWatchdog border s
  | .contextStopDone engine => Sys2Proof.Machine.execContextStopDone engine s
  | .replayVerdict engine guilty => Sys2Proof.Machine.execReplayVerdict engine guilty s
  | .escalationBoundExpiry level unit => Sys2Proof.Machine.execEscalationBoundExpiry level unit s
  | .moduleResetDone => Sys2Proof.Machine.execModuleResetDone s
  | .noticeResend => Sys2Proof.Machine.execNoticeResend s
  | .rotatingTakeover rib => Sys2Proof.Machine.execRotatingTakeover rib s
  | .stakeTakeoverDone rib => Sys2Proof.Machine.execStakeTakeoverDone rib s
  | .selfTestDone phys pass => Sys2Proof.Machine.execSelfTestDone phys pass s
  | .checkerInjection unit reported => Sys2Proof.Machine.execCheckerInjection unit reported s
  | .logFlush => Sys2Proof.Machine.execLogFlush s
  | .traceStream records => Sys2Proof.Machine.execTraceStream records s
  | .inputApplied mv => Sys2Proof.Machine.execInputApplied mv s
  | .bulkChargeDone => Sys2Proof.Machine.execBulkChargeDone s
  | .inputUndervoltage mv => Sys2Proof.Machine.execInputUndervoltage mv s
  | .pwrEnRise => Sys2Proof.Machine.execPwrEnRise s
  | .railGroupInRegulation group => Sys2Proof.Machine.execRailGroupInRegulation group s
  | .pwrGoodTimeout => Sys2Proof.Machine.execPwrGoodTimeout s
  | .pwrEnFall => Sys2Proof.Machine.execPwrEnFall s
  | .pwrEnLow200ms => Sys2Proof.Machine.execPwrEnLow200ms s
  | .modRstNAssert micros => Sys2Proof.Machine.execModRstNAssert micros s
  | .modRstNRelease wakeLow b0ok b1ok => Sys2Proof.Machine.execModRstNRelease wakeLow b0ok b1ok s
  | .wakeNFall => Sys2Proof.Machine.execWakeNFall s
  | .memoryTrainingDone failedLanes => Sys2Proof.Machine.execMemoryTrainingDone failedLanes s
  | .bootBistDone failedStakes => Sys2Proof.Machine.execBootBistDone failedStakes s
  | .linkTrainingDone ports => Sys2Proof.Machine.execLinkTrainingDone ports s
  | .powerSample mv ma arrays => Sys2Proof.Machine.execPowerSample mv ma arrays s
  | .limiterUpdate => Sys2Proof.Machine.execLimiterUpdate s
  | .sensorRead values => Sys2Proof.Machine.execSensorRead values s
  | .shutdownHoldEnd => Sys2Proof.Machine.execShutdownHoldEnd s
  | .railFault rail => Sys2Proof.Machine.execRailFault rail s
  | .thermalLimitRaise => Sys2Proof.Machine.execThermalLimitRaise s
  | .thermalLimitPersists => Sys2Proof.Machine.execThermalLimitPersists s
  | .commandPacketRefused src datagram => Sys2Proof.Machine.execCommandPacketRefused src datagram s
  | .sweepPage unit => Sys2Proof.Machine.execSweepPage unit s
  | .farTieAnswer id a => Sys2Proof.Machine.execFarTieAnswer id a s
  | .stewardAnswer id stale full => Sys2Proof.Machine.execStewardAnswer id stale full s
  | .ownershipEntryCopy region owner => Sys2Proof.Machine.execOwnershipEntryCopy region owner s
  | .gatewayFlushAck job window block => Sys2Proof.Machine.execGatewayFlushAck job window block s
  | .notice n => Sys2Proof.Machine.execNotice n s
  | .weaveLinkTrained port t => Sys2Proof.Machine.execWeaveLinkTrained port t s
  | .escalationLevelDone level unit => Sys2Proof.Machine.execEscalationLevelDone level unit s
  | .mgmtSelfTestDone border pass => Sys2Proof.Machine.execMgmtSelfTestDone border pass s
  | .tapTck tms tdi trstN => Sys2Proof.Machine.execTapTck tms tdi trstN s

end Sys2Proof.Machine
end

