-- ==== Sys2Proof/Machine/Tick.lean ====
section
/-!
DEFINITION. What the block does when no command waits: one tick of the local timer (R35; log 1). Atomics that output
queues hold leave the module (R424), and sessions that a policy change closed end once their commands are done (R502).
-/

namespace Sys2Proof.Machine

/-- The frequency of a clock in Hz (R10, Table 0.3). -/
def clockHz (c : Clock) : Nat :=
  match c with
  | .aclk _ => 1050000000
  | .nclkSide _ | .nclkBorder _ => 1600000000
  | .fclk _ => 1400000000
  | .mclk _ => 600000000
  | .aoclk => 32000000

/-- The frequency of the local timer: a tick is 10 ns (R10, R35). -/
def timerHz : Nat := 100000000

/-- One tick: the timer counts when it runs, held atomics leave, closed sessions end. A Module reset leaves the timer running
(R36). -/
def Mod.tick (m : Mod) : Mod :=
  let m := if m.timerOn then { m with timer := m.timer + 1 } else m
  m.drainPorts.closeSessions

/-- The idle step of the block (log 1). -/
def idle (s : State) : Host.Outcome State Fault Refusal := lift Mod.tick s

end Sys2Proof.Machine
end

