-- ==== Sys2Proof/Safety.lean ====
section
/-!
DEFINITION. The terms that the statements use: what a safe run is, what a command's answer is, and when a command packet is
accepted and starts.
-/

namespace Sys2Proof

open Sys2Proof.Machine

/-- The command of the block by which a packet of an operation arrives. -/
def Op.instr (op : Op) : Packet → Instr :=
  match op with
  | .nop => .nop
  | .fenceQueue => .fenceQueue
  | .fenceJob => .fenceJob
  | .tieSignalAdd => .tieSignalAdd
  | .tieSignalReset => .tieSignalReset
  | .tieWait => .tieWait
  | .tieDump => .tieDump
  | .echo => .echo
  | .planLoad => .planLoad
  | .planStart => .planStart
  | .quiesce => .quiesce
  | .planUnload => .planUnload
  | .jobAbort => .jobAbort
  | .jobNotice => .jobNotice
  | .copy => .copy
  | .gather => .gather
  | .scatter => .scatter
  | .scatterAdd => .scatterAdd
  | .fill => .fill
  | .rngFill => .rngFill
  | .convert => .convert
  | .matmul => .matmul
  | .hadamard => .hadamard
  | .sparseForward => .sparseForward
  | .sparseDataGrad => .sparseDataGrad
  | .sparseWeightGrad => .sparseWeightGrad
  | .spmm => .spmm
  | .riddleExact => .riddleExact
  | .riddleGuarded => .riddleGuarded
  | .riddleFree => .riddleFree
  | .mend => .mend
  | .vexpr => .vexpr
  | .reduceSum => .reduceSum
  | .reduceSumsq => .reduceSumsq
  | .reduceMax => .reduceMax
  | .reduceMin => .reduceMin
  | .distMinPlus => .distMinPlus
  | .distMaxPlus => .distMaxPlus
  | .distL2 => .distL2
  | .distL1 => .distL1
  | .route => .route
  | .dispatch => .dispatch
  | .combine => .combine
  | .dispatchGrad => .dispatchGrad
  | .combineGrad => .combineGrad
  | .expertCounts => .expertCounts
  | .reduceScatter => .reduceScatter
  | .allGather => .allGather
  | .allReduce => .allReduce
  | .norm => .norm
  | .broadcast => .broadcast
  | .send => .send
  | .recv => .recv
  | .optimSweep => .optimSweep
  | .lossRead => .lossRead
  | .lossLoad => .lossLoad
  | .stepCommit => .stepCommit
  | .stepRollback => .stepRollback
  | .reside => .reside
  | .evict => .evict
  | .checkpoint => .checkpoint
  | .restore => .restore
  | .ownTake => .ownTake
  | .ownGive => .ownGive
  | .poolConfig => .poolConfig
  | .poolStatRecords => .poolStatRecords
  | .poolStatRequesters => .poolStatRequesters
  | .bistStake => .bistStake
  | .bistSide => .bistSide
  | .bistModule => .bistModule
  | .bistCheckers => .bistCheckers
  | .crashDumpRead => .crashDumpRead
  | .logByNumber => .logByNumber
  | .logNewest => .logNewest
  | .countersJob => .countersJob
  | .countersModule => .countersModule
  | .countersPort => .countersPort
  | .countersArray => .countersArray
  | .countersRouterHalf => .countersRouterHalf
  | .traceSet => .traceSet
  | .traceStart => .traceStart
  | .traceStop => .traceStop
  | .traceMark => .traceMark
  | .hbmReadCheck => .hbmReadCheck
  | .hbmPattern => .hbmPattern
  | .spareStake => .spareStake
  | .spareWeaveLane => .spareWeaveLane
  | .spareHbmLane => .spareHbmLane
  | .spareDramRow => .spareDramRow
  | .spareSramRow => .spareSramRow
  | .spareMgmt => .spareMgmt
  | .resetEngine => .resetEngine
  | .resetPartition => .resetPartition
  | .resetModule => .resetModule
  | .resetPowerCycle => .resetPowerCycle
  | .attestReport => .attestReport
  | .attestChain => .attestChain
  | .fwStageBegin => .fwStageBegin
  | .fwStageWrite => .fwStageWrite
  | .fwActivateTrial => .fwActivateTrial
  | .fwActivateReset => .fwActivateReset
  | .fwActivateLock => .fwActivateLock
  | .policyPropose => .policyPropose
  | .policyCountersign => .policyCountersign

end Sys2Proof

namespace Sys2Proof.Machine

/-- Every memory of the module in canonical form. -/
def Mod.memOk (m : Mod) : Prop :=
  m.mem.wf ∧ m.tierC.wf ∧ ∀ s ∈ m.sessions, s.staging.wf

/-- A step that goes on. -/
def goesOn (s : State) : Prop := ∃ t, step s = .next t

/-- A command answers the next state that has module `m` and the same waiting commands. -/
def becomes (i : Instr) (s : State) (m : Mod) : Prop := exec i s = .next { s with m := m }

/-- Checks 1 to 3 of R54 hold for a packet of an operation, and the session that it belongs to is `ss`. -/
def Mod.hears (m : Mod) (op : Op) (p : Packet) (ss : Session) : Prop :=
  m.resetting = none ∧ m.boot.stage = .ready ∧ p.payload.length ≤ 8128 ∧ m.sessionOf p.src = some ss ∧
    m.session? ss.sid = some ss ∧ m.closing = [] ∧ tag16 ss.key (p.header op.major op.variant ++ p.payload) = p.tag ∧
    p.magic = 0x5153 ∧ p.version = 1 ∧ p.hlen = 4 ∧ op.actual p = op

/-- A packet passes every check of R54 in sequence, its lane is idle, and its header names no wait tie. -/
def Mod.accepts (m : Mod) (op : Op) (p : Packet) (ss : Session) (ls : LaneState) : Prop :=
  m.hears op p ss ∧ m.lane? (laneOf p ss.sid) = some ls ∧ ls.expected = p.seq ∧ ls.current = none ∧ ls.accepted = [] ∧
    ls.held = [] ∧ ls.badHeld = [] ∧ p.wait0.toNat = noTie ∧ p.wait1.toNat = noTie ∧ m.checkPacket op p ss = none

/-- The command that a packet carries, which arrives at a time. -/
def cmdOf (op : Op) (p : Packet) (ss : Session) (now : Nat) : Cmd := { op := op, pkt := p, sid := ss.sid, arrived := now }

/-- The identity of that command. -/
def idOf (p : Packet) (ss : Session) : CmdId := ⟨laneOf p ss.sid, p.seq.toNat⟩

/-- The module once an accepted packet's command stands at the head of its idle lane: the session has counted the packet, and
the lane expects the next number. -/
def Mod.atHead (m : Mod) (op : Op) (p : Packet) (ss : Session) : Mod :=
  (m.updSession ss.sid fun s => { s with inPkts := s.inPkts + 1 }).updLane (laneOf p ss.sid) fun s =>
    { s with
      expected := s.expected + 1
      accepted := []
      current := some { cmd := cmdOf op p ss m.now, headAt := m.now, work := .ready } }

/-- What follows every packet: what its lane held back and sessions that end. -/
def Mod.after (m : Mod) (p : Packet) (ss : Session) : Mod := (m.catchUp 65 (laneOf p ss.sid)).closeSessions

/-- The reply OK to a packet's command. -/
def Mod.okReply (m : Mod) (op : Op) (p : Packet) (ss : Session) (payload : Bytes) : Reply :=
  (cmdOf op p ss m.now).reply m.timer .ok 0 {} payload

/-- In `t` the command of a packet has completed with a reply: its lane is idle again and expects the next number, the reply
is in the lane's store, and it has left the module, with its tag, unless QUIET suppresses it. -/
def Mod.completed (t : Mod) (p : Packet) (ss : Session) (r : Reply) : Prop :=
  (∃ ls, t.lane? (laneOf p ss.sid) = some ls ∧ ls.current = none ∧ ls.expected = p.seq + 1 ∧ (p.seq.toNat, r) ∈ ls.replies) ∧
    (p.quiet = false ∨ r.status ≠ .ok → Out.reply (r.signed ss.key) ∈ t.out)

/-- A message of the exchange service is taken: its job is resident with the message's incarnation and not under reset, its
exchange is declared, its step number names step `n`, and no rollback window holds that step (R62, R264, R353). -/
def Mod.takesEx (m : Mod) (x : ExMsg) (j : Job) (e : ExchangeDecl) (n : Nat) : Prop :=
  m.job? x.job = some j ∧ m.resettingFor x.job = false ∧ j.plan.inc = x.inc ∧ j.plan.exchange? x.exch = some e ∧
    j.stepOf x.exch x.step = some n ∧ (j.rollbackUntil = none ∨ n ≠ j.step.toNat)

/-- A wale packet is taken: its job is resident with the packet's incarnation, started and not under reset, and no rollback
window holds the step that it names (R62, R64, R353). -/
def Mod.takesWale (m : Mod) (kind : WaleKind) (x : WaleMsg) (j : Job) : Prop :=
  m.resettingFor x.job = false ∧ m.current? x.job x.inc = some j ∧ j.phase ≠ .loaded ∧
    (j.rollbackUntil = none ∨ waleStepped kind = false ∨ j.waleStep x.step ≠ j.step.toNat)

end Sys2Proof.Machine
end

