-- ==== Sys2Proof/Certificates/Slice0/Obligations.lean ====
section
/-! DEFINITION. The statements for the provers. Each states `becomes` (the command answers a next state that has exactly the given module)
or names what the next state holds. -/

open Sys2Proof Sys2Proof.Machine

/-- With a command at the front of the queue, a step is that command's effect on the queue's rest. -/
def Obligations.StepRunsFrontCommand : Prop :=
  ∀ (c : Instr) (s : State), step { s with pending := c :: s.pending } = exec c s

/-- No command touches the commands that wait, and none stops the block: every step goes on. -/
def Obligations.EveryStepGoesOn : Prop :=
  ∀ s : State, ∃ t, step s = .next t ∧ t.pending = s.pending.drop 1

/-- R35: with no command waiting, a step is one tick of the local timer when it runs. The idle step itself is the model's
choice (log 1). -/
def Obligations.IdleStepTicks : Prop :=
  ∀ s : State, s.pending = [] →
    ∃ t, step s = .next t ∧ t.pending = [] ∧ t.m.timer = (if s.m.timerOn then s.m.timer + 1 else s.m.timer) ∧
      t.m.mem = s.m.mem ∧ t.m.jobs = s.m.jobs ∧ t.m.ties = s.m.ties

/-- The values that the tables give for reset: the timer at 0, the alert mask 0x01, no alert cause, the SIDEBAND mask
0xFFFF_FFFC, the eight measurement registers at 0, the power limit at 4,800 W, boot stage OFF, 16 ports DOWN, no job, no
session, empty memory. -/
def Obligations.ResetValues : Prop :=
  let m := State.reset.m
  State.reset.pending = [] ∧ m.timer = 0 ∧ m.timerOn = false ∧ m.alertMask = 0x01#8 ∧ m.alertCause = 0#8 ∧
    m.sideband.mask = 0xFFFFFFFC#32 ∧ m.measures = List.replicate 8 (List.replicate 32 0#8) ∧ m.power.limit = 4800 ∧
    m.boot.stage = .off ∧ m.ports.length = 16 ∧ (∀ p ∈ m.ports, p.state = 0) ∧ m.jobs = [] ∧ m.sessions = [] ∧ m.mem = []

/-- Memory is in canonical form after reset. -/
def Obligations.ResetMemoryCanonical : Prop := State.reset.m.memOk

/-- Every step keeps the module's memory, Tier C and every session's staging region in canonical form. -/
def Obligations.StepKeepsMemoryCanonical : Prop :=
  ∀ s t : State, s.m.memOk → step s = .next t → t.m.memOk

/-- R47: a datagram made of a packet's header, tag and payload reads back as that packet, with its opcode at bytes 4 and 5,
whatever every field holds.

The worked example of R50, byte for byte: a MATMUL of job 0x2A7, incarnation 5, queue 9, number 1,000. -/
def Obligations.PacketRoundTrip : Prop :=
  (∀ (p : Packet) (major variant : Nat), p.tag.length = 16 → major < 256 → variant < 256 →
      Packet.ofBytes p.src (p.toBytes major variant) = p ∧
        word32 (p.toBytes major variant) 4 % 256 = major ∧ word32 (p.toBytes major variant) 4 / 256 % 256 = variant ∧
        (p.toBytes major variant).length = 64 + p.payload.length) ∧
  (∀ (src : Endpoint) (tag payload : Bytes),
      (Packet.toBytes 0x30 0x00
        { src := src, magic := 0x5153, version := 0x01, hlen := 4, flags := 0, quiet := false, resv := 0, queue := 9, inc := 5
          job := 0x2A7, seq := 1000, timeout := 0, plen := 96, wait0 := 0x0A200040, wait1 := 0xFFFFFFFF, sig0 := 0xFFFFFFFF
          sig1 := 0xFFFFFFFF, handle := 0, tag := tag, payload := payload }).take 40 =
        [0x53, 0x51, 0x01, 0x04, 0x30, 0x00, 0x00, 0x00, 0xA7, 0x52, 0x90, 0x00, 0xE8, 0x03, 0x00, 0x00,
         0x00, 0x00, 0x00, 0x00, 0x60, 0x00, 0x00, 0x00, 0x40, 0x00, 0x20, 0x0A, 0xFF, 0xFF, 0xFF, 0xFF,
         0xFF, 0xFF, 0xFF, 0xFF, 0xFF, 0xFF, 0xFF, 0xFF])

/-- Every command of the queues, on an idle lane with no wait tie, that passes the checks of R54: its packet is accepted and its
own operation runs on the module in which it stands at the head of its lane. -/
def Obligations.QueueCommandStarts : Prop :=
  ∀ (op : Op) (p : Packet) (ss : Session) (ls : LaneState) (s : State) (j : Job),
    op.control = false → s.m.accepts op p ss ls → s.m.job? p.job.toNat = some j → s.m.stakesBusy j p.queue.toNat = false →
      becomes (op.instr p) s
        ((((s.m.atHead op p ss).markStarted (laneOf p ss.sid)
          { cmd := cmdOf op p ss s.m.now, headAt := s.m.now, work := .ready }).startQueued (idOf p ss) (cmdOf op p ss s.m.now) j).after p ss)

/-- Every command of the control lane, on an idle lane, that passes the checks of R54: its packet is accepted and its own
operation runs on the module in which it stands at the head of its lane. -/
def Obligations.ControlCommandStarts : Prop :=
  ∀ (op : Op) (p : Packet) (ss : Session) (ls : LaneState) (s : State),
    op.control = true → s.m.accepts op p ss ls →
      becomes (op.instr p) s
        ((((s.m.atHead op p ss).markStarted (laneOf p ss.sid)
          { cmd := cmdOf op p ss s.m.now, headAt := s.m.now, work := .ready }).startControl (idOf p ss) (cmdOf op p ss s.m.now)).after p ss)

/-- R462: during a Module reset every Shorvo packet and every RDMA request is discarded and counted, and nothing answers. -/
def Obligations.ModuleResetDiscards : Prop :=
  ∀ s : State, s.m.resetting.isSome →
    (∀ op p, becomes (Op.instr op p) s (s.m.count .discardedReset).closeSessions) ∧
    (∀ src qp target off len, becomes (.rdmaRead src qp target off len) s (s.m.count .discardedReset)) ∧
    (∀ src qp target off data, becomes (.rdmaWrite src qp target off data) s (s.m.count .discardedReset)) ∧
    (∀ src qp, becomes (.rdmaUnsupported src qp) s (s.m.count .discardedReset)) ∧
    (∀ src b, becomes (.commandPacketRefused src b) s
      (if b.length < 64 then s.m.count .discardedReset else (s.m.count .discardedReset).closeSessions))

/-- R43, R46, R54 checks 1 and 2: a packet that is too long, of no session, or whose tag does not verify is discarded and counted;
the tag's failure counts in the session. Nothing answers. -/
def Obligations.UnverifiedPacketDiscarded : Prop :=
  ∀ (op : Op) (p : Packet) (s : State), s.m.resetting = none → s.m.boot.stage = .ready →
    (8128 < p.payload.length → becomes (op.instr p) s (s.m.count .discardedLong).closeSessions) ∧
    (p.payload.length ≤ 8128 → s.m.sessionOf p.src = none → becomes (op.instr p) s (s.m.count .discardedNoSession).closeSessions) ∧
    (∀ ss, p.payload.length ≤ 8128 → s.m.sessionOf p.src = some ss → s.m.closing = [] →
      tag16 ss.key (p.header op.major op.variant ++ p.payload) ≠ p.tag →
      becomes (op.instr p) s
        (((s.m.updSession ss.sid fun x => { x with inPkts := x.inPkts + 1 }).updSession ss.sid fun x =>
          { x with integrityFails := x.integrityFails + 1 }).closeSessions))

/-- R53: what a packet does whose number is not the expected one. From 1 to 64 ahead it is held; further ahead it is refused with the
expected number and its lane stays as it is; one among the stored replies is answered again with DUP; one not yet completed is
discarded; an older one is discarded and counted.

R59, R62: a packet in sequence that a later check refuses consumes its number and has its reply stored and sent; nothing else of
the module changes but the counters. -/
def Obligations.SequenceNumbers : Prop :=
  (∀ (op : Op) (p : Packet) (ss : Session) (ls : LaneState) (s : State),
      s.m.hears op p ss → s.m.lane? (laneOf p ss.sid) = some ls →
      let d := (p.seq - ls.expected).toNat
      let m := s.m.updSession ss.sid fun x => { x with inPkts := x.inPkts + 1 }
      (1 ≤ d → d ≤ 64 → becomes (op.instr p) s
        (m.updLane (laneOf p ss.sid) fun x => x.hold s.m.now p.seq.toNat (.cmd (cmdOf op p ss s.m.now))).closeSessions) ∧
      (65 ≤ d → d < 2 ^ 31 → becomes (op.instr p) s
        (m.sendReply ss.sid false ((cmdOf op p ss s.m.now).reply s.m.timer .badPacket ls.expected.toNat {} [])).closeSessions) ∧
      (2 ^ 31 ≤ d → ∀ r, (ls.replies.find? fun x => x.1 == p.seq.toNat) = some r → becomes (op.instr p) s
        (m.sendReply ss.sid p.quiet { r.2 with dup := true, dst := p.src }).closeSessions) ∧
      (2 ^ 31 ≤ d → (ls.replies.find? fun x => x.1 == p.seq.toNat) = none → ∀ c ∈ ls.accepted, c.pkt.seq = p.seq →
        becomes (op.instr p) s m.closeSessions) ∧
      (2 ^ 31 ≤ d → (ls.replies.find? fun x => x.1 == p.seq.toNat) = none → ls.accepted = [] → ls.current = none →
        becomes (op.instr p) s (m.count .discardedSeq).closeSessions)) ∧
  (∀ (op : Op) (p : Packet) (ss : Session) (ls : LaneState) (s : State) (st : Status) (d : Nat),
      s.m.hears op p ss → s.m.lane? (laneOf p ss.sid) = some ls → ls.expected = p.seq → ls.held = [] → ls.badHeld = [] →
      s.m.checkPacket op p ss = some (st, some d) →
      let r := (cmdOf op p ss s.m.now).reply s.m.timer st d {} []
      ∃ t, exec (op.instr p) s = .next t ∧ t.m.out = .reply (r.signed ss.key) :: s.m.out ∧
        (∃ l', t.m.lane? (laneOf p ss.sid) = some l' ∧ l'.expected = p.seq + 1 ∧ l'.current = ls.current ∧
          l'.accepted = ls.accepted ∧ (p.seq.toNat, r) ∈ l'.replies) ∧
        t.pending = s.pending ∧ t.m.jobs = s.m.jobs ∧ t.m.ties = s.m.ties ∧ t.m.mem = s.m.mem ∧ t.m.tierC = s.m.tierC ∧
        t.m.pools = s.m.pools ∧ t.m.arrays = s.m.arrays ∧ t.m.log = s.m.log ∧ t.m.policy = s.m.policy ∧ t.m.boot = s.m.boot ∧
        t.m.power = s.m.power ∧ t.m.timer = s.m.timer ∧ t.m.registry = s.m.registry ∧ t.m.escalations = s.m.escalations)

/-- R54, R51, R8: the order of the checks. A reserved header bit gives its offset; then a broken lane rule gives 0x04, whatever
else is wrong. -/
def Obligations.CheckOrder : Prop :=
  ∀ (op : Op) (p : Packet) (ss : Session) (m : Mod),
    (∀ o, headerReserved (some op) p = some o → m.checkPacket op p ss = some (.badPacket, some o)) ∧
    (headerReserved (some op) p = none → ∀ o, payloadReserved op p = some o →
      m.checkPacket op p ss = some (.badPacket, some o)) ∧
    (headerReserved (some op) p = none → payloadReserved op p = none →
      (op.control = true → (p.flag 14 = false ∨ p.queue ≠ 0) → m.checkPacket op p ss = some (.badPacket, some 0x04)) ∧
      (op.control = false → p.flag 14 = true → m.checkPacket op p ss = some (.badPacket, some 0x04)) ∧
      (∀ j, op.control = false → m.job? p.job.toNat = some j → j.plan.queueIds.contains p.queue.toNat = false →
        m.checkPacket op p ss = some (.badPacket, some 0x04)) ∧
      (m.laneRule op p = true → p.plen.toNat ≠ p.payload.length → m.checkPacket op p ss = some (.badPacket, some 0x14)) ∧
      (m.laneRule op p = true → plenOk op p = true → 60000000 < p.timeout.toNat →
        m.checkPacket op p ss = some (.badPacket, some 0x10)))

/-- R529: the majors that are undefined, and the variants: an operation alone under its major has VARIANT 0x00. A datagram of an undefined
major or variant, in sequence and with no reserved header bit set, is refused with BAD_PACKET and DETAIL 0x04, and consumes its number. -/
def Obligations.UndefinedOpcodeRefused : Prop :=
  (∀ major variant : Nat, (major = 0x00 ∨ (0x07 ≤ major ∧ major ≤ 0x0F) ∨ (0x16 ≤ major ∧ major ≤ 0x1F) ∨ major = 0x24 ∨
      (0x28 ≤ major ∧ major ≤ 0x2F) ∨ (0x38 ≤ major ∧ major ≤ 0x3F) ∨ (0x46 ≤ major ∧ major ≤ 0x4F) ∨
      (0x57 ≤ major ∧ major ≤ 0x5F) ∨ (0x64 ≤ major ∧ major ≤ 0x6F) ∨ (0x76 ≤ major ∧ major ≤ 0x7F) ∨
      (0x82 ≤ major ∧ major ≤ 0xDF) ∨ (0xE8 ≤ major ∧ major ≤ 0xEF) ∨ (0xF5 ≤ major ∧ major ≤ 0xFF)) →
    Op.ofCode major variant = none) ∧
  (∀ (major variant : Nat) (op : Op), Op.ofCode major variant = some op → op.major = major ∧ op.variant = variant) ∧
  (∀ op ∈ Op.all, (∀ o ∈ Op.all, o.major = op.major → o = op) → op.variant = 0) ∧
  ∀ (src : Endpoint) (b : Bytes) (ss : Session) (ls : LaneState) (s : State),
    let w := word32 b 4
    let p := Packet.ofBytes src b
    64 ≤ b.length → b.length ≤ 8192 → Op.ofCode (w % 256) (w / 256 % 256) = none → headerReserved none p = none →
    s.m.resetting = none → s.m.boot.stage = .ready → s.m.sessionOf src = some ss → s.m.session? ss.sid = some ss →
    s.m.closing = [] → tag16 ss.key (p.header (w % 256) (w / 256 % 256) ++ p.payload) = p.tag → p.magic = 0x5153 →
    p.version = 1 → p.hlen = 4 → s.m.lane? (laneOf p ss.sid) = some ls → ls.expected = p.seq → ls.held = [] → ls.badHeld = [] →
    ∃ t r, exec (.commandPacketRefused src b) s = .next t ∧ t.m.out = .reply r :: s.m.out ∧ r.status = .badPacket ∧
      r.detail = 0x04 ∧ r.seq = p.seq.toNat ∧
      ∃ l', t.m.lane? (laneOf p ss.sid) = some l' ∧ l'.expected = p.seq + 1 ∧ l'.accepted = ls.accepted

/-- R391, R392, R482, Table 15.1: an acknowledgement gives the return code, the request's SEQ and VALID, ends BUSY and CANCEL, and
an in-band interrupt with byte 0x01 leaves when the tray controller has enabled one. A response body is written with the request's
SEQ and CODE; without one RSP_BUF stays.

R391, R392, R393: a write of REQUEST, the tray controller's doorbell, completes in every state. With neither BUSY nor VALID set and
firmware running, a request whose CODE and LENGTH are good is latched from REQ_BUF and BUSY is set, which is the row's whole effect (the
row of its code serves it); a LENGTH above 248 or one that does not suit is acknowledged with BAD_LENGTH, an undefined code with
UNKNOWN_CODE. Without firmware it is acknowledged with RESETTING and no body, and a power limit that comes so is kept (R556). While BUSY or
VALID stands it is ignored with OVERRUN. -/
def Obligations.SidebandRequests : Prop :=
  (∀ (m : Mod) (code : Nat) (body : Option Bytes), code < 2 ^ 16 →
      let b := m.sideband
      let t := m.ackSideband code body
      t.sideband.returnCode.toNat = code ∧ t.sideband.ackSeq = b.latched.getD 0 0#8 ∧ t.sideband.valid = true ∧
        t.sideband.busy = false ∧ t.sideband.cancel = false ∧ t.sideband.latched = b.latched ∧ t.sideband.reqBuf = b.reqBuf ∧
        t.sideband.mask = b.mask ∧ t.sideband.overrun = b.overrun ∧
        (body = none → t.sideband.rspBuf = b.rspBuf) ∧
        (∀ x, body = some x → t.sideband.rspBuf.drop 8 = x ∧ t.sideband.rspBuf.take 1 = [b.latched.getD 0 0#8]) ∧
        (m.i3c.ibi = false → t.out = m.out)) ∧
  (∀ s : State, s.m.power.standby = true →
      let b := s.m.sideband
      let b' : MailboxRegs := { b with latched := b.reqBuf.read 0 256, busy := true, cancel := false }
      let m := ({ s.m with sideband := b' } : Mod).wakeUnit ⟨10, if s.m.boot.activeB1 then 1 else 0⟩
      ((b.busy = true ∨ b.valid = true) →
        becomes .sidebandRequest s ({ s.m with sideband := { b with overrun := true } }.count .MAILBOX_OVERRUNS)) ∧
      (b.busy = false → b.valid = false →
        (s.m.boot.noFirmware = false → b'.length ≤ 248 → codeKnown b'.code = true → lengthSuits b'.code b'.length = true →
          becomes .sidebandRequest s m ∧ m.sideband.busy = true ∧ m.sideband.latched = b.reqBuf.read 0 256) ∧
        (s.m.boot.noFirmware = true → b'.code ≠ 0x101 → becomes .sidebandRequest s (m.ackSideband 0x21 none)) ∧
        (s.m.boot.noFirmware = true → b'.code = 0x101 → b'.length = 2 → limitOk (leNat (b'.body.take 2)) = true →
          becomes .sidebandRequest s ((m.setLimit (leNat (b'.body.take 2))).ackSideband 0x21 none)) ∧
        (s.m.boot.noFirmware = false → 248 < b'.length → becomes .sidebandRequest s (m.ackSideband 0x11 (some []))) ∧
        (s.m.boot.noFirmware = false → b'.length ≤ 248 → codeKnown b'.code = false →
          becomes .sidebandRequest s (m.ackSideband 0x10 (some []))) ∧
        (s.m.boot.noFirmware = false → b'.length ≤ 248 → codeKnown b'.code = true → lengthSuits b'.code b'.length = false →
          becomes .sidebandRequest s (m.ackSideband 0x11 (some [])))))

/-- R504, R568: the requests that read: each is served while the mailbox holds it, and acknowledged with DONE and the response
body of its code. GET_RAILS answers what no rule states, so its 96 bytes are free values of the model (log 76).

R503, R504, R556: the requests that change the module: the claim's bytes and its commit, the BIST level for the next power-up,
the power limit. A claim of a module that has a policy is DENIED, and a commit takes the claimed bytes only when they are a policy of
epoch 1 whose two signatures verify; a limit outside 2,400 to 4,800 W or off the steps of 10 W is
FAILED and changes nothing. -/
def Obligations.SidebandRequestEffects : Prop :=
  (∀ s : State,
      (s.m.serves 1 = true → becomes .getStatus s (s.m.ackSideband 0 (some s.m.statusBody))) ∧
      (s.m.serves 2 = true → becomes .getIdentity s (s.m.ackSideband 0
        (some (Config.identityDigest ++ leBytes 8 Config.serial.toNat ++ partNumber)))) ∧
      (s.m.serves 3 = true → ∃ b, b = Config.identityDigest ++ leBytes 8 s.m.now ++ s.m.sideband.body ++ (s.m.measures.take 2).flatten ∧
        becomes .attestShort s ({ s.m with free := s.m.free + 1 }.ackSideband 0 (some (b ++ Config.sm2Sign b s.m.free)))) ∧
      (s.m.serves 7 = true → becomes .logTail s (s.m.ackSideband 0 (some ((lastN 3 s.m.log).flatMap LogRec.bytes)))) ∧
      (s.m.serves 0x100 = true → becomes .getPower s (s.m.ackSideband 0 (some s.m.powerBody))) ∧
      (s.m.serves 0x102 = true → becomes .getThermal s (s.m.ackSideband 0 (some s.m.thermalBody))) ∧
      (s.m.serves 0x103 = true → ∃ m', m' = s.m.railsBody.2 ∧ m'.sideband = s.m.sideband ∧
        becomes .getRails s (m'.ackSideband 0 (some s.m.railsBody.1)))) ∧
  (∀ s : State,
      (s.m.serves 4 = true → s.m.boot.unclaimed = false → becomes .claimWrite s (s.m.ackSideband 0x12 (some []))) ∧
      (s.m.serves 4 = true → s.m.boot.unclaimed = true →
        leNat (s.m.sideband.body.take 4) + (s.m.sideband.body.drop 4).length ≤ policyMax →
        becomes .claimWrite s
          ({ s.m with claim := putAt s.m.claim (leNat (s.m.sideband.body.take 4)) (s.m.sideband.body.drop 4) }.ackSideband 0 (some []))) ∧
      (s.m.serves 5 = true → s.m.boot.unclaimed = false → becomes .claimCommit s (s.m.ackSideband 0x12 (some []))) ∧
      (s.m.serves 5 = true → s.m.boot.unclaimed = true → becomes .claimCommit s
        (match policyIn s.m.claim with
          | none => s.m.ackSideband 0x30 (some [])
          | some p =>
            if p.epoch = 1 ∧ Config.sm2Verify p.ownerKey (sm3 s.m.claim) (s.m.sideband.body.take 64) = true ∧
                Config.sm2Verify p.custodianKey (sm3 s.m.claim) (s.m.sideband.body.drop 64) = true then
              (({ s.m with claim := [] }.installPolicy { p with bytes := s.m.claim }).ackSideband 0 (some [])).closeSessions
            else s.m.ackSideband 0x30 (some []))) ∧
      (∀ l, s.m.serves 6 = true → s.m.sideband.body = [l] → l.toNat ≤ 2 →
        becomes .bootControl s ({ s.m with boot := { s.m.boot with bistOnce := some l.toNat } }.ackSideband 0 (some []))) ∧
      (s.m.serves 6 = true → s.m.sideband.body = [0xFF#8] →
        becomes .bootControl s ({ s.m with boot := { s.m.boot with bistOnce := none } }.ackSideband 0 (some []))) ∧
      (∀ w, s.m.serves 0x101 = true → w = leNat (s.m.sideband.body.take 2) →
        (2400 ≤ w → w ≤ 4800 → w % 10 = 0 → becomes .setPowerLimit s ((s.m.setLimit w).ackSideband 0 (some [])) ∧ (s.m.setLimit w).power.limit = w) ∧
        ((w < 2400 ∨ 4800 < w ∨ w % 10 ≠ 0) → becomes .setPowerLimit s (s.m.ackSideband 0x30 (some [])))))

/-- R390, R391, R482, R483: the writes of the mailbox's and the alert's own registers: VALID and OVERRUN are cleared by writing 1,
MASK and REQ_BUF hold what is written, a cause is cleared by writing 1 to it, and the alert mask takes the written byte. -/
def Obligations.SidebandRegisterWrites : Prop :=
  ∀ (s : State) (v : BitVec 32), s.m.power.standby = true →
    becomes .ackValidClear s { s.m with sideband := { s.m.sideband with valid := false } } ∧
    becomes (.alertCauseClear v) s (s.m.setAlert (s.m.alertCause &&& ~~~(v.setWidth 8)) s.m.alertMask) ∧
    becomes (.alertMaskWrite v) s (s.m.setAlert s.m.alertCause (v.setWidth 8)) ∧
    becomes (.registerWrite .sideband 4 v) s { s.m with sideband := { s.m.sideband with mask := v } } ∧
    (v.getLsbD 7 = true →
      becomes (.registerWrite .sideband 0xC v) s { s.m with sideband := { s.m.sideband with overrun := false } }) ∧
    (∀ k, k < 64 → s.m.sideband.busy = false →
      becomes (.registerWrite .sideband (0x100 + 4 * k) v) s
        { s.m with sideband := { s.m.sideband with reqBuf := s.m.sideband.reqBuf.write (4 * k) (leBytes 4 v.toNat) } }) ∧
    (∀ off, off % 4 ≠ 0 → becomes (.registerWrite .sideband off v) s s.m) ∧
    (s.m.sideband.busy = true → ∃ t, exec .sidebandCancel s = .next t ∧
      if Config.freeBool s.m.free = true then
        t.m.sideband.valid = true ∧ t.m.sideband.returnCode = 0x20#16 ∧ t.m.sideband.busy = false
      else t.m = { s.m with free := s.m.free + 1, sideband := { s.m.sideband with cancel := true } }) ∧
    (s.m.sideband.busy = false → becomes .sidebandCancel s s.m)

/-- R388, R389: a sender's write of its own channel of a SMALL mailbox in its Side fills it and sets its doorbell, a full channel is
left as it is and the sending thread waits for it, a write of another's channel is dropped, counted and recorded; the receiver's clear
empties the channel and wakes the thread that waits for it. Which
channel a sender is bound to is the model's choice (log 77).

R390, R391: a request in a Side controller's mailbox is answered with one acknowledgement that returns the request's SEQ; while
one stands unread, a further request is ignored with OVERRUN. The answer itself is free (log 82). -/
def Obligations.MailboxChannels : Prop :=
  (∀ (s : State) (r x c : Nat) (msg : Bytes), c < 32 → msg.length = 64 →
      let b := s.m.smallBox r
      (r / 64 = x / 64 → s.m.channelFor r x = some c → b.doorbell.getLsbD c = false →
        ∃ b' : SmallMailbox, b'.stake = b.stake ∧ b'.doorbell = b.doorbell ||| BitVec.ofNat 32 (2 ^ c) ∧
          b'.channels = (c, msg) :: b.channels.filter (fun y => y.1 != c) ∧ b'.mask = b.mask ∧ b'.wakeEn = b.wakeEn ∧
          becomes (.smallMailboxSend r x c msg) s
            (if b.wakeEn.getLsbD c = true then (s.m.setSmallBox b').wakeUnit ⟨1, r⟩ else s.m.setSmallBox b')) ∧
      (r / 64 = x / 64 → s.m.channelFor r x = some c → b.doorbell.getLsbD c = true → ∀ l, s.m.logicalOf x = some l →
        becomes (.smallMailboxSend r x c msg) s (s.m.parkThread l (Config.channelThread x c % 8) (.channel r c))) ∧
      ((r / 64 ≠ x / 64 ∨ s.m.channelFor r x ≠ some c) →
        ∃ rec : LogRec, rec.cls = 0x41 ∧ rec.outcome = 2 ∧ rec.unit = ⟨1, x⟩ ∧ rec.sub = c ∧
          becomes (.smallMailboxSend r x c msg) s ((s.m.count .MAILBOX_REJECTED).addOpen rec)) ∧
      (b.doorbell.getLsbD c = true →
        ∃ b' : SmallMailbox, b'.stake = b.stake ∧ b'.doorbell = b.doorbell &&& ~~~(BitVec.ofNat 32 (2 ^ c)) ∧
          b'.channels = b.channels.filter (fun y => y.1 != c) ∧
          becomes (.smallDoorbellClear r c) s ((s.m.setSmallBox b').wakeThreads fun ph => ph == .channel r c))) ∧
  (∀ (s : State) (n : Nat) (msg : Bytes), n < 4 → msg.length ≤ 256 → s.m.power.pwrGood = true → (s.m.sideBox n).busy = false →
      ((s.m.sideBox n).valid = false → ∃ t, exec (.sideMailboxRequest n msg) s = .next t ∧ (t.m.sideBox n).valid = true ∧
        (t.m.sideBox n).busy = false ∧ (t.m.sideBox n).ackSeq = msg.getD 0 0#8 ∧
        (∀ k, k ≠ n → t.m.sideBox k = s.m.sideBox k) ∧ t.m.sideband = s.m.sideband ∧ t.m.mem = s.m.mem ∧ t.m.jobs = s.m.jobs ∧
        (s.m.boot.noFirmware = true → (t.m.sideBox n).returnCode = 0x21#16)) ∧
      ((s.m.sideBox n).valid = true → becomes (.sideMailboxRequest n msg) s
        ((s.m.setSideBox n { s.m.sideBox n with overrun := true }).count .MAILBOX_OVERRUNS)))

/-- R481: the commands of the I3C bus, once the standby rail is up. The three answers' bytes are free values of the model
(log 37).

R510: the test access port. TRST_N low selects IDCODE in Test-Logic-Reset; five edges with TMS high reach it from every state;
IDCODE shifts its 32 bits out least significant first; an instruction other than IDCODE and 0x02 selects BYPASS, and an edge
touches nothing of the module but the port. -/
def Obligations.ManagementBusRows : Prop :=
  (∀ (s : State) (a : BitVec 7) (e : BitVec 8), s.m.power.standby = true →
      (s.m.i3c.dynamic = none → becomes (.setdasa a) s { s.m with i3c := { s.m.i3c with dynamic := some a } } ∧
        becomes (.entdaa a) s { s.m with i3c := { s.m.i3c with dynamic := some a } }) ∧
      (s.m.i3c.dynamic ≠ none → becomes (.setnewda a) s { s.m with i3c := { s.m.i3c with dynamic := some a } }) ∧
      becomes .rstdaa s { s.m with i3c := { s.m.i3c with dynamic := none } } ∧
      (e.getLsbD 0 = true → becomes (.enec e) s { s.m with i3c := { s.m.i3c with ibi := true } } ∧
        becomes (.disec e) s { s.m with i3c := { s.m.i3c with ibi := false } }) ∧
      becomes .getbcr s (s.m.emit (.i3cData Config.i3cBcr)) ∧ becomes .getdcr s (s.m.emit (.i3cData Config.i3cDcr)) ∧
      becomes .getstatus s ({ s.m with free := s.m.free + 1 }.emit (.i3cData (Config.i3cStatus s.m.free)))) ∧
  ((∀ (s : State) (tms tdi : Bool), becomes (.tapTck tms tdi false) s { s.m with tap := { s.m.tap with state := .reset, ir := 0x01#8 } }) ∧
    (∀ (s : State) (tms tdi : Bool), ∃ tap, becomes (.tapTck tms tdi true) s { s.m with tap := tap, free := s.m.free + 1 } ∧
      tap.state = s.m.tap.state.next tms ∧
      (s.m.tap.state = .capDr → s.m.tap.ir = 0x01#8 → tap.dr = (List.range 32).map (0x1E3A52F3#32).getLsbD) ∧
      (s.m.tap.state = .shiftDr → tap.tdo = s.m.tap.dr.headD false ∧ tap.dr = s.m.tap.dr.drop 1 ++ [tdi]) ∧
      (s.m.tap.state = .exit1Ir → tms = true → s.m.tap.shiftIr ≠ 0x01#8 → s.m.tap.shiftIr ≠ 0x02#8 → tap.ir = 0xFF#8)) ∧
    (∀ t : TapState, ((((t.next true).next true).next true).next true).next true = .reset))

/-- R364, R365: how a tie's home serves its waiters. In COUNT mode the oldest waiters are released in order while VALUE covers
each one's threshold, which is subtracted; the first that stays is not covered, whatever comes behind it. In LEVEL mode exactly
the waiters that VALUE meets are released and VALUE stays.

R366: an addition is formed exactly and clamped to 32 bits, and a clamp sets its flag; RESET sets the value and clears the
three flags. -/
def Obligations.TieArithmetic : Prop :=
  (∀ t : Tie,
      (t.level = false →
        (t.serve.2.map (·.1)) ++ t.serve.1.waiters = t.waiters ∧
        t.serve.1.value + ((t.serve.2.map fun w => w.1.t).sum) = t.value ∧
        (∀ w, t.serve.1.waiters.head? = some w → t.serve.1.value < w.t) ∧
        (∀ i : Nat, ∀ w, t.serve.2[i]? = some w → w.2 + (((t.serve.2.take (i + 1)).map fun x => x.1.t).sum) = t.value)) ∧
      (t.level = true →
        t.serve.1.value = t.value ∧ (∀ w, w ∈ t.serve.1.waiters ↔ w ∈ t.waiters ∧ t.value < w.t) ∧
        (∀ w v, (w, v) ∈ t.serve.2 ↔ w ∈ t.waiters ∧ w.t ≤ t.value ∧ v = t.value)) ∧
      t.serve.1.ref = t.ref ∧ t.serve.1.overflow = t.overflow ∧ t.serve.1.underflow = t.underflow ∧
        t.serve.1.abandoned = t.abandoned) ∧
  (∀ (t : Tie) (a : Int) (v : Nat), t.value < 2 ^ 32 →
      (((t.add a).1.value : Int) = max 0 (min (2 ^ 32 - 1) (t.value + a))) ∧
      ((t.add a).2 = true ↔ t.value + a < 0 ∨ 2 ^ 32 ≤ t.value + a) ∧
      ((t.add a).1.overflow = (t.overflow || decide (2 ^ 32 ≤ t.value + a))) ∧
      ((t.add a).1.underflow = (t.underflow || decide (t.value + a < 0))) ∧
      (t.add a).1.waiters = t.waiters ∧ (t.add a).1.ref = t.ref ∧
      t.reset v = { t with value := v, overflow := false, underflow := false, abandoned := false })

/-- R52, R53, R56, R58: a command at its lane's head that completes leaves its lane idle, with its numbering as it was and its reply
among the last 256; the reply has the status, DETAIL and payload of the completion, and leaves the module with its tag (R46) unless QUIET suppresses
an OK or its session has ended. -/
def Obligations.CompletionReplies : Prop :=
  ∀ (m : Mod) (id : CmdId) (st : Status) (d : Nat) (pl : Bytes) (r : Running) (ls : LaneState),
    m.cmd? id = some r → m.lane? id.lane = some ls → ∀ ss, m.session? r.cmd.sid = some ss →
    ∃ ls' rep, (m.complete id st d pl).lane? id.lane = some ls' ∧ ls'.current = none ∧ ls'.expected = ls.expected ∧
      ls'.accepted = ls.accepted ∧ ls'.replies.getLast? = some (rep.seq, rep) ∧ rep.status = st ∧ rep.detail = d ∧
      rep.payload = pl ∧ rep.seq = r.cmd.pkt.seq.toNat ∧ rep.doneTime = m.timer ∧ rep.dup = false ∧
      (r.cmd.pkt.quiet = false ∨ st ≠ .ok → Out.reply (rep.signed ss.key) ∈ (m.complete id st d pl).out)

/-- NOP, ECHO, FENCE and TIE_DUMP complete with OK as soon as they start: a NOP and a fence that has nothing outstanding without a
payload (R49, R371), ECHO with its own payload (R530), TIE_DUMP with the records of the job's ties from FIRST on (R377). -/
def Obligations.ControlCommandsComplete : Prop :=
  ∀ (p : Packet) (ss : Session) (ls : LaneState) (s : State) (j : Job), s.m.job? p.job.toNat = some j →
    s.m.stakesBusy j p.queue.toNat = false →
    (s.m.accepts .nop p ss ls → ∃ t, exec (.nop p) s = .next t ∧ t.m.completed p ss (s.m.okReply .nop p ss [])) ∧
    (s.m.accepts .echo p ss ls → ∃ t, exec (.echo p) s = .next t ∧ t.m.completed p ss (s.m.okReply .echo p ss p.payload)) ∧
    (s.m.accepts .fenceQueue p ss ls → s.m.trayOps = [] → j.stageBlocks = [] →
      ∃ t, exec (.fenceQueue p) s = .next t ∧ t.m.completed p ss (s.m.okReply .fenceQueue p ss [])) ∧
    (s.m.accepts .fenceJob p ss ls → s.m.trayOps = [] → j.stageBlocks = [] →
      ∃ t, exec (.fenceJob p) s = .next t ∧ t.m.completed p ss (s.m.okReply .fenceJob p ss [])) ∧
    (s.m.accepts .tieDump p ss ls → ∃ t, exec (.tieDump p) s = .next t ∧ t.m.completed p ss (s.m.okReply .tieDump p ss
      (tieRecords ((sortBy (fun a b => a.ref ≤ b.ref) (s.m.ties.filter fun t => t.job == p.job.toNat && p.u 0 4 ≤ t.ref)).take
        (p.u 4 2)))))

/-- R366, R372, R373: TIE_SIGNAL and TIE_WAIT on a local tie that nothing waits on and that is not abandoned: the signal completes
and the tie holds the clamped sum or the reset value; a wait that the value covers completes with the value left, 4 bytes of it and
4 zero bytes, and one that it does not cover stays at its lane's head among the tie's waiters. -/
def Obligations.TieCommandsOnLocalTie : Prop :=
  ∀ (op : Op) (p : Packet) (ss : Session) (ls : LaneState) (s : State) (j : Job) (tie : Tie), s.m.accepts op p ss ls →
    s.m.job? p.job.toNat = some j → s.m.stakesBusy j p.queue.toNat = false → p.sig0.toNat = noTie → p.sig1.toNat = noTie →
    (j.plan.tieRef (p.u 0 8)).far = false → s.m.tie? (j.plan.tieRef (p.u 0 8)).ref = some tie → tie.abandoned = false →
    tie.waiters = [] → (∀ u ∈ s.m.ties, ∀ w ∈ u.waiters, ∀ k, w.who ≠ .cmd (idOf p ss) k) →
    (op = .tieSignalAdd → ∃ t, exec (.tieSignalAdd p) s = .next t ∧ t.m.completed p ss (s.m.okReply op p ss []) ∧
      t.m.tie? tie.ref = some (tie.add (leInt (p.payload.drop 8) 4)).1) ∧
    (op = .tieSignalReset → ∃ t, exec (.tieSignalReset p) s = .next t ∧ t.m.completed p ss (s.m.okReply op p ss []) ∧
      t.m.tie? tie.ref = some (tie.reset (p.u 8 4))) ∧
    (op = .tieWait → p.u 8 4 ≤ tie.value → tie.level = false → ∃ t, exec (.tieWait p) s = .next t ∧
      t.m.completed p ss (s.m.okReply op p ss (leBytes 8 (tie.value - p.u 8 4))) ∧
      t.m.tie? tie.ref = some { tie with value := tie.value - p.u 8 4 }) ∧
    (op = .tieWait → p.u 8 4 ≤ tie.value → tie.level = true → ∃ t, exec (.tieWait p) s = .next t ∧
      t.m.completed p ss (s.m.okReply op p ss (leBytes 8 tie.value)) ∧ t.m.tie? tie.ref = some tie) ∧
    (op = .tieWait → tie.value < p.u 8 4 → ∃ t, exec (.tieWait p) s = .next t ∧
      ((t.m.running? (laneOf p ss.sid)).map (·.work)) = some (.tieWait false) ∧
      t.m.tie? tie.ref = some { tie with waiters := [⟨.cmd (idOf p ss) 2, p.u 8 4⟩] })

/-- R369, R373–R376: the rows of a tie's home and of a far wait. A waiter registers behind the others and is served; one that a
timeout removes ends its command with TIMEOUT, and nothing is consumed.

R369, R374, R376: what a far command's own module does with what its home sends: a release completes it with the value, an
acknowledgement completes a signal, a full table makes it wait and retry, and no decision within 1 ms of its expiry ends it with
TIMEOUT. -/
def Obligations.TieRows : Prop :=
  (∀ (s : State) (ref : Nat) (t : Tie), s.m.tie? ref = some t →
      (∀ e i k, t.abandoned = false → (t.waiters.any fun w => w.who == .thread e i) = false →
        (i < 8 → s.m.present e = true → becomes (.tieWaiterArrival ref (.thread e i) k) s
          ((s.m.parkThread e i (.tie ref)).addWaiter ref ⟨.thread e i, k⟩)) ∧
        (8 ≤ i ∨ s.m.present e = false → becomes (.tieWaiterArrival ref (.thread e i) k) s s.m)) ∧
      (∀ e i, (t.waiters.any fun w => w.who == .thread e i) = true →
        becomes (.tieWaiterRemoval ref (.thread e i)) s ((s.m.removeWaiter ref (.thread e i)).wakeThread e i)) ∧
      (∀ id k r, (t.waiters.any fun w => w.who == .cmd id k) = true → s.m.cmd? id = some r → s.m.expired r = true →
        becomes (.tieWaiterRemoval ref (.cmd id k)) s (s.m.complete id .timeout (tieTimeoutDetail false 0 ref))) ∧
      (∀ id k n r, t.abandoned = false → (t.waiters.any fun w => w.who == .cmd id k) = false → s.m.cmd? id = some r →
        r.waitsOn ref k = true → becomes (.tieWaiterArrival ref (.cmd id k) n) s (s.m.addWaiter ref ⟨.cmd id k, n⟩)) ∧
      (∀ f : FarMsg, f.ref = ref → s.m.resettingFor f.job = false → ∀ j, s.m.job? f.job = some j → j.plan.inc = f.inc →
        s.m.tieOk j.plan ref = true → t.abandoned = false →
        (f.reset = false → becomes (.farTieSignal f) s ((s.m.settle [.add ref f.amount]).emit (.farAnswer f.rank f.id .ack))) ∧
        (f.reset = true → becomes (.farTieSignal f) s
          (((s.m.setTie (t.reset f.amount.toNat)).settle [.serve ref]).emit (.farAnswer f.rank f.id .ack))) ∧
        (s.m.farWaiters < 2048 → becomes (.farTieWait f) s
          ({ s.m with farWaiters := s.m.farWaiters + 1 }.addWaiter ref ⟨.far f.rank f.id, f.threshold⟩)) ∧
        (2048 ≤ s.m.farWaiters → becomes (.farTieWait f) s (s.m.emit (.farAnswer f.rank f.id .tableFull))) ∧
        ((t.waiters.any fun w => w.who == .far f.rank f.id) = true → becomes (.farTieWithdraw f) s
          (({ s.m with farWaiters := s.m.farWaiters - 1 }.removeWaiter ref (.far f.rank f.id)).emit (.farAnswer f.rank f.id .ack)))) ∧
      (∀ f : FarMsg, f.ref = ref → s.m.resettingFor f.job = false → ∀ j, s.m.job? f.job = some j → j.plan.inc ≠ f.inc →
        becomes (.farTieSignal f) s (s.m.count .staleTraffic) ∧ becomes (.farTieWait f) s (s.m.count .staleTraffic) ∧
          becomes (.farTieWithdraw f) s (s.m.count .staleTraffic))) ∧
  (∀ (s : State) (id : CmdId) (r : Running) (p : Plan) (t : TieRef) (v : Nat), s.m.farCmd? id = some (r, p, t) →
      becomes (.farTieRelease id v) s (s.m.complete id .ok 0 (leBytes 8 v)) ∧
      (r.work = .farSignal → becomes (.farTieAnswer id .ack) s (s.m.complete id .ok 0)) ∧
      (r.work = .tieWait true → becomes (.farTieAnswer id .tableFull) s (s.m.setWork id.lane .farRetry)) ∧
      (r.work = .farSignal ∨ r.work = .tieWait true →
        becomes (.farTieAnswer id .badDescriptor) s (s.m.complete id .badDescriptor 0x40) ∧
        becomes (.farTieAnswer id .abandoned) s (s.m.complete id .abandoned t.ref)) ∧
      (r.work = .farRetry → becomes (.farWaitRetry id) s
        (((s.m.countJob p.job .TIE_FAR_RETRIES).sendReq (p.addrOf t.rank) (.far t.rank (farMsg p id t.ref false 0 (r.cmd.pkt.u 8 4)) true)).setWork id.lane
          (.tieWait true))) ∧
      (∀ u, r.work = .farDecision u → u ≤ s.m.now →
        becomes (.farWaitDecisionTimeout id) s (s.m.complete id .timeout (tieTimeoutDetail true t.rank t.ref))) ∧
      (∀ u, r.work = .farDecision u → s.m.now < u → becomes (.farWaitDecisionTimeout id) s s.m))

/-- R49, R52, R53, R55: the rows of a lane. An idle lane takes its next accepted command to its head, a released one starts; a
command whose timeout has passed while it waits for a tie ends with TIMEOUT and names the tie, one that holds an engine names the
record of its hang, and one that waits for something else has DETAIL 0; before its timeout nothing happens; held packets are
discarded and counted 100 ms after they came. -/
def Obligations.LaneRows : Prop :=
  ∀ (s : State) (l : Lane),
    (s.m.running? l = none → becomes (.queueHead l) s (s.m.reach l).closeSessions) ∧
    (∀ r, s.m.running? l = some r → r.work = .ready → becomes (.queueHead l) s (s.m.begin l).closeSessions) ∧
    (∀ r, s.m.running? l = some r → r.work = .fence [] [] →
      becomes (.queueHead l) s (s.m.complete (r.cmd.id l) .ok 0).closeSessions) ∧
    (∀ r, s.m.running? l = some r → s.m.resetting = none → s.m.isolations = [] →
      (s.m.expired r = false → becomes (.commandTimeout l) s s.m.closeSessions) ∧
      (∀ ref slot rest, s.m.expired r = true → r.work = .ties ((ref, slot) :: rest) → becomes (.commandTimeout l) s
        (s.m.complete (r.cmd.id l) .timeout (2 ^ 63 + ref)).closeSessions) ∧
      (s.m.expired r = true → r.work = .steward 0 →
        becomes (.commandTimeout l) s (s.m.endWith (r.cmd.id l) .timeout 0).closeSessions) ∧
      (∀ a b c, s.m.expired r = true → r.work = .segments a b c → becomes (.commandTimeout l) s
        ((s.m.hang (s.m.engineOf r) (some (r.cmd.id l))).endWith (r.cmd.id l) .timeout s.m.record).closeSessions)) ∧
    (∀ ls t c, s.m.lane? l = some ls → ls.held = [(t, c)] → ls.badHeld = [] → t + 10000000 ≤ s.m.now →
      ∃ u, exec (.reorderTimeout l c.pkt.seq.toNat) s = .next u ∧
        u.m.lane? l = some { ls with held := [] } ∧ u.m.counters = s.m.counters.bump .discardedReorder 1 ∧
        u.m.out = s.m.out ∧ u.m.mem = s.m.mem ∧ u.m.jobs = s.m.jobs)

/-- R197, R198, R346, R421, R469: what a data command does when it starts, in this order: it waits while a stake of its queue
moves, ends with FAULT_DETECTED on an absent stake, waits for a placement table, ends with BAD_DESCRIPTOR on an unknown place or a
broken limit, with BOUNDS, with OVERLAP (counted), and else registers its extents and runs. -/
def Obligations.DataCommandStartOrder : Prop :=
  ∀ (m : Mod) (id : CmdId) (c : Cmd) (j : Job),
    ((m.stakesOf j c.pkt.queue.toNat).1 = true → m.startData id c j = m.setWork id.lane .ready) ∧
    (∀ n, m.stakesOf j c.pkt.queue.toNat = (false, some n) → m.startData id c j = m.complete id .faultDetected n) ∧
    (m.stakesOf j c.pkt.queue.toNat = (false, none) →
      (∀ k o, dataOf c j = .error (some k, o) → m.startData id c j = m.setWork id.lane (.placement k)) ∧
      (∀ o, dataOf c j = .error (none, o) → m.startData id c j = m.complete id .badDescriptor (o.field 4)) ∧
      (∀ x, dataOf c j = .ok x →
        (∀ d, dataLimit c.op j c.pkt = some d → m.startData id c j = m.complete id .badDescriptor d) ∧
        (dataLimit c.op j c.pkt = none → x.farScatter = false →
          (∀ d, dataTest x (m.reader j []) = some d → m.startData id c j = m.complete id .bounds d) ∧
          (dataTest x (m.reader j []) = none →
            (∀ d, m.claimExtents id c j = .overlaps d →
              m.startData id c j = (m.countJob c.job .OVERLAP_REFUSED).complete id .overlap d) ∧
            (∀ rs, m.claimExtents id c j = .ok rs →
              m.startData id c j = (({ m with registry := m.registry ++ rs }).noteCopies id x).launch id x [])))))

/-- R196, R237, R210: an effect that writes leaves memory, in its canonical form, with exactly its writes: the byte of every address that it does not write
reads as before, and ties, pools, Tier C, the log and what has left the module stay. -/
def Obligations.EffectWritesOnlyItsBytes : Prop :=
  ∀ (m t : Mod) (id : CmdId) (r : Running) (j : Job) (got : List (Nat × Byte)) (body : (Nat → Byte) → Effect),
    m.mem.wf → m.runEffect id r j got body = .wrote t → (∀ w ∈ (body (m.reader j got)).put.writes, isLocal w.1 = true) →
    let ws := (body (m.reader j got)).put.writes
    (body (m.reader j got)).fail = none ∧ t.mem = m.mem.writeAll ws ∧
      (∀ a, (∀ w ∈ ws, w.1 ≠ a) → t.mem.get a = m.mem.get a) ∧
      t.ties = m.ties ∧ t.pools = m.pools ∧ t.poolStates = m.poolStates ∧ t.tierC = m.tierC ∧ t.log = m.log ∧ t.out = m.out ∧
      t.arrays = m.arrays ∧ t.power = m.power ∧ t.boot = m.boot ∧ t.policy = m.policy

/-- R99: rounding to a grid. Under RNE no grid value is nearer, and a value halfway goes to the even one; under RTZ the grid value
does not exceed the magnitude and the next one does; a value on the grid never moves; a nonzero value that rounds to zero keeps its
sign in every mode and format. -/
def Obligations.RoundingModes : Prop :=
  (∀ (r : Rnd) (u m : Nat) (e q : Int), q ≤ e → roundMag r u m e q = m * 2 ^ (e - q).toNat) ∧
  (∀ (u m : Nat) (e q : Int), e < q →
    let k : Nat := 2 ^ (q - e).toNat
    let dist (n : Nat) : Nat := if n * k ≤ m then m - n * k else n * k - m
    (∀ n, dist (roundMag .rne u m e q) ≤ dist n) ∧
    (2 * dist (roundMag .rne u m e q) = k → roundMag .rne u m e q % 2 = 0) ∧
    roundMag .rtz u m e q * k ≤ m ∧ m < (roundMag .rtz u m e q + 1) * k) ∧
  (∀ f ∈ [fp32, bf16, fp16, e4m3, e5m2, e3m2, e2m3, e2m1], ∀ (c : Conv) (u m : Nat) (e : Int) (s : Bool),
    m ≠ 0 → roundMag c.rnd u m e (f.quantum m e) = 0 →
    (f.convert c u (.fin s m e)).code = if s then 2 ^ (f.mbits + f.ebits) else 0)

/-- R100: under SR the fraction below the last place, cut to 16 bits, and the random word decide: the magnitude rounds up exactly
when their sum reaches 2^16.

R81, R97, R99–R101: in every scalar format and block element format, every finite code converts back to itself in every mode,
saturates nothing and counts nothing; a NaN converts to the canonical NaN; and a conversion in range gives a code whose value is the
rounded one. -/
def Obligations.NumberFormats : Prop :=
  (∀ (u m : Nat) (e q : Int), e < q →
      let k : Nat := 2 ^ (q - e).toNat
      roundMag .sr u m e q = m / k + (if 2 ^ 16 ≤ (m % k) * 2 ^ 16 / k + u then 1 else 0) ∧
      (m % k = 0 → u < 2 ^ 16 → roundMag .sr u m e q * k = m)) ∧
  (∀ f ∈ [fp32, bf16, fp16, e4m3, e5m2, e3m2, e2m3, e2m1], ∀ (c : Conv) (u : Nat),
      (∀ b, b < 2 ^ f.width → (f.decode b).nonfinite = false → u < 2 ^ 16 → f.convert c u (f.decode b) = ⟨b, false, false⟩) ∧
      (f.convert c u .nan = ⟨f.nanCode, false, true⟩) ∧
      (∀ (s : Bool) (m : Nat) (e : Int), m ≠ 0 →
        let q := f.quantum m e
        let n := roundMag c.rnd u m e q
        Val.lt f.largest (.fin false n q) = false →
        (f.convert c u (.fin s m e)).saturated = false ∧ (f.convert c u (.fin s m e)).nonfinite = false ∧
        (f.convert c u (.fin s m e)).code < 2 ^ f.width ∧
        (f.decode (f.convert c u (.fin s m e)).code).eq (.fin s n q) = true ∧
        (f.decode (f.convert c u (.fin s m e)).code).negative = s))

/-- R141, R142, R144: the accumulator's loop may be cut at any multiple of 16 pairs: going on from the FP32 bits of the first part
gives the bits of the whole, with and without ACC_SR; and a whole sum starts from −0. -/
def Obligations.AccumulationMayBeCut : Prop :=
  ∀ (sr : Option Draw) (p T g0 a K : Nat) (acc : BitVec 32) (term : Nat → Val),
    accumulateFrom sr p T g0 acc (16 * a + K) term =
      accumulateFrom sr p T (g0 + a) (accumulateFrom sr p T g0 acc (16 * a) term) K (fun k => term (16 * a + k)) ∧
    accumulate sr p K term = accumulateFrom sr p ((K + 127) / 128) 0 0x80000000#32 K term

/-- R228: the hash of Tier B places every 256-byte unit within 2 Borders, 24 packages, 96 channels of 2^27 units, and no two units
in one place. -/
def Obligations.TierBPlacement : Prop :=
  (∀ a, tierBBase ≤ a → a < tierBEnd →
    (lpddrPlace a).1 < 2 ∧ (lpddrPlace a).2.1 < 24 ∧ (lpddrPlace a).2.1 / 12 = (lpddrPlace a).1 ∧
      (lpddrPlace a).2.2.1 < 96 ∧ (lpddrPlace a).2.2.1 / 4 = (lpddrPlace a).2.1 ∧ (lpddrPlace a).2.2.2 < 2 ^ 27) ∧
  (∀ a b, tierBBase ≤ a → a < tierBEnd → tierBBase ≤ b → b < tierBEnd →
    (lpddrPlace a).2.2.1 = (lpddrPlace b).2.2.1 → (lpddrPlace a).2.2.2 = (lpddrPlace b).2.2.2 →
      (a - tierBBase) / 256 = (b - tierBBase) / 256) ∧
  lpddrPlace 0x010001234500 = (0, 2, 10, 776)

/-- R107, R112, R113, R115, R117, R121–R124, R126: the states of a pass on an array and its gang, row by row: the reload's end (its tile read
clean and without an invalid code), a row-block, the last fed row, clean checks of the earliest pass that drains or of the current one, dummy
rows, the ramps, the end of a gap, and the resumption of a pre-empted pass.

R113, R117, R120, R150: a command's next pass is issued on an array of its stakes that can take it: the array's gang loads the pass with
its word, which starts a chain of its own, and the command counts one more issued pass.

R126, R128, R129: pre-emption of a FILLER's streaming pass and a check's failure in a pass. The one pass that a check can have found at
fault is recorded and discarded, and its command issues it again; one that fails again ends its command with FAULT_DETECTED and takes its
stake out. -/
def Obligations.ArrayPassRows : Prop :=
  (∀ (s : State) (a : Nat), s.m.power.holding = none → s.m.stoppedAt (.sequencer (a / 4)) = false →
      let st := s.m.array a
      (∀ x, s.m.passData? st.toPassRun = some x →
        let p := x.product (s.m.reader x.j x.got)
        let rows := x.fedList (s.m.reader x.j x.got) st.spec.lo st.spec.hi
        let streams (m : Mod) (n : Nat) : Mod := (m.updSum st.word.id.lane fun y => { y with corrected := y.corrected + n }).onGang st.word a
          fun t => { t with word := { t.word with state := 2 } }
        (∀ m n, st.word.state = 1 → x.c.op ≠ .hadamard → p.tileFail (p.tileKs rows st.spec.k0 st.spec.k1) st.spec.cols = none →
          s.m.checkLocal (some x.c) (p.colLocs rows st.spec.cols st.spec.k0 st.spec.k1) = (m, n, none) →
          becomes (.reloadDone a) s (((gangOf st.word a).zipIdx.foldl (fun m b => m.setArray { m.array b.1 with
            tile := p.tile st.spec.cols (st.spec.kSpan b.2).1 (st.spec.kSpan b.2).2 }) (streams m n)).boundary a)) ∧
        (∀ m n, st.word.state = 1 → x.c.op = .hadamard → p.tileFail [] st.spec.cols = none → s.m.checkLocal (some x.c) [] = (m, n, none) →
          becomes (.reloadDone a) s ((streams m n).boundary a)) ∧
        (st.feeding = true →
          (x.blockUnits - st.fedIn < s.m.leftAt a x → becomes (.rowBlockBoundary a) s
            (((s.m.feedUnits a x (x.blockUnits - st.fedIn)).onGang st.word a fun t => { t with fedIn := 0 }).boundary a)) ∧
          (s.m.leftAt a x ≤ x.blockUnits - st.fedIn → becomes (.lastRowFed a) s
            ((s.m.feed a x st.spec.hi 0).onGang st.word a fun t => if t.word.state = 2 then
              { t with word := { t.word with state := 3 }, clean := t.clean && t.tile.clean, preempt := false } else t)) ∧
          (st.preempt = true → becomes (.dummyRowRun a) s ((s.m.feedSome a x).preemptNow a)) ∧
          (st.preempt = false → ((s.m.feedSome a x).array a).word.state = 2 → becomes (.dummyRowRun a) s
            ((s.m.feedSome a x).onGang st.word a fun t =>
              (({ t with ramp := .down, eighths := 0 }).bump st.word.job .DUMMY_ROWS 48).bump st.word.job .RAMPS 1)))) ∧
      (∀ r rest, st.draining = r :: rest → r.clean = true →
        (r.word.state ≠ 4 → becomes (.passChecksClean a) s ((s.m.onGang st.word a fun t => { t with draining := rest }).passDone a r)) ∧
        (r.word.state = 4 → becomes (.passChecksClean a) s (s.m.onGang st.word a fun t => { t with draining := rest }))) ∧
      (st.draining = [] → st.word.state = 3 → st.clean = true → becomes (.passChecksClean a) s
        ((s.m.onGang st.word a fun t => { t with word := { t.word with state := 6 } }).passDone a st.toPassRun)) ∧
      (st.ramp = .down → ∃ n, becomes (.rampDownDone a) s ((s.m.rampRows st).2.onGang st.word a fun t =>
        ({ t with ramp := .gated, eighths := 8
                  word := if st.word.state = 5 ∧ s.m.toReissue st.word = false then { t.word with state := 0 } else t.word }).bump
          st.word.job .DUMMY_ROWS n) ∧ n ≤ 64) ∧
      (st.word.state = 6 → st.draining = [] → st.ramp = .none → becomes (.rampDownDone a) s (s.m.onGang st.word a fun t =>
        ({ t with ramp := .gated, eighths := 8, word := { t.word with state := 0 } }).bump st.word.job .RAMPS 1)) ∧
      (st.word.state = 2 → st.ramp = .gated → st.inGap = false →
        becomes (.rampUpDone a) s (s.m.onGang st.word a fun t => ({ t with ramp := .none, eighths := 0 }).bump st.word.job .DUMMY_ROWS 0)) ∧
      (st.inGap = true → ∃ ready : Bool, becomes (.limiterGapEnd a) s
        ({ s.m with free := s.m.free + 1 }.onGang st.word a fun t =>
          ({ t with inGap := false, gap := 0, ramp := if ready then .none else .gated, eighths := if ready then 0 else 8 }).bump st.gapJob
            .LIMITER_CYCLES st.gap)) ∧
      (∀ r rest x, st.suspended = r :: rest → s.m.passData? r = some x → s.m.filler r.word.job = false → s.m.stakeServes (a / 4) x = true →
        ((gangOf r.word a).all fun b => (s.m.array b).canTake) = true →
        becomes (.passResume a) s (s.m.onGang r.word a fun t => ({ t with suspended := t.suspended.drop 1 }).load r))) ∧
  (∀ (s : State) (a : Nat) (id : CmdId) (r : Running) (x : Data) (total issued done i : Nat),
      s.m.dataAt? id = some (r, x) → r.work = .passes total issued done [] →
      let plan := x.passPlan (s.m.reader x.j x.got)
      let spec := plan.passes.getD i {}
      let w : PassWord :=
        { job := x.c.job, inc := x.c.pkt.inc.toNat, queue := x.c.pkt.queue.toNat, seq := x.c.pkt.seq.toNat, pass := r.base + i
          nextRow := spec.lo - spec.seg * segRows, ktile := spec.ktile, mode := plan.mode, gang := plan.gang
          chainSide := 0, reissued := false, state := 1 }
      nextPass id (s.m.array a) r plan [] = some (i, false) → spec.link = 0 → spec.last = true → a % gangSize plan.gang = 0 →
      x.c.op.isDistance = false → s.m.stakeServes (a / 4) x = true → s.m.filler x.c.job = false → s.m.limiterGap x.c.job = 0 →
      ((gangOf w a).all fun b => (s.m.array b).canTake) = true → x.fedBetween (s.m.reader x.j x.got) spec.lo spec.hi ≠ 0 →
      becomes (.passIssue a id) s
        (((s.m.setWork id.lane (.passes total (issued + 1) done [])).updRunning id.lane fun r => { r with took := r.took.concat i }).onGang w a
          fun t => t.load { word := w, spec := spec })) ∧
  (∀ (s : State) (a : Nat),
      (s.m.faultyPass a = (none, s.m) → becomes (.arrayCheckFault a) s s.m) ∧
      (∀ r, s.m.faultyPass a = (some r, s.m) → ∃ rec : LogRec, rec.cls = 0x01 ∧ rec.outcome = 2 ∧ rec.unit = ⟨1, a / 4⟩ ∧ rec.sub = a % 4 ∧
        rec.job = r.word.job ∧ rec.queue = r.word.queue ∧ rec.seq = r.word.seq ∧
        (r.word.reissued = false → becomes (.arrayCheckFault a) s (((s.m.addLog rec).discardFaulty a r s.m.record).stakeFault (a / 4))) ∧
        (r.word.reissued = true → becomes (.arrayCheckFault a) s (((s.m.addLog rec).discardFaulty a r s.m.record).takeOut (a / 4)))) ∧
      ((s.m.array a).draining = [] → (s.m.array a).word.state = 2 ∨ (s.m.array a).word.state = 3 →
        s.m.faultyPass a = (some (s.m.array a).toPassRun, s.m)) ∧
      (∀ p, (∀ i, i < 4 → s.m.filler (s.m.array (4 * p + i)).word.job = false) → becomes (.preemptRequest p) s s.m) ∧
      (∀ p, a = 4 * p → s.m.filler (s.m.array a).word.job = true → (s.m.array a).word.state = 2 → (s.m.array a).ramp = .none →
        (s.m.array a).word.gang = 0 → (∀ i, 1 ≤ i → i < 4 → (s.m.array (4 * p + i)).word.state = 0) →
        becomes (.preemptRequest p) s (s.m.onGang (s.m.array a).word a fun t => { t with preempt := true })))

/-- R215–R217, R237, R525: a segment of a data command completes. The command reads its operands' words of the segment's rows; with bytes
to come from elsewhere it asks for them, with a word that fails or a failure of its own rules it ends with that failure, and else the segment's
rows are written. Then, with no signal to raise or every write acknowledged, SIG0 rises for
the segment unless NF_FAIL met a non-finite value, and the command goes on to its next segment or, after the last one, ends. -/
def Obligations.SegmentCompletes : Prop :=
  (∀ (s : State) (l : Lane) (r : Running) (x : Data) (total done : Nat),
    s.m.running? l = some r → r.work = .segments total done false → s.m.dataAt? (r.cmd.id l) = some (r, x) → x.c.op ≠ .vexpr →
    s.m.isolations = [] →
    let rg := x.segSpan r.segs
    let e := x.body x.got rg.1 rg.2 (s.m.reader x.j x.got)
    let m := s.m.keepBytes (r.cmd.id l) x.got
    let ran := m.runEffect (r.cmd.id l) r x.j x.got (x.body x.got rg.1 rg.2)
    becomes (.segmentComplete l) s (match ran with
      | .wrote m' => (m'.updRunning l fun r => { r with segs := r.segs + 1, formed := [], took := [] }).endSegment (r.cmd.id l) x
      | .waits m' => m'
      | .failed m' st d pl =>
        let f := m'.failure x e st d pl
        m'.complete (r.cmd.id l) f.1 f.2.1 f.2.2) ∧
    (∀ locs, e.needs x.j x.got = some locs →
      ran = .waits ((m.ask x.j (r.cmd.id l) locs).setWork l (.remote x.got false))) ∧
    (e.needs x.j x.got = none → e.fail = none → (m.checkAccess (some r.cmd) e.reads.flatten (e.put.writes.map (·.1))).2.2 = none →
      ∃ m', ran = .wrote m')) ∧
  (∀ (m : Mod) (id : CmdId) (x : Data) (r : Running), m.cmd? id = some r →
    (r.cmd.namesSignal = false ∨ m.acked id r.cmd.job = true) →
    let n := x.segmentCount
    let bad := r.cmd.pkt.nfFail && r.sum.nonfinite != 0
    let m1 := if n ≤ 1 ∨ r.cmd.pkt.segSignal = false ∨ bad = true then m else m.signalTie r.cmd.pkt.sig0.toNat 1
    (r.segs < n → m.endSegment id x = m1.nextSegment id x bad) ∧
    (n ≤ r.segs → n = 1 → m.endSegment id x = (m1.leaves x).complete id r.ending.1 r.ending.2 (x.payload (m1.reader x.j r.fetched))))

/-- R62, R67–R70, R494, R527: PLAN_LOAD. A job that is loaded is refused, BUSY_REDUCING while its reductions are in flight; a
key that the policy does not list is REFUSED_AUTH; a demand that does not fit is REFUSED_FIT and changes nothing else; else the plan is
installed: the job is LOADED with its ties at their declared values and its queues expecting number 0. -/
def Obligations.PlanLoadOutcome : Prop :=
  ∀ (m : Mod) (id : CmdId) (c : Cmd),
    (∀ j, m.job? c.job = some j →
      m.startPlanLoad id c = (if j.waleBusy then m.complete id .busyReducing j.waleOps
        else m.complete id .refusedFit (refuseFit .jobLoaded 0).2)) ∧
    (m.job? c.job = none → ∀ ss, m.session? c.sid = some ss →
      let b := ss.staging.read (c.pkt.u 0 8) (c.pkt.u 8 4)
      let p := planOf b
      let keys := (m.policy.map (·.planKeys)).getD []
      (p.hasSection 1 = true → keys.contains p.ownerKey = false →
        ∃ d, m.startPlanLoad id c = { m with free := m.free + 1 }.complete id .refusedAuth d) ∧
      (p.hasSection 1 = false ∨ keys.contains p.ownerKey = true →
        m.startPlanLoad id c = match fitChecks m p b c.job c.pkt.inc.toNat (c.pkt.u 8 4) with
          | .error u => m.complete id .refusedFit (fitDetail u.res u.index u.short)
          | .ok pl => (m.installPlan p pl c.sid).complete id .ok 0 p.loadReply)) ∧
    (∀ (p : Plan) (pl : Placed) (sid : Nat),
      let t := m.installPlan p pl sid
      t.jobs = m.jobs.concat (m.newJob p pl sid) ∧ (m.newJob p pl sid).phase = .loaded ∧ (m.newJob p pl sid).plan = p ∧
        t.ties = m.ties.filter (fun t => t.job != p.job) ++ p.ties.map (fun t =>
          ({ ref := t.ref, job := p.job, inc := p.inc, level := t.level, value := t.value } : Tie)) ∧
        ∀ q ∈ p.queueIds, ∃ l, t.lane? (.queue q) = some l ∧ l.expected = 0 ∧ l.current = none ∧ l.accepted = [] ∧ l.replies = [])

/-- R64, R70–R74: the other commands of the Jobs group when they start. PLAN_START makes a job RUNNING and completes; QUIESCE makes it
QUIESCING and waits for the drain; PLAN_UNLOAD refuses while a FILLER is bound to the job and else releases it; JOB_ABORT leaves it
QUIESCED; JOB_NOTICE acts on its records in order.

R63: which operations each job state takes: a LOADED job takes PLAN_START, POOL_CONFIG and RESTORE but no other command of its
queues save POOL_STAT; a RUNNING job every command of its queues, QUIESCE, JOB_ABORT and JOB_NOTICE; a QUIESCING one only JOB_ABORT,
JOB_NOTICE and POOL_STAT; a QUIESCED one PLAN_UNLOAD, PLAN_START, JOB_ABORT, CHECKPOINT, RESTORE and POOL_STAT; one that aborts
nothing. -/
def Obligations.JobCommands : Prop :=
  (∀ (m : Mod) (id : CmdId) (c : Cmd) (j : Job), m.job? c.job = some j →
      (j.plan.trayPeers = [] → j.phase = .loaded → m.startPlanStart id c =
        (((((m.applyPools c.job).updJob c.job fun j => { j with phase := .running }).answerHolds c.job).replayWale c.job).pokeVerdict
          c.job).complete id .ok 0) ∧
      m.startQuiesce id c = (m.updJob c.job fun j => { j with phase := .quiescing }).setWork id.lane (.drain j.deadlines) ∧
      ((m.jobs.countP fun o => o.plan.cls == 2 && o.bound == c.job) = 0 → m.startUnload id c = (m.unload j).complete id .ok 0) ∧
      (∀ n, (m.jobs.countP fun o => o.plan.cls == 2 && o.bound == c.job) = n → n ≠ 0 →
        m.startUnload id c = m.complete id .refusedFit (refuseFit .fillerBound n).2) ∧
      (m.unload j).job? c.job = none ∧ (∀ t ∈ (m.unload j).ties, t.job ≠ c.job) ∧
      m.startAbort id c =
        (((m.abortJob c.job (some id) .abandoned freeDetail).disown c.job).updJob c.job fun j => { j with phase := .quiesced }).complete
          id .ok 0 ∧
      m.startNotice id c =
        ((List.range (noticeCount c.pkt)).foldl (fun m i => m.applyNotice (noticeRecord c.pkt i)) m).complete id .ok 0) ∧
  (∀ op : Op,
      (JobPhase.aborting.accepts op = false) ∧
      (JobPhase.loaded.accepts op = true ↔
        op ∈ [.poolStatRecords, .poolStatRequesters, .planStart, .planUnload, .jobAbort, .poolConfig, .restore]) ∧
      (JobPhase.running.accepts op = true ↔ op.control = false ∨ op ∈ [.quiesce, .jobAbort, .jobNotice]) ∧
      (JobPhase.quiescing.accepts op = true ↔ op ∈ [.poolStatRecords, .poolStatRequesters, .jobAbort, .jobNotice]) ∧
      (JobPhase.quiesced.accepts op = true ↔
        op ∈ [.poolStatRecords, .poolStatRequesters, .planUnload, .planStart, .jobAbort, .checkpoint, .restore]))

/-- R71, R73, R437, R463: the rows of a job complete. DRAIN_COMPLETE of a drained job makes it QUIESCED and answers its QUIESCE, OK, or
OK_DEGRADED with the deadlines passed during the drain; while something is left to drain it changes nothing. RETAIN_EXPIRY removes the
job's retained entries of the tensor whose 60 s have passed, fills their memory with +0 and leaves every other byte. A notice acts once by
its ID, and the steward relays one to the tray's members that hold the job, as far as it knows its ranks, and acts on it. -/
def Obligations.JobRows : Prop :=
  ∀ (s : State) (job : Nat),
    (∀ j, s.m.job? job = some j → j.phase = .quiescing → s.m.drained j = true →
      let m := s.m.updJob job fun j => { j with phase := .quiesced }
      (s.m.runnings = [] → becomes (.drainComplete job) s m) ∧
      (∀ l r before others rest, s.m.runnings = others ++ (l, r) :: rest → r.work = .drain before → r.cmd.job = job →
        (∀ x ∈ others ++ rest, x.2.cmd.job ≠ job ∨ ∀ d, x.2.work ≠ .drain d) →
        (j.deadlines ≤ before → becomes (.drainComplete job) s (m.complete (r.cmd.id l) .ok 0)) ∧
        (before < j.deadlines → becomes (.drainComplete job) s
          ((m.updSum l fun x => { x with degraded := true }).complete (r.cmd.id l) .okDegraded (j.deadlines - before))))) ∧
    (∀ j, s.m.job? job = some j → s.m.drained j = false → becomes (.drainComplete job) s s.m) ∧
    (∀ t, ∃ u, exec (.retainExpiry job t) s = .next u ∧
      u.m.retained = s.m.retained.filter (fun r => !(r.job == job && r.place.decl.id == t && r.since + 6000000000 ≤ s.m.now)) ∧
      u.m.jobs = s.m.jobs ∧ u.m.ties = s.m.ties ∧
      (∀ r ∈ s.m.retained, r.job = job → r.place.decl.id = t → r.since + 6000000000 ≤ s.m.now →
        ∀ e ∈ r.place.extents, ∀ a, e.1 ≤ a → a < e.1 + e.2 → u.m.byte a = 0#8) ∧
      (s.m.mem.wf → ∀ a, (∀ r ∈ s.m.retained, r.job = job → r.place.decl.id = t → r.since + 6000000000 ≤ s.m.now →
        ∀ e ∈ r.place.extents, a < e.1 ∨ e.1 + e.2 ≤ a) → u.m.mem.get a = s.m.mem.get a)) ∧
    (∀ n : NoticeRec, s.m.noticeIds.contains n.noticeId = true → becomes (.notice n) s s.m) ∧
    (∀ n : NoticeRec, s.m.noticeIds.contains n.noticeId = false → s.m.current? n.job n.inc = none →
      becomes (.notice n) s { s.m with noticeIds := n.noticeId :: s.m.noticeIds }) ∧
    (∀ (n : NoticeRec) j, s.m.noticeIds.contains n.noticeId = false → s.m.current? n.job n.inc = some j → s.m.isSteward = false →
      (n.kind = 1 ∨ n.kind = 2 ∨ n.kind = 4) →
      becomes (.notice n) s ({ s.m with noticeIds := n.noticeId :: s.m.noticeIds }.rankReset n.job n.rank)) ∧
    (∀ n : NoticeRec, s.m.isSteward = true → ∃ m : Mod,
      m = { s.m with out := ((s.m.members.filter fun a => match s.m.job? n.job with
        | some j => (List.range j.plan.ranks).any fun r => j.plan.addrOf r == a
        | none => true).reverse.map fun a => Out.notice a n) ++ s.m.out } ∧
      becomes (.noticeRelay n) s (m.applyNotice n)) ∧
    (∀ n : NoticeRec, s.m.isSteward = false → becomes (.noticeRelay n) s s.m)

/-- R380, R381, R383: a request of a withy pool takes the lowest free withies, or fails on its quota or for want of free withies and
then takes none; ADD_REF raises a withy's count unless it would pass 65,535; RELEASE lowers it, and a withy at 0 is free; a release of a
free withy is counted and recorded. The release of a withy of a parcel that a RESULT answered frees all of the parcel's withies and counts
its rows (the model's reading, log 110).

R380: a grant never takes a withy twice: the withies that a request takes are in the instance, were free, and are all
different and as many as asked for when enough are free; each is lower than every free one left. -/
def Obligations.WithyPools : Prop :=
  (∀ (s : State) (job pool pl cls : Nat) (c : PoolCell), s.m.cell? job pool pl cls = some c →
      (∀ n r0 who (q : Requester), 1 ≤ n → n ≤ 65535 → 1 ≤ r0 → r0 ≤ 65535 →
        (((s.m.poolState? job pool).map (·.requesters)).getD [])[who]? = some q →
        (s.m.held job pool who + n * classUnits cls ≤ q.quota → n ≤ c.free → c.reserve ≤ c.free - n →
          let ws := lowestFree (c.busy.map (·.index)) c.total 0 n
          becomes (.withyRequest job pool pl cls n r0 who false) s (s.m.updCell job pool pl cls fun x =>
            let y := { x with busy := x.busy ++ ws.map (fun i => (⟨i, r0, who⟩ : Withy)) }
            { y with lowWater := min y.lowWater y.free, grants := min ctrMax (y.grants + n) })) ∧
        (q.quota < s.m.held job pool who + n * classUnits cls →
          becomes (.withyRequest job pool pl cls n r0 who false) s
            (s.m.updCell job pool pl cls fun c => { c with quotaFails := min ctrMax (c.quotaFails + 1) })) ∧
        (s.m.held job pool who + n * classUnits cls ≤ q.quota → c.free < n →
          becomes (.withyRequest job pool pl cls n r0 who false) s
            (s.m.updCell job pool pl cls fun c => { c with emptyFails := min ctrMax (c.emptyFails + 1) }))) ∧
      (∀ i d w, (c.busy.find? fun w => w.index == i) = some w →
        (w.refs + d ≤ 65535 → becomes (.withyAddRef job pool pl cls i d) s (s.m.updCell job pool pl cls fun c =>
          { c with busy := c.busy.map fun w => if w.index == i then { w with refs := w.refs + d } else w })) ∧
        (65535 < w.refs + d → becomes (.withyAddRef job pool pl cls i d) s (s.m.countJob job .POOL_REF_SATURATED)) ∧
        ((∀ j, s.m.job? job = some j → j.resultedIn pool pl cls i = none) → becomes (.withyRelease job pool pl cls i) s ((s.m.updCell job pool pl cls fun c =>
          let lowered := c.busy.map fun w => if w.index == i then { w with refs := w.refs - 1 } else w
          { c with busy := lowered.filter fun w => w.refs != 0 }).pullsOf job pool))) ∧
      (∀ i j e step x, s.m.job? job = some j → j.resultedIn pool pl cls i = some (e, step, x) →
        becomes (.withyRelease job pool pl cls i) s
          (((((s.m.freeWithies j e x.withies).mapParcel job e.id step (fun y => y.is x.source x.group x.slot x.grad) fun y =>
            { y with phase := .run, withies := [], rows := [] }).updSlot job e.id step x.slot fun q =>
              { q with out := q.out + x.count }).pullsOf job pool).recvMoved j e step)) ∧
      (∀ i, (∀ j, s.m.job? job = some j → j.resultedIn pool pl cls i = none) → (c.busy.any fun w => w.index == i) = false → becomes (.withyRelease job pool pl cls i) s
        (((s.m.countJob job .POOL_BAD_RELEASE).logMisuse job ⟨if pl < 4 then 3 else 9, pl⟩ i).pullsOf job pool))) ∧
  (∀ (busy : List Nat) (total n : Nat), busy.Nodup → (∀ b ∈ busy, b < total) → n ≤ total - busy.length →
      let ws := lowestFree busy total 0 n
      ws.length = n ∧ ws.Nodup ∧ (∀ w ∈ ws, w < total ∧ w ∉ busy) ∧
        (∀ w ∈ ws, ∀ v, v < w → v ∈ busy ∨ v ∈ ws))

/-- R247, R249: the end of a fetch into Tier A: when no write of the tensor is in flight and its home reads clean, the copy holds the
home's bytes, is valid, and the fetch is counted; while a write is in flight nothing happens. -/
def Obligations.ResidencyFetch : Prop :=
  ∀ (s : State) (job t : Nat) (j : Job) (r : Residency) (pl : TensorPlace) (base : Nat), s.m.job? job = some j → j.res? t = some r →
    j.place? t = some pl → r.fetching = true → r.copyBase = some base →
    (s.m.written job t = true → becomes (.residencyFetchDone job t) s s.m) ∧
    (∀ m' k, s.m.written job t = false →
      s.m.checkLocal none ((List.range pl.decl.bytes).map pl.place.addr) = (m', k, none) →
      becomes (.residencyFetchDone job t) s
        (((m'.store (((List.range pl.decl.bytes).map pl.place.addr).zipIdx.map fun (a, i) => (base + i, m'.byte a))).updJob job
          fun j => { j.updRes t (fun r => { r with valid := true, fetching := false }) with
            counters := (j.counters.bump .RESIDE_FETCHES 1).bump .RESIDE_BYTES pl.decl.bytes }).pokeResidency job))

/-- R62, R286, R353: an exchange message of a job that is not resident, of another incarnation, or of a job under reset does nothing
but be counted or turned away, whatever its kind. -/
def Obligations.StrayExchangeMessages : Prop :=
  ∀ (s : State) (x : ExMsg),
    ∀ i ∈ [Instr.counts x, .parcel x, .accept x, .hold x, .pull x, .result x, .tags x, .keep x, .grad x, .dgrad x, .spoil x],
      (s.m.job? x.job = none → becomes i s (s.m.count .staleTraffic)) ∧
      (∀ j, s.m.job? x.job = some j → s.m.resettingFor x.job = true → becomes i s (s.m.turnAway (.exchange x.source x))) ∧
      (∀ j, s.m.job? x.job = some j → s.m.resettingFor x.job = false → j.plan.inc ≠ x.inc → becomes i s (s.m.count .staleTraffic))

/-- R265, R270, R273, R276: the messages to a receiver of an exchange complete. COUNTS enters the count vector once for each sender and
group; a PARCEL or a GRAD that finds withies enters with its rows and is answered with ACCEPT; one that finds none is held without its rows,
its pairs are counted, and it is answered with HOLD unless the job is still LOADED; one of a spoiled step is discarded; TAGS are kept once. A
message of a step that is not open opens it.

R269, R271, R273, R276, R282, R285: the messages to a token owner complete. ACCEPT and HOLD mark the sent parcel or gradient (HOLD its
pairs' tags too), PULL sends it again with HELD, or a SPOIL when the step is spoiled, RESULT and DGRAD bring rows, KEEP marks the pairs not
kept as dropped and sends the rest, or takes the parcel as accepted when none is left, and SPOIL spoils the step. -/
def Obligations.ExchangeRows : Prop :=
  (∀ (s : State) (x : ExMsg) (j0 : Job) (e : ExchangeDecl) (n : Nat), s.m.takesEx x j0 e n →
      let m := s.m.ensureEx j0 e n
      ((j0.ex? e.id n).isSome → m = s.m) ∧
      ∀ (j : Job) (st : ExStep), m.job? x.job = some j → j.ex? e.id n = some st →
        becomes (.counts x) s ((m.updEx j.plan.job e.id n fun s =>
          if s.counts.any fun c => c.source == x.source && c.group == x.group then s
          else { s with counts := s.counts.concat { source := x.source, group := x.group, last := x.lastGroup, entries := x.entries } }).recvMoved
            j e n) ∧
        (∀ g, st.spoiled = none → (st.entry x.source x.group x.slot).isSome → st.parcel? x.source x.group x.slot g = none →
          let new : ParcelIn :=
            { source := x.source, group := x.group, slot := x.slot, grad := g, count := x.tags.length, tags := x.tags, rows := x.rows
              rows2 := x.rows2, phase := .inWithies, wasHeld := false, withies := [], acked := true }
          let runs := j.phase != .loaded
          let held := { new with tags := [], rows := [], rows2 := [], phase := .held, wasHeld := true, acked := runs }
          let t := match m.requestRecv j.plan e st (e.withiesFor x.tags.length) (st.head j.plan e == some (g, x.source, x.group, x.slot)) with
            | (m, some ws) => ((m.updEx j.plan.job e.id n fun s => { s with parcelsIn := s.parcelsIn.concat { new with withies := ws } }).answer
                j e n new .accept).recvMoved j e n
            | (m, none) =>
              let m := ((m.updEx j.plan.job e.id n fun s => { s with parcelsIn := s.parcelsIn.concat held }).updSlot j.plan.job e.id n x.slot
                fun q => { q with heldPairs := q.heldPairs + x.tags.length }).countJob j.plan.job .EXCHANGE_HELD_PAIRS x.tags.length
              (if runs then m.answer j e n held .hold else m).recvMoved j e n
          (g = false → becomes (.parcel x) s t) ∧ (g = true → becomes (.grad x) s t)) ∧
        (st.spoiled.isSome → becomes (.parcel x) s m ∧ becomes (.grad x) s m) ∧
        becomes (.tags x) s ((m.updEx j.plan.job e.id n fun s =>
          if s.spoiled.isSome || s.tagsIn.any fun y => y.is x.source x.group x.slot false then s
          else
            let new : ParcelIn :=
              { source := x.source, group := x.group, slot := x.slot, grad := false, count := x.tags.length, tags := x.tags, rows := []
                rows2 := [], phase := .held, wasHeld := false, withies := [] }
            { s with tagsIn := s.tagsIn.concat new }).recvMoved j e n)) ∧
  (∀ (s : State) (x : ExMsg) (j0 : Job) (e : ExchangeDecl) (n : Nat), s.m.takesEx x j0 e n →
      let m := s.m.ensureEx j0 e n
      ((j0.ex? e.id n).isSome → m = s.m) ∧
      ∀ (j : Job) (st : ExStep), m.job? x.job = some j → j.ex? e.id n = some st →
        becomes (.accept x) s ((m.mapOut j.plan.job e.id n x fun o =>
          if o.grad.isSome then { o with grad := some .accepted } else { o with phase := .accepted }).moveStep j.plan.job e.id n) ∧
        becomes (.hold x) s ((m.mapOut j.plan.job e.id n x fun o =>
          if o.grad.isSome then { o with grad := some .held } else { o with phase := .held, wasHeld := true }).mapLedger j.plan.job e.id n
            fun l => if l.of x && !l.tag.dropped then { l with tag := { l.tag with held := true } } else l) ∧
        (st.spoiled.isSome → becomes (.pull x) s (m.emit (.exchange x.source .spoil (j.plan.exMsg e.id x.group n x.slot)))) ∧
        (∀ o, st.spoiled = none → st.out? x = some o →
          let ls := st.parcelSlots x.group x.source x.slot
          let msg := j.plan.parcelMsg e x.group n x.slot (st.sentAll && x.group + 1 == st.nextGroup) ls true
          (o.grad = none → becomes (.pull x) s
            ((m.mapOut j.plan.job e.id n x fun o => { o with phase := .sent }).emit (.exchange x.source .parcel msg))) ∧
          (o.grad.isSome → becomes (.pull x) s ((m.mapOut j.plan.job e.id n x fun o => { o with grad := some .sent }).emit
            (.exchange x.source .grad { msg with rows := ls.map (fun l => l.gRow.getD []), rows2 := ls.map fun l => l.rowIn.getD [] })))) ∧
        becomes (.result x) s ((m.mapLedger j.plan.job e.id n fun l =>
          if l.of x then { l with rowOut := (exRow x l).or l.rowOut } else l).moveStep j.plan.job e.id n) ∧
        becomes (.dgrad x) s ((m.mapLedger j.plan.job e.id n fun l =>
          if l.of x then { l with dRow := (exRow x l).or l.dRow } else l).moveStep j.plan.job e.id n) ∧
        becomes (.spoil x) s (m.spoilBy j.plan.job e.id n x.source) ∧
        (∀ o, st.out? x = some o → o.phase = .tagsSent → st.spoiled = none →
          let ls := st.parcelSlots x.group x.source x.slot
          let gone := ((ls.zip x.keep).filter fun p => !p.2).map fun p => (p.1.tag.token, p.1.tag.kslot)
          let kept := ls.filter fun l => !gone.contains (l.tag.token, l.tag.kslot)
          let marked := m.mapLedger j.plan.job e.id n fun l =>
            if l.of x && gone.contains (l.tag.token, l.tag.kslot) then { l with tag := { l.tag with dropped := true } } else l
          (kept = [] → becomes (.keep x) s
            ((marked.mapOut j.plan.job e.id n x fun o => { o with phase := .accepted }).moveStep j.plan.job e.id n)) ∧
          (kept ≠ [] → becomes (.keep x) s
            (((marked.mapOut j.plan.job e.id n x fun o => { o with phase := .sent }).emit (.exchange x.source .parcel
              (j.plan.parcelMsg e x.group n x.slot (st.sentAll && x.group + 1 == st.nextGroup) kept false))).moveStep j.plan.job e.id n))))

/-- R271, R276: which parcels a forward round takes and which positions a selection keeps. A round takes parcels in canonical order, at least
one, with no more than the limit's rows together, each with all the rows that it still has, save a parcel that alone has more, of which it
takes the limit's rows (the model's reading, log 110); a selection keeps at most C different positions of the list.

R271, R278, R282, R283: the rounds of an expert slot complete. A forward round of the oldest open step runs the body on the rows of the
parcels that it takes, answers each parcel whose rows have all run with a RESULT, counts and records the round; a backward round runs the
span of pairs that are present, sends their DGRADs, and with the last pair writes the weight gradients; a slot without pairs has its gradients
written +0; a body that fails ends the step's commands. With nothing to run, or in a job that is not running, neither changes anything. -/
def Obligations.ExpertRounds : Prop :=
  ((∀ (limit : Nat) (ps : List ParcelIn), (∀ p ∈ ps, p.ran < p.count) →
      let ts := takeRound limit 0 ps
      ts.map (·.1) <+: ps ∧ (ps ≠ [] → ts ≠ []) ∧ (ts.map (·.2)).sum ≤ limit ∧
        ∀ x ∈ ts, x.2 = x.1.count - x.1.ran ∨ (ts = [(x.1, limit)] ∧ limit < x.1.count - x.1.ran)) ∧
    (∀ (c : Nat) (tags : List Tag), (keptPositions c tags).length = min c tags.length ∧ (keptPositions c tags).Nodup ∧
      (∀ i ∈ keptPositions c tags, i < tags.length))) ∧
  (∀ (s : State) (job exch slot : Nat) (j : Job) (e : ExchangeDecl), s.m.job? job = some j → j.plan.exchange? exch = some e →
      (((j.openSteps exch).find? fun s => !(s.waiting slot).isEmpty) = none → becomes (.forwardRound job exch slot) s s.m) ∧
      (j.runs = false → becomes (.forwardRound job exch slot) s s.m ∧ becomes (.backwardRound job exch slot) s s.m) ∧
      (∀ st, j.runs = true → ((j.openSteps exch).find? fun s => !(s.waiting slot).isEmpty) = some st →
        let ps := takeRound e.roundRows 0 (st.waiting slot)
        let ins := ps.flatMap fun x => (x.1.rows.drop x.1.ran).take x.2
        let b := s.m.runBody j e slot e.bodyFwd ins [] 0 0 []
        match b.fail with
        | some (c, d, _) => becomes (.forwardRound job exch slot) s (b.m.bodyFailed j e st.step c d)
        | none => ∃ m : Mod,
          becomes (.forwardRound job exch slot) s (((m.updSlot job exch st.step slot fun q => { q with roundsFwd := q.roundsFwd + 1 }).traceRound
            j e slot ins.length).recvMoved j e st.step) ∧ m.mem = b.m.mem ∧
          ∀ p ∈ ps, p.1.ran + p.2 = p.1.count → ∃ rows, Out.exchange p.1.source .result
            { j.plan.exMsg e.id p.1.group st.step slot with tags := p.1.tags, rows := rows, held := p.1.wasHeld } ∈ m.out) ∧
      (∀ st, j.runs = true → slot < (e.slotsOf j.plan.rank).length → (j.openSteps exch).head? = some st →
        let senders := j.plan.senders e
        let fin := st.allFinished senders
        let q := (st.slots.find? fun q => q.slot == slot).getD { slot := slot }
        let known := st.knownParcels e slot senders
        let total := (known.map (·.2.2)).sum
        q.written = false →
          (fin = true → total = 0 → becomes (.backwardRound job exch slot) s
            ((if e.emptyAbsent then s.m else s.m.writeGrads j e slot 0 none).updSlot j.plan.job e.id st.step slot fun q =>
              { q with written := true })) ∧
          (fin = false ∨ total ≠ 0 → fin = true ∨ e.drawsAcc = false →
            let carried := q.carry.map fun c => (⟨c.1, c.2.1, c.2.2, c.1.source, c.1.token / 256⟩ : SpanPair)
            let ready := carried ++ st.present slot known
            let n := spanLen q.bwdNext e.roundRows ready.length (if fin then some total else none)
            let took := ready.take n
            let b := s.m.runBody j e slot e.bodyBwd (took.map (·.row)) (took.map (·.grow)) q.bwdNext total q.acc
            n ≠ 0 → match b.fail with
              | some (c, d, _) => becomes (.backwardRound job exch slot) s (b.m.bodyFailed j e st.step c d)
              | none =>
                let sent := b.m.sendDgrads j e st.step slot (took.zip (b.rowsAt roundIn n e.inBytes))
                let span := sent.endSpan j e st slot (took.drop carried.length) (ready.drop n)
                let done := fin && q.bwdNext + n == total
                let m := if done then span.1.writeGrads j e slot (st.divisor j.plan e slot) (some b.acc) else span.1
                becomes (.backwardRound job exch slot) s ((((m.updSlot j.plan.job e.id st.step slot fun q =>
                  { q with
                    roundsBwd := q.roundsBwd + 1, bwdNext := q.bwdNext + n, acc := if done then [] else b.acc
                    carry := span.2.map (fun x => (x.tag, x.grow, x.row)), written := done }).traceRound j e slot n).pullsOf j.plan.job
                      e.recvPool).recvMoved j e st.step))))

/-- R62, R64, R291, R293, R297, R299, R306, R311, R314, R316, R353: the wale packets complete. A job that resets turns a packet away, one of
another incarnation is counted and does nothing, a LOADED job holds it; a packet of a job that runs is taken, and what the job held is looked
at again. CHUNK is acknowledged and its values reach its node as the sending child's input; ACK of the parent ends its chunk, of a child its
gathered chunk; SCALES are stored for the next step and sent on; GATHER stores and forwards a chunk of a shard; NORM_UP gives the child's
vector and bits to the node; CLEAR is kept for the SEND that it lets go on; SEND_DATA writes its chunk into the RECV and is acknowledged, ends
it with BOUNDS where the element counts differ, and is held while no RECV takes it. -/
def Obligations.WalePacketRows : Prop :=
  ∀ (s : State) (x : WaleMsg),
    (∀ p ∈ [(Instr.chunk x, WaleKind.chunk), (.ack x, .ack), (.scales x, .scales), (.gatherChunk x, .gather),
        (.normUp x, .normUp), (.clear x, .clear), (.sendData x, .sendData)],
      (s.m.resettingFor x.job = true → becomes p.1 s (s.m.turnAway (.wale x.source p.2 x))) ∧
      (s.m.resettingFor x.job = false → s.m.current? x.job x.inc = none →
        becomes p.1 s ((s.m.count .staleTraffic).countJob x.job .WALE_STALE)) ∧
      (∀ j, s.m.resettingFor x.job = false → s.m.current? x.job x.inc = some j → j.phase = .loaded →
        becomes p.1 s (s.m.holdWale x.job p.2 x)) ∧
      (∀ j, s.m.takesWale p.2 x j →
        let r := s.m.takeWale j p.2 x
        becomes p.1 s ((if r.2 then r.1 else r.1.holdWale x.job p.2 x).replayWale x.job))) ∧
    (∀ j b, j.plan.bucket? x.bucket = some b →
      let job := j.plan.job
      let step := j.waleStep x.step
      let t : Tree := ⟨(j.plan.group b.group).length, x.shard⟩
      let c := (b.shard t.n x.shard).1 + x.chunk
      (∀ e r, s.m.takesWale .chunk x j → j.step.toNat ≤ step + 16 →
        ((t.children (j.plan.posIn b.group)).find? fun c => j.plan.rankOf b.group c.2 == x.source) = some (e, r) →
        let m := (s.m.ackWale j x).ensureNode job b.id step x.shard
        (∀ a d, m.nodeAt? job b.id step x.shard = some a → a.n.deadline = some d → m.now ≤ d) →
        becomes (.chunk x) s (((m.giveInput job b.id step x.shard
          { edge := e, chunk := c, values := decodeChunk x.vfmt (b.chunkElems c) x.body, contrib := x.contrib
            missing := x.missing, scales := bodyCodes x.vfmt x.body }).endReduces job b.id step).replayWale x.job)) ∧
      (s.m.takesWale .ack x j → x.bucket ≠ 0 →
        ((t.parent (j.plan.posIn b.group)).map (j.plan.rankOf b.group) = some x.source → becomes (.ack x) s
          (((s.m.updNode job b.id step x.shard fun nd =>
            { nd with
              formed := nd.formed.map (fun f => if f.chunk == c then { f with acked := true } else f)
              inputs := nd.inputs.filter fun i => i.chunk != c || i.contrib == 0 }).endReduces job b.id step).replayWale x.job)) ∧
        ((t.parent (j.plan.posIn b.group)).map (j.plan.rankOf b.group) ≠ some x.source → becomes (.ack x) s
          (((s.m.updGather job b.id step fun g => { g with unacked := g.unacked.erase (x.shard, c, x.source) }).endGathers
            job).replayWale x.job))) ∧
      (s.m.takesWale .scales x j →
        let codes := x.body.map BitVec.toNat
        let m := (s.m.storeScales job b.id (step + 1) x.shard codes).ensureNode job b.id step x.shard
        let m := match m.nodeAt? job b.id step x.shard with
          | some a => m.sendScales a codes
          | none => m
        becomes (.scales x) s ((((m.formNode job b.id (step + 1) x.shard false).endReduces job b.id (step + 1)).pokeScales job).replayWale
          x.job)) ∧
      (s.m.takesWale .gather x j → x.bucket ≠ 0 →
        let m := s.m.ensureGather job b.id step
        ∀ j' g, m.job? job = some j' → j'.gather? b.id step = some g → g.stored.contains (x.shard, c) = false →
          becomes (.gatherChunk x) s ((((m.ackWale j x).takeGather j b step x.shard c x.vfmt x.body).endGathers job).replayWale x.job))) ∧
    (∀ j e r, s.m.takesWale .normUp x j → ((j.plan.normTree.children j.plan.rank).find? fun c => c.2 == x.source) = some (e, r) →
      becomes (.normUp x) s ((s.m.giveNorm j (j.waleStep x.step) e x.vec (vDegraded x.word) (vSpoiled x.word) (vNonfinite x.word)
        (vSpoiler x.word)).replayWale x.job)) ∧
    (∀ j, s.m.takesWale .clear x j →
      let m := s.m.updJob j.plan.job fun j => { j with clears := j.clears.concat (x.source, x.step, x.count) }
      let waits (r : Running) : Bool := match r.work with
        | .stream _ _ _ _ clear _ => !clear
        | _ => false
      (((m.streams j.plan.job .send x.source x.step).find? fun s => waits s.2) = none → becomes (.clear x) s (m.replayWale x.job)) ∧
      (∀ id r, ((m.streams j.plan.job .send x.source x.step).find? fun s => waits s.2) = some (id, r) →
        becomes (.clear x) s ((m.pokeSend id).replayWale x.job))) ∧
    (∀ j, s.m.takesWale .sendData x j →
      let takes (r : Running) : Bool := match r.work with
        | .stream _ _ _ true _ chunks => !chunks.contains x.chunk
        | _ => false
      (((s.m.streams j.plan.job .recv x.source x.step).find? fun s => takes s.2) = none →
        becomes (.sendData x) s ((s.m.holdWale x.job .sendData x).replayWale x.job)) ∧
      (∀ id r r' d peer tag got clear chunks, ((s.m.streams j.plan.job .recv x.source x.step).find? fun s => takes s.2) = some (id, r) →
        s.m.dataAt? id = some (r', d) → r.work = .stream peer tag got true clear chunks →
        let v := d.v 0x10
        (x.count ≠ v.d.volume → becomes (.sendData x) s ((s.m.complete id .bounds x.count).replayWale x.job)) ∧
        (x.count = v.d.volume →
          let rd := s.m.reader d.j got
          let q := d.chunkPut v rd r.cut x.chunk x.vfmt x.body
          let p := q.1
          let k := s.m.checkAccess (some r.cmd) p.reads (p.writes.map (·.1))
          let m := k.1.updSum id.lane fun s => { s.counts p.counts with corrected := s.corrected + k.2.1 }
          becomes (.sendData x) s ((match k.2.2 with
            | some n => m.complete id .faultDetected n
            | none => ((((m.land d.j id rd p.writes).updRunning id.lane fun r => { r with cut := q.2 }).setWork id.lane
                (.stream peer tag (p.writes ++ got) true true (chunks.concat x.chunk))).ackWale j x).endRecv id).replayWale x.job))))

/-- R305, R306, R316, R318, R339, R353: the verdicts and the deadlines complete. A verdict that its rank takes is recorded, ends the step's
NORM, and reaches the commands that wait for it; one that a resetting job gets is turned away; the root answers a verdict request from its record; a request is repeated; the deadlines of a reduction and of NORM act only once they have
passed; the rollback window ends at its time. -/
def Obligations.WaleTimersAndVerdicts : Prop :=
  ∀ (s : State) (job step : Nat),
    (∀ x, becomes (.verdict x) s ((s.m.onWale .verdict x).pokeVerdict x.job)) ∧
    (∀ x j, s.m.takesWale .verdict x j →
      let n := j.waleStep x.step
      (∀ v, s.m.verdict? j.plan.job n = some v →
        becomes (.verdict x) s (((s.m.endNorms v).replayWale x.job).pokeVerdict x.job)) ∧
      (s.m.verdict? j.plan.job n = none →
        let v : VerdictRec := { job := j.plan.job, inc := j.plan.inc, step := n, word := x.word, vec := x.vec }
        becomes (.verdict x) s ((((s.m.recordVerdict v).endNorms v).replayWale x.job).pokeVerdict x.job))) ∧
    (∀ x, s.m.resettingFor x.job = true → becomes (.verdict x) s ((s.m.turnAway (.wale x.source .verdict x)).pokeVerdict x.job)) ∧
    (∀ rank v, s.m.resettingFor job = false → (s.m.verdicts.reverse.find? fun v => v.job == job && v.step == step) = some v →
      becomes (.verdictRequest job step rank) s (s.m.emit (.verdictTell rank job step v.word v.vec))) ∧
    (∀ id r j, s.m.cmd? id = some r → r.work = .verdictAsk → s.m.job? r.cmd.job = some j →
      becomes (.verdictRequestRetry id) s (s.m.askVerdict j)) ∧
    (∀ bucket shard a d, s.m.nodeAt? job bucket step shard = some a → a.n.deadline = some d →
      (d ≤ s.m.now → a.j.phase ≠ .loaded →
        becomes (.waleDeadline job bucket step shard) s ((s.m.expireNode a).endReduces job bucket step)) ∧
      (s.m.now < d → becomes (.waleDeadline job bucket step shard) s s.m)) ∧
    (∀ j n d, s.m.job? job = some j → j.norm? step = some n → n.deadline = some d →
      (d ≤ s.m.now → n.formed = false → j.phase ≠ .loaded →
        let lost := j.plan.normEdges.filter fun e => !(n.gone.contains e || n.inputs.any fun i => i.1 == e)
        becomes (.normDeadline job step) s
          (((((s.m.trace_ { time := 0, kind := 6, job := job, inc := j.plan.inc, arg1 := lost.length }).updNorm job step fun n =>
            lost.foldl (fun n e => n.lose j.plan e) n).updJob job fun j => { j with deadlines := j.deadlines + lost.length }).formNorm
              job step))) ∧
      (s.m.now < d → becomes (.normDeadline job step) s s.m)) ∧
    (∀ j t, s.m.job? job = some j → j.rollbackUntil = some t →
      (t ≤ s.m.now → becomes (.rollbackWindowEnd job) s (s.m.updJob job fun j => { j with rollbackUntil := none })) ∧
      (s.m.now < t → becomes (.rollbackWindowEnd job) s s.m))

/-- R341–R343: a sweep unit finishes its next page: the page's writes are journalled and stored, its stamp takes the step and the time, and
the page leaves the command's list; the last page ends the sweep. A page whose words fail ends the sweep rolled forward, with the fault. -/
def Obligations.SweepPageDone : Prop :=
  ∀ (s : State) (u : Nat) (l : Lane) (r : Running) (j : Job) (range page : Nat) (rest : List (Nat × Nat × Nat)) (pages : Nat)
    (v : VerdictRec) (rg : RangeDecl),
    s.m.runnings = [(l, r)] → r.work = .sweep ((range, u, page) :: rest) pages → s.m.job? r.cmd.job = some j →
    s.m.stoppedAt (.sweep u) = false → s.m.verdict? r.cmd.job j.step.toNat = some v → j.plan.range? range = some rg →
    let id := r.cmd.id l
    let w := (j.readBy id).pageWork j rg (fun i => f32 (BitVec.ofNat 32 (r.cmd.pkt.u (8 + 4 * i) 4))) (v.vec.headD 0#32) u page s.m.byte
    let k := s.m.checkAccess (some r.cmd) w.reads (w.put.writes.map (·.1))
    let m := (k.1.updSum l fun s => { s with corrected := s.corrected + k.2.1 }).noteReads id r.cmd.job true w.reads
    (∀ n, k.2.2 = some n → becomes (.sweepPage u) s (m.failSweep id r.cmd.job .faultDetected n)) ∧
    (k.2.2 = none → ∃ m' : Mod, m'.mem = s.m.mem.writeAll w.put.writes ∧ m'.ties = s.m.ties ∧ (k.1.out = s.m.out → m'.out = s.m.out) ∧
      (∀ j', m'.job? r.cmd.job = some j' → (j'.stamp (range, u, page)) = j.step.toNat) ∧
      (rest = [] → becomes (.sweepPage u) s ((m'.endSweep id (vDegraded v.word) (pages + 1)).pokeSteps r.cmd.job)) ∧
      (rest ≠ [] → becomes (.sweepPage u) s (m'.setWork l (.sweep rest (pages + 1)))))

/-- R211–R214: the messages of a split request complete. A part that reports leaves the list of those still open; when all have reported STAGED the
request commits, and when one failed it ends PART_FAILED with nothing written. A part that receives COMMIT writes what it staged, an ABORT
frees what it staged, and the last acknowledgement ends the command; a part whose channel is out of service is recorded, fails the request,
and is not written. -/
def Obligations.SplitRequestRows : Prop :=
  ∀ (s : State) (id : CmdId) (part status : Nat),
    (∀ r unstaged failed, s.m.cmd? id = some r → r.work = .split unstaged failed [] → part ∈ unstaged →
      let left := unstaged.filter (· != part)
      let bad := if status = 0 then failed else failed.concat (part, status)
      (left ≠ [] → becomes (.partStaged id part status) s (s.m.setWork id.lane (.split left bad []))) ∧
      (left = [] → bad = [] →
        becomes (.partStaged id part status) s (s.m.setWork id.lane (.split [] [] ((s.m.staged.filter fun t => t.id == id).map (·.part))))) ∧
      (left = [] → bad ≠ [] →
        let e := partFailed (bad.map fun f => (f.1, f.2, 1))
        e.1 = .partFailed ∧
          becomes (.partStaged id part status) s ((s.m.countJob r.cmd.job .SPLIT_ABORTED).complete id e.1 e.2.1 e.2.2))) ∧
    (∀ r t failed left, s.m.cmd? id = some r → r.work = .split [] failed left → part ∈ left →
      (s.m.staged.find? fun t => t.id == id && t.part == part) = some t → t.written = false →
      let ws := (s.m.stagedWrites t).1
      let lost := ws.find? fun w => isLocal w.1 && s.m.badChannel w.1
      ∃ t', exec (.splitCommit id part) s = .next t' ∧ (lost = none → t'.m.mem = s.m.mem.writeAll ws) ∧
        (lost.isSome → t'.m.mem = s.m.mem) ∧
        ∀ u ∈ t'.m.staged, u.id = id → u.part = part → u.recorded = true ∧ u.writes = ws ∧ u.written = lost.isNone) ∧
    (∀ t, s.m.cmd? id = none → (s.m.staged.find? fun t => t.id == id && t.part == part) = some t →
      (t.recorded = true → becomes (.splitAbort id part) s s.m) ∧
      (t.recorded = false → becomes (.splitAbort id part) s (s.m.freeStaged id part))) ∧
    (∀ r failed left, s.m.cmd? id = some r → r.work = .split [] failed left → part ∈ left →
      (s.m.staged.find? fun t => t.id == id && t.part == part && !t.recorded) = none →
      let rest := left.filter (· != part)
      let m := s.m.freeStaged id part
      (rest ≠ [] → becomes (.commitAck id part) s (m.setWork id.lane (.split [] failed rest))) ∧
      (rest = [] → failed = [] → becomes (.commitAck id part) s ((m.payOwed id).endSplit id (m.scatterRows id))) ∧
      (rest = [] → failed ≠ [] →
        let e := partFailed (failed.map fun f => (f.1, f.2, 2))
        becomes (.commitAck id part) s ((m.payOwed id).complete id e.1 e.2.1 e.2.2)))

/-- R222, R238, R422, R425, R427: a tray operation completes at its target. While its job or the module resets it is turned away; an address that the
target does not perform is answered ADDRESS, a write to a region that another owns NOT_OWNER, with nothing written. Otherwise the
operation is performed: the new value is that of its row of the table, and the old one returns for LOAD, for CAS and for FETCH; a word that
cannot be read, or a channel out of service, is answered with bad data.

R285, R309, R414, R425: the requester's answers complete. A response to no open operation does nothing; one with bad data ends
the command FAULT_DETECTED with a record, ADDRESS and NOT_OWNER end it BOUNDS with 15 or 14 and the tray address, and any other lets it go
on. TARGET_RESETTING ends a waiting command with its own status, UNREACHABLE with FAULT_DETECTED and a record; an exchange step is
spoiled by either. -/
def Obligations.TrayOperationRows : Prop :=
  ((∀ (n old x y : Nat), trayNew .add n old x y = some ((old + x) % 2 ^ (8 * n)) ∧
      trayNew .cas n old x y = (if old = y then some x else none) ∧
      trayNew .min n old x y = some (if signedOf (8 * n) x < signedOf (8 * n) old then x else old) ∧
      trayNew .max n old x y = some (if signedOf (8 * n) old < signedOf (8 * n) x then x else old) ∧
      trayNew .fadd n old x y = some (add32 (BitVec.ofNat 32 old) (BitVec.ofNat 32 x)).toNat ∧
      trayNew .store n old x y = some x ∧ trayNew .load n old x y = none) ∧
    ∀ (s : State) (r : TrayReq), ∀ p ∈ [(Instr.trayLoad r, TrayOp.load), (.trayStore r, .store), (.trayAdd r, .add), (.trayMin r, .min),
        (.trayMax r, .max), (.trayCas r, .cas), (.trayFadd r, .fadd)],
      let answer (m : Mod) (result : Nat) (data : Bytes) (bad : Bool) : Mod :=
        m.emit (.trayResponse r.src p.2 { tag := r.tag, result := result, data := data, bad := bad })
      let loc := r.addr.toNat % 2 ^ 48
      let n := sizeBytes r.size
      let returns := p.2 == .load || p.2 == .cas || (r.fetch && p.2 != .store)
      (s.m.resettingFor r.job = true → becomes p.1 s (s.m.turnAway (.tray r.src r.tag))) ∧
      (s.m.resettingFor r.job = false →
        (s.m.trayReachable p.2 r = false → becomes p.1 s (answer s.m 1 [] false)) ∧
        (s.m.trayReachable p.2 r = true →
          (s.m.keepsOut p.2 r = true → becomes p.1 s (answer s.m 2 [] false)) ∧
          (s.m.keepsOut p.2 r = false →
            let at_ := (List.range n).map (loc + ·)
            let k := s.m.checkAccess none (if p.2 == .store then [] else at_) at_
            (k.2.2 = none → becomes p.1 s (answer (k.1.trayDo p.2 n loc r.operand).2 0 (if returns then k.1.bytes loc n else []) false)) ∧
            (k.2.2.isSome → becomes p.1 s (answer k.1 0 (List.replicate n 0#8) true)) ∧
            (p.2 = .store → s.m.badChannel loc = false → (∀ a ∈ at_, s.m.badChannel a = false) →
              becomes p.1 s (answer (s.m.trayDo p.2 n loc r.operand).2 0 [] false)))))) ∧
  (∀ (s : State) (x : TrayResp) (tag rank : Nat),
      ((s.m.trayOps.find? fun t => t.tag == x.tag) = none → becomes (.trayResponse x) s s.m) ∧
      (∀ t, (s.m.trayOps.find? fun t => t.tag == x.tag) = some t →
        let m := s.m.dropTag t.tag
        (∀ q, x.bad = true → t.id.lane = .queue q → becomes (.trayResponse x) s
          (((m.addOpen { time := 0, record := 0, cls := 0x04, outcome := 2, unit := ⟨11, 0⟩, job := t.job, queue := q, seq := t.id.seq }).endWith
            t.id .faultDetected m.record).pokeWaiting)) ∧
        (x.bad = false → x.result = 1 →
          becomes (.trayResponse x) s (m.endWith t.id .bounds (boundsDetail 15 (t.addr % 2 ^ 52))).pokeWaiting) ∧
        (x.bad = false → x.result = 2 →
          becomes (.trayResponse x) s (m.endWith t.id .bounds (boundsDetail 14 (t.addr % 2 ^ 52))).pokeWaiting) ∧
        (x.bad = false → x.result = 0 →
          let bs := match t.into with
            | some l => x.data.zipIdx.map fun (b, i) => (l + i, b)
            | none => []
          becomes (.trayResponse x) s
            (((m.updRunning t.id.lane fun r => if r.cmd.pkt.seq.toNat == t.id.seq then { r with work := arrive r.work bs } else r).poke
              t.id).pokeWaiting))) ∧
      (∀ t r, (s.m.trayOps.find? fun t => t.tag == tag) = some t → s.m.cmd? t.id = some r →
        becomes (.targetResettingAnswer (.tray tag rank)) s ((s.m.dropTag tag).endWith t.id .targetResetting rank).pokeWaiting) ∧
      (∀ job j bucket step shard chunk, s.m.job? job = some j →
        let n := j.waleStep step
        becomes (.targetResettingAnswer (.wale job bucket step shard chunk rank)) s
            ((s.m.chunkRefused job bucket n shard chunk).endReduces job bucket n) ∧
          becomes (.unreachableAnswer (.wale job bucket step shard chunk rank)) s
            ((s.m.chunkRefused job bucket n shard chunk).endReduces job bucket n)) ∧
      (∀ id r, s.m.cmd? id = some r → r.work = .steward 0 →
        becomes (.targetResettingAnswer (.steward id)) s (s.m.setWork id.lane (.steward 2)) ∧
        becomes (.unreachableAnswer (.steward id)) s
          ((s.m.addOpen { time := 0, record := 0, cls := 0x0B, outcome := 2, unit := ⟨11, 0⟩, job := r.cmd.job }).endWith id .faultDetected
            s.m.record)) ∧
      (∀ id r, s.m.cmd? id = some r →
        becomes (.targetResettingAnswer (.far id rank)) s (s.m.endWith id .targetResetting rank) ∧
        becomes (.unreachableAnswer (.far id rank)) s
          ((s.m.addOpen { time := 0, record := 0, cls := 0x0B, outcome := 2, unit := ⟨11, 0⟩, job := r.cmd.job }).endWith id .faultDetected
            s.m.record)) ∧
      (∀ job exch step j n, s.m.job? job = some j → j.stepOf exch step = some n →
        becomes (.targetResettingAnswer (.exchange job exch step rank)) s (s.m.spoilBy job exch n rank) ∧
        becomes (.unreachableAnswer (.exchange job exch step rank)) s (s.m.spoilBy job exch n rank)))

/-- R427–R431, R435: the steward of a tray and those that ask it. A take of an unowned region is granted at once and reports STALE, which it
clears; a take of the owner's own is answered; one of an owned region waits in the queue of 256, and a full queue is answered so. A give
by the owner clears the entry and grants the oldest take that waits. A module that is no steward does nothing with either; a copy of an
entry replaces the home's. The steward's answer ends the take, with STALE as it says, or the give; a take whose answer was a full queue, and
one that the resetting steward turned away, ask again when their retry comes. -/
def Obligations.StewardRows : Prop :=
  ∀ (s : State) (id : CmdId) (owner job : Nat) (region : BitVec 31),
    (s.m.isSteward = false → becomes (.ownTakeRequest id owner job region) s s.m ∧ becomes (.ownGiveRequest id owner job region) s s.m) ∧
    (s.m.isSteward = true → s.m.resetting.isSome → becomes (.ownTakeRequest id owner job region) s (s.m.turnAway (.request owner)) ∧
      becomes (.ownGiveRequest id owner job region) s (s.m.turnAway (.request owner))) ∧
    (s.m.isSteward = true → s.m.resetting = none →
      let e := s.m.ownEntry region.toNat
      (e.owner = none → becomes (.ownTakeRequest id owner job region) s
        ((s.m.setOwner region.toNat (some (owner, job)) false).answerOwner owner id e.stale false)) ∧
      (e.owner = some (owner, job) →
        becomes (.ownTakeRequest id owner job region) s (s.m.answerOwner owner id false false) ∧
        becomes (.ownGiveRequest id owner job region) s
          (((s.m.setOwner region.toNat none false).grantNext region.toNat).answerOwner owner id false false)) ∧
      (∀ o, e.owner = some o → o ≠ (owner, job) →
        becomes (.ownGiveRequest id owner job region) s (s.m.answerOwner owner id false false) ∧
        (256 ≤ s.m.ownWaits.length → becomes (.ownTakeRequest id owner job region) s (s.m.answerOwner owner id false true)) ∧
        (s.m.ownWaits.length < 256 →
          let m : Mod := { s.m with ownWaits := s.m.ownWaits.concat { region := region.toNat, owner := owner, job := job, id := id } }
          becomes (.ownTakeRequest id owner job region) s
            (if o.1 = s.m.modAddr then m else m.emit (.takeWaits o.1 region.toNat))))) ∧
    (∀ own, ∃ t, exec (.ownershipEntryCopy region own) s = .next t ∧ t.m.homeOwner region.toNat = own ∧
      ∀ k, k ≠ region.toNat → t.m.homeOwner k = s.m.homeOwner k) ∧
    (s.m.cmd? id = none → ∀ stale full, becomes (.ownTakeRetry id) s s.m ∧ becomes (.stewardRetry id) s s.m ∧
      becomes (.stewardAnswer id stale full) s s.m) ∧
    (∀ r ph stale, s.m.cmd? id = some r → r.work = .steward ph →
      becomes (.stewardAnswer id stale true) s (s.m.setWork id.lane (.steward 1))) ∧
    (∀ r j o v slot p, s.m.cmd? id = some r → s.m.job? r.cmd.job = some j → (r.cmd.op.opnds j.plan r.cmd.pkt).head? = some o →
      j.find o = .ok v → v.place = .tray slot p →
      let off := stripe * r.cmd.pkt.u 0 4
      let n := regionNo slot (p.addr off)
      (∀ ph stale, r.work = .steward ph →
        (r.cmd.op = .ownTake → becomes (.stewardAnswer id stale false) s ((s.m.updJob r.cmd.job fun j =>
          { j with owned := n :: j.owned.filter (· != n) }).complete id .ok 0 (leBytes 8 (if stale then 1 else 0)))) ∧
        (r.cmd.op = .ownGive → becomes (.stewardAnswer id stale false) s ((s.m.updJob r.cmd.job fun j =>
          { j with owned := j.owned.filter (· != n) }).complete id .ok 0))) ∧
      (s.m.isSteward = false → off < v.len → r.cmd.op = .ownTake →
        (r.work = .steward 1 → becomes (.ownTakeRetry id) s ((s.m.setWork id.lane (.steward 0)).emit (.ownTake id r.cmd.job n))) ∧
        (r.work = .steward 2 → becomes (.stewardRetry id) s ((s.m.setWork id.lane (.steward 0)).emit (.ownTake id r.cmd.job n))))) ∧
    (∀ r j, s.m.cmd? id = some r → s.m.job? r.cmd.job = some j →
      (r.work = .steward 1 → becomes (.ownTakeRetry id) s (s.m.startOwn id r.cmd j)) ∧
      (r.work = .steward 2 → becomes (.stewardRetry id) s (s.m.startOwn id r.cmd j)))

/-- R237, R238, R421, R432–R434: placement tables and gateway windows complete. A table of a resident job's incarnation replaces the rank's
older one. A flush writes the masked bytes of the tensor, home and copy, and is acknowledged, save when a channel that it writes is out of
service; a fetch returns the block's bytes, or says that a word of them failed; its data enter the reader's buffer, or, with a word that failed,
end the commands that asked with FAULT_DETECTED; an acknowledgement frees the block. Messages of another incarnation are counted and do
nothing; so do data for no open fetch and an acknowledgement for no flush. -/
def Obligations.GatewayAndPlacementRows : Prop :=
  ∀ (s : State) (job inc rank tensor window block : Nat) (ps : List RemotePlace) (data : List (Nat × Byte)),
    (s.m.current? job inc = none →
      becomes (.gatewayFlush job inc rank tensor window block data) s (s.m.count .staleTraffic) ∧
      becomes (.gatewayFetch job inc rank tensor window block) s (s.m.count .staleTraffic) ∧
      (s.m.resettingFor job = false → becomes (.placementTable job inc rank ps) s (s.m.count .staleTraffic))) ∧
    (∀ j, s.m.current? job inc = some j → s.m.resettingFor job = true →
      becomes (.gatewayFlush job inc rank tensor window block data) s (s.m.turnAway (.request (j.plan.addrOf rank))) ∧
      becomes (.gatewayFetch job inc rank tensor window block) s (s.m.turnAway (.request (j.plan.addrOf rank)))) ∧
    (∀ j, s.m.current? job inc = some j → s.m.resettingFor job = false →
      (let ws := data.flatMap fun (o, b) => j.tensorWrites tensor (65536 * block + o) b
       ((∀ w ∈ ws, (isLocal w.1 && s.m.badChannel w.1) = false) → becomes (.gatewayFlush job inc rank tensor window block data) s
         ((s.m.store ws).emit (.gatewayFlushAck rank job window block))) ∧
       (∀ a, ((ws.map (·.1)).find? fun a => isLocal a && s.m.badChannel a) = some a →
         becomes (.gatewayFlush job inc rank tensor window block data) s (s.m.logRead a (some 0x08) none))) ∧
      (let at_ := (List.range 65536).map fun o => j.tensorAddr tensor (65536 * block + o)
       let k := s.m.checkLocal none (at_.filterMap id)
       k.1.mem = s.m.mem ∧ becomes (.gatewayFetch job inc rank tensor window block) s
         (k.1.emit (.gatewayFetchData rank job window block
           (if k.2.2.isSome then none else some (at_.map fun a => (a.map k.1.byte).getD 0#8)))))) ∧
    (∀ j, s.m.current? job inc = some j → ∃ t, exec (.placementTable job inc rank ps) s = .next t ∧
      ∀ j', t.m.job? job = some j' → (rank, ps) ∈ j'.placements ∧ ∀ q ∈ j'.placements, q.1 = rank → q.2 = ps) ∧
    (∀ bs, (∀ j, s.m.job? job = some j → (window, block) ∉ j.fetching) → becomes (.gatewayFetchData job window block bs) s s.m) ∧
    ((∀ j, s.m.job? job = some j → ∀ b ∈ j.stageBlocks, ¬(b.window = window ∧ b.block = block ∧ b.flushing = true)) →
      becomes (.gatewayFlushAck job window block) s s.m) ∧
    (∀ j, s.m.job? job = some j → (window, block) ∈ j.fetching →
      (∃ t, ∃ m : Mod, exec (.gatewayFetchData job window block (some (data.map (·.2)))) s = .next t ∧
        t.m = m.pokeAll (m.lacking job) ∧
        ∀ j', m.job? job = some j' → ∃ b ∈ j'.readBlocks, b.window = window ∧ b.block = block ∧ b.data.map (·.2) = data.map (·.2)) ∧
      (let ids := (j.fetchers.filter fun f => f.1 == (window, block)).map (·.2)
        let m := (s.m.updJob job fun j =>
          { j with fetching := j.fetching.erase (window, block), fetchers := j.fetchers.filter fun f => f.1 != (window, block) }).addOpen
            { time := 0, record := 0, cls := 0x04, outcome := 2, unit := ⟨11, 0⟩, job := job }
        becomes (.gatewayFetchData job window block none) s
          ((ids.filter fun id => (m.cmd? id).isSome).foldl (fun m id => m.endWith id .faultDetected s.m.record) m))) ∧
    (∀ j b, s.m.job? job = some j → (j.stageBlocks.find? fun b => b.window == window && b.block == block && b.flushing) = some b →
      ∃ t, ∃ m : Mod, exec (.gatewayFlushAck job window block) s = .next t ∧ t.m = (m.pokeAll (m.unacked job)).pokeWaiting ∧
        ∀ j', m.job? job = some j' → j'.stageBlocks = j.stageBlocks.erase b)

/-- R412, R413, R435–R437, R505, R515: what the fabric's managers and neighbours tell the module. A signed assignment within the tray moves
the steward's role, once by its ID; a roster of an unknown steward is refused, an old one changes nothing, a newer one comes into use; a
fault table of at most 256 links replaces the old one; a mark is recorded and answered; a link that trains to a module of the tray makes
the steward challenge it.

R398–R400, R440, R470: the rows of the links complete. A replay counts and is recorded; a window's end counts the corrected symbols and starts the spare's training
when the lane errs too much while the spare is unused; the trained spare takes over its lane; an abrupt failure narrows the port to 4 lanes,
DEGRADED, or takes it DOWN with fewer, each with its record and ALERT_N; a further failure of a narrowed port that keeps 4 lanes is recorded. -/
def Obligations.FabricRows : Prop :=
  (∀ (s : State),
      (∀ addr n sig, let ok := Config.assignOk ((s.m.policy.map (·.noticeKey)).getD []) addr n sig
        becomes (.stewardAssign addr n sig) s (if s.m.noticeIds.contains n || !ok || !sameTray addr s.m.modAddr then s.m
          else { s.m with noticeIds := n :: s.m.noticeIds, isSteward := addr == s.m.modAddr })) ∧
      (∀ r : RosterMsg, let known := s.m.roster.any fun x => x.state == 2 && x.digest == r.steward
        (known = false → becomes (.roster r) s (s.m.raiseCause 6)) ∧
        (known = true → r.epoch ≤ s.m.rosterEpoch → becomes (.roster r) s s.m) ∧
        (known = true → s.m.rosterEpoch < r.epoch → ∃ t, exec (.roster r) s = .next t ∧ t.m.roster = r.records ∧ t.m.rosterEpoch = r.epoch)) ∧
      (∀ links : List (Nat × Nat), (256 < links.length → becomes (.faultTableUpdate links) s s.m) ∧
        (links.length ≤ 256 → ∃ t, exec (.faultTableUpdate links) s = .next t ∧ t.m.faultTable = links ∧ t.m.trayOps = s.m.trayOps ∧
          ∀ d ∈ t.m.stalled, d ∉ s.m.stalled → d.2 ≠ [] ∧ ∀ q ∈ d.2, (d.1, q) ∈ s.m.outstanding)) ∧
      (∀ port src id, becomes (.mark port src id) s
          ((s.m.trace_ { time := 0, kind := 17, unit := ⟨7, port⟩, seq := id, arg0 := port, arg1 := src }).emit (.markReply port id)) ∧
        becomes (.markReply port src id) s (s.m.trace_ { time := 0, kind := 18, unit := ⟨7, port⟩, seq := id, arg0 := port, arg1 := src })) ∧
      (∀ port t,
        (s.m.isSteward = false → becomes (.weaveLinkTrained port t) s (s.m.trainPort port t)) ∧
        (s.m.isSteward = true → sameTray t.neighbour s.m.modAddr = true → t.neighbour ≠ s.m.modAddr →
          becomes (.weaveLinkTrained port t) s
            (let m := s.m.trainPort port t
             if (m.ports.getD port {}).up = true then m.challenge (slotOf t.neighbour) else m)))) ∧
  (∀ (s : State) (i lane n : Nat) (bad : Bool) (p : Port), s.m.ports[i]? = some p →
      becomes (.linkReplay i bad) s
        ((((s.m.countPort i .RETRIES 1).countPort i .FEC_UNCORRECTABLE (if bad then 1 else 0)).updPort i fun p =>
          { p with retriesNow := min 65535 (p.retriesNow + 1) }).logLink 0x0B 0 i 0) ∧
      (∃ t, exec (.fecWindowEnd i lane n bad) s = .next t ∧ ∃ q, t.m.ports[i]? = some q ∧
        (bad = true → p.spareFor = 0xF → p.training = none → p.up = true → q.training = some lane) ∧ (bad = false → q.training = p.training) ∧
        (lane = 0 → q.retries1s = p.retriesNow ∧ q.retriesNow = 0) ∧ q.state = p.state) ∧
      (p.training = none → becomes (.laneSwitch i) s s.m) ∧
      (∀ l, p.training = some l → becomes (.laneSwitch i) s
        (((s.m.updPort i fun p => { p with spareFor := l, training := none }).countPort i .LANE_SWAPS 1).spareIn ⟨7, i⟩ l)) ∧
      (p.up = false → becomes (.laneFailure i lane) s s.m) ∧
      (lane ∈ p.failed → becomes (.laneFailure i lane) s s.m) ∧
      (p.up = true → lane ∉ p.failed → p.state = 3 → 4 ≤ usableLanes (lane :: p.failed).eraseDups → becomes (.laneFailure i lane) s
        ((s.m.updPort i fun p => { p with failed := (lane :: p.failed).eraseDups }).logLink 0x0B 2 i lane)) ∧
      (p.up = true → lane ∉ p.failed → ∃ t, exec (.laneFailure i lane) s = .next t ∧ ∃ q, t.m.ports[i]? = some q ∧ lane ∈ q.failed ∧
        (usableLanes q.failed < 4 → q.state = 0) ∧ (4 ≤ usableLanes q.failed → q.state = 3) ∧
        (q.state ≠ p.state → t.m.alertCause.getLsbD 2 = true ∧ q.width = (if q.state = 0 then 0 else 4))))

/-- R403–R410, R412, R422, R424, R425, R436: a packet that arrives at a port completes. One that names a quarantined module is dropped and
counted. One for this module is a response or a request of a tray operation, which acts as that does (with an uncorrectable word, the request is
answered with bad data), or a part of a message: it is kept until the packets from index 0 to LAST are there, and the whole message then acts,
or, with an uncorrectable word, is recorded and ends what it concerns. One for another module for which no path is left is answered UNREACHABLE
and counted; with one way to go it leaves through its port, behind the atomics that wait there, or, an atomic, enters the port's queue. -/
def Obligations.TransitRows : Prop :=
  ∀ (s : State) (port : Nat) (op : Option TrayOp) (p0 : WeavePkt) (fclk : Nat),
    let p := p0.routed
    (15 < port → becomes (.weaveTransit port op p0 fclk) s s.m) ∧
    (port ≤ 15 → s.m.quarantinedAddr p.src.toNat = true ∨ s.m.quarantinedAddr p.dest.toNat = true →
      becomes (.weaveTransit port op p0 fclk) s (s.m.count .QUARANTINE_DROPS)) ∧
    (port ≤ 15 → s.m.quarantinedAddr p.src.toNat = false → s.m.quarantinedAddr p.dest.toNat = false → s.m.combined = [] →
      (p.dest.toNat = s.m.modAddr →
        (∀ o, op = some o →
          (p.cls = 1 → becomes (.weaveTransit port op p0 fclk) s (s.m.trayAnswered (responseOf p))) ∧
          (p.cls ≠ 1 → p.errs = [] → becomes (.weaveTransit port op p0 fclk) s (s.m.serveTray o (s.m.requestOf p))) ∧
          (p.cls ≠ 1 → p.errs ≠ [] → becomes (.weaveTransit port op p0 fclk) s
            (s.m.emit (.trayResponse p.src.toNat o { tag := p.pkt, result := 0, data := [], bad := true })))) ∧
        (op = none →
          let mine (x : Partial) : Bool := x.src == p.src.toNat && x.cls == p.cls && x.msgId == p.msgId
          let old := ((s.m.assembly.find? mine).map (·.packets)).getD []
          let ps := p :: old.filter fun q => q.pkt != p.pkt
          let rest := s.m.assembly.filter fun x => !mine x
          (wholePackets ps = none → becomes (.weaveTransit port op p0 fclk) s
            { s.m with assembly := rest.concat { src := p.src.toNat, cls := p.cls, msgId := p.msgId, packets := ps } }) ∧
          (∀ last, wholePackets ps = some last →
            let m : Mod := { s.m with assembly := rest }
            let b := messageBytes ps last
            ((∀ q ∈ ps, q.pkt ≤ last → q.errs = []) → becomes (.weaveTransit port op p0 fclk) s (m.takeMessage b)) ∧
            ((∃ q ∈ ps, q.pkt ≤ last ∧ q.errs ≠ []) → becomes (.weaveTransit port op p0 fclk) s (m.damaged b (headerLost ps b)))))) ∧
      (p.dest.toNat ≠ s.m.modAddr →
        let request := p.cls == 0
        let ways := s.m.hops request (!request && p.vc < 2) p.u p.dest.toNat
        (ways = [] → becomes (.weaveTransit port op p0 fclk) s ((s.m.emit (.unreachable p.src.toNat p.pkt)).count .UNREACHABLE)) ∧
        (∀ d plus out, ways = [(d, plus, out)] →
          let q := (s.m.channelOn p d plus).1
          let m := (s.m.channelOn p d plus).2
          (request = false ∨ op = none ∨ op = some .load ∨ op = some .store →
            becomes (.weaveTransit port op p0 fclk) s ((m.drainPort out).leave out q)) ∧
          (∀ o, request = true → op = some o → o ≠ .load → o ≠ .store →
            becomes (.weaveTransit port op p0 fclk) s (m.queueAtomic out fclk o q)))))

/-- R45, R496, R497: the handshake of a session. INIT is answered by address at most 16 times within a second; without a policy it is
refused UNCLAIMED, and with 32 sessions or a chain that the policy does not admit it opens nothing. A FINISH without a handshake does
nothing, one with another confirmation opens no session; a lapsed handshake is forgotten; a session ends by its age or its packets.

R494, R495, R505, R506: a steward's challenge is answered with a report once the module is READY, and a decision on a joining module
sets MEMBER or QUARANTINED; without a challenge it changes nothing. -/
def Obligations.SessionRows : Prop :=
  (∀ (s : State) (src : Endpoint) (point chain nonce confirm : Bytes) (sid : Nat),
      (s.m.boot.stage ≠ .ready → becomes (.init src point chain nonce) s s.m) ∧
      (s.m.boot.stage = .ready → chain.length ≤ 6144 → 16 ≤ s.m.recentInits src.addr →
        becomes (.init src point chain nonce) s (s.m.count .HANDSHAKES_REFUSED)) ∧
      (s.m.boot.stage = .ready → chain.length ≤ 6144 → s.m.recentInits src.addr < 16 →
        ∃ t, exec (.init src point chain nonce) s = .next t ∧ t.m.recentInits src.addr = s.m.recentInits src.addr + 1 ∧
          (s.m.policy = none → Out.handshake src 3 [] [] [] ∈ t.m.out ∧ t.m.handshakes = s.m.handshakes) ∧
          (s.m.policy ≠ none →
            (s.m.admits chain = false ∧ Out.handshake src 1 [] [] [] ∈ t.m.out ∧ t.m.handshakes = s.m.handshakes) ∨
            (s.m.admits chain = true ∧
              (32 ≤ s.m.sessions.length → Out.handshake src 2 [] [] [] ∈ t.m.out ∧ t.m.handshakes = s.m.handshakes) ∧
              (s.m.sessions.length < 32 → ∃ h ∈ t.m.handshakes, h.ep = src ∧ h.chain = chain ∧ h.replyAt = s.m.now))) ∧
          t.m.sessions = s.m.sessions) ∧
      ((s.m.handshakes.find? fun h => h.ep.same src) = none → becomes (.finish src confirm) s s.m) ∧
      (∀ h, (s.m.handshakes.find? fun h => h.ep.same src) = some h →
        let m : Mod := { s.m with handshakes := s.m.handshakes.filter fun h => !h.ep.same src }
        (confirm ≠ h.confirm ∨ h.replyAt + 100000000 < s.m.now ∨ s.m.admits h.chain = false → becomes (.finish src confirm) s m) ∧
        (confirm = h.confirm → s.m.now ≤ h.replyAt + 100000000 → s.m.boot.stage = .ready → s.m.sessions.length < 32 →
          becomes (.finish src confirm) s (if s.m.admits h.chain then m.openSession h else m))) ∧
      (∃ t, exec (.handshakeTimeout src) s = .next t ∧
        ∀ h, h ∈ t.m.handshakes ↔ h ∈ s.m.handshakes ∧ ¬(h.ep.same src = true ∧ h.replyAt + 100000000 ≤ s.m.now)) ∧
      (s.m.session? sid = none → becomes (.sessionExpiry sid) s s.m) ∧
      (∀ ss, s.m.session? sid = some ss →
        (ss.openedAt + 8640000000000 ≤ s.m.now ∨ 2 ^ 32 ≤ ss.inPkts ∨ 2 ^ 32 ≤ ss.outPkts → ∃ t, exec (.sessionExpiry sid) s = .next t ∧
          t.m.session? sid = none ∧ ∀ k, k ≠ sid → t.m.session? k = s.m.session? k) ∧
        (s.m.now < ss.openedAt + 8640000000000 → ss.inPkts < 2 ^ 32 → ss.outPkts < 2 ^ 32 → becomes (.sessionExpiry sid) s s.m))) ∧
  (∀ (s : State) (steward x : Nat) (nonce : Bytes) (r : JoinReport),
      (s.m.resetting.isSome → becomes (.trayAttest steward nonce) s (s.m.turnAway (.request steward))) ∧
      (s.m.resetting = none → s.m.boot.stage ≠ .ready → becomes (.trayAttest steward nonce) s s.m) ∧
      (s.m.resetting = none → s.m.boot.stage = .ready →
        becomes (.trayAttest steward nonce) s ((s.m.report nonce).2.emit (.attestReport steward (s.m.report nonce).1))) ∧
      ((s.m.joins.find? fun j => j.1 == x) = none → becomes (.joinDecision x (some r)) s s.m ∧ becomes (.joinDecision x none) s s.m) ∧
      (∀ t0 n, (s.m.joins.find? fun j => j.1 == x) = some (x, t0, n) →
        (s.m.now ≤ t0 + 100000000 → s.m.joins? x r = true → becomes (.joinDecision x (some r)) s (s.m.setRosterState x 2)) ∧
        (t0 + 100000000 < s.m.now ∨ s.m.joins? x r = false →
          becomes (.joinDecision x (some r)) s ((s.m.setRosterState x 3).quarantine x r.digest)) ∧
        (s.m.now ≤ t0 + 100000000 → becomes (.joinDecision x none) s s.m) ∧
        (t0 + 100000000 < s.m.now →
          becomes (.joinDecision x none) s ((s.m.setRosterState x 3).quarantine x (List.replicate 16 0#8)))))

/-- R44, R161, R328, R462: RDMA. While the module resets or is not READY it is discarded and counted; a READ or a WRITE beyond its region,
of an unknown key or of a closed session is refused; a WRITE of a session's staging lands there and nowhere else; other operations are
refused as invalid. A region's word that cannot be read, and a channel out of service, are recorded; whether a NAK follows is free (log 91).

R47, R54, R462: a datagram at the command port. One shorter than a header fails the integrity check of its session, or is counted where
there is none; any other is read as a packet and goes through the checks: one that is too long, of no session, or with a tag that does
not verify is discarded and counted. -/
def Obligations.RdmaAndDatagramRows : Prop :=
  (∀ (s : State) (src : Endpoint) (qp off len sid key : Nat) (data : Bytes) (tgt : RdmaTarget),
      (s.m.rdmaClosed = true → becomes (.rdmaRead src qp tgt off len) s (s.m.count .discardedReset) ∧
        becomes (.rdmaWrite src qp tgt off data) s (s.m.count .discardedReset) ∧
        becomes (.rdmaUnsupported src qp) s (s.m.count .discardedReset)) ∧
      (s.m.rdmaClosed = false →
        becomes (.rdmaUnsupported src qp) s (s.m.emit (.rdmaInvalidNak src)) ∧
        (s.m.session? sid = none → becomes (.rdmaRead src qp (.staging sid) off len) s (s.m.emit (.rdmaAccessNak src)) ∧
          becomes (.rdmaWrite src qp (.staging sid) off data) s (s.m.emit (.rdmaAccessNak src))) ∧
        (∀ ss, s.m.session? sid = some ss →
          (off + len ≤ 64 * 2 ^ 20 → becomes (.rdmaRead src qp (.staging sid) off len) s (s.m.emit (.rdmaData src (ss.staging.read off len)))) ∧
          (64 * 2 ^ 20 < off + len → becomes (.rdmaRead src qp (.staging sid) off len) s (s.m.emit (.rdmaAccessNak src))) ∧
          (off + data.length ≤ 64 * 2 ^ 20 → ∃ t, exec (.rdmaWrite src qp (.staging sid) off data) s = .next t ∧ t.m.mem = s.m.mem ∧
            t.m.out = .rdmaAck src :: s.m.out ∧ t.m.session? sid = some { ss with staging := ss.staging.write off data } ∧
            ∀ k, k ≠ sid → t.m.session? k = s.m.session? k) ∧
          (64 * 2 ^ 20 < off + data.length → becomes (.rdmaWrite src qp (.staging sid) off data) s (s.m.emit (.rdmaAccessNak src)))) ∧
        (s.m.rdmaRegion? key = none → becomes (.rdmaRead src qp (.region key) off len) s (s.m.emit (.rdmaAccessNak src)) ∧
          becomes (.rdmaWrite src qp (.region key) off data) s (s.m.emit (.rdmaAccessNak src))) ∧
        (∀ j t, s.m.rdmaRegion? key = some (j, t) →
          (t.decl.bytes < off + len → becomes (.rdmaRead src qp (.region key) off len) s (s.m.emit (.rdmaAccessNak src))) ∧
          (off + len ≤ t.decl.bytes →
            let k := s.m.checkLocal none (t.span off len)
            (k.2.2 = none → becomes (.rdmaRead src qp (.region key) off len) s (k.1.emit (.rdmaData src ((t.span off len).map k.1.byte)))) ∧
            (k.2.2.isSome → becomes (.rdmaRead src qp (.region key) off len) s
              (if k.1.freeBool.1 then k.1.freeBool.2.emit (.rdmaAccessNak src) else k.1.freeBool.2))) ∧
          (t.decl.bytes < off + data.length ∨ j.rdmaMayWrite t off data.length = false →
            becomes (.rdmaWrite src qp (.region key) off data) s (s.m.emit (.rdmaAccessNak src))) ∧
          (off + data.length ≤ t.decl.bytes → j.rdmaMayWrite t off data.length = true →
            let copy := match j.copyOf t.decl.id with
              | some b => data.zipIdx.map fun (x, i) => (b + off + i, x)
              | none => []
            let ws := (t.span off data.length).zip data ++ copy
            ((∀ w ∈ ws, (isLocal w.1 && s.m.badChannel w.1) = false) →
              becomes (.rdmaWrite src qp (.region key) off data) s ((s.m.store ws).emit (.rdmaAck src))) ∧
            (∀ a, ((ws.map (·.1)).find? fun a => isLocal a && s.m.badChannel a) = some a →
              let m := s.m.logRead a (some 0x08) none
              becomes (.rdmaWrite src qp (.region key) off data) s
                (if m.freeBool.1 then m.freeBool.2.emit (.rdmaAccessNak src) else m.freeBool.2)))))) ∧
  (∀ (s : State) (src : Endpoint) (b : Bytes),
      (b.length < 64 → s.m.resetting = none → s.m.boot.stage = .ready → s.m.sessionOf src = none →
        becomes (.commandPacketRefused src b) s (s.m.count .discardedNoSession)) ∧
      (∀ ss, b.length < 64 → s.m.resetting = none → s.m.boot.stage = .ready → s.m.sessionOf src = some ss → s.m.closing = [] →
        becomes (.commandPacketRefused src b) s
          (s.m.updSession ss.sid fun x => { x with inPkts := x.inPkts + 1, integrityFails := x.integrityFails + 1 })) ∧
      (b.length < 64 → s.m.resetting.isSome ∨ s.m.boot.stage ≠ .ready → becomes (.commandPacketRefused src b) s (s.m.count .discardedReset)) ∧
      (64 ≤ b.length → s.m.resetting.isSome → becomes (.commandPacketRefused src b) s (s.m.count .discardedReset).closeSessions) ∧
      (s.m.resetting = none → s.m.boot.stage = .ready → 8192 < b.length →
        becomes (.commandPacketRefused src b) s (s.m.count .discardedLong).closeSessions) ∧
      (s.m.resetting = none → s.m.boot.stage = .ready → 64 ≤ b.length → b.length ≤ 8192 → s.m.sessionOf src = none →
        becomes (.commandPacketRefused src b) s (s.m.count .discardedNoSession).closeSessions) ∧
      (∀ ss, s.m.resetting = none → s.m.boot.stage = .ready → 64 ≤ b.length → b.length ≤ 8192 → s.m.sessionOf src = some ss →
        s.m.closing = [] →
        let w := word32 b 4
        let p := Packet.ofBytes src b
        tag16 ss.key (p.header (w % 256) (w / 256 % 256) ++ p.payload) ≠ p.tag →
        becomes (.commandPacketRefused src b) s (s.m.updSession ss.sid fun x =>
          { x with inPkts := x.inPkts + 1, integrityFails := x.integrityFails + 1 }).closeSessions))

/-- R238, R239, R242, R443, R444: lane tests and the patrol scrub. A clean test of a channel in service starts its window anew and forgets
what read it; a mismatch takes the channel out of service; a channel already out stays so. The scrub corrects and counts a word of one bad
symbol, records one that cannot be corrected and moves its row, and leaves a clean word and addresses outside the scrubbed memories alone.

R37, R441: the rows of the timer copies complete. A reload, 65,536 ticks after the last one or later, makes every copy the master's value;
before that time nothing reloads. A comparison finds how far the copy is off, which no rule fixes (a free value, log 67): by at most a tick,
it changes nothing else; by more, it records a detected fault and reloads that copy. -/
def Obligations.CheckAndScrubRows : Prop :=
  (∀ (s : State) (ch g : Nat),
      (∀ mismatch, s.m.badChannels.contains ch = true → becomes (.laneTest ch mismatch) s s.m) ∧
      (s.m.badChannels.contains ch = false →
        (becomes (.laneTest ch false) s (({ s.m with
          laneTestAt := (ch, s.m.now) :: s.m.laneTestAt.filter fun x => x.1 != ch
          channelReads := s.m.channelReads.filter fun r => r.1 != ch } : Mod).normLane ch)) ∧
        becomes (.laneTest ch true) s ((s.m.laneFault ch).normLane ch)) ∧
      ((regionOf (16 * g)).scrubbed = false → becomes (.patrolScrub g) s s.m) ∧
      ((regionOf (16 * g)).scrubbed = true →
        (decodeWord (s.m.errorAt g) = .clean → becomes (.patrolScrub g) s s.m) ∧
        (decodeWord (s.m.errorAt g) = .uncorrectable →
          becomes (.patrolScrub g) s ((s.m.logRead (16 * g) none none).moveRow (16 * g))) ∧
        (∀ i e, decodeWord (s.m.errorAt g) = .corrected i e →
          becomes (.patrolScrub g) s
            ((((s.m.setError g (flipSymbol (s.m.errorAt g) i e)).countOwner (16 * g) .SCRUB_CORRECTED).hitRow (16 * g)).hitSram (16 * g))))) ∧
  (∀ (s : State) (copy : Nat),
      (s.m.timerReload + 65536 ≤ s.m.now →
        becomes .timerCopyReload s { s.m with timerDev := [], timerReload := s.m.now }) ∧
      (s.m.now < s.m.timerReload + 65536 → becomes .timerCopyReload s s.m) ∧
      (let off := zigzag s.m.freeNat.1
       let m : Mod := { s.m.freeNat.2 with timerDev := (copy, off) :: s.m.timerDev.filter fun d => d.1 != copy }
       (off.natAbs ≤ 1 → becomes (.timerCopyCompare copy) s m) ∧
       (1 < off.natAbs → ∃ t, exec (.timerCopyCompare copy) s = .next t ∧
         t.m.timerDev = s.m.timerDev.filter (fun e => e.1 != copy) ∧ t.m.timer = s.m.timer ∧
         ∃ r ∈ t.m.log, r.cls = 0x13 ∧ r.outcome = 2 ∧ r.unit = ⟨14, 0⟩ ∧ r.sub = copy)))

/-- R450, R468: the rows by which a fault enters the levels complete. Each mismatch or loss of lock is recorded and starts the level of its row: Engine for a
stake, against which it is counted (log 116), Partition for a Side, Module for a Border, a fence for a router half, a takeover for a management pair, a power cycle for the timer,
AOCLK and the escalation controller. A checker that reports its injected error is only counted.

R297, R343, R441, R464: the rows of residue and converter faults complete. A vector fault that its re-run repeats ends the command on that lane and takes the
stake out of service, one that it does not is counted against the stake; a wale adder's is recorded, and a repeated one ends the reductions
of its bucket and step; a sweep unit's ends its sweep when it repeats, and is counted when it does not; a converter mismatch ends the commands
of its transfer engine. -/
def Obligations.FaultEntryRows : Prop :=
  (∀ (s : State) (n : Nat),
      becomes .timerMismatch s ((s.m.logFault 0x13 5 ⟨14, 0⟩).startLevel 5 0 none) ∧
      becomes (.clockLockLoss (.aclk n)) s ((s.m.logFault 0x12 3 ⟨13, n⟩).startLevel 3 n none) ∧
      becomes (.clockLockLoss (.nclkSide n)) s ((s.m.logFault 0x12 3 ⟨13, 4 + n⟩).startLevel 3 n none) ∧
      becomes (.clockLockLoss (.nclkBorder n)) s ((s.m.logFault 0x12 4 ⟨13, 8 + n⟩).startLevel 4 0 none) ∧
      becomes (.clockLockLoss (.fclk n)) s ((s.m.logFault 0x12 0 ⟨13, 12 + n⟩).fence n) ∧
      becomes (.clockLockLoss .aoclk) s ((s.m.logFault 0x12 5 ⟨13, 14⟩).startLevel 5 0 none) ∧
      becomes (.lockstepMismatch (.side n)) s ((s.m.logFault 0x10 3 ⟨3, n⟩).startLevel 3 n none) ∧
      becomes (.dupStateMismatch (.stake n)) s (((s.m.logFault 0x11 2 ⟨1, n⟩).startLevel 2 n none).stakeFault n) ∧
      becomes (.dupStateMismatch (.sideUnit n)) s ((s.m.logFault 0x11 3 ⟨3, n⟩).startLevel 3 n none) ∧
      becomes (.dupStateMismatch (.borderUnit n)) s ((s.m.logFault 0x11 4 ⟨9, n⟩).startLevel 4 0 none) ∧
      becomes (.dupStateMismatch (.router n)) s ((s.m.logFault 0x11 0 ⟨11, n⟩).fence n) ∧
      (s.m.boot.complex n = .active → s.m.boot.complex (1 - n) = .standby →
        becomes (.lockstepMismatch (.mgmt n)) s
          ((s.m.addOpen { time := 0, record := 0, cls := 0x10, outcome := 7, unit := ⟨10, n⟩ }).takeover n s.m.record none) ∧
        becomes (.clockLockLoss (.mclk n)) s
          ((s.m.addOpen { time := 0, record := 0, cls := 0x12, outcome := 7, unit := ⟨10, n⟩ }).takeover n s.m.record none)) ∧
      (∀ u, becomes (.checkerInjection u true) s (s.m.count .SELF_TESTS)) ∧
      (becomes (.checkerInjection ⟨1, n⟩ false) s
        ((((s.m.count .SELF_TESTS).count .SELF_TEST_FAILS).logFault 0x11 2 ⟨1, n⟩).startLevel 2 n none)) ∧
      (∀ m : Mod, ∀ i, (m.fence n).ports[i]? = (m.ports[i]?).map fun p => if i % 2 = n % 2 then { p with state := 4 } else p)) ∧
  (∀ (s : State) (p : Nat) (lane : Lane) (again : Bool),
      (let m := s.m.addOpen { time := 0, record := 0, cls := 0x02, outcome := 2, unit := ⟨1, p⟩ }
       becomes (.residueFault (.vector p lane) false) s (m.stakeFault p) ∧
       (∀ r, m.running? lane = some r →
         becomes (.residueFault (.vector p lane) true) s ((m.endWith (r.cmd.id lane) .faultDetected s.m.record).takeOut p))) ∧
      (∀ job bucket step shard chunk, s.m.nodeAt? job bucket step shard = none →
        becomes (.residueFault (.adder job bucket step shard chunk) again) s s.m) ∧
      (∀ job bucket step shard chunk a, s.m.nodeAt? job bucket step shard = some a → a.chunks.headD 0 + chunk ∈ a.chunks →
        let m := s.m.addOpen { time := 0, record := 0, cls := 0x02, outcome := 2, unit := ⟨0, 0⟩ }
        becomes (.residueFault (.adder job bucket step shard chunk) false) s m ∧
        becomes (.residueFault (.adder job bucket step shard chunk) true) s
          (m.endEach (m.reducing job bucket step) .faultDetected s.m.record)) ∧
      (let m := s.m.addOpen { time := 0, record := 0, cls := 0x02, outcome := 2, unit := ⟨12, p⟩ }
       (s.m.workOn (.sweep p) = [] → becomes (.residueFault (.sweep p) again) s m) ∧
       (∀ id job rest, s.m.workOn (.sweep p) = (id, job) :: rest →
         becomes (.residueFault (.sweep p) true) s (m.endWith id .faultDetected s.m.record) ∧
         becomes (.residueFault (.sweep p) false) s (m.countJob job .SWEEP_RECOMPUTED))) ∧
      becomes (.converterMismatch p) s
        (((s.m.addOpen { time := 0, record := 0, cls := 0x11, outcome := 2, unit := ⟨1, p⟩ }).endEach
          ((s.m.workOn (.transfer p)).map (·.1)) .faultDetected s.m.record).stakeFault p))

/-- R445, R446, R456–R459: the rows of hangs complete. A watchdog fires only on an engine that has work; it counts the hang and begins the isolation of its
suspects. Every suspect stopped, the replays judge them in order; the last verdict ends the isolation. A stop that does not end in its time,
and a hang during isolation, start the next level.

R447, R449, R454: the rows of the levels complete. A level's bound passes only at its time; the next level then starts: Partition after Engine, Module after
Partition, a power cycle after Module. A level that completes zeroes the stores of its unit, closes its entry and answers the RESET that
waited for it (a Side's level zeroes its Rim as well); one that is not running changes nothing. -/
def Obligations.EscalationRows : Prop :=
  (∀ (s : State) (e : Engine) (guilty : Bool),
      (s.m.workOn e = [] → becomes (.progressWatchdog e) s s.m) ∧
      (s.m.workOn e ≠ [] → (s.m.isolations.any fun i => i.engine == e) = false →
        ∃ t, exec (.progressWatchdog e) s = .next t ∧
          { engine := e, started := s.m.now, stopped := false, left := s.m.suspects e, innocent := [], guilty := [], cause := none }
            ∈ t.m.isolations ∧ ∃ r ∈ t.m.log, r.cls = 0x20 ∧ r.unit = unitOfEngine e ∧ r.level = 1) ∧
      (∃ t, exec (.contextStopDone e) s = .next t ∧ t.m.isolations.length = s.m.isolations.length ∧
        (∀ i ∈ t.m.isolations, i.engine = e → i.stopped = true) ∧ (∀ i ∈ s.m.isolations, i.engine ≠ e → i ∈ t.m.isolations)) ∧
      ((s.m.isolations.find? fun i => i.engine == e) = none → becomes (.replayVerdict e guilty) s s.m) ∧
      (∀ i, (s.m.isolations.find? fun i => i.engine == e) = some i →
        (i.stopped = false → becomes (.replayVerdict e guilty) s s.m) ∧
        (∀ j rest, i.stopped = true → i.left = j :: rest →
          let m := (s.m.count .REPLAYS).count .GUILTY_FOUND (if guilty then 1 else 0)
          let i' := if guilty then { i with left := rest, guilty := i.guilty.concat j }
            else { i with left := rest, innocent := i.innocent.concat j }
          (rest = [] → becomes (.replayVerdict e guilty) s (m.endIsolation i')) ∧
          (rest ≠ [] → becomes (.replayVerdict e guilty) s
            { m with isolations := m.isolations.map fun o => if o.engine == e then i' else o })))) ∧
  (∀ (s : State) (unit level : Nat),
      (2 ≤ level → (∀ e ∈ s.m.escalations, e.level = level → e.unit = unit → s.m.now < e.started + levelBound level) →
        becomes (.escalationBoundExpiry level unit) s s.m) ∧
      (∀ e ∈ s.m.escalations, e.unit = unit → e.started + levelBound e.level ≤ s.m.now →
        (e.level = 2 → becomes (.escalationBoundExpiry 2 unit) s
          ((unitStakes unit).foldl Mod.takeOut (s.m.startLevel 3 (unitSide unit) none))) ∧
        (e.level = 3 → becomes (.escalationBoundExpiry 3 unit) s (s.m.startLevel 4 0 none)) ∧
        (e.level = 4 → becomes (.escalationBoundExpiry 4 unit) s (s.m.startLevel 5 0 none))) ∧
      (s.m.isolations = [] → becomes (.escalationBoundExpiry 1 unit) s s.m) ∧
      (∀ i, (s.m.isolations.find? fun i => codeOfEngine i.engine == unit && !i.stopped && i.started + levelBound 1 ≤ s.m.now) = some i →
        becomes (.escalationBoundExpiry 1 unit) s
          ((({ s.m with isolations := s.m.isolations.filter fun o => o != i } : Mod).afterContext i.engine).logSuspects i.engine)) ∧
      ((∀ e ∈ s.m.escalations, ¬(e.level = level ∧ e.unit = unit)) → becomes (.escalationLevelDone level unit) s s.m) ∧
      (∀ e, (s.m.escalations.find? fun e => e.level == 2 && e.unit == unit) = some e → e.reply = none →
        (∀ l p, s.m.stakeMap.getD l none = some p → p ∉ s.m.outOfService) →
        ∃ t, exec (.escalationLevelDone 2 unit) s = .next t ∧ e ∉ t.m.escalations ∧
          (∀ p ∈ unitStakes unit, ∀ l, s.m.logicalOf p = some l → ∀ a, stakeBase l ≤ a → a < stakeBase l + 0x400000 → t.m.byte a = 0#8)) ∧
      (∀ e, (s.m.escalations.find? fun e => e.level == 3 && e.unit == unit) = some e → e.reply = none →
        (∀ l p, s.m.stakeMap.getD l none = some p → p ∉ s.m.outOfService) →
        ∃ t, exec (.escalationLevelDone 3 unit) s = .next t ∧ e ∉ t.m.escalations ∧
          (∀ a, rimBase unit ≤ a → a < rimBase unit + 0x4000000 → t.m.byte a = 0#8)))

/-- R449, R452, R460, R461, R475, R514: the housekeeping rows complete. A Module reset, once MOD_RST_N is released, the power is good and no
power cycle is asked for, boots its firmware and ends READY with every job QUIESCED, or, with no firmware, asks for a power cycle; the notices
that are due are sent again, each at most three times; the log flush marks every record, and without firmware does nothing; the trace stream sends up to 254 records in order to
the endpoint of a live session. -/
def Obligations.HousekeepingRows : Prop :=
  ∀ (s : State) (n : Nat),
    (s.m.resetting = none → becomes .moduleResetDone s s.m) ∧
    (s.m.boot.modRst = true ∨ s.m.power.cycleReq = true ∨ s.m.power.pwrGood = false → becomes .moduleResetDone s s.m) ∧
    (∀ r, s.m.resetting = some r → s.m.boot.modRst = false → s.m.power.cycleReq = false → s.m.power.pwrGood = true →
      s.m.boot.mgmt.1 ≠ .testing → s.m.boot.mgmt.2 ≠ .testing →
      let m := s.m.bootRom s.m.resetFirst
      (m.boot.stage = .failed → becomes .moduleResetDone s (m.startLevel 5 0 none)) ∧
      (m.boot.stage ≠ .failed → ∃ t, exec .moduleResetDone s = .next t ∧ t.m.resetting = none ∧ t.m.boot.stage = .ready ∧
        (∀ j ∈ t.m.jobs, j.phase = .quiesced))) ∧
    (let due (n : Notice) : Bool := n.sent < 3 && n.time.toNat + 100000 * n.sent ≤ s.m.now
     becomes .noticeResend s { (s.m.notices.filter due).foldl (fun m n => m.sendNotice n) s.m with
       notices := (s.m.notices.map fun n => if due n then { n with sent := n.sent + 1 } else n).filter fun n => n.sent < 3 }) ∧
    (∃ t, exec .noticeResend s = .next t ∧ (∀ x ∈ t.m.notices, x.sent < 3) ∧ t.m.jobs = s.m.jobs ∧ t.m.mem = s.m.mem) ∧
    (s.m.boot.noFirmware = true → becomes .logFlush s s.m) ∧
    (s.m.boot.noFirmware = false → ∃ t, exec .logFlush s = .next t ∧ (∀ r ∈ t.m.log, r.flushed = true) ∧
      t.m.log.map (fun r => { r with flushed := true }) = s.m.log.map (fun r => { r with flushed := true }) ∧
      (∀ v ∈ t.m.verdicts, v.flushed = true) ∧ t.m.mem = s.m.mem) ∧
    (s.m.trace.dest = none → becomes (.traceStream n) s s.m) ∧
    (∀ e ss, s.m.trace.dest = some e → s.m.session? s.m.trace.sid = some ss →
      let rs := (s.m.trace.buffer.drop s.m.trace.streamed).take (min 254 n)
      (rs = [] → becomes (.traceStream n) s s.m) ∧
      (rs ≠ [] → becomes (.traceStream n) s
        (({ s.m with trace := { s.m.trace with streamed := s.m.trace.streamed + rs.length, seq := s.m.trace.seq + 1 } } : Mod).emit
          (.trace e (s.m.traceDatagram ss.key rs)))))

/-- R40, R455, R464–R467, R469: the rows of the takeovers complete. A rotating takeover moves the stake that has served longest, once it is due and the ribs of the
Side are apart; a move ends only when no self-test of the spare runs; the self-test of a management pair makes it the standby or takes it
out; a firmware watchdog of the active pair hands over to the standby, or, without one, starts a Module reset; of the standby pair it starts
its self-test. -/
def Obligations.TakeoverRows : Prop :=
  ∀ (s : State) (rib phys : Nat) (pass : Bool),
    (s.m.rib? rib = none → becomes (.rotatingTakeover rib) s s.m ∧ becomes (.stakeTakeoverDone rib) s s.m) ∧
    (∀ r, s.m.rib? rib = some r →
      (r.spare = none → becomes (.rotatingTakeover rib) s s.m) ∧
      (∀ sp p t0 rest l, r.spare = some sp → r.testing = false → r.moving = none → s.m.outOfService.contains sp = false →
        sortBy (fun (a b : Nat × Nat) => a.2 ≤ b.2) (r.since.filter fun x => (s.m.logicalOf x.1).isSome) = (p, t0) :: rest →
        s.m.logicalOf p = some l → (r.since.map (·.2)).foldl Nat.max 0 + 1050000000000 ≤ s.m.now →
        (∀ x ∈ s.m.ribs, x.rib = rib ∨ x.rib / 8 ≠ rib / 8 ∨
          (x.moving = none ∧ (x.since.map (·.2)).foldl Nat.max 0 + 60000000000 ≤ s.m.now)) →
        becomes (.rotatingTakeover rib) s (s.m.beginMove l sp)) ∧
      (r.testing = true → becomes (.stakeTakeoverDone rib) s s.m) ∧
      (r.testing = false → becomes (.stakeTakeoverDone rib) s (s.m.finishMove rib))) ∧
    (s.m.rib? (phys / 8) = none → becomes (.selfTestDone phys pass) s s.m) ∧
    (∀ r, s.m.rib? (phys / 8) = some r →
      (r.testing = false → becomes (.selfTestDone phys pass) s s.m) ∧
      (r.testing = true → r.spare = some phys → r.moving = none →
        let m := (s.m.count .SELF_TESTS).updRib (phys / 8) fun x => { x with testing := false }
        becomes (.selfTestDone phys true) s ((m.repairSram fun x => x == phys).endStakeBist phys true 0) ∧
        becomes (.selfTestDone phys false) s
          ((((m.count .SELF_TEST_FAILS).addOpen { time := 0, record := 0, cls := 0x30, outcome := 6, unit := ⟨1, phys⟩ }).takeOut
            phys).endStakeBist phys false s.m.record))) ∧
    (s.m.boot.complex rib ≠ .testing → becomes (.mgmtSelfTestDone rib pass) s s.m) ∧
    (s.m.boot.complex rib = .testing →
      becomes (.mgmtSelfTestDone rib true) s { s.m with boot := s.m.boot.setComplex rib .standby } ∧
      ∃ t, exec (.mgmtSelfTestDone rib false) s = .next t ∧ t.m.boot = s.m.boot.setComplex rib .out ∧ t.m.alertCause.getLsbD 3 = true) ∧
    (s.m.boot.complex rib = .active → s.m.boot.complex (1 - rib) = .standby →
      becomes (.firmwareWatchdog rib) s
        (((s.m.count .HANGS).addOpen { time := 0, record := 0, cls := 0x20, outcome := 7, unit := ⟨10, rib⟩ }).takeover rib s.m.record none)) ∧
    (s.m.boot.complex rib = .active → s.m.boot.complex (1 - rib) ≠ .standby →
      becomes (.firmwareWatchdog rib) s
        (((s.m.count .HANGS).addOpen { time := 0, record := 0, cls := 0x20, outcome := 7, unit := ⟨10, rib⟩ }).startLevel 4 0 none)) ∧
    (s.m.boot.complex rib = .standby → becomes (.firmwareWatchdog rib) s
      (let m := (s.m.count .HANGS).addOpen { time := 0, record := 0, cls := 0x20, outcome := 2, unit := ⟨10, rib⟩ }
       { m with boot := m.boot.setComplex rib .testing })) ∧
    (s.m.boot.complex rib = .out → becomes (.firmwareWatchdog rib) s (s.m.count .HANGS))

/-- R484, R548, R549, R552, R553, R555: the rows of the supply and the rails complete. The input sets the range and, from 47 V on, enables the main rails; the standby rail
follows the charged bulk capacitance. The rail groups come up in order 1 to 4, one group at a time, and the fourth sets PWR_GOOD and counts a
power-up; rails late by 50 ms leave the boot FAILED with the POWER cause. An input below 46 V, and PWR_EN low for 200 ms, lose everything
but what survives a power cycle; a fall of PWR_EN loses the module domain and keeps the timer. -/
def Obligations.SupplyRows : Prop :=
  ∀ (s : State) (mv group : Nat),
    becomes (.inputApplied mv) s { s.m with power := { s.m.power with
      inputMv := mv, inRange := decide (48000 ≤ mv) && decide (mv ≤ 58000)
      mainEnabled := s.m.power.mainEnabled || decide (47000 ≤ mv) } } ∧
    (s.m.power.inRange = false → becomes .bulkChargeDone s s.m) ∧
    (s.m.power.inRange = true → becomes .bulkChargeDone s { s.m with power := { s.m.power with charged := true, standby := true } }) ∧
    (46000 ≤ mv → becomes (.inputUndervoltage mv) s s.m) ∧
    (mv < 46000 → ∃ t, exec (.inputUndervoltage mv) s = .next t ∧ t.m.jobs = [] ∧ t.m.lanes = [] ∧ t.m.sessions = [] ∧ t.m.mem = [] ∧
      t.m.tierC = s.m.tierC ∧ t.m.boot.stage = .off ∧ t.m.boot.fuse = s.m.boot.fuse ∧ t.m.power.mainEnabled = false ∧ t.m.timer = 0#64 ∧
      (∀ r ∈ t.m.log, r ∈ s.m.log ∧ r.flushed = true) ∧ t.m.power.standby = (s.m.power.standby && decide (36000 ≤ mv))) ∧
    (s.m.power.pwrEn = true ∨ s.m.power.standby = false → becomes .pwrEnRise s s.m) ∧
    (s.m.power.pwrEn = false → s.m.power.standby = true → ∃ t, exec .pwrEnRise s = .next t ∧ t.m.power.pwrEn = true ∧
      t.m.power.groups = 0 ∧ t.m.boot.stage = .rails ∧ t.m.mem = s.m.mem) ∧
    (s.m.power.pwrEn = false ∨ s.m.power.mainEnabled = false ∨ s.m.power.pwrGood = true ∨ group ≠ s.m.power.groups + 1 →
      becomes (.railGroupInRegulation group) s s.m) ∧
    (s.m.power.pwrEn = true → s.m.power.mainEnabled = true → s.m.power.pwrGood = false → group = s.m.power.groups + 1 →
      s.m.boot.stage ≠ .failed →
      (group < 4 → becomes (.railGroupInRegulation group) s
        { s.m with power := { s.m.power with groups := group }, boot := { s.m.boot with stage := .rails } }) ∧
      (group = 4 → ∃ t, exec (.railGroupInRegulation group) s = .next t ∧ t.m.power.pwrGood = true ∧ t.m.timerOn = true ∧
        t.m.boot.stage = .powerGood ∧ t.m.boot.powerUps = s.m.boot.powerUps + 1 ∧
        t.m.timer = (if s.m.timerOn then s.m.timer else 0#64) ∧ (s.m.i3c.ibi = true → Out.ibi 3 ∈ t.m.out))) ∧
    (s.m.power.pwrEn = false ∨ s.m.power.pwrGood = true → becomes .pwrGoodTimeout s s.m) ∧
    (s.m.power.pwrEn = true → s.m.power.pwrGood = false → ∃ t, exec .pwrGoodTimeout s = .next t ∧ t.m.boot.stage = .failed ∧
      t.m.power.groups = 0 ∧ t.m.alertCause.getLsbD 7 = true) ∧
    (s.m.power.pwrEn = false → becomes .pwrEnFall s s.m) ∧
    (s.m.power.pwrEn = true → ∃ t, exec .pwrEnFall s = .next t ∧ t.m.power.pwrEn = false ∧ t.m.power.pwrGood = false ∧
      t.m.power.lowSince = some s.m.now ∧ t.m.jobs = [] ∧ t.m.lanes = [] ∧ t.m.timer = s.m.timer ∧ t.m.log = s.m.log ∧
      t.m.tierC = s.m.tierC ∧ t.m.boot.stage = .off) ∧
    (s.m.power.pwrEn = true → becomes .pwrEnLow200ms s s.m) ∧
    (s.m.power.pwrEn = false → becomes .pwrEnLow200ms s s.m.powerLost ∧ s.m.powerLost.power.cycleReq = false ∧ s.m.powerLost.jobs = [])

/-- R557, R558, R560–R562, R571: the rows of the limiter and the sensors complete. A sample joins a window of the newest 100; the limiter changes only gaps, budget and
alerts; a read of the 110 sensors lowers the thermal limit by 100 W down to 2,400 W while one is at its throttle point, and a shutdown point
starts the hold, of which the first cause stands; the limit rises by 100 W up to 4,800 W once all are below their release points; the end of
the hold writes the record of level 5 and asks for a power cycle. -/
def Obligations.PowerAndThermalRows : Prop :=
  ∀ (s : State) (mv ma arrays rail : Nat) (vs : List Int),
    (∃ t, exec (.powerSample mv ma arrays) s = .next t ∧ t.m.power.window = (mv * ma / 1000 :: s.m.power.window).take 100 ∧
      t.m.power.inputMv = mv ∧ t.m.power.inputMa = ma ∧ t.m.power.arraysMw = arrays ∧ t.m.power.limit = s.m.power.limit ∧
      (s.m.power.pwrGood = true → 46000 ≤ mv → mv < 48000 → t.m.alertCause.getLsbD 7 = true)) ∧
    (∃ t, exec .limiterUpdate s = .next t ∧ t.m.mem = s.m.mem ∧ t.m.jobs = s.m.jobs ∧ t.m.lanes = s.m.lanes ∧ t.m.arrays = s.m.arrays ∧
      t.m.power.limit = s.m.power.limit ∧ t.m.power.thermal = s.m.power.thermal ∧ t.m.power.gap % 256 = 0 ∧ t.m.power.gap ≤ 256 * 64 ∧
      (t.m.power.atMaximum = true ↔ t.m.power.gap = 256 * 64)) ∧
    (vs.length ≠ 110 → becomes (.sensorRead vs) s s.m) ∧
    (vs.length = 110 → ∃ t, exec (.sensorRead vs) s = .next t ∧ t.m.power.sensors = vs ∧
      (t.m.power.throttling = true → t.m.power.thermal = Nat.max 2400 (s.m.power.thermal - 100)) ∧
      (t.m.power.throttling = false → t.m.power.thermal = s.m.power.thermal) ∧
      (t.m.power.throttling = true ↔ ∃ i v p, vs[i]? = some v ∧ sensorPoints i = some p ∧ p.1 ≤ v) ∧
      (s.m.power.pwrGood = true → s.m.power.holding = none → (∃ i v p, vs[i]? = some v ∧ sensorPoints i = some p ∧ p.2.2 ≤ v) →
        ∃ i, t.m.power.holding = some (true, i)) ∧
      (∀ h, s.m.power.holding = some h → t.m.power.holding = some h)) ∧
    (24 ≤ rail → becomes (.railFault rail) s s.m) ∧
    (∀ h, s.m.power.holding = some h → becomes (.railFault rail) s s.m) ∧
    (s.m.power.railUp rail = false → becomes (.railFault rail) s s.m) ∧
    (rail < 24 → s.m.power.railUp rail = true → s.m.power.holding = none → s.m.power.pwrGood = true → ∃ t, exec (.railFault rail) s = .next t ∧
      t.m.power.holding = some (false, rail) ∧ t.m.arrays.length = s.m.arrays.length ∧
      ∀ a ∈ t.m.arrays, a.ramp ≠ .none) ∧
    (s.m.power.released = false ∨ s.m.power.throttling = true → becomes .thermalLimitRaise s s.m) ∧
    (s.m.power.released = true → s.m.power.throttling = false → s.m.power.sensors ≠ [] → ∃ t, exec .thermalLimitRaise s = .next t ∧
      t.m.power.thermal = min 4800 (s.m.power.thermal + 100) ∧ t.m.power.limit = s.m.power.limit) ∧
    (s.m.power.belowSince = none → becomes .thermalLimitPersists s s.m) ∧
    (∀ t0, s.m.power.belowSince = some t0 → becomes .thermalLimitPersists s (if t0 + 100000000 < s.m.now then s.m.raiseCause 7 else s.m)) ∧
    (s.m.power.holding = none → becomes .shutdownHoldEnd s s.m) ∧
    (∀ th n, s.m.power.holding = some (th, n) → ∃ t, exec .shutdownHoldEnd s = .next t ∧ t.m.power.cycleReq = true ∧
      t.m.power.pwrGood = false ∧ t.m.power.holding = none ∧ t.m.jobs = [] ∧
      (∃ r ∈ t.m.log, r.cls = 0x40 ∧ r.level = 5 ∧ r.info0 = n) ∧
      (s.m.boot.stage ≠ .ready → s.m.boot.stage ≠ .resetting → t.m.boot.stage = .failed))

/-- R38, R240, R243, R393, R484–R490: the rows of the boot complete. MOD_RST_N counts from 10 µs on while the power is good: before READY it restarts the boot,
from READY on it starts a Module reset. Its release tests the pairs and runs the boot ROM. Memory training, BIST and link training act only
at their own stage and lead to the next one: the tiers hold +0 after the first training, the map of stakes follows from the ones that failed,
and link training ends in READY. WAKE_N is counted and
powers up the active management complex. -/
def Obligations.BootRows : Prop :=
  ∀ (s : State) (micros : Nat) (wakeLow ok0 ok1 : Bool) (lanes : List (Nat × Nat)) (failed : List Nat) (ports : List PortTrain),
    (micros < 10 ∨ s.m.power.pwrGood = false → becomes (.modRstNAssert micros) s s.m) ∧
    (10 ≤ micros → s.m.power.pwrGood = true →
      (s.m.boot.stage = .powerGood → becomes (.modRstNAssert micros) s { s.m with boot := { s.m.boot with modRst := true } }) ∧
      (s.m.boot.stage = .ready ∨ s.m.boot.stage = .resetting → becomes (.modRstNAssert micros) s
        (({ s.m with boot := { s.m.boot with modRst := true } } : Mod).startLevel 4 0 none)) ∧
      (s.m.boot.stage ∈ [.bootRom, .memoryTraining, .bist, .linkTraining] → becomes (.modRstNAssert micros) s
        { s.m with boot := { s.m.boot with modRst := true, stage := .bootRom, noFirmware := true } })) ∧
    (s.m.boot.modRst = false ∨ s.m.power.pwrGood = false → becomes (.modRstNRelease wakeLow ok0 ok1) s s.m) ∧
    (s.m.boot.modRst = true → s.m.power.pwrGood = true →
      let m : Mod := { s.m with boot := { s.m.boot with modRst := false, wakeLow := wakeLow } }
      (s.m.boot.stage = .powerGood ∨ s.m.boot.stage = .bootRom →
        becomes (.modRstNRelease wakeLow ok0 ok1) s ((m.testPairs ok0 ok1).bootRom none)) ∧
      (s.m.boot.stage = .resetting → becomes (.modRstNRelease wakeLow ok0 ok1) s (m.testPairs ok0 ok1))) ∧
    becomes .wakeNFall s (({ s.m with boot := { s.m.boot with wakes := s.m.boot.wakes + 1 } } : Mod).wakeUnit
      ⟨10, if s.m.boot.activeB1 then 1 else 0⟩) ∧
    (s.m.boot.stage ≠ .memoryTraining → becomes (.memoryTrainingDone lanes) s s.m) ∧
    (s.m.boot.stage = .memoryTraining → ∃ t, exec (.memoryTrainingDone lanes) s = .next t ∧ t.m.boot.stage = .bist ∧
      t.m.boot.trainedOnce = true ∧ (s.m.boot.trainedOnce = true → t.m.mem = s.m.mem) ∧
      (s.m.boot.trainedOnce = false → ∀ c ∈ t.m.mem, (regionOf c.1).dram = false) ∧
      (s.m.mem.wf → ∀ a, (regionOf a).dram = false → t.m.mem.get a = s.m.mem.get a)) ∧
    (s.m.boot.stage ≠ .bist → becomes (.bootBistDone failed) s s.m) ∧
    (s.m.boot.stage = .bist → ∃ t, exec (.bootBistDone failed) s = .next t ∧ t.m.boot.stage = .linkTraining ∧
      t.m.stakeMap = bootMap (failed.filter (· < 256)).eraseDups ∧ t.m.outOfService = (failed.filter (· < 256)).eraseDups ∧
      t.m.boot.bistOnce = none) ∧
    (∀ l, l < 224 → (bootMap []).getD l none = some (8 * (l / 7) + l % 7)) ∧
    (∀ l p, (bootMap failed).getD l none = some p → p ∉ failed ∧ p / 8 = l / 7) ∧
    (s.m.boot.stage ≠ .linkTraining → becomes (.linkTrainingDone ports) s s.m) ∧
    (s.m.boot.stage = .linkTraining → ∃ t, exec (.linkTrainingDone ports) s = .next t ∧ t.m.boot.stage = .ready ∧
      t.m.boot.unclaimed = s.m.policy.isNone ∧ t.m.policy = s.m.policy ∧ t.m.jobs = s.m.jobs ∧ t.m.mem = s.m.mem)
end

