-- ==== Sys2Proof/Laws/Exec.lean ====
section
/-!
SUPPORT. How a statement about a command is shown from its meaning: every meaning lifts a function of the module.
-/

namespace Sys2Proof.Machine

/-- A meaning answers the next state that its function of the module gives, with the waiting commands as they were. -/
theorem becomes_of_lift {i : Instr} {s : State} {f : Mod → Mod} {m : Mod} (h : exec i s = lift f s) (hf : f s.m = m) :
    becomes i s m := by
  subst hf; exact h

/-- A meaning answers some next state with what its function of the module gives. -/
theorem next_of_lift {i : Instr} {s : State} {f : Mod → Mod} {P : State → Prop} (h : exec i s = lift f s)
    (hf : P { s with m := f s.m }) : ∃ t, exec i s = .next t ∧ P t := ⟨_, h, hf⟩

/-- What a command becomes, it answers. -/
theorem next_of_becomes {i : Instr} {s : State} {m : Mod} (h : becomes i s m) : ∃ t, exec i s = .next t ∧ t.m = m :=
  ⟨_, h, rfl⟩

/-- A step on a waiting command that becomes `m` answers it. -/
theorem step_of_becomes {i : Instr} {s : State} {m : Mod} (h : becomes i s m) :
    step { s with pending := i :: s.pending } = .next { s with m := m } := h

end Sys2Proof.Machine
end

