-- ==== Sys2Proof/Laws/State.lean ====
section
/-!
SUPPORT. What the basic updates of the module leave alone, one lemma per field and update, each true by `rfl`.
-/

namespace Sys2Proof.Machine

variable (m : Mod)

@[simp] theorem Mod.emit_timer (o : Out) : (m.emit o).timer = m.timer := rfl
@[simp] theorem Mod.emit_timerOn (o : Out) : (m.emit o).timerOn = m.timerOn := rfl
@[simp] theorem Mod.emit_timerDev (o : Out) : (m.emit o).timerDev = m.timerDev := rfl
@[simp] theorem Mod.emit_timerReload (o : Out) : (m.emit o).timerReload = m.timerReload := rfl
@[simp] theorem Mod.emit_free (o : Out) : (m.emit o).free = m.free := rfl
@[simp] theorem Mod.emit_power (o : Out) : (m.emit o).power = m.power := rfl
@[simp] theorem Mod.emit_boot (o : Out) : (m.emit o).boot = m.boot := rfl
@[simp] theorem Mod.emit_alertCause (o : Out) : (m.emit o).alertCause = m.alertCause := rfl
@[simp] theorem Mod.emit_alertMask (o : Out) : (m.emit o).alertMask = m.alertMask := rfl
@[simp] theorem Mod.emit_sideband (o : Out) : (m.emit o).sideband = m.sideband := rfl
@[simp] theorem Mod.emit_sideBoxes (o : Out) : (m.emit o).sideBoxes = m.sideBoxes := rfl
@[simp] theorem Mod.emit_small (o : Out) : (m.emit o).small = m.small := rfl
@[simp] theorem Mod.emit_i3c (o : Out) : (m.emit o).i3c = m.i3c := rfl
@[simp] theorem Mod.emit_tap (o : Out) : (m.emit o).tap = m.tap := rfl
@[simp] theorem Mod.emit_claim (o : Out) : (m.emit o).claim = m.claim := rfl
@[simp] theorem Mod.emit_policy (o : Out) : (m.emit o).policy = m.policy := rfl
@[simp] theorem Mod.emit_proposal (o : Out) : (m.emit o).proposal = m.proposal := rfl
@[simp] theorem Mod.emit_measures (o : Out) : (m.emit o).measures = m.measures := rfl
@[simp] theorem Mod.emit_sessions (o : Out) : (m.emit o).sessions = m.sessions := rfl
@[simp] theorem Mod.emit_nextSid (o : Out) : (m.emit o).nextSid = m.nextSid := rfl
@[simp] theorem Mod.emit_handshakes (o : Out) : (m.emit o).handshakes = m.handshakes := rfl
@[simp] theorem Mod.emit_initTimes (o : Out) : (m.emit o).initTimes = m.initTimes := rfl
@[simp] theorem Mod.emit_mem (o : Out) : (m.emit o).mem = m.mem := rfl
@[simp] theorem Mod.emit_memErrors (o : Out) : (m.emit o).memErrors = m.memErrors := rfl
@[simp] theorem Mod.emit_linkErrors (o : Out) : (m.emit o).linkErrors = m.linkErrors := rfl
@[simp] theorem Mod.emit_rowHits (o : Out) : (m.emit o).rowHits = m.rowHits := rfl
@[simp] theorem Mod.emit_rowTable (o : Out) : (m.emit o).rowTable = m.rowTable := rfl
@[simp] theorem Mod.emit_deadRows (o : Out) : (m.emit o).deadRows = m.deadRows := rfl
@[simp] theorem Mod.emit_repairSpent (o : Out) : (m.emit o).repairSpent = m.repairSpent := rfl
@[simp] theorem Mod.emit_badChannels (o : Out) : (m.emit o).badChannels = m.badChannels := rfl
@[simp] theorem Mod.emit_laneTestAt (o : Out) : (m.emit o).laneTestAt = m.laneTestAt := rfl
@[simp] theorem Mod.emit_channelReads (o : Out) : (m.emit o).channelReads = m.channelReads := rfl
@[simp] theorem Mod.emit_tierC (o : Out) : (m.emit o).tierC = m.tierC := rfl
@[simp] theorem Mod.emit_flashErrors (o : Out) : (m.emit o).flashErrors = m.flashErrors := rfl
@[simp] theorem Mod.emit_flashPages (o : Out) : (m.emit o).flashPages = m.flashPages := rfl
@[simp] theorem Mod.emit_hbmSpares (o : Out) : (m.emit o).hbmSpares = m.hbmSpares := rfl
@[simp] theorem Mod.emit_hbmBadLanes (o : Out) : (m.emit o).hbmBadLanes = m.hbmBadLanes := rfl
@[simp] theorem Mod.emit_sramList (o : Out) : (m.emit o).sramList = m.sramList := rfl
@[simp] theorem Mod.emit_sramRepairs (o : Out) : (m.emit o).sramRepairs = m.sramRepairs := rfl
@[simp] theorem Mod.emit_stakeMap (o : Out) : (m.emit o).stakeMap = m.stakeMap := rfl
@[simp] theorem Mod.emit_ribs (o : Out) : (m.emit o).ribs = m.ribs := rfl
@[simp] theorem Mod.emit_outOfService (o : Out) : (m.emit o).outOfService = m.outOfService := rfl
@[simp] theorem Mod.emit_stakeFaults (o : Out) : (m.emit o).stakeFaults = m.stakeFaults := rfl
@[simp] theorem Mod.emit_arrays (o : Out) : (m.emit o).arrays = m.arrays := rfl
@[simp] theorem Mod.emit_sequencers (o : Out) : (m.emit o).sequencers = m.sequencers := rfl
@[simp] theorem Mod.emit_jobs (o : Out) : (m.emit o).jobs = m.jobs := rfl
@[simp] theorem Mod.emit_retained (o : Out) : (m.emit o).retained = m.retained := rfl
@[simp] theorem Mod.emit_loads (o : Out) : (m.emit o).loads = m.loads := rfl
@[simp] theorem Mod.emit_lanes (o : Out) : (m.emit o).lanes = m.lanes := rfl
@[simp] theorem Mod.emit_registry (o : Out) : (m.emit o).registry = m.registry := rfl
@[simp] theorem Mod.emit_closing (o : Out) : (m.emit o).closing = m.closing := rfl
@[simp] theorem Mod.emit_ties (o : Out) : (m.emit o).ties = m.ties := rfl
@[simp] theorem Mod.emit_farWaiters (o : Out) : (m.emit o).farWaiters = m.farWaiters := rfl
@[simp] theorem Mod.emit_pools (o : Out) : (m.emit o).pools = m.pools := rfl
@[simp] theorem Mod.emit_poolStates (o : Out) : (m.emit o).poolStates = m.poolStates := rfl
@[simp] theorem Mod.emit_verdicts (o : Out) : (m.emit o).verdicts = m.verdicts := rfl
@[simp] theorem Mod.emit_journals (o : Out) : (m.emit o).journals = m.journals := rfl
@[simp] theorem Mod.emit_counters (o : Out) : (m.emit o).counters = m.counters := rfl
@[simp] theorem Mod.emit_log (o : Out) : (m.emit o).log = m.log := rfl
@[simp] theorem Mod.emit_nextRecord (o : Out) : (m.emit o).nextRecord = m.nextRecord := rfl
@[simp] theorem Mod.emit_escalations (o : Out) : (m.emit o).escalations = m.escalations := rfl
@[simp] theorem Mod.emit_isolations (o : Out) : (m.emit o).isolations = m.isolations := rfl
@[simp] theorem Mod.emit_notices (o : Out) : (m.emit o).notices = m.notices := rfl
@[simp] theorem Mod.emit_nextNotice (o : Out) : (m.emit o).nextNotice = m.nextNotice := rfl
@[simp] theorem Mod.emit_noticeIds (o : Out) : (m.emit o).noticeIds = m.noticeIds := rfl
@[simp] theorem Mod.emit_resetting (o : Out) : (m.emit o).resetting = m.resetting := rfl
@[simp] theorem Mod.emit_dumps (o : Out) : (m.emit o).dumps = m.dumps := rfl
@[simp] theorem Mod.emit_nextDump (o : Out) : (m.emit o).nextDump = m.nextDump := rfl
@[simp] theorem Mod.emit_summary (o : Out) : (m.emit o).summary = m.summary := rfl
@[simp] theorem Mod.emit_trail (o : Out) : (m.emit o).trail = m.trail := rfl
@[simp] theorem Mod.emit_keepCopy (o : Out) : (m.emit o).keepCopy = m.keepCopy := rfl
@[simp] theorem Mod.emit_trace (o : Out) : (m.emit o).trace = m.trace := rfl
@[simp] theorem Mod.emit_modAddr (o : Out) : (m.emit o).modAddr = m.modAddr := rfl
@[simp] theorem Mod.emit_ports (o : Out) : (m.emit o).ports = m.ports := rfl
@[simp] theorem Mod.emit_eth (o : Out) : (m.emit o).eth = m.eth := rfl
@[simp] theorem Mod.emit_faultTable (o : Out) : (m.emit o).faultTable = m.faultTable := rfl
@[simp] theorem Mod.emit_halfCounters (o : Out) : (m.emit o).halfCounters = m.halfCounters := rfl
@[simp] theorem Mod.emit_nextTag (o : Out) : (m.emit o).nextTag = m.nextTag := rfl
@[simp] theorem Mod.emit_trayOps (o : Out) : (m.emit o).trayOps = m.trayOps := rfl
@[simp] theorem Mod.emit_stalled (o : Out) : (m.emit o).stalled = m.stalled := rfl
@[simp] theorem Mod.emit_waitOut (o : Out) : (m.emit o).waitOut = m.waitOut := rfl
@[simp] theorem Mod.emit_staged (o : Out) : (m.emit o).staged = m.staged := rfl
@[simp] theorem Mod.emit_homeOwners (o : Out) : (m.emit o).homeOwners = m.homeOwners := rfl
@[simp] theorem Mod.emit_ownTable (o : Out) : (m.emit o).ownTable = m.ownTable := rfl
@[simp] theorem Mod.emit_ownWaits (o : Out) : (m.emit o).ownWaits = m.ownWaits := rfl
@[simp] theorem Mod.emit_ownStale (o : Out) : (m.emit o).ownStale = m.ownStale := rfl
@[simp] theorem Mod.emit_combined (o : Out) : (m.emit o).combined = m.combined := rfl
@[simp] theorem Mod.emit_assembly (o : Out) : (m.emit o).assembly = m.assembly := rfl
@[simp] theorem Mod.emit_injectedFrom (o : Out) : (m.emit o).injectedFrom = m.injectedFrom := rfl
@[simp] theorem Mod.emit_isSteward (o : Out) : (m.emit o).isSteward = m.isSteward := rfl
@[simp] theorem Mod.emit_roster (o : Out) : (m.emit o).roster = m.roster := rfl
@[simp] theorem Mod.emit_rosterEpoch (o : Out) : (m.emit o).rosterEpoch = m.rosterEpoch := rfl
@[simp] theorem Mod.emit_joins (o : Out) : (m.emit o).joins = m.joins := rfl

@[simp] theorem Mod.updLane_timer (l : Lane) (f : LaneState → LaneState) : (m.updLane l f).timer = m.timer := rfl
@[simp] theorem Mod.updLane_timerOn (l : Lane) (f : LaneState → LaneState) : (m.updLane l f).timerOn = m.timerOn := rfl
@[simp] theorem Mod.updLane_timerDev (l : Lane) (f : LaneState → LaneState) : (m.updLane l f).timerDev = m.timerDev := rfl
@[simp] theorem Mod.updLane_timerReload (l : Lane) (f : LaneState → LaneState) : (m.updLane l f).timerReload = m.timerReload := rfl
@[simp] theorem Mod.updLane_free (l : Lane) (f : LaneState → LaneState) : (m.updLane l f).free = m.free := rfl
@[simp] theorem Mod.updLane_power (l : Lane) (f : LaneState → LaneState) : (m.updLane l f).power = m.power := rfl
@[simp] theorem Mod.updLane_boot (l : Lane) (f : LaneState → LaneState) : (m.updLane l f).boot = m.boot := rfl
@[simp] theorem Mod.updLane_alertCause (l : Lane) (f : LaneState → LaneState) : (m.updLane l f).alertCause = m.alertCause := rfl
@[simp] theorem Mod.updLane_alertMask (l : Lane) (f : LaneState → LaneState) : (m.updLane l f).alertMask = m.alertMask := rfl
@[simp] theorem Mod.updLane_sideband (l : Lane) (f : LaneState → LaneState) : (m.updLane l f).sideband = m.sideband := rfl
@[simp] theorem Mod.updLane_sideBoxes (l : Lane) (f : LaneState → LaneState) : (m.updLane l f).sideBoxes = m.sideBoxes := rfl
@[simp] theorem Mod.updLane_small (l : Lane) (f : LaneState → LaneState) : (m.updLane l f).small = m.small := rfl
@[simp] theorem Mod.updLane_i3c (l : Lane) (f : LaneState → LaneState) : (m.updLane l f).i3c = m.i3c := rfl
@[simp] theorem Mod.updLane_tap (l : Lane) (f : LaneState → LaneState) : (m.updLane l f).tap = m.tap := rfl
@[simp] theorem Mod.updLane_claim (l : Lane) (f : LaneState → LaneState) : (m.updLane l f).claim = m.claim := rfl
@[simp] theorem Mod.updLane_policy (l : Lane) (f : LaneState → LaneState) : (m.updLane l f).policy = m.policy := rfl
@[simp] theorem Mod.updLane_proposal (l : Lane) (f : LaneState → LaneState) : (m.updLane l f).proposal = m.proposal := rfl
@[simp] theorem Mod.updLane_measures (l : Lane) (f : LaneState → LaneState) : (m.updLane l f).measures = m.measures := rfl
@[simp] theorem Mod.updLane_sessions (l : Lane) (f : LaneState → LaneState) : (m.updLane l f).sessions = m.sessions := rfl
@[simp] theorem Mod.updLane_nextSid (l : Lane) (f : LaneState → LaneState) : (m.updLane l f).nextSid = m.nextSid := rfl
@[simp] theorem Mod.updLane_handshakes (l : Lane) (f : LaneState → LaneState) : (m.updLane l f).handshakes = m.handshakes := rfl
@[simp] theorem Mod.updLane_initTimes (l : Lane) (f : LaneState → LaneState) : (m.updLane l f).initTimes = m.initTimes := rfl
@[simp] theorem Mod.updLane_mem (l : Lane) (f : LaneState → LaneState) : (m.updLane l f).mem = m.mem := rfl
@[simp] theorem Mod.updLane_memErrors (l : Lane) (f : LaneState → LaneState) : (m.updLane l f).memErrors = m.memErrors := rfl
@[simp] theorem Mod.updLane_linkErrors (l : Lane) (f : LaneState → LaneState) : (m.updLane l f).linkErrors = m.linkErrors := rfl
@[simp] theorem Mod.updLane_rowHits (l : Lane) (f : LaneState → LaneState) : (m.updLane l f).rowHits = m.rowHits := rfl
@[simp] theorem Mod.updLane_rowTable (l : Lane) (f : LaneState → LaneState) : (m.updLane l f).rowTable = m.rowTable := rfl
@[simp] theorem Mod.updLane_deadRows (l : Lane) (f : LaneState → LaneState) : (m.updLane l f).deadRows = m.deadRows := rfl
@[simp] theorem Mod.updLane_repairSpent (l : Lane) (f : LaneState → LaneState) : (m.updLane l f).repairSpent = m.repairSpent := rfl
@[simp] theorem Mod.updLane_badChannels (l : Lane) (f : LaneState → LaneState) : (m.updLane l f).badChannels = m.badChannels := rfl
@[simp] theorem Mod.updLane_laneTestAt (l : Lane) (f : LaneState → LaneState) : (m.updLane l f).laneTestAt = m.laneTestAt := rfl
@[simp] theorem Mod.updLane_channelReads (l : Lane) (f : LaneState → LaneState) : (m.updLane l f).channelReads = m.channelReads := rfl
@[simp] theorem Mod.updLane_tierC (l : Lane) (f : LaneState → LaneState) : (m.updLane l f).tierC = m.tierC := rfl
@[simp] theorem Mod.updLane_flashErrors (l : Lane) (f : LaneState → LaneState) : (m.updLane l f).flashErrors = m.flashErrors := rfl
@[simp] theorem Mod.updLane_flashPages (l : Lane) (f : LaneState → LaneState) : (m.updLane l f).flashPages = m.flashPages := rfl
@[simp] theorem Mod.updLane_hbmSpares (l : Lane) (f : LaneState → LaneState) : (m.updLane l f).hbmSpares = m.hbmSpares := rfl
@[simp] theorem Mod.updLane_hbmBadLanes (l : Lane) (f : LaneState → LaneState) : (m.updLane l f).hbmBadLanes = m.hbmBadLanes := rfl
@[simp] theorem Mod.updLane_sramList (l : Lane) (f : LaneState → LaneState) : (m.updLane l f).sramList = m.sramList := rfl
@[simp] theorem Mod.updLane_sramRepairs (l : Lane) (f : LaneState → LaneState) : (m.updLane l f).sramRepairs = m.sramRepairs := rfl
@[simp] theorem Mod.updLane_stakeMap (l : Lane) (f : LaneState → LaneState) : (m.updLane l f).stakeMap = m.stakeMap := rfl
@[simp] theorem Mod.updLane_ribs (l : Lane) (f : LaneState → LaneState) : (m.updLane l f).ribs = m.ribs := rfl
@[simp] theorem Mod.updLane_outOfService (l : Lane) (f : LaneState → LaneState) : (m.updLane l f).outOfService = m.outOfService := rfl
@[simp] theorem Mod.updLane_stakeFaults (l : Lane) (f : LaneState → LaneState) : (m.updLane l f).stakeFaults = m.stakeFaults := rfl
@[simp] theorem Mod.updLane_arrays (l : Lane) (f : LaneState → LaneState) : (m.updLane l f).arrays = m.arrays := rfl
@[simp] theorem Mod.updLane_sequencers (l : Lane) (f : LaneState → LaneState) : (m.updLane l f).sequencers = m.sequencers := rfl
@[simp] theorem Mod.updLane_jobs (l : Lane) (f : LaneState → LaneState) : (m.updLane l f).jobs = m.jobs := rfl
@[simp] theorem Mod.updLane_retained (l : Lane) (f : LaneState → LaneState) : (m.updLane l f).retained = m.retained := rfl
@[simp] theorem Mod.updLane_loads (l : Lane) (f : LaneState → LaneState) : (m.updLane l f).loads = m.loads := rfl
@[simp] theorem Mod.updLane_registry (l : Lane) (f : LaneState → LaneState) : (m.updLane l f).registry = m.registry := rfl
@[simp] theorem Mod.updLane_closing (l : Lane) (f : LaneState → LaneState) : (m.updLane l f).closing = m.closing := rfl
@[simp] theorem Mod.updLane_ties (l : Lane) (f : LaneState → LaneState) : (m.updLane l f).ties = m.ties := rfl
@[simp] theorem Mod.updLane_farWaiters (l : Lane) (f : LaneState → LaneState) : (m.updLane l f).farWaiters = m.farWaiters := rfl
@[simp] theorem Mod.updLane_pools (l : Lane) (f : LaneState → LaneState) : (m.updLane l f).pools = m.pools := rfl
@[simp] theorem Mod.updLane_poolStates (l : Lane) (f : LaneState → LaneState) : (m.updLane l f).poolStates = m.poolStates := rfl
@[simp] theorem Mod.updLane_verdicts (l : Lane) (f : LaneState → LaneState) : (m.updLane l f).verdicts = m.verdicts := rfl
@[simp] theorem Mod.updLane_journals (l : Lane) (f : LaneState → LaneState) : (m.updLane l f).journals = m.journals := rfl
@[simp] theorem Mod.updLane_counters (l : Lane) (f : LaneState → LaneState) : (m.updLane l f).counters = m.counters := rfl
@[simp] theorem Mod.updLane_log (l : Lane) (f : LaneState → LaneState) : (m.updLane l f).log = m.log := rfl
@[simp] theorem Mod.updLane_nextRecord (l : Lane) (f : LaneState → LaneState) : (m.updLane l f).nextRecord = m.nextRecord := rfl
@[simp] theorem Mod.updLane_escalations (l : Lane) (f : LaneState → LaneState) : (m.updLane l f).escalations = m.escalations := rfl
@[simp] theorem Mod.updLane_isolations (l : Lane) (f : LaneState → LaneState) : (m.updLane l f).isolations = m.isolations := rfl
@[simp] theorem Mod.updLane_notices (l : Lane) (f : LaneState → LaneState) : (m.updLane l f).notices = m.notices := rfl
@[simp] theorem Mod.updLane_nextNotice (l : Lane) (f : LaneState → LaneState) : (m.updLane l f).nextNotice = m.nextNotice := rfl
@[simp] theorem Mod.updLane_noticeIds (l : Lane) (f : LaneState → LaneState) : (m.updLane l f).noticeIds = m.noticeIds := rfl
@[simp] theorem Mod.updLane_resetting (l : Lane) (f : LaneState → LaneState) : (m.updLane l f).resetting = m.resetting := rfl
@[simp] theorem Mod.updLane_dumps (l : Lane) (f : LaneState → LaneState) : (m.updLane l f).dumps = m.dumps := rfl
@[simp] theorem Mod.updLane_nextDump (l : Lane) (f : LaneState → LaneState) : (m.updLane l f).nextDump = m.nextDump := rfl
@[simp] theorem Mod.updLane_summary (l : Lane) (f : LaneState → LaneState) : (m.updLane l f).summary = m.summary := rfl
@[simp] theorem Mod.updLane_trail (l : Lane) (f : LaneState → LaneState) : (m.updLane l f).trail = m.trail := rfl
@[simp] theorem Mod.updLane_keepCopy (l : Lane) (f : LaneState → LaneState) : (m.updLane l f).keepCopy = m.keepCopy := rfl
@[simp] theorem Mod.updLane_trace (l : Lane) (f : LaneState → LaneState) : (m.updLane l f).trace = m.trace := rfl
@[simp] theorem Mod.updLane_modAddr (l : Lane) (f : LaneState → LaneState) : (m.updLane l f).modAddr = m.modAddr := rfl
@[simp] theorem Mod.updLane_ports (l : Lane) (f : LaneState → LaneState) : (m.updLane l f).ports = m.ports := rfl
@[simp] theorem Mod.updLane_eth (l : Lane) (f : LaneState → LaneState) : (m.updLane l f).eth = m.eth := rfl
@[simp] theorem Mod.updLane_faultTable (l : Lane) (f : LaneState → LaneState) : (m.updLane l f).faultTable = m.faultTable := rfl
@[simp] theorem Mod.updLane_halfCounters (l : Lane) (f : LaneState → LaneState) : (m.updLane l f).halfCounters = m.halfCounters := rfl
@[simp] theorem Mod.updLane_nextTag (l : Lane) (f : LaneState → LaneState) : (m.updLane l f).nextTag = m.nextTag := rfl
@[simp] theorem Mod.updLane_trayOps (l : Lane) (f : LaneState → LaneState) : (m.updLane l f).trayOps = m.trayOps := rfl
@[simp] theorem Mod.updLane_stalled (l : Lane) (f : LaneState → LaneState) : (m.updLane l f).stalled = m.stalled := rfl
@[simp] theorem Mod.updLane_waitOut (l : Lane) (f : LaneState → LaneState) : (m.updLane l f).waitOut = m.waitOut := rfl
@[simp] theorem Mod.updLane_staged (l : Lane) (f : LaneState → LaneState) : (m.updLane l f).staged = m.staged := rfl
@[simp] theorem Mod.updLane_homeOwners (l : Lane) (f : LaneState → LaneState) : (m.updLane l f).homeOwners = m.homeOwners := rfl
@[simp] theorem Mod.updLane_ownTable (l : Lane) (f : LaneState → LaneState) : (m.updLane l f).ownTable = m.ownTable := rfl
@[simp] theorem Mod.updLane_ownWaits (l : Lane) (f : LaneState → LaneState) : (m.updLane l f).ownWaits = m.ownWaits := rfl
@[simp] theorem Mod.updLane_ownStale (l : Lane) (f : LaneState → LaneState) : (m.updLane l f).ownStale = m.ownStale := rfl
@[simp] theorem Mod.updLane_combined (l : Lane) (f : LaneState → LaneState) : (m.updLane l f).combined = m.combined := rfl
@[simp] theorem Mod.updLane_assembly (l : Lane) (f : LaneState → LaneState) : (m.updLane l f).assembly = m.assembly := rfl
@[simp] theorem Mod.updLane_injectedFrom (l : Lane) (f : LaneState → LaneState) : (m.updLane l f).injectedFrom = m.injectedFrom := rfl
@[simp] theorem Mod.updLane_isSteward (l : Lane) (f : LaneState → LaneState) : (m.updLane l f).isSteward = m.isSteward := rfl
@[simp] theorem Mod.updLane_roster (l : Lane) (f : LaneState → LaneState) : (m.updLane l f).roster = m.roster := rfl
@[simp] theorem Mod.updLane_rosterEpoch (l : Lane) (f : LaneState → LaneState) : (m.updLane l f).rosterEpoch = m.rosterEpoch := rfl
@[simp] theorem Mod.updLane_joins (l : Lane) (f : LaneState → LaneState) : (m.updLane l f).joins = m.joins := rfl
@[simp] theorem Mod.updLane_out (l : Lane) (f : LaneState → LaneState) : (m.updLane l f).out = m.out := rfl

@[simp] theorem Mod.updJob_timer (id : Nat) (f : Job → Job) : (m.updJob id f).timer = m.timer := rfl
@[simp] theorem Mod.updJob_timerOn (id : Nat) (f : Job → Job) : (m.updJob id f).timerOn = m.timerOn := rfl
@[simp] theorem Mod.updJob_timerDev (id : Nat) (f : Job → Job) : (m.updJob id f).timerDev = m.timerDev := rfl
@[simp] theorem Mod.updJob_timerReload (id : Nat) (f : Job → Job) : (m.updJob id f).timerReload = m.timerReload := rfl
@[simp] theorem Mod.updJob_free (id : Nat) (f : Job → Job) : (m.updJob id f).free = m.free := rfl
@[simp] theorem Mod.updJob_power (id : Nat) (f : Job → Job) : (m.updJob id f).power = m.power := rfl
@[simp] theorem Mod.updJob_boot (id : Nat) (f : Job → Job) : (m.updJob id f).boot = m.boot := rfl
@[simp] theorem Mod.updJob_alertCause (id : Nat) (f : Job → Job) : (m.updJob id f).alertCause = m.alertCause := rfl
@[simp] theorem Mod.updJob_alertMask (id : Nat) (f : Job → Job) : (m.updJob id f).alertMask = m.alertMask := rfl
@[simp] theorem Mod.updJob_sideband (id : Nat) (f : Job → Job) : (m.updJob id f).sideband = m.sideband := rfl
@[simp] theorem Mod.updJob_sideBoxes (id : Nat) (f : Job → Job) : (m.updJob id f).sideBoxes = m.sideBoxes := rfl
@[simp] theorem Mod.updJob_small (id : Nat) (f : Job → Job) : (m.updJob id f).small = m.small := rfl
@[simp] theorem Mod.updJob_i3c (id : Nat) (f : Job → Job) : (m.updJob id f).i3c = m.i3c := rfl
@[simp] theorem Mod.updJob_tap (id : Nat) (f : Job → Job) : (m.updJob id f).tap = m.tap := rfl
@[simp] theorem Mod.updJob_claim (id : Nat) (f : Job → Job) : (m.updJob id f).claim = m.claim := rfl
@[simp] theorem Mod.updJob_policy (id : Nat) (f : Job → Job) : (m.updJob id f).policy = m.policy := rfl
@[simp] theorem Mod.updJob_proposal (id : Nat) (f : Job → Job) : (m.updJob id f).proposal = m.proposal := rfl
@[simp] theorem Mod.updJob_measures (id : Nat) (f : Job → Job) : (m.updJob id f).measures = m.measures := rfl
@[simp] theorem Mod.updJob_sessions (id : Nat) (f : Job → Job) : (m.updJob id f).sessions = m.sessions := rfl
@[simp] theorem Mod.updJob_nextSid (id : Nat) (f : Job → Job) : (m.updJob id f).nextSid = m.nextSid := rfl
@[simp] theorem Mod.updJob_handshakes (id : Nat) (f : Job → Job) : (m.updJob id f).handshakes = m.handshakes := rfl
@[simp] theorem Mod.updJob_initTimes (id : Nat) (f : Job → Job) : (m.updJob id f).initTimes = m.initTimes := rfl
@[simp] theorem Mod.updJob_mem (id : Nat) (f : Job → Job) : (m.updJob id f).mem = m.mem := rfl
@[simp] theorem Mod.updJob_memErrors (id : Nat) (f : Job → Job) : (m.updJob id f).memErrors = m.memErrors := rfl
@[simp] theorem Mod.updJob_linkErrors (id : Nat) (f : Job → Job) : (m.updJob id f).linkErrors = m.linkErrors := rfl
@[simp] theorem Mod.updJob_rowHits (id : Nat) (f : Job → Job) : (m.updJob id f).rowHits = m.rowHits := rfl
@[simp] theorem Mod.updJob_rowTable (id : Nat) (f : Job → Job) : (m.updJob id f).rowTable = m.rowTable := rfl
@[simp] theorem Mod.updJob_deadRows (id : Nat) (f : Job → Job) : (m.updJob id f).deadRows = m.deadRows := rfl
@[simp] theorem Mod.updJob_repairSpent (id : Nat) (f : Job → Job) : (m.updJob id f).repairSpent = m.repairSpent := rfl
@[simp] theorem Mod.updJob_badChannels (id : Nat) (f : Job → Job) : (m.updJob id f).badChannels = m.badChannels := rfl
@[simp] theorem Mod.updJob_laneTestAt (id : Nat) (f : Job → Job) : (m.updJob id f).laneTestAt = m.laneTestAt := rfl
@[simp] theorem Mod.updJob_channelReads (id : Nat) (f : Job → Job) : (m.updJob id f).channelReads = m.channelReads := rfl
@[simp] theorem Mod.updJob_tierC (id : Nat) (f : Job → Job) : (m.updJob id f).tierC = m.tierC := rfl
@[simp] theorem Mod.updJob_flashErrors (id : Nat) (f : Job → Job) : (m.updJob id f).flashErrors = m.flashErrors := rfl
@[simp] theorem Mod.updJob_flashPages (id : Nat) (f : Job → Job) : (m.updJob id f).flashPages = m.flashPages := rfl
@[simp] theorem Mod.updJob_hbmSpares (id : Nat) (f : Job → Job) : (m.updJob id f).hbmSpares = m.hbmSpares := rfl
@[simp] theorem Mod.updJob_hbmBadLanes (id : Nat) (f : Job → Job) : (m.updJob id f).hbmBadLanes = m.hbmBadLanes := rfl
@[simp] theorem Mod.updJob_sramList (id : Nat) (f : Job → Job) : (m.updJob id f).sramList = m.sramList := rfl
@[simp] theorem Mod.updJob_sramRepairs (id : Nat) (f : Job → Job) : (m.updJob id f).sramRepairs = m.sramRepairs := rfl
@[simp] theorem Mod.updJob_stakeMap (id : Nat) (f : Job → Job) : (m.updJob id f).stakeMap = m.stakeMap := rfl
@[simp] theorem Mod.updJob_ribs (id : Nat) (f : Job → Job) : (m.updJob id f).ribs = m.ribs := rfl
@[simp] theorem Mod.updJob_outOfService (id : Nat) (f : Job → Job) : (m.updJob id f).outOfService = m.outOfService := rfl
@[simp] theorem Mod.updJob_stakeFaults (id : Nat) (f : Job → Job) : (m.updJob id f).stakeFaults = m.stakeFaults := rfl
@[simp] theorem Mod.updJob_arrays (id : Nat) (f : Job → Job) : (m.updJob id f).arrays = m.arrays := rfl
@[simp] theorem Mod.updJob_sequencers (id : Nat) (f : Job → Job) : (m.updJob id f).sequencers = m.sequencers := rfl
@[simp] theorem Mod.updJob_retained (id : Nat) (f : Job → Job) : (m.updJob id f).retained = m.retained := rfl
@[simp] theorem Mod.updJob_loads (id : Nat) (f : Job → Job) : (m.updJob id f).loads = m.loads := rfl
@[simp] theorem Mod.updJob_lanes (id : Nat) (f : Job → Job) : (m.updJob id f).lanes = m.lanes := rfl
@[simp] theorem Mod.updJob_registry (id : Nat) (f : Job → Job) : (m.updJob id f).registry = m.registry := rfl
@[simp] theorem Mod.updJob_closing (id : Nat) (f : Job → Job) : (m.updJob id f).closing = m.closing := rfl
@[simp] theorem Mod.updJob_ties (id : Nat) (f : Job → Job) : (m.updJob id f).ties = m.ties := rfl
@[simp] theorem Mod.updJob_farWaiters (id : Nat) (f : Job → Job) : (m.updJob id f).farWaiters = m.farWaiters := rfl
@[simp] theorem Mod.updJob_pools (id : Nat) (f : Job → Job) : (m.updJob id f).pools = m.pools := rfl
@[simp] theorem Mod.updJob_poolStates (id : Nat) (f : Job → Job) : (m.updJob id f).poolStates = m.poolStates := rfl
@[simp] theorem Mod.updJob_verdicts (id : Nat) (f : Job → Job) : (m.updJob id f).verdicts = m.verdicts := rfl
@[simp] theorem Mod.updJob_journals (id : Nat) (f : Job → Job) : (m.updJob id f).journals = m.journals := rfl
@[simp] theorem Mod.updJob_counters (id : Nat) (f : Job → Job) : (m.updJob id f).counters = m.counters := rfl
@[simp] theorem Mod.updJob_log (id : Nat) (f : Job → Job) : (m.updJob id f).log = m.log := rfl
@[simp] theorem Mod.updJob_nextRecord (id : Nat) (f : Job → Job) : (m.updJob id f).nextRecord = m.nextRecord := rfl
@[simp] theorem Mod.updJob_escalations (id : Nat) (f : Job → Job) : (m.updJob id f).escalations = m.escalations := rfl
@[simp] theorem Mod.updJob_isolations (id : Nat) (f : Job → Job) : (m.updJob id f).isolations = m.isolations := rfl
@[simp] theorem Mod.updJob_notices (id : Nat) (f : Job → Job) : (m.updJob id f).notices = m.notices := rfl
@[simp] theorem Mod.updJob_nextNotice (id : Nat) (f : Job → Job) : (m.updJob id f).nextNotice = m.nextNotice := rfl
@[simp] theorem Mod.updJob_noticeIds (id : Nat) (f : Job → Job) : (m.updJob id f).noticeIds = m.noticeIds := rfl
@[simp] theorem Mod.updJob_resetting (id : Nat) (f : Job → Job) : (m.updJob id f).resetting = m.resetting := rfl
@[simp] theorem Mod.updJob_dumps (id : Nat) (f : Job → Job) : (m.updJob id f).dumps = m.dumps := rfl
@[simp] theorem Mod.updJob_nextDump (id : Nat) (f : Job → Job) : (m.updJob id f).nextDump = m.nextDump := rfl
@[simp] theorem Mod.updJob_summary (id : Nat) (f : Job → Job) : (m.updJob id f).summary = m.summary := rfl
@[simp] theorem Mod.updJob_trail (id : Nat) (f : Job → Job) : (m.updJob id f).trail = m.trail := rfl
@[simp] theorem Mod.updJob_keepCopy (id : Nat) (f : Job → Job) : (m.updJob id f).keepCopy = m.keepCopy := rfl
@[simp] theorem Mod.updJob_trace (id : Nat) (f : Job → Job) : (m.updJob id f).trace = m.trace := rfl
@[simp] theorem Mod.updJob_modAddr (id : Nat) (f : Job → Job) : (m.updJob id f).modAddr = m.modAddr := rfl
@[simp] theorem Mod.updJob_ports (id : Nat) (f : Job → Job) : (m.updJob id f).ports = m.ports := rfl
@[simp] theorem Mod.updJob_eth (id : Nat) (f : Job → Job) : (m.updJob id f).eth = m.eth := rfl
@[simp] theorem Mod.updJob_faultTable (id : Nat) (f : Job → Job) : (m.updJob id f).faultTable = m.faultTable := rfl
@[simp] theorem Mod.updJob_halfCounters (id : Nat) (f : Job → Job) : (m.updJob id f).halfCounters = m.halfCounters := rfl
@[simp] theorem Mod.updJob_nextTag (id : Nat) (f : Job → Job) : (m.updJob id f).nextTag = m.nextTag := rfl
@[simp] theorem Mod.updJob_trayOps (id : Nat) (f : Job → Job) : (m.updJob id f).trayOps = m.trayOps := rfl
@[simp] theorem Mod.updJob_stalled (id : Nat) (f : Job → Job) : (m.updJob id f).stalled = m.stalled := rfl
@[simp] theorem Mod.updJob_waitOut (id : Nat) (f : Job → Job) : (m.updJob id f).waitOut = m.waitOut := rfl
@[simp] theorem Mod.updJob_staged (id : Nat) (f : Job → Job) : (m.updJob id f).staged = m.staged := rfl
@[simp] theorem Mod.updJob_homeOwners (id : Nat) (f : Job → Job) : (m.updJob id f).homeOwners = m.homeOwners := rfl
@[simp] theorem Mod.updJob_ownTable (id : Nat) (f : Job → Job) : (m.updJob id f).ownTable = m.ownTable := rfl
@[simp] theorem Mod.updJob_ownWaits (id : Nat) (f : Job → Job) : (m.updJob id f).ownWaits = m.ownWaits := rfl
@[simp] theorem Mod.updJob_ownStale (id : Nat) (f : Job → Job) : (m.updJob id f).ownStale = m.ownStale := rfl
@[simp] theorem Mod.updJob_combined (id : Nat) (f : Job → Job) : (m.updJob id f).combined = m.combined := rfl
@[simp] theorem Mod.updJob_assembly (id : Nat) (f : Job → Job) : (m.updJob id f).assembly = m.assembly := rfl
@[simp] theorem Mod.updJob_injectedFrom (id : Nat) (f : Job → Job) : (m.updJob id f).injectedFrom = m.injectedFrom := rfl
@[simp] theorem Mod.updJob_isSteward (id : Nat) (f : Job → Job) : (m.updJob id f).isSteward = m.isSteward := rfl
@[simp] theorem Mod.updJob_roster (id : Nat) (f : Job → Job) : (m.updJob id f).roster = m.roster := rfl
@[simp] theorem Mod.updJob_rosterEpoch (id : Nat) (f : Job → Job) : (m.updJob id f).rosterEpoch = m.rosterEpoch := rfl
@[simp] theorem Mod.updJob_joins (id : Nat) (f : Job → Job) : (m.updJob id f).joins = m.joins := rfl
@[simp] theorem Mod.updJob_out (id : Nat) (f : Job → Job) : (m.updJob id f).out = m.out := rfl

@[simp] theorem Mod.updSession_timer (sid : Nat) (f : Session → Session) : (m.updSession sid f).timer = m.timer := rfl
@[simp] theorem Mod.updSession_timerOn (sid : Nat) (f : Session → Session) : (m.updSession sid f).timerOn = m.timerOn := rfl
@[simp] theorem Mod.updSession_timerDev (sid : Nat) (f : Session → Session) : (m.updSession sid f).timerDev = m.timerDev := rfl
@[simp] theorem Mod.updSession_timerReload (sid : Nat) (f : Session → Session) : (m.updSession sid f).timerReload = m.timerReload := rfl
@[simp] theorem Mod.updSession_free (sid : Nat) (f : Session → Session) : (m.updSession sid f).free = m.free := rfl
@[simp] theorem Mod.updSession_power (sid : Nat) (f : Session → Session) : (m.updSession sid f).power = m.power := rfl
@[simp] theorem Mod.updSession_boot (sid : Nat) (f : Session → Session) : (m.updSession sid f).boot = m.boot := rfl
@[simp] theorem Mod.updSession_alertCause (sid : Nat) (f : Session → Session) : (m.updSession sid f).alertCause = m.alertCause := rfl
@[simp] theorem Mod.updSession_alertMask (sid : Nat) (f : Session → Session) : (m.updSession sid f).alertMask = m.alertMask := rfl
@[simp] theorem Mod.updSession_sideband (sid : Nat) (f : Session → Session) : (m.updSession sid f).sideband = m.sideband := rfl
@[simp] theorem Mod.updSession_sideBoxes (sid : Nat) (f : Session → Session) : (m.updSession sid f).sideBoxes = m.sideBoxes := rfl
@[simp] theorem Mod.updSession_small (sid : Nat) (f : Session → Session) : (m.updSession sid f).small = m.small := rfl
@[simp] theorem Mod.updSession_i3c (sid : Nat) (f : Session → Session) : (m.updSession sid f).i3c = m.i3c := rfl
@[simp] theorem Mod.updSession_tap (sid : Nat) (f : Session → Session) : (m.updSession sid f).tap = m.tap := rfl
@[simp] theorem Mod.updSession_claim (sid : Nat) (f : Session → Session) : (m.updSession sid f).claim = m.claim := rfl
@[simp] theorem Mod.updSession_policy (sid : Nat) (f : Session → Session) : (m.updSession sid f).policy = m.policy := rfl
@[simp] theorem Mod.updSession_proposal (sid : Nat) (f : Session → Session) : (m.updSession sid f).proposal = m.proposal := rfl
@[simp] theorem Mod.updSession_measures (sid : Nat) (f : Session → Session) : (m.updSession sid f).measures = m.measures := rfl
@[simp] theorem Mod.updSession_nextSid (sid : Nat) (f : Session → Session) : (m.updSession sid f).nextSid = m.nextSid := rfl
@[simp] theorem Mod.updSession_handshakes (sid : Nat) (f : Session → Session) : (m.updSession sid f).handshakes = m.handshakes := rfl
@[simp] theorem Mod.updSession_initTimes (sid : Nat) (f : Session → Session) : (m.updSession sid f).initTimes = m.initTimes := rfl
@[simp] theorem Mod.updSession_mem (sid : Nat) (f : Session → Session) : (m.updSession sid f).mem = m.mem := rfl
@[simp] theorem Mod.updSession_memErrors (sid : Nat) (f : Session → Session) : (m.updSession sid f).memErrors = m.memErrors := rfl
@[simp] theorem Mod.updSession_linkErrors (sid : Nat) (f : Session → Session) : (m.updSession sid f).linkErrors = m.linkErrors := rfl
@[simp] theorem Mod.updSession_rowHits (sid : Nat) (f : Session → Session) : (m.updSession sid f).rowHits = m.rowHits := rfl
@[simp] theorem Mod.updSession_rowTable (sid : Nat) (f : Session → Session) : (m.updSession sid f).rowTable = m.rowTable := rfl
@[simp] theorem Mod.updSession_deadRows (sid : Nat) (f : Session → Session) : (m.updSession sid f).deadRows = m.deadRows := rfl
@[simp] theorem Mod.updSession_repairSpent (sid : Nat) (f : Session → Session) : (m.updSession sid f).repairSpent = m.repairSpent := rfl
@[simp] theorem Mod.updSession_badChannels (sid : Nat) (f : Session → Session) : (m.updSession sid f).badChannels = m.badChannels := rfl
@[simp] theorem Mod.updSession_laneTestAt (sid : Nat) (f : Session → Session) : (m.updSession sid f).laneTestAt = m.laneTestAt := rfl
@[simp] theorem Mod.updSession_channelReads (sid : Nat) (f : Session → Session) : (m.updSession sid f).channelReads = m.channelReads := rfl
@[simp] theorem Mod.updSession_tierC (sid : Nat) (f : Session → Session) : (m.updSession sid f).tierC = m.tierC := rfl
@[simp] theorem Mod.updSession_flashErrors (sid : Nat) (f : Session → Session) : (m.updSession sid f).flashErrors = m.flashErrors := rfl
@[simp] theorem Mod.updSession_flashPages (sid : Nat) (f : Session → Session) : (m.updSession sid f).flashPages = m.flashPages := rfl
@[simp] theorem Mod.updSession_hbmSpares (sid : Nat) (f : Session → Session) : (m.updSession sid f).hbmSpares = m.hbmSpares := rfl
@[simp] theorem Mod.updSession_hbmBadLanes (sid : Nat) (f : Session → Session) : (m.updSession sid f).hbmBadLanes = m.hbmBadLanes := rfl
@[simp] theorem Mod.updSession_sramList (sid : Nat) (f : Session → Session) : (m.updSession sid f).sramList = m.sramList := rfl
@[simp] theorem Mod.updSession_sramRepairs (sid : Nat) (f : Session → Session) : (m.updSession sid f).sramRepairs = m.sramRepairs := rfl
@[simp] theorem Mod.updSession_stakeMap (sid : Nat) (f : Session → Session) : (m.updSession sid f).stakeMap = m.stakeMap := rfl
@[simp] theorem Mod.updSession_ribs (sid : Nat) (f : Session → Session) : (m.updSession sid f).ribs = m.ribs := rfl
@[simp] theorem Mod.updSession_outOfService (sid : Nat) (f : Session → Session) : (m.updSession sid f).outOfService = m.outOfService := rfl
@[simp] theorem Mod.updSession_stakeFaults (sid : Nat) (f : Session → Session) : (m.updSession sid f).stakeFaults = m.stakeFaults := rfl
@[simp] theorem Mod.updSession_arrays (sid : Nat) (f : Session → Session) : (m.updSession sid f).arrays = m.arrays := rfl
@[simp] theorem Mod.updSession_sequencers (sid : Nat) (f : Session → Session) : (m.updSession sid f).sequencers = m.sequencers := rfl
@[simp] theorem Mod.updSession_jobs (sid : Nat) (f : Session → Session) : (m.updSession sid f).jobs = m.jobs := rfl
@[simp] theorem Mod.updSession_retained (sid : Nat) (f : Session → Session) : (m.updSession sid f).retained = m.retained := rfl
@[simp] theorem Mod.updSession_loads (sid : Nat) (f : Session → Session) : (m.updSession sid f).loads = m.loads := rfl
@[simp] theorem Mod.updSession_lanes (sid : Nat) (f : Session → Session) : (m.updSession sid f).lanes = m.lanes := rfl
@[simp] theorem Mod.updSession_registry (sid : Nat) (f : Session → Session) : (m.updSession sid f).registry = m.registry := rfl
@[simp] theorem Mod.updSession_closing (sid : Nat) (f : Session → Session) : (m.updSession sid f).closing = m.closing := rfl
@[simp] theorem Mod.updSession_ties (sid : Nat) (f : Session → Session) : (m.updSession sid f).ties = m.ties := rfl
@[simp] theorem Mod.updSession_farWaiters (sid : Nat) (f : Session → Session) : (m.updSession sid f).farWaiters = m.farWaiters := rfl
@[simp] theorem Mod.updSession_pools (sid : Nat) (f : Session → Session) : (m.updSession sid f).pools = m.pools := rfl
@[simp] theorem Mod.updSession_poolStates (sid : Nat) (f : Session → Session) : (m.updSession sid f).poolStates = m.poolStates := rfl
@[simp] theorem Mod.updSession_verdicts (sid : Nat) (f : Session → Session) : (m.updSession sid f).verdicts = m.verdicts := rfl
@[simp] theorem Mod.updSession_journals (sid : Nat) (f : Session → Session) : (m.updSession sid f).journals = m.journals := rfl
@[simp] theorem Mod.updSession_counters (sid : Nat) (f : Session → Session) : (m.updSession sid f).counters = m.counters := rfl
@[simp] theorem Mod.updSession_log (sid : Nat) (f : Session → Session) : (m.updSession sid f).log = m.log := rfl
@[simp] theorem Mod.updSession_nextRecord (sid : Nat) (f : Session → Session) : (m.updSession sid f).nextRecord = m.nextRecord := rfl
@[simp] theorem Mod.updSession_escalations (sid : Nat) (f : Session → Session) : (m.updSession sid f).escalations = m.escalations := rfl
@[simp] theorem Mod.updSession_isolations (sid : Nat) (f : Session → Session) : (m.updSession sid f).isolations = m.isolations := rfl
@[simp] theorem Mod.updSession_notices (sid : Nat) (f : Session → Session) : (m.updSession sid f).notices = m.notices := rfl
@[simp] theorem Mod.updSession_nextNotice (sid : Nat) (f : Session → Session) : (m.updSession sid f).nextNotice = m.nextNotice := rfl
@[simp] theorem Mod.updSession_noticeIds (sid : Nat) (f : Session → Session) : (m.updSession sid f).noticeIds = m.noticeIds := rfl
@[simp] theorem Mod.updSession_resetting (sid : Nat) (f : Session → Session) : (m.updSession sid f).resetting = m.resetting := rfl
@[simp] theorem Mod.updSession_dumps (sid : Nat) (f : Session → Session) : (m.updSession sid f).dumps = m.dumps := rfl
@[simp] theorem Mod.updSession_nextDump (sid : Nat) (f : Session → Session) : (m.updSession sid f).nextDump = m.nextDump := rfl
@[simp] theorem Mod.updSession_summary (sid : Nat) (f : Session → Session) : (m.updSession sid f).summary = m.summary := rfl
@[simp] theorem Mod.updSession_trail (sid : Nat) (f : Session → Session) : (m.updSession sid f).trail = m.trail := rfl
@[simp] theorem Mod.updSession_keepCopy (sid : Nat) (f : Session → Session) : (m.updSession sid f).keepCopy = m.keepCopy := rfl
@[simp] theorem Mod.updSession_trace (sid : Nat) (f : Session → Session) : (m.updSession sid f).trace = m.trace := rfl
@[simp] theorem Mod.updSession_modAddr (sid : Nat) (f : Session → Session) : (m.updSession sid f).modAddr = m.modAddr := rfl
@[simp] theorem Mod.updSession_ports (sid : Nat) (f : Session → Session) : (m.updSession sid f).ports = m.ports := rfl
@[simp] theorem Mod.updSession_eth (sid : Nat) (f : Session → Session) : (m.updSession sid f).eth = m.eth := rfl
@[simp] theorem Mod.updSession_faultTable (sid : Nat) (f : Session → Session) : (m.updSession sid f).faultTable = m.faultTable := rfl
@[simp] theorem Mod.updSession_halfCounters (sid : Nat) (f : Session → Session) : (m.updSession sid f).halfCounters = m.halfCounters := rfl
@[simp] theorem Mod.updSession_nextTag (sid : Nat) (f : Session → Session) : (m.updSession sid f).nextTag = m.nextTag := rfl
@[simp] theorem Mod.updSession_trayOps (sid : Nat) (f : Session → Session) : (m.updSession sid f).trayOps = m.trayOps := rfl
@[simp] theorem Mod.updSession_stalled (sid : Nat) (f : Session → Session) : (m.updSession sid f).stalled = m.stalled := rfl
@[simp] theorem Mod.updSession_waitOut (sid : Nat) (f : Session → Session) : (m.updSession sid f).waitOut = m.waitOut := rfl
@[simp] theorem Mod.updSession_staged (sid : Nat) (f : Session → Session) : (m.updSession sid f).staged = m.staged := rfl
@[simp] theorem Mod.updSession_homeOwners (sid : Nat) (f : Session → Session) : (m.updSession sid f).homeOwners = m.homeOwners := rfl
@[simp] theorem Mod.updSession_ownTable (sid : Nat) (f : Session → Session) : (m.updSession sid f).ownTable = m.ownTable := rfl
@[simp] theorem Mod.updSession_ownWaits (sid : Nat) (f : Session → Session) : (m.updSession sid f).ownWaits = m.ownWaits := rfl
@[simp] theorem Mod.updSession_ownStale (sid : Nat) (f : Session → Session) : (m.updSession sid f).ownStale = m.ownStale := rfl
@[simp] theorem Mod.updSession_combined (sid : Nat) (f : Session → Session) : (m.updSession sid f).combined = m.combined := rfl
@[simp] theorem Mod.updSession_assembly (sid : Nat) (f : Session → Session) : (m.updSession sid f).assembly = m.assembly := rfl
@[simp] theorem Mod.updSession_injectedFrom (sid : Nat) (f : Session → Session) : (m.updSession sid f).injectedFrom = m.injectedFrom := rfl
@[simp] theorem Mod.updSession_isSteward (sid : Nat) (f : Session → Session) : (m.updSession sid f).isSteward = m.isSteward := rfl
@[simp] theorem Mod.updSession_roster (sid : Nat) (f : Session → Session) : (m.updSession sid f).roster = m.roster := rfl
@[simp] theorem Mod.updSession_rosterEpoch (sid : Nat) (f : Session → Session) : (m.updSession sid f).rosterEpoch = m.rosterEpoch := rfl
@[simp] theorem Mod.updSession_joins (sid : Nat) (f : Session → Session) : (m.updSession sid f).joins = m.joins := rfl
@[simp] theorem Mod.updSession_out (sid : Nat) (f : Session → Session) : (m.updSession sid f).out = m.out := rfl

@[simp] theorem Mod.count_timer (k : Ctr) (n : Nat) : (m.count k n).timer = m.timer := rfl
@[simp] theorem Mod.count_timerOn (k : Ctr) (n : Nat) : (m.count k n).timerOn = m.timerOn := rfl
@[simp] theorem Mod.count_timerDev (k : Ctr) (n : Nat) : (m.count k n).timerDev = m.timerDev := rfl
@[simp] theorem Mod.count_timerReload (k : Ctr) (n : Nat) : (m.count k n).timerReload = m.timerReload := rfl
@[simp] theorem Mod.count_free (k : Ctr) (n : Nat) : (m.count k n).free = m.free := rfl
@[simp] theorem Mod.count_power (k : Ctr) (n : Nat) : (m.count k n).power = m.power := rfl
@[simp] theorem Mod.count_boot (k : Ctr) (n : Nat) : (m.count k n).boot = m.boot := rfl
@[simp] theorem Mod.count_alertCause (k : Ctr) (n : Nat) : (m.count k n).alertCause = m.alertCause := rfl
@[simp] theorem Mod.count_alertMask (k : Ctr) (n : Nat) : (m.count k n).alertMask = m.alertMask := rfl
@[simp] theorem Mod.count_sideband (k : Ctr) (n : Nat) : (m.count k n).sideband = m.sideband := rfl
@[simp] theorem Mod.count_sideBoxes (k : Ctr) (n : Nat) : (m.count k n).sideBoxes = m.sideBoxes := rfl
@[simp] theorem Mod.count_small (k : Ctr) (n : Nat) : (m.count k n).small = m.small := rfl
@[simp] theorem Mod.count_i3c (k : Ctr) (n : Nat) : (m.count k n).i3c = m.i3c := rfl
@[simp] theorem Mod.count_tap (k : Ctr) (n : Nat) : (m.count k n).tap = m.tap := rfl
@[simp] theorem Mod.count_claim (k : Ctr) (n : Nat) : (m.count k n).claim = m.claim := rfl
@[simp] theorem Mod.count_policy (k : Ctr) (n : Nat) : (m.count k n).policy = m.policy := rfl
@[simp] theorem Mod.count_proposal (k : Ctr) (n : Nat) : (m.count k n).proposal = m.proposal := rfl
@[simp] theorem Mod.count_measures (k : Ctr) (n : Nat) : (m.count k n).measures = m.measures := rfl
@[simp] theorem Mod.count_sessions (k : Ctr) (n : Nat) : (m.count k n).sessions = m.sessions := rfl
@[simp] theorem Mod.count_nextSid (k : Ctr) (n : Nat) : (m.count k n).nextSid = m.nextSid := rfl
@[simp] theorem Mod.count_handshakes (k : Ctr) (n : Nat) : (m.count k n).handshakes = m.handshakes := rfl
@[simp] theorem Mod.count_initTimes (k : Ctr) (n : Nat) : (m.count k n).initTimes = m.initTimes := rfl
@[simp] theorem Mod.count_mem (k : Ctr) (n : Nat) : (m.count k n).mem = m.mem := rfl
@[simp] theorem Mod.count_memErrors (k : Ctr) (n : Nat) : (m.count k n).memErrors = m.memErrors := rfl
@[simp] theorem Mod.count_linkErrors (k : Ctr) (n : Nat) : (m.count k n).linkErrors = m.linkErrors := rfl
@[simp] theorem Mod.count_rowHits (k : Ctr) (n : Nat) : (m.count k n).rowHits = m.rowHits := rfl
@[simp] theorem Mod.count_rowTable (k : Ctr) (n : Nat) : (m.count k n).rowTable = m.rowTable := rfl
@[simp] theorem Mod.count_deadRows (k : Ctr) (n : Nat) : (m.count k n).deadRows = m.deadRows := rfl
@[simp] theorem Mod.count_repairSpent (k : Ctr) (n : Nat) : (m.count k n).repairSpent = m.repairSpent := rfl
@[simp] theorem Mod.count_badChannels (k : Ctr) (n : Nat) : (m.count k n).badChannels = m.badChannels := rfl
@[simp] theorem Mod.count_laneTestAt (k : Ctr) (n : Nat) : (m.count k n).laneTestAt = m.laneTestAt := rfl
@[simp] theorem Mod.count_channelReads (k : Ctr) (n : Nat) : (m.count k n).channelReads = m.channelReads := rfl
@[simp] theorem Mod.count_tierC (k : Ctr) (n : Nat) : (m.count k n).tierC = m.tierC := rfl
@[simp] theorem Mod.count_flashErrors (k : Ctr) (n : Nat) : (m.count k n).flashErrors = m.flashErrors := rfl
@[simp] theorem Mod.count_flashPages (k : Ctr) (n : Nat) : (m.count k n).flashPages = m.flashPages := rfl
@[simp] theorem Mod.count_hbmSpares (k : Ctr) (n : Nat) : (m.count k n).hbmSpares = m.hbmSpares := rfl
@[simp] theorem Mod.count_hbmBadLanes (k : Ctr) (n : Nat) : (m.count k n).hbmBadLanes = m.hbmBadLanes := rfl
@[simp] theorem Mod.count_sramList (k : Ctr) (n : Nat) : (m.count k n).sramList = m.sramList := rfl
@[simp] theorem Mod.count_sramRepairs (k : Ctr) (n : Nat) : (m.count k n).sramRepairs = m.sramRepairs := rfl
@[simp] theorem Mod.count_stakeMap (k : Ctr) (n : Nat) : (m.count k n).stakeMap = m.stakeMap := rfl
@[simp] theorem Mod.count_ribs (k : Ctr) (n : Nat) : (m.count k n).ribs = m.ribs := rfl
@[simp] theorem Mod.count_outOfService (k : Ctr) (n : Nat) : (m.count k n).outOfService = m.outOfService := rfl
@[simp] theorem Mod.count_stakeFaults (k : Ctr) (n : Nat) : (m.count k n).stakeFaults = m.stakeFaults := rfl
@[simp] theorem Mod.count_arrays (k : Ctr) (n : Nat) : (m.count k n).arrays = m.arrays := rfl
@[simp] theorem Mod.count_sequencers (k : Ctr) (n : Nat) : (m.count k n).sequencers = m.sequencers := rfl
@[simp] theorem Mod.count_jobs (k : Ctr) (n : Nat) : (m.count k n).jobs = m.jobs := rfl
@[simp] theorem Mod.count_retained (k : Ctr) (n : Nat) : (m.count k n).retained = m.retained := rfl
@[simp] theorem Mod.count_loads (k : Ctr) (n : Nat) : (m.count k n).loads = m.loads := rfl
@[simp] theorem Mod.count_lanes (k : Ctr) (n : Nat) : (m.count k n).lanes = m.lanes := rfl
@[simp] theorem Mod.count_registry (k : Ctr) (n : Nat) : (m.count k n).registry = m.registry := rfl
@[simp] theorem Mod.count_closing (k : Ctr) (n : Nat) : (m.count k n).closing = m.closing := rfl
@[simp] theorem Mod.count_ties (k : Ctr) (n : Nat) : (m.count k n).ties = m.ties := rfl
@[simp] theorem Mod.count_farWaiters (k : Ctr) (n : Nat) : (m.count k n).farWaiters = m.farWaiters := rfl
@[simp] theorem Mod.count_pools (k : Ctr) (n : Nat) : (m.count k n).pools = m.pools := rfl
@[simp] theorem Mod.count_poolStates (k : Ctr) (n : Nat) : (m.count k n).poolStates = m.poolStates := rfl
@[simp] theorem Mod.count_verdicts (k : Ctr) (n : Nat) : (m.count k n).verdicts = m.verdicts := rfl
@[simp] theorem Mod.count_journals (k : Ctr) (n : Nat) : (m.count k n).journals = m.journals := rfl
@[simp] theorem Mod.count_log (k : Ctr) (n : Nat) : (m.count k n).log = m.log := rfl
@[simp] theorem Mod.count_nextRecord (k : Ctr) (n : Nat) : (m.count k n).nextRecord = m.nextRecord := rfl
@[simp] theorem Mod.count_escalations (k : Ctr) (n : Nat) : (m.count k n).escalations = m.escalations := rfl
@[simp] theorem Mod.count_isolations (k : Ctr) (n : Nat) : (m.count k n).isolations = m.isolations := rfl
@[simp] theorem Mod.count_notices (k : Ctr) (n : Nat) : (m.count k n).notices = m.notices := rfl
@[simp] theorem Mod.count_nextNotice (k : Ctr) (n : Nat) : (m.count k n).nextNotice = m.nextNotice := rfl
@[simp] theorem Mod.count_noticeIds (k : Ctr) (n : Nat) : (m.count k n).noticeIds = m.noticeIds := rfl
@[simp] theorem Mod.count_resetting (k : Ctr) (n : Nat) : (m.count k n).resetting = m.resetting := rfl
@[simp] theorem Mod.count_dumps (k : Ctr) (n : Nat) : (m.count k n).dumps = m.dumps := rfl
@[simp] theorem Mod.count_nextDump (k : Ctr) (n : Nat) : (m.count k n).nextDump = m.nextDump := rfl
@[simp] theorem Mod.count_summary (k : Ctr) (n : Nat) : (m.count k n).summary = m.summary := rfl
@[simp] theorem Mod.count_trail (k : Ctr) (n : Nat) : (m.count k n).trail = m.trail := rfl
@[simp] theorem Mod.count_keepCopy (k : Ctr) (n : Nat) : (m.count k n).keepCopy = m.keepCopy := rfl
@[simp] theorem Mod.count_trace (k : Ctr) (n : Nat) : (m.count k n).trace = m.trace := rfl
@[simp] theorem Mod.count_modAddr (k : Ctr) (n : Nat) : (m.count k n).modAddr = m.modAddr := rfl
@[simp] theorem Mod.count_ports (k : Ctr) (n : Nat) : (m.count k n).ports = m.ports := rfl
@[simp] theorem Mod.count_eth (k : Ctr) (n : Nat) : (m.count k n).eth = m.eth := rfl
@[simp] theorem Mod.count_faultTable (k : Ctr) (n : Nat) : (m.count k n).faultTable = m.faultTable := rfl
@[simp] theorem Mod.count_halfCounters (k : Ctr) (n : Nat) : (m.count k n).halfCounters = m.halfCounters := rfl
@[simp] theorem Mod.count_nextTag (k : Ctr) (n : Nat) : (m.count k n).nextTag = m.nextTag := rfl
@[simp] theorem Mod.count_trayOps (k : Ctr) (n : Nat) : (m.count k n).trayOps = m.trayOps := rfl
@[simp] theorem Mod.count_stalled (k : Ctr) (n : Nat) : (m.count k n).stalled = m.stalled := rfl
@[simp] theorem Mod.count_waitOut (k : Ctr) (n : Nat) : (m.count k n).waitOut = m.waitOut := rfl
@[simp] theorem Mod.count_staged (k : Ctr) (n : Nat) : (m.count k n).staged = m.staged := rfl
@[simp] theorem Mod.count_homeOwners (k : Ctr) (n : Nat) : (m.count k n).homeOwners = m.homeOwners := rfl
@[simp] theorem Mod.count_ownTable (k : Ctr) (n : Nat) : (m.count k n).ownTable = m.ownTable := rfl
@[simp] theorem Mod.count_ownWaits (k : Ctr) (n : Nat) : (m.count k n).ownWaits = m.ownWaits := rfl
@[simp] theorem Mod.count_ownStale (k : Ctr) (n : Nat) : (m.count k n).ownStale = m.ownStale := rfl
@[simp] theorem Mod.count_combined (k : Ctr) (n : Nat) : (m.count k n).combined = m.combined := rfl
@[simp] theorem Mod.count_assembly (k : Ctr) (n : Nat) : (m.count k n).assembly = m.assembly := rfl
@[simp] theorem Mod.count_injectedFrom (k : Ctr) (n : Nat) : (m.count k n).injectedFrom = m.injectedFrom := rfl
@[simp] theorem Mod.count_isSteward (k : Ctr) (n : Nat) : (m.count k n).isSteward = m.isSteward := rfl
@[simp] theorem Mod.count_roster (k : Ctr) (n : Nat) : (m.count k n).roster = m.roster := rfl
@[simp] theorem Mod.count_rosterEpoch (k : Ctr) (n : Nat) : (m.count k n).rosterEpoch = m.rosterEpoch := rfl
@[simp] theorem Mod.count_joins (k : Ctr) (n : Nat) : (m.count k n).joins = m.joins := rfl
@[simp] theorem Mod.count_out (k : Ctr) (n : Nat) : (m.count k n).out = m.out := rfl

@[simp] theorem Mod.setTie_timer (t : Tie) : (m.setTie t).timer = m.timer := rfl
@[simp] theorem Mod.setTie_timerOn (t : Tie) : (m.setTie t).timerOn = m.timerOn := rfl
@[simp] theorem Mod.setTie_timerDev (t : Tie) : (m.setTie t).timerDev = m.timerDev := rfl
@[simp] theorem Mod.setTie_timerReload (t : Tie) : (m.setTie t).timerReload = m.timerReload := rfl
@[simp] theorem Mod.setTie_free (t : Tie) : (m.setTie t).free = m.free := rfl
@[simp] theorem Mod.setTie_power (t : Tie) : (m.setTie t).power = m.power := rfl
@[simp] theorem Mod.setTie_boot (t : Tie) : (m.setTie t).boot = m.boot := rfl
@[simp] theorem Mod.setTie_alertCause (t : Tie) : (m.setTie t).alertCause = m.alertCause := rfl
@[simp] theorem Mod.setTie_alertMask (t : Tie) : (m.setTie t).alertMask = m.alertMask := rfl
@[simp] theorem Mod.setTie_sideband (t : Tie) : (m.setTie t).sideband = m.sideband := rfl
@[simp] theorem Mod.setTie_sideBoxes (t : Tie) : (m.setTie t).sideBoxes = m.sideBoxes := rfl
@[simp] theorem Mod.setTie_small (t : Tie) : (m.setTie t).small = m.small := rfl
@[simp] theorem Mod.setTie_i3c (t : Tie) : (m.setTie t).i3c = m.i3c := rfl
@[simp] theorem Mod.setTie_tap (t : Tie) : (m.setTie t).tap = m.tap := rfl
@[simp] theorem Mod.setTie_claim (t : Tie) : (m.setTie t).claim = m.claim := rfl
@[simp] theorem Mod.setTie_policy (t : Tie) : (m.setTie t).policy = m.policy := rfl
@[simp] theorem Mod.setTie_proposal (t : Tie) : (m.setTie t).proposal = m.proposal := rfl
@[simp] theorem Mod.setTie_measures (t : Tie) : (m.setTie t).measures = m.measures := rfl
@[simp] theorem Mod.setTie_sessions (t : Tie) : (m.setTie t).sessions = m.sessions := rfl
@[simp] theorem Mod.setTie_nextSid (t : Tie) : (m.setTie t).nextSid = m.nextSid := rfl
@[simp] theorem Mod.setTie_handshakes (t : Tie) : (m.setTie t).handshakes = m.handshakes := rfl
@[simp] theorem Mod.setTie_initTimes (t : Tie) : (m.setTie t).initTimes = m.initTimes := rfl
@[simp] theorem Mod.setTie_mem (t : Tie) : (m.setTie t).mem = m.mem := rfl
@[simp] theorem Mod.setTie_memErrors (t : Tie) : (m.setTie t).memErrors = m.memErrors := rfl
@[simp] theorem Mod.setTie_linkErrors (t : Tie) : (m.setTie t).linkErrors = m.linkErrors := rfl
@[simp] theorem Mod.setTie_rowHits (t : Tie) : (m.setTie t).rowHits = m.rowHits := rfl
@[simp] theorem Mod.setTie_rowTable (t : Tie) : (m.setTie t).rowTable = m.rowTable := rfl
@[simp] theorem Mod.setTie_deadRows (t : Tie) : (m.setTie t).deadRows = m.deadRows := rfl
@[simp] theorem Mod.setTie_repairSpent (t : Tie) : (m.setTie t).repairSpent = m.repairSpent := rfl
@[simp] theorem Mod.setTie_badChannels (t : Tie) : (m.setTie t).badChannels = m.badChannels := rfl
@[simp] theorem Mod.setTie_laneTestAt (t : Tie) : (m.setTie t).laneTestAt = m.laneTestAt := rfl
@[simp] theorem Mod.setTie_channelReads (t : Tie) : (m.setTie t).channelReads = m.channelReads := rfl
@[simp] theorem Mod.setTie_tierC (t : Tie) : (m.setTie t).tierC = m.tierC := rfl
@[simp] theorem Mod.setTie_flashErrors (t : Tie) : (m.setTie t).flashErrors = m.flashErrors := rfl
@[simp] theorem Mod.setTie_flashPages (t : Tie) : (m.setTie t).flashPages = m.flashPages := rfl
@[simp] theorem Mod.setTie_hbmSpares (t : Tie) : (m.setTie t).hbmSpares = m.hbmSpares := rfl
@[simp] theorem Mod.setTie_hbmBadLanes (t : Tie) : (m.setTie t).hbmBadLanes = m.hbmBadLanes := rfl
@[simp] theorem Mod.setTie_sramList (t : Tie) : (m.setTie t).sramList = m.sramList := rfl
@[simp] theorem Mod.setTie_sramRepairs (t : Tie) : (m.setTie t).sramRepairs = m.sramRepairs := rfl
@[simp] theorem Mod.setTie_stakeMap (t : Tie) : (m.setTie t).stakeMap = m.stakeMap := rfl
@[simp] theorem Mod.setTie_ribs (t : Tie) : (m.setTie t).ribs = m.ribs := rfl
@[simp] theorem Mod.setTie_outOfService (t : Tie) : (m.setTie t).outOfService = m.outOfService := rfl
@[simp] theorem Mod.setTie_stakeFaults (t : Tie) : (m.setTie t).stakeFaults = m.stakeFaults := rfl
@[simp] theorem Mod.setTie_arrays (t : Tie) : (m.setTie t).arrays = m.arrays := rfl
@[simp] theorem Mod.setTie_sequencers (t : Tie) : (m.setTie t).sequencers = m.sequencers := rfl
@[simp] theorem Mod.setTie_jobs (t : Tie) : (m.setTie t).jobs = m.jobs := rfl
@[simp] theorem Mod.setTie_retained (t : Tie) : (m.setTie t).retained = m.retained := rfl
@[simp] theorem Mod.setTie_loads (t : Tie) : (m.setTie t).loads = m.loads := rfl
@[simp] theorem Mod.setTie_lanes (t : Tie) : (m.setTie t).lanes = m.lanes := rfl
@[simp] theorem Mod.setTie_registry (t : Tie) : (m.setTie t).registry = m.registry := rfl
@[simp] theorem Mod.setTie_closing (t : Tie) : (m.setTie t).closing = m.closing := rfl
@[simp] theorem Mod.setTie_farWaiters (t : Tie) : (m.setTie t).farWaiters = m.farWaiters := rfl
@[simp] theorem Mod.setTie_pools (t : Tie) : (m.setTie t).pools = m.pools := rfl
@[simp] theorem Mod.setTie_poolStates (t : Tie) : (m.setTie t).poolStates = m.poolStates := rfl
@[simp] theorem Mod.setTie_verdicts (t : Tie) : (m.setTie t).verdicts = m.verdicts := rfl
@[simp] theorem Mod.setTie_journals (t : Tie) : (m.setTie t).journals = m.journals := rfl
@[simp] theorem Mod.setTie_counters (t : Tie) : (m.setTie t).counters = m.counters := rfl
@[simp] theorem Mod.setTie_log (t : Tie) : (m.setTie t).log = m.log := rfl
@[simp] theorem Mod.setTie_nextRecord (t : Tie) : (m.setTie t).nextRecord = m.nextRecord := rfl
@[simp] theorem Mod.setTie_escalations (t : Tie) : (m.setTie t).escalations = m.escalations := rfl
@[simp] theorem Mod.setTie_isolations (t : Tie) : (m.setTie t).isolations = m.isolations := rfl
@[simp] theorem Mod.setTie_notices (t : Tie) : (m.setTie t).notices = m.notices := rfl
@[simp] theorem Mod.setTie_nextNotice (t : Tie) : (m.setTie t).nextNotice = m.nextNotice := rfl
@[simp] theorem Mod.setTie_noticeIds (t : Tie) : (m.setTie t).noticeIds = m.noticeIds := rfl
@[simp] theorem Mod.setTie_resetting (t : Tie) : (m.setTie t).resetting = m.resetting := rfl
@[simp] theorem Mod.setTie_dumps (t : Tie) : (m.setTie t).dumps = m.dumps := rfl
@[simp] theorem Mod.setTie_nextDump (t : Tie) : (m.setTie t).nextDump = m.nextDump := rfl
@[simp] theorem Mod.setTie_summary (t : Tie) : (m.setTie t).summary = m.summary := rfl
@[simp] theorem Mod.setTie_trail (t : Tie) : (m.setTie t).trail = m.trail := rfl
@[simp] theorem Mod.setTie_keepCopy (t : Tie) : (m.setTie t).keepCopy = m.keepCopy := rfl
@[simp] theorem Mod.setTie_trace (t : Tie) : (m.setTie t).trace = m.trace := rfl
@[simp] theorem Mod.setTie_modAddr (t : Tie) : (m.setTie t).modAddr = m.modAddr := rfl
@[simp] theorem Mod.setTie_ports (t : Tie) : (m.setTie t).ports = m.ports := rfl
@[simp] theorem Mod.setTie_eth (t : Tie) : (m.setTie t).eth = m.eth := rfl
@[simp] theorem Mod.setTie_faultTable (t : Tie) : (m.setTie t).faultTable = m.faultTable := rfl
@[simp] theorem Mod.setTie_halfCounters (t : Tie) : (m.setTie t).halfCounters = m.halfCounters := rfl
@[simp] theorem Mod.setTie_nextTag (t : Tie) : (m.setTie t).nextTag = m.nextTag := rfl
@[simp] theorem Mod.setTie_trayOps (t : Tie) : (m.setTie t).trayOps = m.trayOps := rfl
@[simp] theorem Mod.setTie_stalled (t : Tie) : (m.setTie t).stalled = m.stalled := rfl
@[simp] theorem Mod.setTie_waitOut (t : Tie) : (m.setTie t).waitOut = m.waitOut := rfl
@[simp] theorem Mod.setTie_staged (t : Tie) : (m.setTie t).staged = m.staged := rfl
@[simp] theorem Mod.setTie_homeOwners (t : Tie) : (m.setTie t).homeOwners = m.homeOwners := rfl
@[simp] theorem Mod.setTie_ownTable (t : Tie) : (m.setTie t).ownTable = m.ownTable := rfl
@[simp] theorem Mod.setTie_ownWaits (t : Tie) : (m.setTie t).ownWaits = m.ownWaits := rfl
@[simp] theorem Mod.setTie_ownStale (t : Tie) : (m.setTie t).ownStale = m.ownStale := rfl
@[simp] theorem Mod.setTie_combined (t : Tie) : (m.setTie t).combined = m.combined := rfl
@[simp] theorem Mod.setTie_assembly (t : Tie) : (m.setTie t).assembly = m.assembly := rfl
@[simp] theorem Mod.setTie_injectedFrom (t : Tie) : (m.setTie t).injectedFrom = m.injectedFrom := rfl
@[simp] theorem Mod.setTie_isSteward (t : Tie) : (m.setTie t).isSteward = m.isSteward := rfl
@[simp] theorem Mod.setTie_roster (t : Tie) : (m.setTie t).roster = m.roster := rfl
@[simp] theorem Mod.setTie_rosterEpoch (t : Tie) : (m.setTie t).rosterEpoch = m.rosterEpoch := rfl
@[simp] theorem Mod.setTie_joins (t : Tie) : (m.setTie t).joins = m.joins := rfl
@[simp] theorem Mod.setTie_out (t : Tie) : (m.setTie t).out = m.out := rfl

@[simp] theorem Mod.store_timer (ws : List (Nat × Byte)) : (m.store ws).timer = m.timer := rfl
@[simp] theorem Mod.store_timerOn (ws : List (Nat × Byte)) : (m.store ws).timerOn = m.timerOn := rfl
@[simp] theorem Mod.store_timerDev (ws : List (Nat × Byte)) : (m.store ws).timerDev = m.timerDev := rfl
@[simp] theorem Mod.store_timerReload (ws : List (Nat × Byte)) : (m.store ws).timerReload = m.timerReload := rfl
@[simp] theorem Mod.store_free (ws : List (Nat × Byte)) : (m.store ws).free = m.free := rfl
@[simp] theorem Mod.store_power (ws : List (Nat × Byte)) : (m.store ws).power = m.power := rfl
@[simp] theorem Mod.store_boot (ws : List (Nat × Byte)) : (m.store ws).boot = m.boot := rfl
@[simp] theorem Mod.store_alertCause (ws : List (Nat × Byte)) : (m.store ws).alertCause = m.alertCause := rfl
@[simp] theorem Mod.store_alertMask (ws : List (Nat × Byte)) : (m.store ws).alertMask = m.alertMask := rfl
@[simp] theorem Mod.store_sideband (ws : List (Nat × Byte)) : (m.store ws).sideband = m.sideband := rfl
@[simp] theorem Mod.store_sideBoxes (ws : List (Nat × Byte)) : (m.store ws).sideBoxes = m.sideBoxes := rfl
@[simp] theorem Mod.store_small (ws : List (Nat × Byte)) : (m.store ws).small = m.small := rfl
@[simp] theorem Mod.store_i3c (ws : List (Nat × Byte)) : (m.store ws).i3c = m.i3c := rfl
@[simp] theorem Mod.store_tap (ws : List (Nat × Byte)) : (m.store ws).tap = m.tap := rfl
@[simp] theorem Mod.store_claim (ws : List (Nat × Byte)) : (m.store ws).claim = m.claim := rfl
@[simp] theorem Mod.store_policy (ws : List (Nat × Byte)) : (m.store ws).policy = m.policy := rfl
@[simp] theorem Mod.store_proposal (ws : List (Nat × Byte)) : (m.store ws).proposal = m.proposal := rfl
@[simp] theorem Mod.store_measures (ws : List (Nat × Byte)) : (m.store ws).measures = m.measures := rfl
@[simp] theorem Mod.store_sessions (ws : List (Nat × Byte)) : (m.store ws).sessions = m.sessions := rfl
@[simp] theorem Mod.store_nextSid (ws : List (Nat × Byte)) : (m.store ws).nextSid = m.nextSid := rfl
@[simp] theorem Mod.store_handshakes (ws : List (Nat × Byte)) : (m.store ws).handshakes = m.handshakes := rfl
@[simp] theorem Mod.store_initTimes (ws : List (Nat × Byte)) : (m.store ws).initTimes = m.initTimes := rfl
@[simp] theorem Mod.store_rowHits (ws : List (Nat × Byte)) : (m.store ws).rowHits = m.rowHits := rfl
@[simp] theorem Mod.store_rowTable (ws : List (Nat × Byte)) : (m.store ws).rowTable = m.rowTable := rfl
@[simp] theorem Mod.store_deadRows (ws : List (Nat × Byte)) : (m.store ws).deadRows = m.deadRows := rfl
@[simp] theorem Mod.store_repairSpent (ws : List (Nat × Byte)) : (m.store ws).repairSpent = m.repairSpent := rfl
@[simp] theorem Mod.store_badChannels (ws : List (Nat × Byte)) : (m.store ws).badChannels = m.badChannels := rfl
@[simp] theorem Mod.store_laneTestAt (ws : List (Nat × Byte)) : (m.store ws).laneTestAt = m.laneTestAt := rfl
@[simp] theorem Mod.store_channelReads (ws : List (Nat × Byte)) : (m.store ws).channelReads = m.channelReads := rfl
@[simp] theorem Mod.store_tierC (ws : List (Nat × Byte)) : (m.store ws).tierC = m.tierC := rfl
@[simp] theorem Mod.store_flashErrors (ws : List (Nat × Byte)) : (m.store ws).flashErrors = m.flashErrors := rfl
@[simp] theorem Mod.store_flashPages (ws : List (Nat × Byte)) : (m.store ws).flashPages = m.flashPages := rfl
@[simp] theorem Mod.store_hbmSpares (ws : List (Nat × Byte)) : (m.store ws).hbmSpares = m.hbmSpares := rfl
@[simp] theorem Mod.store_linkErrors (ws : List (Nat × Byte)) : (m.store ws).linkErrors = m.linkErrors := rfl
@[simp] theorem Mod.store_hbmBadLanes (ws : List (Nat × Byte)) : (m.store ws).hbmBadLanes = m.hbmBadLanes := rfl
@[simp] theorem Mod.store_sramList (ws : List (Nat × Byte)) : (m.store ws).sramList = m.sramList := rfl
@[simp] theorem Mod.store_sramRepairs (ws : List (Nat × Byte)) : (m.store ws).sramRepairs = m.sramRepairs := rfl
@[simp] theorem Mod.store_stakeMap (ws : List (Nat × Byte)) : (m.store ws).stakeMap = m.stakeMap := rfl
@[simp] theorem Mod.store_ribs (ws : List (Nat × Byte)) : (m.store ws).ribs = m.ribs := rfl
@[simp] theorem Mod.store_outOfService (ws : List (Nat × Byte)) : (m.store ws).outOfService = m.outOfService := rfl
@[simp] theorem Mod.store_stakeFaults (ws : List (Nat × Byte)) : (m.store ws).stakeFaults = m.stakeFaults := rfl
@[simp] theorem Mod.store_arrays (ws : List (Nat × Byte)) : (m.store ws).arrays = m.arrays := rfl
@[simp] theorem Mod.store_sequencers (ws : List (Nat × Byte)) : (m.store ws).sequencers = m.sequencers := rfl
@[simp] theorem Mod.store_jobs (ws : List (Nat × Byte)) : (m.store ws).jobs = m.jobs := rfl
@[simp] theorem Mod.store_retained (ws : List (Nat × Byte)) : (m.store ws).retained = m.retained := rfl
@[simp] theorem Mod.store_loads (ws : List (Nat × Byte)) : (m.store ws).loads = m.loads := rfl
@[simp] theorem Mod.store_lanes (ws : List (Nat × Byte)) : (m.store ws).lanes = m.lanes := rfl
@[simp] theorem Mod.store_registry (ws : List (Nat × Byte)) : (m.store ws).registry = m.registry := rfl
@[simp] theorem Mod.store_closing (ws : List (Nat × Byte)) : (m.store ws).closing = m.closing := rfl
@[simp] theorem Mod.store_ties (ws : List (Nat × Byte)) : (m.store ws).ties = m.ties := rfl
@[simp] theorem Mod.store_farWaiters (ws : List (Nat × Byte)) : (m.store ws).farWaiters = m.farWaiters := rfl
@[simp] theorem Mod.store_pools (ws : List (Nat × Byte)) : (m.store ws).pools = m.pools := rfl
@[simp] theorem Mod.store_poolStates (ws : List (Nat × Byte)) : (m.store ws).poolStates = m.poolStates := rfl
@[simp] theorem Mod.store_verdicts (ws : List (Nat × Byte)) : (m.store ws).verdicts = m.verdicts := rfl
@[simp] theorem Mod.store_journals (ws : List (Nat × Byte)) : (m.store ws).journals = m.journals := rfl
@[simp] theorem Mod.store_counters (ws : List (Nat × Byte)) : (m.store ws).counters = m.counters := rfl
@[simp] theorem Mod.store_log (ws : List (Nat × Byte)) : (m.store ws).log = m.log := rfl
@[simp] theorem Mod.store_nextRecord (ws : List (Nat × Byte)) : (m.store ws).nextRecord = m.nextRecord := rfl
@[simp] theorem Mod.store_escalations (ws : List (Nat × Byte)) : (m.store ws).escalations = m.escalations := rfl
@[simp] theorem Mod.store_isolations (ws : List (Nat × Byte)) : (m.store ws).isolations = m.isolations := rfl
@[simp] theorem Mod.store_notices (ws : List (Nat × Byte)) : (m.store ws).notices = m.notices := rfl
@[simp] theorem Mod.store_nextNotice (ws : List (Nat × Byte)) : (m.store ws).nextNotice = m.nextNotice := rfl
@[simp] theorem Mod.store_noticeIds (ws : List (Nat × Byte)) : (m.store ws).noticeIds = m.noticeIds := rfl
@[simp] theorem Mod.store_resetting (ws : List (Nat × Byte)) : (m.store ws).resetting = m.resetting := rfl
@[simp] theorem Mod.store_dumps (ws : List (Nat × Byte)) : (m.store ws).dumps = m.dumps := rfl
@[simp] theorem Mod.store_nextDump (ws : List (Nat × Byte)) : (m.store ws).nextDump = m.nextDump := rfl
@[simp] theorem Mod.store_summary (ws : List (Nat × Byte)) : (m.store ws).summary = m.summary := rfl
@[simp] theorem Mod.store_trail (ws : List (Nat × Byte)) : (m.store ws).trail = m.trail := rfl
@[simp] theorem Mod.store_keepCopy (ws : List (Nat × Byte)) : (m.store ws).keepCopy = m.keepCopy := rfl
@[simp] theorem Mod.store_trace (ws : List (Nat × Byte)) : (m.store ws).trace = m.trace := rfl
@[simp] theorem Mod.store_modAddr (ws : List (Nat × Byte)) : (m.store ws).modAddr = m.modAddr := rfl
@[simp] theorem Mod.store_ports (ws : List (Nat × Byte)) : (m.store ws).ports = m.ports := rfl
@[simp] theorem Mod.store_eth (ws : List (Nat × Byte)) : (m.store ws).eth = m.eth := rfl
@[simp] theorem Mod.store_faultTable (ws : List (Nat × Byte)) : (m.store ws).faultTable = m.faultTable := rfl
@[simp] theorem Mod.store_halfCounters (ws : List (Nat × Byte)) : (m.store ws).halfCounters = m.halfCounters := rfl
@[simp] theorem Mod.store_nextTag (ws : List (Nat × Byte)) : (m.store ws).nextTag = m.nextTag := rfl
@[simp] theorem Mod.store_trayOps (ws : List (Nat × Byte)) : (m.store ws).trayOps = m.trayOps := rfl
@[simp] theorem Mod.store_stalled (ws : List (Nat × Byte)) : (m.store ws).stalled = m.stalled := rfl
@[simp] theorem Mod.store_waitOut (ws : List (Nat × Byte)) : (m.store ws).waitOut = m.waitOut := rfl
@[simp] theorem Mod.store_staged (ws : List (Nat × Byte)) : (m.store ws).staged = m.staged := rfl
@[simp] theorem Mod.store_homeOwners (ws : List (Nat × Byte)) : (m.store ws).homeOwners = m.homeOwners := rfl
@[simp] theorem Mod.store_ownTable (ws : List (Nat × Byte)) : (m.store ws).ownTable = m.ownTable := rfl
@[simp] theorem Mod.store_ownWaits (ws : List (Nat × Byte)) : (m.store ws).ownWaits = m.ownWaits := rfl
@[simp] theorem Mod.store_ownStale (ws : List (Nat × Byte)) : (m.store ws).ownStale = m.ownStale := rfl
@[simp] theorem Mod.store_combined (ws : List (Nat × Byte)) : (m.store ws).combined = m.combined := rfl
@[simp] theorem Mod.store_assembly (ws : List (Nat × Byte)) : (m.store ws).assembly = m.assembly := rfl
@[simp] theorem Mod.store_injectedFrom (ws : List (Nat × Byte)) : (m.store ws).injectedFrom = m.injectedFrom := rfl
@[simp] theorem Mod.store_isSteward (ws : List (Nat × Byte)) : (m.store ws).isSteward = m.isSteward := rfl
@[simp] theorem Mod.store_roster (ws : List (Nat × Byte)) : (m.store ws).roster = m.roster := rfl
@[simp] theorem Mod.store_rosterEpoch (ws : List (Nat × Byte)) : (m.store ws).rosterEpoch = m.rosterEpoch := rfl
@[simp] theorem Mod.store_joins (ws : List (Nat × Byte)) : (m.store ws).joins = m.joins := rfl
@[simp] theorem Mod.store_out (ws : List (Nat × Byte)) : (m.store ws).out = m.out := rfl

@[simp] theorem Mod.zeroFill_timer (a n : Nat) : (m.zeroFill a n).timer = m.timer := rfl
@[simp] theorem Mod.zeroFill_timerOn (a n : Nat) : (m.zeroFill a n).timerOn = m.timerOn := rfl
@[simp] theorem Mod.zeroFill_timerDev (a n : Nat) : (m.zeroFill a n).timerDev = m.timerDev := rfl
@[simp] theorem Mod.zeroFill_timerReload (a n : Nat) : (m.zeroFill a n).timerReload = m.timerReload := rfl
@[simp] theorem Mod.zeroFill_free (a n : Nat) : (m.zeroFill a n).free = m.free := rfl
@[simp] theorem Mod.zeroFill_power (a n : Nat) : (m.zeroFill a n).power = m.power := rfl
@[simp] theorem Mod.zeroFill_boot (a n : Nat) : (m.zeroFill a n).boot = m.boot := rfl
@[simp] theorem Mod.zeroFill_alertCause (a n : Nat) : (m.zeroFill a n).alertCause = m.alertCause := rfl
@[simp] theorem Mod.zeroFill_alertMask (a n : Nat) : (m.zeroFill a n).alertMask = m.alertMask := rfl
@[simp] theorem Mod.zeroFill_sideband (a n : Nat) : (m.zeroFill a n).sideband = m.sideband := rfl
@[simp] theorem Mod.zeroFill_sideBoxes (a n : Nat) : (m.zeroFill a n).sideBoxes = m.sideBoxes := rfl
@[simp] theorem Mod.zeroFill_small (a n : Nat) : (m.zeroFill a n).small = m.small := rfl
@[simp] theorem Mod.zeroFill_i3c (a n : Nat) : (m.zeroFill a n).i3c = m.i3c := rfl
@[simp] theorem Mod.zeroFill_tap (a n : Nat) : (m.zeroFill a n).tap = m.tap := rfl
@[simp] theorem Mod.zeroFill_claim (a n : Nat) : (m.zeroFill a n).claim = m.claim := rfl
@[simp] theorem Mod.zeroFill_policy (a n : Nat) : (m.zeroFill a n).policy = m.policy := rfl
@[simp] theorem Mod.zeroFill_proposal (a n : Nat) : (m.zeroFill a n).proposal = m.proposal := rfl
@[simp] theorem Mod.zeroFill_measures (a n : Nat) : (m.zeroFill a n).measures = m.measures := rfl
@[simp] theorem Mod.zeroFill_sessions (a n : Nat) : (m.zeroFill a n).sessions = m.sessions := rfl
@[simp] theorem Mod.zeroFill_nextSid (a n : Nat) : (m.zeroFill a n).nextSid = m.nextSid := rfl
@[simp] theorem Mod.zeroFill_handshakes (a n : Nat) : (m.zeroFill a n).handshakes = m.handshakes := rfl
@[simp] theorem Mod.zeroFill_initTimes (a n : Nat) : (m.zeroFill a n).initTimes = m.initTimes := rfl
@[simp] theorem Mod.zeroFill_rowHits (a n : Nat) : (m.zeroFill a n).rowHits = m.rowHits := rfl
@[simp] theorem Mod.zeroFill_rowTable (a n : Nat) : (m.zeroFill a n).rowTable = m.rowTable := rfl
@[simp] theorem Mod.zeroFill_deadRows (a n : Nat) : (m.zeroFill a n).deadRows = m.deadRows := rfl
@[simp] theorem Mod.zeroFill_repairSpent (a n : Nat) : (m.zeroFill a n).repairSpent = m.repairSpent := rfl
@[simp] theorem Mod.zeroFill_badChannels (a n : Nat) : (m.zeroFill a n).badChannels = m.badChannels := rfl
@[simp] theorem Mod.zeroFill_laneTestAt (a n : Nat) : (m.zeroFill a n).laneTestAt = m.laneTestAt := rfl
@[simp] theorem Mod.zeroFill_channelReads (a n : Nat) : (m.zeroFill a n).channelReads = m.channelReads := rfl
@[simp] theorem Mod.zeroFill_tierC (a n : Nat) : (m.zeroFill a n).tierC = m.tierC := rfl
@[simp] theorem Mod.zeroFill_flashErrors (a n : Nat) : (m.zeroFill a n).flashErrors = m.flashErrors := rfl
@[simp] theorem Mod.zeroFill_flashPages (a n : Nat) : (m.zeroFill a n).flashPages = m.flashPages := rfl
@[simp] theorem Mod.zeroFill_hbmSpares (a n : Nat) : (m.zeroFill a n).hbmSpares = m.hbmSpares := rfl
@[simp] theorem Mod.zeroFill_linkErrors (a n : Nat) : (m.zeroFill a n).linkErrors = m.linkErrors := rfl
@[simp] theorem Mod.zeroFill_hbmBadLanes (a n : Nat) : (m.zeroFill a n).hbmBadLanes = m.hbmBadLanes := rfl
@[simp] theorem Mod.zeroFill_sramList (a n : Nat) : (m.zeroFill a n).sramList = m.sramList := rfl
@[simp] theorem Mod.zeroFill_sramRepairs (a n : Nat) : (m.zeroFill a n).sramRepairs = m.sramRepairs := rfl
@[simp] theorem Mod.zeroFill_stakeMap (a n : Nat) : (m.zeroFill a n).stakeMap = m.stakeMap := rfl
@[simp] theorem Mod.zeroFill_ribs (a n : Nat) : (m.zeroFill a n).ribs = m.ribs := rfl
@[simp] theorem Mod.zeroFill_outOfService (a n : Nat) : (m.zeroFill a n).outOfService = m.outOfService := rfl
@[simp] theorem Mod.zeroFill_stakeFaults (a n : Nat) : (m.zeroFill a n).stakeFaults = m.stakeFaults := rfl
@[simp] theorem Mod.zeroFill_arrays (a n : Nat) : (m.zeroFill a n).arrays = m.arrays := rfl
@[simp] theorem Mod.zeroFill_sequencers (a n : Nat) : (m.zeroFill a n).sequencers = m.sequencers := rfl
@[simp] theorem Mod.zeroFill_jobs (a n : Nat) : (m.zeroFill a n).jobs = m.jobs := rfl
@[simp] theorem Mod.zeroFill_retained (a n : Nat) : (m.zeroFill a n).retained = m.retained := rfl
@[simp] theorem Mod.zeroFill_loads (a n : Nat) : (m.zeroFill a n).loads = m.loads := rfl
@[simp] theorem Mod.zeroFill_lanes (a n : Nat) : (m.zeroFill a n).lanes = m.lanes := rfl
@[simp] theorem Mod.zeroFill_registry (a n : Nat) : (m.zeroFill a n).registry = m.registry := rfl
@[simp] theorem Mod.zeroFill_closing (a n : Nat) : (m.zeroFill a n).closing = m.closing := rfl
@[simp] theorem Mod.zeroFill_ties (a n : Nat) : (m.zeroFill a n).ties = m.ties := rfl
@[simp] theorem Mod.zeroFill_farWaiters (a n : Nat) : (m.zeroFill a n).farWaiters = m.farWaiters := rfl
@[simp] theorem Mod.zeroFill_pools (a n : Nat) : (m.zeroFill a n).pools = m.pools := rfl
@[simp] theorem Mod.zeroFill_poolStates (a n : Nat) : (m.zeroFill a n).poolStates = m.poolStates := rfl
@[simp] theorem Mod.zeroFill_verdicts (a n : Nat) : (m.zeroFill a n).verdicts = m.verdicts := rfl
@[simp] theorem Mod.zeroFill_journals (a n : Nat) : (m.zeroFill a n).journals = m.journals := rfl
@[simp] theorem Mod.zeroFill_counters (a n : Nat) : (m.zeroFill a n).counters = m.counters := rfl
@[simp] theorem Mod.zeroFill_log (a n : Nat) : (m.zeroFill a n).log = m.log := rfl
@[simp] theorem Mod.zeroFill_nextRecord (a n : Nat) : (m.zeroFill a n).nextRecord = m.nextRecord := rfl
@[simp] theorem Mod.zeroFill_escalations (a n : Nat) : (m.zeroFill a n).escalations = m.escalations := rfl
@[simp] theorem Mod.zeroFill_isolations (a n : Nat) : (m.zeroFill a n).isolations = m.isolations := rfl
@[simp] theorem Mod.zeroFill_notices (a n : Nat) : (m.zeroFill a n).notices = m.notices := rfl
@[simp] theorem Mod.zeroFill_nextNotice (a n : Nat) : (m.zeroFill a n).nextNotice = m.nextNotice := rfl
@[simp] theorem Mod.zeroFill_noticeIds (a n : Nat) : (m.zeroFill a n).noticeIds = m.noticeIds := rfl
@[simp] theorem Mod.zeroFill_resetting (a n : Nat) : (m.zeroFill a n).resetting = m.resetting := rfl
@[simp] theorem Mod.zeroFill_dumps (a n : Nat) : (m.zeroFill a n).dumps = m.dumps := rfl
@[simp] theorem Mod.zeroFill_nextDump (a n : Nat) : (m.zeroFill a n).nextDump = m.nextDump := rfl
@[simp] theorem Mod.zeroFill_summary (a n : Nat) : (m.zeroFill a n).summary = m.summary := rfl
@[simp] theorem Mod.zeroFill_trail (a n : Nat) : (m.zeroFill a n).trail = m.trail := rfl
@[simp] theorem Mod.zeroFill_keepCopy (a n : Nat) : (m.zeroFill a n).keepCopy = m.keepCopy := rfl
@[simp] theorem Mod.zeroFill_trace (a n : Nat) : (m.zeroFill a n).trace = m.trace := rfl
@[simp] theorem Mod.zeroFill_modAddr (a n : Nat) : (m.zeroFill a n).modAddr = m.modAddr := rfl
@[simp] theorem Mod.zeroFill_ports (a n : Nat) : (m.zeroFill a n).ports = m.ports := rfl
@[simp] theorem Mod.zeroFill_eth (a n : Nat) : (m.zeroFill a n).eth = m.eth := rfl
@[simp] theorem Mod.zeroFill_faultTable (a n : Nat) : (m.zeroFill a n).faultTable = m.faultTable := rfl
@[simp] theorem Mod.zeroFill_halfCounters (a n : Nat) : (m.zeroFill a n).halfCounters = m.halfCounters := rfl
@[simp] theorem Mod.zeroFill_nextTag (a n : Nat) : (m.zeroFill a n).nextTag = m.nextTag := rfl
@[simp] theorem Mod.zeroFill_trayOps (a n : Nat) : (m.zeroFill a n).trayOps = m.trayOps := rfl
@[simp] theorem Mod.zeroFill_stalled (a n : Nat) : (m.zeroFill a n).stalled = m.stalled := rfl
@[simp] theorem Mod.zeroFill_waitOut (a n : Nat) : (m.zeroFill a n).waitOut = m.waitOut := rfl
@[simp] theorem Mod.zeroFill_staged (a n : Nat) : (m.zeroFill a n).staged = m.staged := rfl
@[simp] theorem Mod.zeroFill_homeOwners (a n : Nat) : (m.zeroFill a n).homeOwners = m.homeOwners := rfl
@[simp] theorem Mod.zeroFill_ownTable (a n : Nat) : (m.zeroFill a n).ownTable = m.ownTable := rfl
@[simp] theorem Mod.zeroFill_ownWaits (a n : Nat) : (m.zeroFill a n).ownWaits = m.ownWaits := rfl
@[simp] theorem Mod.zeroFill_ownStale (a n : Nat) : (m.zeroFill a n).ownStale = m.ownStale := rfl
@[simp] theorem Mod.zeroFill_combined (a n : Nat) : (m.zeroFill a n).combined = m.combined := rfl
@[simp] theorem Mod.zeroFill_assembly (a n : Nat) : (m.zeroFill a n).assembly = m.assembly := rfl
@[simp] theorem Mod.zeroFill_injectedFrom (a n : Nat) : (m.zeroFill a n).injectedFrom = m.injectedFrom := rfl
@[simp] theorem Mod.zeroFill_isSteward (a n : Nat) : (m.zeroFill a n).isSteward = m.isSteward := rfl
@[simp] theorem Mod.zeroFill_roster (a n : Nat) : (m.zeroFill a n).roster = m.roster := rfl
@[simp] theorem Mod.zeroFill_rosterEpoch (a n : Nat) : (m.zeroFill a n).rosterEpoch = m.rosterEpoch := rfl
@[simp] theorem Mod.zeroFill_joins (a n : Nat) : (m.zeroFill a n).joins = m.joins := rfl
@[simp] theorem Mod.zeroFill_out (a n : Nat) : (m.zeroFill a n).out = m.out := rfl

@[simp] theorem Mod.writeC_timer (extent off : Nat) (bs : Bytes) : (m.writeC extent off bs).timer = m.timer := rfl
@[simp] theorem Mod.writeC_timerOn (extent off : Nat) (bs : Bytes) : (m.writeC extent off bs).timerOn = m.timerOn := rfl
@[simp] theorem Mod.writeC_timerDev (extent off : Nat) (bs : Bytes) : (m.writeC extent off bs).timerDev = m.timerDev := rfl
@[simp] theorem Mod.writeC_timerReload (extent off : Nat) (bs : Bytes) : (m.writeC extent off bs).timerReload = m.timerReload := rfl
@[simp] theorem Mod.writeC_free (extent off : Nat) (bs : Bytes) : (m.writeC extent off bs).free = m.free := rfl
@[simp] theorem Mod.writeC_power (extent off : Nat) (bs : Bytes) : (m.writeC extent off bs).power = m.power := rfl
@[simp] theorem Mod.writeC_boot (extent off : Nat) (bs : Bytes) : (m.writeC extent off bs).boot = m.boot := rfl
@[simp] theorem Mod.writeC_alertCause (extent off : Nat) (bs : Bytes) : (m.writeC extent off bs).alertCause = m.alertCause := rfl
@[simp] theorem Mod.writeC_alertMask (extent off : Nat) (bs : Bytes) : (m.writeC extent off bs).alertMask = m.alertMask := rfl
@[simp] theorem Mod.writeC_sideband (extent off : Nat) (bs : Bytes) : (m.writeC extent off bs).sideband = m.sideband := rfl
@[simp] theorem Mod.writeC_sideBoxes (extent off : Nat) (bs : Bytes) : (m.writeC extent off bs).sideBoxes = m.sideBoxes := rfl
@[simp] theorem Mod.writeC_small (extent off : Nat) (bs : Bytes) : (m.writeC extent off bs).small = m.small := rfl
@[simp] theorem Mod.writeC_i3c (extent off : Nat) (bs : Bytes) : (m.writeC extent off bs).i3c = m.i3c := rfl
@[simp] theorem Mod.writeC_tap (extent off : Nat) (bs : Bytes) : (m.writeC extent off bs).tap = m.tap := rfl
@[simp] theorem Mod.writeC_claim (extent off : Nat) (bs : Bytes) : (m.writeC extent off bs).claim = m.claim := rfl
@[simp] theorem Mod.writeC_policy (extent off : Nat) (bs : Bytes) : (m.writeC extent off bs).policy = m.policy := rfl
@[simp] theorem Mod.writeC_proposal (extent off : Nat) (bs : Bytes) : (m.writeC extent off bs).proposal = m.proposal := rfl
@[simp] theorem Mod.writeC_measures (extent off : Nat) (bs : Bytes) : (m.writeC extent off bs).measures = m.measures := rfl
@[simp] theorem Mod.writeC_sessions (extent off : Nat) (bs : Bytes) : (m.writeC extent off bs).sessions = m.sessions := rfl
@[simp] theorem Mod.writeC_nextSid (extent off : Nat) (bs : Bytes) : (m.writeC extent off bs).nextSid = m.nextSid := rfl
@[simp] theorem Mod.writeC_handshakes (extent off : Nat) (bs : Bytes) : (m.writeC extent off bs).handshakes = m.handshakes := rfl
@[simp] theorem Mod.writeC_initTimes (extent off : Nat) (bs : Bytes) : (m.writeC extent off bs).initTimes = m.initTimes := rfl
@[simp] theorem Mod.writeC_mem (extent off : Nat) (bs : Bytes) : (m.writeC extent off bs).mem = m.mem := rfl
@[simp] theorem Mod.writeC_memErrors (extent off : Nat) (bs : Bytes) : (m.writeC extent off bs).memErrors = m.memErrors := rfl
@[simp] theorem Mod.writeC_linkErrors (extent off : Nat) (bs : Bytes) : (m.writeC extent off bs).linkErrors = m.linkErrors := rfl
@[simp] theorem Mod.writeC_rowHits (extent off : Nat) (bs : Bytes) : (m.writeC extent off bs).rowHits = m.rowHits := rfl
@[simp] theorem Mod.writeC_rowTable (extent off : Nat) (bs : Bytes) : (m.writeC extent off bs).rowTable = m.rowTable := rfl
@[simp] theorem Mod.writeC_deadRows (extent off : Nat) (bs : Bytes) : (m.writeC extent off bs).deadRows = m.deadRows := rfl
@[simp] theorem Mod.writeC_repairSpent (extent off : Nat) (bs : Bytes) : (m.writeC extent off bs).repairSpent = m.repairSpent := rfl
@[simp] theorem Mod.writeC_badChannels (extent off : Nat) (bs : Bytes) : (m.writeC extent off bs).badChannels = m.badChannels := rfl
@[simp] theorem Mod.writeC_laneTestAt (extent off : Nat) (bs : Bytes) : (m.writeC extent off bs).laneTestAt = m.laneTestAt := rfl
@[simp] theorem Mod.writeC_channelReads (extent off : Nat) (bs : Bytes) : (m.writeC extent off bs).channelReads = m.channelReads := rfl
@[simp] theorem Mod.writeC_hbmSpares (extent off : Nat) (bs : Bytes) : (m.writeC extent off bs).hbmSpares = m.hbmSpares := rfl
@[simp] theorem Mod.writeC_hbmBadLanes (extent off : Nat) (bs : Bytes) : (m.writeC extent off bs).hbmBadLanes = m.hbmBadLanes := rfl
@[simp] theorem Mod.writeC_sramList (extent off : Nat) (bs : Bytes) : (m.writeC extent off bs).sramList = m.sramList := rfl
@[simp] theorem Mod.writeC_sramRepairs (extent off : Nat) (bs : Bytes) : (m.writeC extent off bs).sramRepairs = m.sramRepairs := rfl
@[simp] theorem Mod.writeC_stakeMap (extent off : Nat) (bs : Bytes) : (m.writeC extent off bs).stakeMap = m.stakeMap := rfl
@[simp] theorem Mod.writeC_ribs (extent off : Nat) (bs : Bytes) : (m.writeC extent off bs).ribs = m.ribs := rfl
@[simp] theorem Mod.writeC_outOfService (extent off : Nat) (bs : Bytes) : (m.writeC extent off bs).outOfService = m.outOfService := rfl
@[simp] theorem Mod.writeC_stakeFaults (extent off : Nat) (bs : Bytes) : (m.writeC extent off bs).stakeFaults = m.stakeFaults := rfl
@[simp] theorem Mod.writeC_arrays (extent off : Nat) (bs : Bytes) : (m.writeC extent off bs).arrays = m.arrays := rfl
@[simp] theorem Mod.writeC_sequencers (extent off : Nat) (bs : Bytes) : (m.writeC extent off bs).sequencers = m.sequencers := rfl
@[simp] theorem Mod.writeC_jobs (extent off : Nat) (bs : Bytes) : (m.writeC extent off bs).jobs = m.jobs := rfl
@[simp] theorem Mod.writeC_retained (extent off : Nat) (bs : Bytes) : (m.writeC extent off bs).retained = m.retained := rfl
@[simp] theorem Mod.writeC_loads (extent off : Nat) (bs : Bytes) : (m.writeC extent off bs).loads = m.loads := rfl
@[simp] theorem Mod.writeC_lanes (extent off : Nat) (bs : Bytes) : (m.writeC extent off bs).lanes = m.lanes := rfl
@[simp] theorem Mod.writeC_registry (extent off : Nat) (bs : Bytes) : (m.writeC extent off bs).registry = m.registry := rfl
@[simp] theorem Mod.writeC_closing (extent off : Nat) (bs : Bytes) : (m.writeC extent off bs).closing = m.closing := rfl
@[simp] theorem Mod.writeC_ties (extent off : Nat) (bs : Bytes) : (m.writeC extent off bs).ties = m.ties := rfl
@[simp] theorem Mod.writeC_farWaiters (extent off : Nat) (bs : Bytes) : (m.writeC extent off bs).farWaiters = m.farWaiters := rfl
@[simp] theorem Mod.writeC_pools (extent off : Nat) (bs : Bytes) : (m.writeC extent off bs).pools = m.pools := rfl
@[simp] theorem Mod.writeC_poolStates (extent off : Nat) (bs : Bytes) : (m.writeC extent off bs).poolStates = m.poolStates := rfl
@[simp] theorem Mod.writeC_verdicts (extent off : Nat) (bs : Bytes) : (m.writeC extent off bs).verdicts = m.verdicts := rfl
@[simp] theorem Mod.writeC_journals (extent off : Nat) (bs : Bytes) : (m.writeC extent off bs).journals = m.journals := rfl
@[simp] theorem Mod.writeC_counters (extent off : Nat) (bs : Bytes) : (m.writeC extent off bs).counters = m.counters := rfl
@[simp] theorem Mod.writeC_log (extent off : Nat) (bs : Bytes) : (m.writeC extent off bs).log = m.log := rfl
@[simp] theorem Mod.writeC_nextRecord (extent off : Nat) (bs : Bytes) : (m.writeC extent off bs).nextRecord = m.nextRecord := rfl
@[simp] theorem Mod.writeC_escalations (extent off : Nat) (bs : Bytes) : (m.writeC extent off bs).escalations = m.escalations := rfl
@[simp] theorem Mod.writeC_isolations (extent off : Nat) (bs : Bytes) : (m.writeC extent off bs).isolations = m.isolations := rfl
@[simp] theorem Mod.writeC_notices (extent off : Nat) (bs : Bytes) : (m.writeC extent off bs).notices = m.notices := rfl
@[simp] theorem Mod.writeC_nextNotice (extent off : Nat) (bs : Bytes) : (m.writeC extent off bs).nextNotice = m.nextNotice := rfl
@[simp] theorem Mod.writeC_noticeIds (extent off : Nat) (bs : Bytes) : (m.writeC extent off bs).noticeIds = m.noticeIds := rfl
@[simp] theorem Mod.writeC_resetting (extent off : Nat) (bs : Bytes) : (m.writeC extent off bs).resetting = m.resetting := rfl
@[simp] theorem Mod.writeC_dumps (extent off : Nat) (bs : Bytes) : (m.writeC extent off bs).dumps = m.dumps := rfl
@[simp] theorem Mod.writeC_nextDump (extent off : Nat) (bs : Bytes) : (m.writeC extent off bs).nextDump = m.nextDump := rfl
@[simp] theorem Mod.writeC_summary (extent off : Nat) (bs : Bytes) : (m.writeC extent off bs).summary = m.summary := rfl
@[simp] theorem Mod.writeC_trail (extent off : Nat) (bs : Bytes) : (m.writeC extent off bs).trail = m.trail := rfl
@[simp] theorem Mod.writeC_keepCopy (extent off : Nat) (bs : Bytes) : (m.writeC extent off bs).keepCopy = m.keepCopy := rfl
@[simp] theorem Mod.writeC_trace (extent off : Nat) (bs : Bytes) : (m.writeC extent off bs).trace = m.trace := rfl
@[simp] theorem Mod.writeC_modAddr (extent off : Nat) (bs : Bytes) : (m.writeC extent off bs).modAddr = m.modAddr := rfl
@[simp] theorem Mod.writeC_ports (extent off : Nat) (bs : Bytes) : (m.writeC extent off bs).ports = m.ports := rfl
@[simp] theorem Mod.writeC_eth (extent off : Nat) (bs : Bytes) : (m.writeC extent off bs).eth = m.eth := rfl
@[simp] theorem Mod.writeC_faultTable (extent off : Nat) (bs : Bytes) : (m.writeC extent off bs).faultTable = m.faultTable := rfl
@[simp] theorem Mod.writeC_halfCounters (extent off : Nat) (bs : Bytes) : (m.writeC extent off bs).halfCounters = m.halfCounters := rfl
@[simp] theorem Mod.writeC_nextTag (extent off : Nat) (bs : Bytes) : (m.writeC extent off bs).nextTag = m.nextTag := rfl
@[simp] theorem Mod.writeC_trayOps (extent off : Nat) (bs : Bytes) : (m.writeC extent off bs).trayOps = m.trayOps := rfl
@[simp] theorem Mod.writeC_stalled (extent off : Nat) (bs : Bytes) : (m.writeC extent off bs).stalled = m.stalled := rfl
@[simp] theorem Mod.writeC_waitOut (extent off : Nat) (bs : Bytes) : (m.writeC extent off bs).waitOut = m.waitOut := rfl
@[simp] theorem Mod.writeC_staged (extent off : Nat) (bs : Bytes) : (m.writeC extent off bs).staged = m.staged := rfl
@[simp] theorem Mod.writeC_homeOwners (extent off : Nat) (bs : Bytes) : (m.writeC extent off bs).homeOwners = m.homeOwners := rfl
@[simp] theorem Mod.writeC_ownTable (extent off : Nat) (bs : Bytes) : (m.writeC extent off bs).ownTable = m.ownTable := rfl
@[simp] theorem Mod.writeC_ownWaits (extent off : Nat) (bs : Bytes) : (m.writeC extent off bs).ownWaits = m.ownWaits := rfl
@[simp] theorem Mod.writeC_ownStale (extent off : Nat) (bs : Bytes) : (m.writeC extent off bs).ownStale = m.ownStale := rfl
@[simp] theorem Mod.writeC_combined (extent off : Nat) (bs : Bytes) : (m.writeC extent off bs).combined = m.combined := rfl
@[simp] theorem Mod.writeC_assembly (extent off : Nat) (bs : Bytes) : (m.writeC extent off bs).assembly = m.assembly := rfl
@[simp] theorem Mod.writeC_injectedFrom (extent off : Nat) (bs : Bytes) : (m.writeC extent off bs).injectedFrom = m.injectedFrom := rfl
@[simp] theorem Mod.writeC_isSteward (extent off : Nat) (bs : Bytes) : (m.writeC extent off bs).isSteward = m.isSteward := rfl
@[simp] theorem Mod.writeC_roster (extent off : Nat) (bs : Bytes) : (m.writeC extent off bs).roster = m.roster := rfl
@[simp] theorem Mod.writeC_rosterEpoch (extent off : Nat) (bs : Bytes) : (m.writeC extent off bs).rosterEpoch = m.rosterEpoch := rfl
@[simp] theorem Mod.writeC_joins (extent off : Nat) (bs : Bytes) : (m.writeC extent off bs).joins = m.joins := rfl
@[simp] theorem Mod.writeC_out (extent off : Nat) (bs : Bytes) : (m.writeC extent off bs).out = m.out := rfl

end Sys2Proof.Machine
end

