-- ==== Sys2Proof/Laws/Lanes.lean ====
section
/-!
SUPPORT. Lanes, sessions and the completion of a command: what `updLane` and `updSession` change, and what `settle` can do to
a lane that has nothing at its head.
-/

namespace Sys2Proof.Machine

/-! ### Look-ups after updates -/

theorem find_lane_map (ls : List LaneState) (l : Lane) (f : LaneState → LaneState) (hf : ∀ x, (f x).lane = x.lane) :
    ((ls.map fun s => if s.lane == l then f s else s).find? fun s => s.lane == l) = (ls.find? fun s => s.lane == l).map f := by
  induction ls with
  | nil => rfl
  | cons a ls ih =>
    rw [List.map_cons, List.find?_cons, List.find?_cons]
    by_cases h : a.lane == l
    · simp [h, hf]
    · rw [if_neg h, ih]; simp [h]

theorem find_lane_other (ls : List LaneState) (l k : Lane) (f : LaneState → LaneState) (hf : ∀ x, (f x).lane = x.lane)
    (hk : k ≠ l) :
    ((ls.map fun s => if s.lane == l then f s else s).find? fun s => s.lane == k) = ls.find? fun s => s.lane == k := by
  induction ls with
  | nil => rfl
  | cons a ls ih =>
    rw [List.map_cons, List.find?_cons, List.find?_cons]
    by_cases h : a.lane == l
    · have hak : (a.lane == k) = false := by
        have : a.lane = l := by simpa using h
        simp [this, Ne.symm hk]
      rw [if_pos h, hf, hak]; exact ih
    · rw [if_neg h, ih]

/-- A lane after a change of it. -/
theorem Mod.lane_updLane (m : Mod) (l : Lane) (f : LaneState → LaneState) (hf : ∀ x, (f x).lane = x.lane) :
    (m.updLane l f).lane? l = (m.lane? l).map f := find_lane_map m.lanes l f hf

/-- A change of a lane leaves the others alone. -/
theorem Mod.lane_updLane_ne (m : Mod) (l k : Lane) (f : LaneState → LaneState) (hf : ∀ x, (f x).lane = x.lane) (hk : k ≠ l) :
    (m.updLane l f).lane? k = m.lane? k := find_lane_other m.lanes l k f hf hk

/-- Two changes of a lane as one. -/
theorem Mod.updLane_updLane (m : Mod) (l : Lane) (f g : LaneState → LaneState) (hf : ∀ x, (f x).lane = x.lane) :
    (m.updLane l f).updLane l g = m.updLane l (fun x => g (f x)) := by
  simp only [Mod.updLane, List.map_map]
  congr 1
  apply List.map_congr_left
  intro x _
  simp only [Function.comp]
  by_cases h : x.lane == l
  · simp [h, hf]
  · simp [h]

/-- A session after a change of it. -/
theorem Mod.session_updSession (m : Mod) (sid : Nat) (f : Session → Session) (hf : ∀ x, (f x).sid = x.sid) (ss : Session)
    (h : m.session? sid = some ss) : (m.updSession sid f).session? sid = some (f ss) := by
  unfold Mod.session? at *
  simp only [Mod.updSession]
  generalize m.sessions = l at *
  induction l with
  | nil => cases h
  | cons a l ih =>
    rw [List.map_cons, List.find?_cons]
    rw [List.find?_cons] at h
    by_cases e : a.sid == sid
    · simp [e, hf] at *; rw [h]
    · rw [if_neg e]; simp only [e] at *; exact ih h

/-- The checks behind the sequence number do not read the lanes or what the sessions have counted. -/
theorem Mod.checkPacket_upd (m : Mod) (sid : Nat) (f : Session → Session) (l : Lane) (g : LaneState → LaneState) (op : Op)
    (p : Packet) (ss : Session) (n : Nat) :
    ((m.updSession sid f).updLane l g).checkPacket op p { ss with inPkts := n } = m.checkPacket op p ss := rfl

/-! ### What completing commands can do to an idle lane -/

/-- A lane stands as `ls` with nothing at its head, and everything that had left the module has left it. -/
structure Mod.Keeps (m t : Mod) (l : Lane) (ls : LaneState) : Prop where
  idle : ls.current = none
  lane : m.lane? l = some ls → t.lane? l = some ls
  out : ∀ o ∈ m.out, o ∈ t.out

theorem Mod.Keeps.rfl' {m : Mod} {l : Lane} {ls : LaneState} (h : ls.current = none) : m.Keeps m l ls := ⟨h, id, fun _ h => h⟩

theorem Mod.Keeps.trans {a b c : Mod} {l : Lane} {ls : LaneState} (h : a.Keeps b l ls) (k : b.Keeps c l ls) : a.Keeps c l ls :=
  ⟨h.idle, fun x => k.lane (h.lane x), fun o x => k.out o (h.out o x)⟩

/-- A module whose lanes and output are those of another. -/
theorem Mod.Keeps.of_eq {m t : Mod} {l : Lane} {ls : LaneState} (h : ls.current = none) (hl : t.lanes = m.lanes)
    (ho : t.out = m.out) : m.Keeps t l ls :=
  ⟨h, fun x => by unfold Mod.lane? at *; rw [hl]; exact x, fun o x => by rw [ho]; exact x⟩

theorem Mod.Keeps.emit {m : Mod} {l : Lane} {ls : LaneState} (h : ls.current = none) (o : Out) : m.Keeps (m.emit o) l ls :=
  ⟨h, id, fun _ x => List.mem_cons_of_mem _ x⟩

theorem Mod.countJob_lanes (m : Mod) (id : Nat) (k : Ctr) (n : Nat) : (m.countJob id k n).lanes = m.lanes := by
  unfold Mod.countJob; split <;> rfl

theorem Mod.countJob_out (m : Mod) (id : Nat) (k : Ctr) (n : Nat) : (m.countJob id k n).out = m.out := by
  unfold Mod.countJob; split <;> rfl

theorem Mod.count_keeps {m : Mod} {l : Lane} {ls : LaneState} (h : ls.current = none) (id : Nat) (k : Ctr) (n : Nat) :
    m.Keeps (m.countJob id k n) l ls := .of_eq h (m.countJob_lanes id k n) (m.countJob_out id k n)

theorem Mod.trace_keeps {m : Mod} {l : Lane} {ls : LaneState} (h : ls.current = none) (r : TraceRec) :
    m.Keeps (m.trace_ r) l ls := by
  unfold Mod.trace_
  dsimp only
  split
  · exact .rfl' h
  · repeat' split
    all_goals first | exact .rfl' h | exact .of_eq h rfl rfl

theorem Mod.sendReply_keeps {m : Mod} {l : Lane} {ls : LaneState} (h : ls.current = none) (sid : Nat) (q : Bool) (r : Reply) :
    m.Keeps (m.sendReply sid q r) l ls := by
  unfold Mod.sendReply
  split
  · exact .rfl' h
  · split
    · exact .rfl' h
    · exact (Mod.Keeps.emit h _).trans (.of_eq h rfl rfl)

/-- No command stands at the head of an idle lane. -/
theorem Mod.cmd_none {m : Mod} {l : Lane} {ls : LaneState} (h : ls.current = none) (hl : m.lane? l = some ls) (seq : Nat) :
    m.cmd? ⟨l, seq⟩ = none := by
  simp [Mod.cmd?, Mod.running?, hl, h]

/-- A change of the lane of a running command leaves an idle lane alone. -/
theorem Mod.updLane_keeps {m : Mod} {l : Lane} {ls : LaneState} (h : ls.current = none) (id : CmdId) (r : Running)
    (hr : m.cmd? id = some r) (f : LaneState → LaneState) (hf : ∀ x, (f x).lane = x.lane) : m.Keeps (m.updLane id.lane f) l ls := by
  refine ⟨h, fun hl => ?_, fun _ x => x⟩
  by_cases e : l = id.lane
  · subst e
    rw [show id = ⟨id.lane, id.seq⟩ from rfl, Mod.cmd_none h hl] at hr
    cases hr
  · rw [Mod.lane_updLane_ne _ _ _ _ hf e]; exact hl

theorem Mod.addTie_keeps {m : Mod} {l : Lane} {ls : LaneState} (h : ls.current = none) (ref : Nat) (a : Int) :
    m.Keeps (m.addTie ref a).1 l ls := by
  unfold Mod.addTie
  split
  · exact .rfl' h
  · rename_i t _
    split
    · show m.Keeps (m.countJob t.job .TIE_SIGNALS_DISCARDED 1) l ls
      exact Mod.count_keeps h _ _ _
    · exact .of_eq h (m.countJob_lanes _ _ _) (m.countJob_out _ _ _)

theorem Mod.release_keeps {m : Mod} {l : Lane} {ls : LaneState} (h : ls.current = none) (ref : Nat) (w : Waiter) (v : Nat) :
    m.Keeps (m.release ref w v).1 l ls := by
  unfold Mod.release
  split
  · split
    · exact .rfl' h
    · rename_i r hr
      split
      · exact Mod.updLane_keeps h _ r hr _ (fun _ => rfl)
      · exact .rfl' h
      · exact .rfl' h
  · exact .of_eq h rfl rfl
  · exact ⟨h, id, fun _ x => List.mem_cons_of_mem _ x⟩

theorem Mod.releaseAll_keeps {l : Lane} {ls : LaneState} (h : ls.current = none) (ref : Nat) (ws : List (Waiter × Nat)) (m : Mod) :
    m.Keeps (m.releaseAll ref ws).1 l ls := by
  induction ws generalizing m with
  | nil => exact .rfl' h
  | cons w ws ih => exact (Mod.release_keeps h ref w.1 w.2).trans (ih _)

theorem Mod.serveTie_keeps {m : Mod} {l : Lane} {ls : LaneState} (h : ls.current = none) (ref : Nat) :
    m.Keeps (m.serveTie ref).1 l ls := by
  unfold Mod.serveTie
  split
  · exact .rfl' h
  · rename_i t _
    have k : m.Keeps (m.setTie t.serve.1) l ls := .of_eq h rfl rfl
    exact k.trans (Mod.releaseAll_keeps h ref t.serve.2 _)

theorem Mod.trace_lanes (m : Mod) (r : TraceRec) : (m.trace_ r).lanes = m.lanes := by
  unfold Mod.trace_
  dsimp only
  repeat' split
  all_goals rfl

theorem Mod.trace_out (m : Mod) (r : TraceRec) : (m.trace_ r).out = m.out := by
  unfold Mod.trace_
  dsimp only
  repeat' split
  all_goals rfl

theorem Mod.sendReply_lanes (m : Mod) (sid : Nat) (q : Bool) (r : Reply) : (m.sendReply sid q r).lanes = m.lanes := by
  unfold Mod.sendReply; split
  · rfl
  · split <;> rfl

/-- What leaves the module for a reply: the reply with its session's tag (R56), unless QUIET suppresses it or the session is
gone. -/
def Mod.replyOut (m : Mod) (sid : Nat) (q : Bool) (r : Reply) : List Out :=
  if q && r.status == .ok then []
  else match m.session? sid with
  | none => []
  | some ss => [.reply (r.signed ss.key)]

/-- What a reply adds to what left the module. -/
theorem Mod.sendReply_out (m : Mod) (sid : Nat) (q : Bool) (r : Reply) :
    (m.sendReply sid q r).out = m.replyOut sid q r ++ m.out := by
  unfold Mod.sendReply Mod.replyOut
  split
  · rfl
  · cases m.session? sid <;> rfl

theorem Mod.wakeThreads_lanes (m : Mod) (p : ThreadPhase → Bool) : (m.wakeThreads p).lanes = m.lanes := rfl
theorem Mod.wakeThreads_out (m : Mod) (p : ThreadPhase → Bool) : (m.wakeThreads p).out = m.out := rfl

/-- Requests that leave one after another change only what has left the module. -/
theorem emitAll_eq (ws : List (Nat × Out)) (m : Mod) :
    ws.foldl (fun m w => m.emit w.2) m = { m with out := (ws.map (·.2)).reverse ++ m.out } := by
  induction ws generalizing m with
  | nil => rfl
  | cons w ws ih => rw [List.foldl_cons, ih]; simp [Mod.emit]

theorem Mod.letGo_lanes (m : Mod) : m.letGo.lanes = m.lanes := by
  unfold Mod.letGo
  split
  · rfl
  · simp only [emitAll_eq]

/-- Requests that were held back may leave; none does where nothing is held back (R413). -/
theorem Mod.letGo_out (m : Mod) : ∃ go, m.letGo.out = go ++ m.out ∧ (m.stalled = [] → go = []) := by
  unfold Mod.letGo
  split
  · exact ⟨[], rfl, fun _ => rfl⟩
  · rename_i h
    simp only [emitAll_eq]
    exact ⟨_, rfl, fun e => absurd (by simp [e]) h⟩

/-- The lanes after a command's end: its lane is idle and has stored the reply. -/
theorem Mod.finish_lanes (m : Mod) (id : CmdId) (st : Status) (d : Nat) (p : Bytes) (r : Running) (hr : m.cmd? id = some r) :
    (m.finish id st d p).1.lanes =
      ((m.updLane id.lane fun s => { s with current := none }).storeReply id.lane (r.cmd.reply m.timer st d r.sum p)).lanes := by
  unfold Mod.finish
  rw [hr]
  dsimp only
  simp only [Mod.dropWaiters]
  rw [Mod.letGo_lanes, Mod.trace_lanes]
  simp only [Mod.wakeThreads_lanes, Mod.updJob_lanes, Mod.sendReply_lanes]

/-- What left the module after a command's end: the reply, unless QUIET suppresses it or the session is gone, and then requests
that were held back. -/
theorem Mod.finish_out (m : Mod) (id : CmdId) (st : Status) (d : Nat) (p : Bytes) (r : Running) (hr : m.cmd? id = some r) :
    ∃ go, (m.finish id st d p).1.out =
      go ++ (m.replyOut r.cmd.sid r.cmd.pkt.quiet (r.cmd.reply m.timer st d r.sum p) ++ m.out) := by
  unfold Mod.finish
  rw [hr]
  dsimp only
  simp only [Mod.dropWaiters]
  obtain ⟨go, h, -⟩ := Mod.letGo_out _
  refine ⟨go, h.trans (congrArg _ ?_)⟩
  rw [Mod.trace_out]
  simp only [Mod.wakeThreads_out, Mod.updJob_out, Mod.sendReply_out]
  rfl

/-- Ending another lane's command leaves an idle lane alone. -/
theorem Mod.finish_keeps {m : Mod} {l : Lane} {ls : LaneState} (h : ls.current = none) (id : CmdId) (st : Status) (d : Nat)
    (p : Bytes) : m.Keeps (m.finish id st d p).1 l ls := by
  cases hr : m.cmd? id with
  | none => unfold Mod.finish; rw [hr]; exact .rfl' h
  | some r =>
    refine ⟨h, fun hl => ?_, fun o ho => ?_⟩
    · have hne : l ≠ id.lane := by
        intro e; subst e
        rw [show id = ⟨id.lane, id.seq⟩ from rfl, Mod.cmd_none h hl] at hr
        cases hr
      unfold Mod.lane?
      rw [Mod.finish_lanes m id st d p r hr]
      show ((m.updLane id.lane fun s => { s with current := none }).storeReply id.lane _).lane? l = _
      unfold Mod.storeReply
      refine (Mod.lane_updLane_ne _ _ _ _ ?_ hne).trans ((Mod.lane_updLane_ne _ _ _ _ ?_ hne).trans hl) <;> intro _ <;> rfl
    · obtain ⟨go, e⟩ := Mod.finish_out m id st d p r hr
      rw [e]
      exact List.mem_append_right _ (List.mem_append_right _ ho)

/-- Whatever is still to happen leaves an idle lane alone and takes nothing back. -/
theorem Mod.settleFuel_keeps {l : Lane} {ls : LaneState} (h : ls.current = none) (n : Nat) (m : Mod) (ts : List Todo) :
    m.Keeps (m.settleFuel n ts) l ls := by
  induction n generalizing m ts with
  | zero => exact .rfl' h
  | succ n ih =>
    cases ts with
    | nil => exact .rfl' h
    | cons t ts =>
      unfold Mod.settleFuel
      cases t with
      | add ref a => exact (Mod.addTie_keeps h ref a).trans (ih _ _)
      | serve ref => exact (Mod.serveTie_keeps h ref).trans (ih _ _)
      | done id st d p => exact (Mod.finish_keeps h id st d p).trans (ih _ _)

/-- A command that completes: its lane is idle, has stored the reply and otherwise stands as before; the reply has left the
module unless QUIET suppresses it or the session is gone. -/
theorem Mod.complete_spec (m : Mod) (id : CmdId) (st : Status) (d : Nat) (p : Bytes) (r : Running) (ls : LaneState)
    (hr : m.cmd? id = some r) (hl : m.lane? id.lane = some ls) :
    let rep := r.cmd.reply m.timer st d r.sum p
    (m.complete id st d p).lane? id.lane =
        some { ls with current := none, replies := lastN 256 (ls.replies ++ [(rep.seq, rep)]) } ∧
      (∀ ss, m.session? r.cmd.sid = some ss → (r.cmd.pkt.quiet && st == .ok) = false →
        Out.reply (rep.signed ss.key) ∈ (m.complete id st d p).out) ∧
      ∀ o ∈ m.out, o ∈ (m.complete id st d p).out := by
  intro rep
  have h1 : (m.finish id st d p).1.lane? id.lane =
      some { ls with current := none, replies := lastN 256 (ls.replies ++ [(rep.seq, rep)]) } := by
    unfold Mod.lane?
    rw [Mod.finish_lanes m id st d p r hr]
    show ((m.updLane id.lane fun s => { s with current := none }).storeReply id.lane rep).lane? id.lane = _
    unfold Mod.storeReply
    refine (Mod.lane_updLane _ _ _ ?_).trans ?_
    · intro _; rfl
    · rw [show (m.updLane id.lane fun s => { s with current := none }).lane? id.lane = some { ls with current := none } from
        (Mod.lane_updLane _ _ _ (by intro _; rfl)).trans (by rw [hl]; rfl)]
      rfl
  unfold Mod.complete Mod.settle
  obtain ⟨n, hn⟩ : ∃ n, 2 * [Todo.done id st d p].length + 16 * (m.lanes.length + 1) = n + 1 :=
    ⟨_, rfl⟩
  rw [hn]
  unfold Mod.settleFuel
  have k := Mod.settleFuel_keeps (l := id.lane)
    (ls := { ls with current := none, replies := lastN 256 (ls.replies ++ [(rep.seq, rep)]) }) rfl n
    (m.finish id st d p).1 ([] ++ (m.finish id st d p).2)
  obtain ⟨go, e⟩ := Mod.finish_out m id st d p r hr
  refine ⟨k.lane h1, fun ss hs hq => k.out _ ?_, fun o ho => k.out _ ?_⟩
  · rw [e]
    refine List.mem_append_right _ (List.mem_append_left _ ?_)
    unfold Mod.replyOut
    rw [show ((r.cmd.pkt.quiet && (r.cmd.reply m.timer st d r.sum p).status == .ok)) = false from hq, hs]
    simp [rep]
  · rw [e]
    exact List.mem_append_right _ (List.mem_append_right _ ho)

end Sys2Proof.Machine
end

