-- ==== Sys2Proof/Laws/Memory.lean ====
section
/-!
SUPPORT. The memory operations: each keeps the canonical form, and each byte reads as what was last written there.
-/

namespace Sys2Proof.Machine

/-- The addresses of a memory whose cells all lie above `a`. -/
def Memory.above (m : Memory) (a : Nat) : Prop := ∀ c ∈ m, a < c.1

theorem Memory.wf_nil : Memory.wf [] := ⟨List.Pairwise.nil, by intro c hc; cases hc⟩

theorem Memory.wf_cons {a : Nat} {b : Byte} {m : Memory} :
    Memory.wf ((a, b) :: m) ↔ m.above a ∧ b ≠ 0#8 ∧ m.wf := by
  simp [Memory.wf, Memory.above, List.pairwise_cons]
  tauto

theorem Memory.above_set {m : Memory} {a x : Nat} {v : Byte} (h : m.above a) (hx : a < x) :
    (m.set x v).above a := by
  induction m with
  | nil =>
    unfold Memory.set
    split
    · exact h
    · intro c hc; simp at hc; subst hc; exact hx
  | cons c m ih =>
    have hc : a < c.1 := h c (by simp)
    have hm : Memory.above m a := fun d hd => h d (by simp [hd])
    unfold Memory.set
    split
    · intro d hd
      rcases List.mem_cons.mp hd with rfl | hd
      · exact hc
      · exact ih hm d hd
    · split
      · split
        · exact hm
        · intro d hd
          rcases List.mem_cons.mp hd with rfl | hd
          · exact hc
          · exact hm d hd
      · split
        · exact h
        · intro d hd
          rcases List.mem_cons.mp hd with rfl | hd
          · exact hx
          · exact h d hd

/-- Writing a byte keeps the canonical form. -/
theorem Memory.set_wf {m : Memory} (h : m.wf) (x : Nat) (v : Byte) : (m.set x v).wf := by
  induction m with
  | nil =>
    unfold Memory.set
    split
    · exact Memory.wf_nil
    · rename_i hv; exact Memory.wf_cons.mpr ⟨by intro c hc; simp at hc, hv, Memory.wf_nil⟩
  | cons c m ih =>
    obtain ⟨hab, hb, hm⟩ := Memory.wf_cons.mp h
    unfold Memory.set
    split
    · rename_i hlt
      exact Memory.wf_cons.mpr ⟨Memory.above_set hab hlt, hb, ih hm⟩
    · rename_i hge
      split
      · split
        · exact hm
        · rename_i hv; exact Memory.wf_cons.mpr ⟨hab, hv, hm⟩
      · rename_i hne
        split
        · exact h
        · rename_i hv
          refine Memory.wf_cons.mpr ⟨?_, hv, h⟩
          intro d hd
          have hlt : x < c.1 := by omega
          rcases List.mem_cons.mp hd with rfl | hd
          · exact hlt
          · exact Nat.lt_trans hlt (hab d hd)

theorem Memory.write_wf {m : Memory} (h : m.wf) (a : Nat) (bs : Bytes) : (m.write a bs).wf := by
  induction bs generalizing m a with
  | nil => exact h
  | cons b bs ih => exact ih (Memory.set_wf h a b) (a + 1)

theorem Memory.writeAll_wf {m : Memory} (h : m.wf) (ws : List (Nat × Byte)) : (m.writeAll ws).wf := by
  unfold Memory.writeAll
  induction ws generalizing m with
  | nil => exact h
  | cons w ws ih => exact ih (Memory.set_wf h w.1 w.2)

theorem Memory.filter_wf {m : Memory} (h : m.wf) (p : Host.Cell → Bool) : Memory.wf (m.filter p) :=
  ⟨h.1.filter _, fun c hc => h.2 c (List.mem_filter.mp hc).1⟩

theorem Memory.clear_wf {m : Memory} (h : m.wf) (a n : Nat) : (m.clear a n).wf := Memory.filter_wf h _

/-- A read below every listed address gives +0. -/
theorem Memory.get_above {m : Memory} {a x : Nat} (h : m.above a) (hx : x ≤ a) : m.get x = 0#8 := by
  cases m with
  | nil => rfl
  | cons c m =>
    have hc : a < c.1 := h c (by simp)
    unfold Memory.get
    rw [if_neg (by omega), if_pos (by omega)]

/-- A byte reads as what was written there, and every other one as before. -/
theorem Memory.get_set {m : Memory} (h : m.wf) (x : Nat) (v : Byte) (y : Nat) :
    (m.set x v).get y = if y = x then v else m.get y := by
  induction m with
  | nil =>
    by_cases hv : v = 0#8 <;> by_cases hy : y = x <;> simp [Memory.set, Memory.get, hv, hy]
    omega
  | cons c m ih =>
    obtain ⟨hab, hb, hm⟩ := Memory.wf_cons.mp h
    obtain ⟨a, b⟩ := c
    simp only [Memory.set]
    split
    · rename_i hlt
      simp only [Memory.get, ih hm]
      split
      · rename_i e; subst e; rw [if_neg (by omega)]
      · split
        · rename_i e; rw [if_neg (by omega)]
        · rfl
    · split
      · rename_i e; subst e
        split
        · rename_i hv; subst hv
          split
          · rename_i e; subst e; exact Memory.get_above hab (Nat.le_refl _)
          · rename_i hne
            simp only [Memory.get, if_neg (Ne.symm hne)]
            split
            · rename_i hlt; exact Memory.get_above hab (Nat.le_of_lt hlt)
            · rfl
        · simp only [Memory.get]
          split
          · rename_i e; rw [if_pos e.symm]
          · rename_i hne; rw [if_neg (Ne.symm hne)]
      · rename_i hge hne
        split
        · rename_i hv; subst hv
          split
          · rename_i e; subst e
            simp only [Memory.get, if_neg hne, if_pos (show y < a by omega)]
          · rfl
        · simp only [Memory.get]
          split
          · rename_i e; rw [if_pos e.symm]
          · rename_i hxy
            rw [if_neg (Ne.symm hxy)]
            split
            · rename_i hlt
              rw [if_neg (by omega), if_pos (by omega)]
            · rfl

/-- The bytes that a list of writes leaves: the last write to an address stands. -/
theorem Memory.get_writeAll {m : Memory} (h : m.wf) (ws : List (Nat × Byte)) (y : Nat) (hy : ∀ w ∈ ws, w.1 ≠ y) :
    (m.writeAll ws).get y = m.get y := by
  unfold Memory.writeAll
  induction ws generalizing m with
  | nil => rfl
  | cons w ws ih =>
    have := ih (Memory.set_wf h w.1 w.2) (fun v hv => hy v (List.mem_cons_of_mem _ hv))
    simp only [List.foldl_cons]
    rw [this, Memory.get_set h, if_neg (Ne.symm (hy w (by simp)))]

/-- Stores keep the canonical form of the module's memory. -/
theorem Mod.store_wf {m : Mod} (h : m.mem.wf) (ws : List (Nat × Byte)) : (m.store ws).mem.wf :=
  Memory.writeAll_wf h ws

theorem Mod.zeroFill_wf {m : Mod} (h : m.mem.wf) (a n : Nat) : (m.zeroFill a n).mem.wf := Memory.clear_wf h a n

end Sys2Proof.Machine
end

