-- ==== Sys2Proof/Laws/MemOk.lean ====
section
/-!
SUPPORT. The canonical form of the memories (`Mod.memOk`) is kept by
the memory primitives, the named operations, ties and replies and the mesh: one lemma per operation, named after it, for callers to cite in place of unfolding it.
-/

namespace Sys2Proof.Machine

set_option linter.unusedSimpArgs false
set_option linter.unusedTactic false
set_option linter.unreachableTactic false

/-- Of a module written out as a record, the form is said by three of its fields. -/
theorem memOk_mk {x0 x1 x2 x3 x4 x5 x6 x7 x8 x9 x10 x11 x12 x13 x14 x15 x16 x17 x18 x19 x20 x21 x22 x23 x24 x25 x26
    x27 x28 x29 x30 x31 x32 x33 x34 x35 x36 x37 x38 x39 x40 x41 x42 x43 x44 x45 x46 x47 x48 x49 x50 x51 x52 x53 x54
    x55 x56 x57 x58 x59 x60 x61 x62 x63 x64 x65 x66 x67 x68 x69 x70 x71 x72 x73 x74 x75 x76 x77 x78 x79 x80 x81 x82
    x83 x84 x85 x86 x87 x88 x89 x90 x91 x92 x93} : (Mod.mk x0 x1 x2 x3 x4 x5 x6 x7 x8 x9 x10 x11 x12 x13 x14 x15 x16
    x17 x18 x19 x20 x21 x22 x23 x24 x25 x26 x27 x28 x29 x30 x31 x32 x33 x34 x35 x36 x37 x38 x39 x40 x41 x42 x43 x44
    x45 x46 x47 x48 x49 x50 x51 x52 x53 x54 x55 x56 x57 x58 x59 x60 x61 x62 x63 x64 x65 x66 x67 x68 x69 x70 x71 x72
    x73 x74 x75 x76 x77 x78 x79 x80 x81 x82 x83 x84 x85 x86 x87 x88 x89 x90 x91 x92 x93).memOk ↔ Memory.wf x22 ∧
    Memory.wf x32 ∧ ∀ s ∈ x18, s.staging.wf :=
  Iff.rfl

theorem memOk_wf {m : Mod} (h : m.memOk) : m.mem.wf := h.1

theorem memOk_tierC {m : Mod} (h : m.memOk) : m.tierC.wf := h.2.1

theorem memOk_sessions {m : Mod} (h : m.memOk) : ∀ s ∈ m.sessions, s.staging.wf := h.2.2

theorem fst_memOk {α : Type} {p : Mod × α} {a : Mod} {b : α} (e : p = (a, b)) (h : p.1.memOk) : a.memOk := by
  rw [e] at h; exact h

theorem snd_memOk {α : Type} {p : α × Mod} {a : Mod} {b : α} (e : p = (b, a)) (h : p.2.memOk) : a.memOk := by
  rw [e] at h; exact h

theorem foldl_memOk {α : Type} {f : Mod → α → Mod} {m : Mod} {l : List α} (h : m.memOk)
    (hf : ∀ m x, m.memOk → (f m x).memOk) : (l.foldl f m).memOk := by
  induction l generalizing m with
  | nil => exact h
  | cons x l ih => exact ih (hf m x h)

theorem foldl_fst_memOk {α β : Type} {f : Mod × β → α → Mod × β} {m : Mod × β} {l : List α} (h : m.1.memOk)
    (hf : ∀ m x, m.1.memOk → (f m x).1.memOk) : (l.foldl f m).1.memOk := by
  induction l generalizing m with
  | nil => exact h
  | cons x l ih => exact ih (hf m x h)

theorem foldl_snd_memOk {α β : Type} {f : β × Mod → α → β × Mod} {m : β × Mod} {l : List α} (h : m.2.memOk)
    (hf : ∀ m x, m.2.memOk → (f m x).2.memOk) : (l.foldl f m).2.memOk := by
  induction l generalizing m with
  | nil => exact h
  | cons x l ih => exact ih (hf m x h)

theorem ite_memOk {c : Prop} [Decidable c] {a b : Mod} (ha : a.memOk) (hb : b.memOk) : (if c then a else b).memOk := by
  split <;> assumption

theorem snd_snd_memOk {α β : Type} {p : α × β × Mod} {a : Mod} {b : α} {c : β} (e : p = (b, c, a)) (h : p.2.2.memOk)
    : a.memOk := by
  rw [e] at h; exact h

theorem foldl_run_memOk {α : Type} {f : BodyRun → α → BodyRun} {m : BodyRun} {l : List α} (h : m.m.memOk)
    (hf : ∀ m x, m.m.memOk → (f m x).m.memOk) : (l.foldl f m).m.memOk := by
  induction l generalizing m with
  | nil => exact h
  | cons x l ih => exact ih (hf m x h)

/-- Every module state an optional pair answers is canonical. -/
def optFst {α : Type} (o : Option (Mod × α)) : Prop := ∀ p, o = some p → p.1.memOk

theorem optFst_some {α : Type} {p : Mod × α} (h : p.1.memOk) : optFst (some p) := by rintro _ ⟨⟩; exact h

theorem optFst_none {α : Type} : optFst (none : Option (Mod × α)) := by rintro _ ⟨⟩

theorem findSome_memOk {α β : Type} {l : List α} {g : α → Option (Mod × β)} {m : Mod} {x : β} (e : l.findSome? g =
    some (m, x))
    (hg : ∀ a, optFst (g a)) : m.memOk := by
  obtain ⟨a, _, ha⟩ := List.exists_of_findSome?_eq_some e
  exact hg a _ ha

theorem sessions_filter {l : List Session} {p : Session → Bool} (h : ∀ s ∈ l, s.staging.wf) : ∀ s ∈ l.filter p,
    s.staging.wf :=
  fun s hs => h s (List.mem_filter.mp hs).1

theorem sessions_concat {l : List Session} {x : Session} (h : ∀ s ∈ l, s.staging.wf) (hx : x.staging.wf) : ∀ s ∈
    l.concat x, s.staging.wf := by
  intro s hs
  rw [List.concat_eq_append, List.mem_append, List.mem_singleton] at hs
  rcases hs with hs | rfl
  · exact h s hs
  · exact hx

theorem sessions_nil : ∀ s ∈ ([] : List Session), s.staging.wf := by intro s hs; cases hs

/-- The module state a run of an effect carries is canonical. -/
def Ran.memOk : Ran → Prop
  | .waits m => m.memOk
  | .failed m _ _ _ => m.memOk
  | .wrote m => m.memOk

/-- The module state of either outcome is canonical. -/
def exceptMemOk {α : Type} : Except Mod (Mod × α) → Prop
  | .error m => m.memOk
  | .ok p => p.1.memOk

/-- Every module state an option holds is canonical. -/
def optMemOk (o : Option Mod) : Prop := ∀ m, o = some m → m.memOk

theorem Ran.waits_memOk {m : Mod} (h : m.memOk) : Ran.memOk (.waits m) := h

theorem Ran.failed_memOk {m : Mod} {s : Status} {d : Nat} {p : Bytes} (h : m.memOk) : Ran.memOk (.failed m s d p) := h

theorem Ran.wrote_memOk {m : Mod} (h : m.memOk) : Ran.memOk (.wrote m) := h

theorem Ran.memOk_waits {r : Ran} {m : Mod} (e : r = .waits m) (h : r.memOk) : m.memOk := by rw [e] at h; exact h

theorem Ran.memOk_failed {r : Ran} {m : Mod} {s : Status} {d : Nat} {p : Bytes} (e : r = .failed m s d p) (h :
    r.memOk) : m.memOk := by
  rw [e] at h; exact h

theorem Ran.memOk_wrote {r : Ran} {m : Mod} (e : r = .wrote m) (h : r.memOk) : m.memOk := by rw [e] at h; exact h

theorem ranPair_waits {r : Ran × Bool} {m : Mod} {b : Bool} (e : r = (.waits m, b)) (h : r.1.memOk) : m.memOk := by
    rw [e] at h; exact h

theorem ranPair_failed {r : Ran × Bool} {m : Mod} {s : Status} {d : Nat} {p : Bytes} {b : Bool} (e : r = (.failed m
    s d p, b)) (h : r.1.memOk) : m.memOk := by
  rw [e] at h; exact h

theorem ranPair_wrote {r : Ran × Bool} {m : Mod} {b : Bool} (e : r = (.wrote m, b)) (h : r.1.memOk) : m.memOk := by
    rw [e] at h; exact h

theorem exceptMemOk_error {α : Type} {m : Mod} (h : m.memOk) : exceptMemOk (α := α) (.error m) := h

theorem exceptMemOk_ok {α : Type} {p : Mod × α} (h : p.1.memOk) : exceptMemOk (.ok p) := h

theorem error_memOk {α : Type} {r : Except Mod (Mod × α)} {m : Mod} (e : r = .error m) (h : exceptMemOk r) : m.memOk
    := by rw [e] at h; exact h

theorem ok_memOk {α : Type} {r : Except Mod (Mod × α)} {m : Mod} {x : α} (e : r = .ok (m, x)) (h : exceptMemOk r) :
    m.memOk := by rw [e] at h; exact h

theorem some_memOk {o : Option Mod} {m : Mod} (e : o = some m) (h : optMemOk o) : m.memOk := h m e

theorem optMemOk_some {m : Mod} (h : m.memOk) : optMemOk (some m) := by rintro _ ⟨⟩; exact h

theorem optMemOk_getD {o : Option Mod} {m : Mod} (h : optMemOk o) (hm : m.memOk) : (o.getD m).memOk := by
  cases o with
  | none => exact hm
  | some t => exact h t rfl

theorem optMemOk_findSome {α : Type} {l : List α} {g : α → Option Mod} (h : ∀ a, optMemOk (g a)) : optMemOk
    (l.findSome? g) := by
  intro m e
  obtain ⟨a, _, ha⟩ := List.exists_of_findSome?_eq_some e
  exact h a m ha

theorem optMemOk_none : optMemOk none := by rintro _ ⟨⟩

theorem Mod.setError_memOk (m : Mod) (g : Nat) (e : BitVec 144) (hm : m.memOk) :
    (m.setError g e).memOk := by
  unfold Mod.setError
  repeat' with_reducible first
    | assumption | apply memOk_wf | apply memOk_tierC | apply memOk_sessions
    | (simp only [↓memOk_mk]; refine ⟨?_, ?_, ?_⟩)

theorem Mod.store_memOk (m : Mod) (ws : List (Nat × Byte)) (hm : m.memOk) :
    (m.store ws).memOk := by
  unfold Mod.store
  repeat' with_reducible first
    | assumption | apply Memory.writeAll_wf | apply memOk_wf | apply memOk_tierC | apply memOk_sessions
    | (simp only [↓memOk_mk]; refine ⟨?_, ?_, ?_⟩)

theorem Mod.zeroFill_memOk (m : Mod) (a n : Nat) (hm : m.memOk) :
    (m.zeroFill a n).memOk := by
  unfold Mod.zeroFill
  repeat' with_reducible first
    | assumption | apply Memory.clear_wf | apply memOk_wf | apply memOk_tierC | apply memOk_sessions
    | (simp only [↓memOk_mk]; refine ⟨?_, ?_, ?_⟩)

theorem Mod.scrubWords_memOk (m : Mod) (granules : List Nat) (hm : m.memOk) :
    (m.scrubWords granules).memOk := by
  unfold Mod.scrubWords
  repeat' with_reducible first
    | assumption | apply Mod.setError_memOk | apply foldl_memOk | (intro _ _ _; try dsimp only) | split

theorem Mod.freeNat_memOk (m : Mod) (hm : m.memOk) :
    (m.freeNat).2.memOk := by
  unfold Mod.freeNat
  repeat' with_reducible first
    | assumption | apply memOk_wf | apply memOk_tierC | apply memOk_sessions
    | (simp only [↓memOk_mk]; refine ⟨?_, ?_, ?_⟩)

theorem Mod.freeBool_memOk (m : Mod) (hm : m.memOk) :
    (m.freeBool).2.memOk := by
  unfold Mod.freeBool
  repeat' with_reducible first
    | assumption | apply memOk_wf | apply memOk_tierC | apply memOk_sessions
    | (simp only [↓memOk_mk]; refine ⟨?_, ?_, ?_⟩)

theorem Mod.freeBytes_memOk (m : Mod) (n : Nat) (hm : m.memOk) :
    (m.freeBytes n).2.memOk := by
  unfold Mod.freeBytes
  repeat' with_reducible first
    | assumption | apply memOk_wf | apply memOk_tierC | apply memOk_sessions
    | (simp only [↓memOk_mk]; refine ⟨?_, ?_, ?_⟩)

theorem Mod.count_memOk (m : Mod) (k : Ctr) (n : Nat) (hm : m.memOk) :
    (m.count k n).memOk := by
  unfold Mod.count
  repeat' with_reducible first
    | assumption | apply memOk_wf | apply memOk_tierC | apply memOk_sessions
    | (simp only [↓memOk_mk]; refine ⟨?_, ?_, ?_⟩)

theorem Mod.setSequencer_memOk (m : Mod) (s : Sequencer) (hm : m.memOk) :
    (m.setSequencer s).memOk := by
  unfold Mod.setSequencer
  repeat' with_reducible first
    | assumption | apply memOk_wf | apply memOk_tierC | apply memOk_sessions
    | (simp only [↓memOk_mk]; refine ⟨?_, ?_, ?_⟩)

theorem Mod.parkThread_memOk (m : Mod) (l t : Nat) (ph : ThreadPhase) (hm : m.memOk) :
    (m.parkThread l t ph).memOk := by
  unfold Mod.parkThread
  repeat' with_reducible first
    | assumption | apply Mod.setSequencer_memOk

theorem Mod.wakeThread_memOk (m : Mod) (l t : Nat) (hm : m.memOk) :
    (m.wakeThread l t).memOk := by
  unfold Mod.wakeThread
  repeat' with_reducible first
    | assumption | apply Mod.setSequencer_memOk

theorem Mod.wakeThreads_memOk (m : Mod) (p : ThreadPhase → Bool) (hm : m.memOk) :
    (m.wakeThreads p).memOk := by
  unfold Mod.wakeThreads
  repeat' with_reducible first
    | assumption | apply memOk_wf | apply memOk_tierC | apply memOk_sessions
    | (simp only [↓memOk_mk]; refine ⟨?_, ?_, ?_⟩)

theorem Mod.emit_memOk (m : Mod) (o : Out) (hm : m.memOk) :
    (m.emit o).memOk := by
  unfold Mod.emit
  repeat' with_reducible first
    | assumption | apply memOk_wf | apply memOk_tierC | apply memOk_sessions
    | (simp only [↓memOk_mk]; refine ⟨?_, ?_, ?_⟩)

theorem Mod.letGo_memOk (m : Mod) (hm : m.memOk) :
    (m.letGo).memOk := by
  unfold Mod.letGo
  repeat' with_reducible first
    | assumption | apply memOk_wf | apply memOk_tierC | apply memOk_sessions | apply Mod.emit_memOk | apply foldl_memOk
    | apply ite_memOk | (simp only [↓memOk_mk]; refine ⟨?_, ?_, ?_⟩) | (intro _ _ _; try dsimp only)

theorem Mod.sendReq_memOk (m : Mod) (dest : Nat) (o : Out) (hm : m.memOk) :
    (m.sendReq dest o).memOk := by
  unfold Mod.sendReq
  repeat' with_reducible first
    | assumption | apply memOk_wf | apply memOk_tierC | apply memOk_sessions | apply Mod.emit_memOk | apply Mod.letGo_memOk
    | apply ite_memOk | (simp only [↓memOk_mk]; refine ⟨?_, ?_, ?_⟩)

theorem Mod.raiseIbi_memOk (m : Mod) (byte : Nat) (hm : m.memOk) :
    (m.raiseIbi byte).memOk := by
  unfold Mod.raiseIbi
  repeat' with_reducible first
    | assumption | apply Mod.emit_memOk | apply ite_memOk

theorem Mod.setAlert_memOk (m : Mod) (cause mask : BitVec 8) (hm : m.memOk) :
    (m.setAlert cause mask).memOk := by
  unfold Mod.setAlert
  repeat' with_reducible first
    | assumption | apply memOk_wf | apply memOk_tierC | apply memOk_sessions | apply Mod.raiseIbi_memOk
    | apply ite_memOk | (simp only [↓memOk_mk]; refine ⟨?_, ?_, ?_⟩)

theorem Mod.raiseCause_memOk (m : Mod) (bit : Nat) (hm : m.memOk) :
    (m.raiseCause bit).memOk := by
  unfold Mod.raiseCause
  repeat' with_reducible first
    | assumption | apply Mod.setAlert_memOk

theorem Mod.extend_memOk (m : Mod) (i : Nat) (item : Bytes) (hm : m.memOk) :
    (m.extend i item).memOk := by
  unfold Mod.extend
  repeat' with_reducible first
    | assumption | apply memOk_wf | apply memOk_tierC | apply memOk_sessions
    | (simp only [↓memOk_mk]; refine ⟨?_, ?_, ?_⟩)

theorem Mod.mirror_memOk (m : Mod) (hm : m.memOk) :
    (m.mirror).memOk := by
  unfold Mod.mirror
  repeat' with_reducible first
    | assumption | apply memOk_wf | apply memOk_tierC | apply memOk_sessions
    | (simp only [↓memOk_mk]; refine ⟨?_, ?_, ?_⟩)

theorem Mod.trace__memOk (m : Mod) (r : TraceRec) (hm : m.memOk) :
    (m.trace_ r).memOk := by
  unfold Mod.trace_
  repeat' with_reducible first
    | assumption | apply memOk_wf | apply memOk_tierC | apply memOk_sessions | apply Mod.count_memOk | apply ite_memOk
    | (simp only [↓memOk_mk]; refine ⟨?_, ?_, ?_⟩)

theorem Mod.addLog_memOk (m : Mod) (r : LogRec) (hm : m.memOk) :
    (m.addLog r).memOk := by
  unfold Mod.addLog
  repeat' with_reducible first
    | assumption | apply memOk_wf | apply memOk_tierC | apply memOk_sessions | apply Mod.freeNat_memOk
    | apply Mod.count_memOk | apply Mod.raiseCause_memOk | apply Mod.extend_memOk | apply Mod.mirror_memOk
    | apply Mod.trace__memOk | apply ite_memOk | (simp only [↓memOk_mk]; refine ⟨?_, ?_, ?_⟩)

theorem Mod.addOpen_memOk (m : Mod) (r : LogRec) (hm : m.memOk) :
    (m.addOpen r).memOk := by
  unfold Mod.addOpen
  repeat' with_reducible first
    | assumption | apply Mod.freeNat_memOk | apply Mod.addLog_memOk

theorem Mod.updJob_memOk (m : Mod) (id : Nat) (f : Job → Job) (hm : m.memOk) :
    (m.updJob id f).memOk := by
  unfold Mod.updJob
  repeat' with_reducible first
    | assumption | apply memOk_wf | apply memOk_tierC | apply memOk_sessions
    | (simp only [↓memOk_mk]; refine ⟨?_, ?_, ?_⟩)

theorem Mod.countJob_memOk (m : Mod) (id : Nat) (k : Ctr) (n : Nat) (hm : m.memOk) :
    (m.countJob id k n).memOk := by
  unfold Mod.countJob
  repeat' with_reducible first
    | assumption | apply Mod.updJob_memOk | apply ite_memOk

theorem Mod.turnAway_memOk (m : Mod) (b : Bounced) (hm : m.memOk) :
    (m.turnAway b).memOk := by
  unfold Mod.turnAway
  repeat' with_reducible first
    | assumption | apply Mod.emit_memOk | apply ite_memOk

theorem Mod.updLane_memOk (m : Mod) (l : Lane) (f : LaneState → LaneState) (hm : m.memOk) :
    (m.updLane l f).memOk := by
  unfold Mod.updLane
  repeat' with_reducible first
    | assumption | apply memOk_wf | apply memOk_tierC | apply memOk_sessions
    | (simp only [↓memOk_mk]; refine ⟨?_, ?_, ?_⟩)

theorem Mod.updRunning_memOk (m : Mod) (l : Lane) (f : Running → Running) (hm : m.memOk) :
    (m.updRunning l f).memOk := by
  unfold Mod.updRunning
  repeat' with_reducible first
    | assumption | apply Mod.updLane_memOk

theorem Mod.setWork_memOk (m : Mod) (l : Lane) (w : Work) (hm : m.memOk) :
    (m.setWork l w).memOk := by
  unfold Mod.setWork
  repeat' with_reducible first
    | assumption | apply Mod.updRunning_memOk

theorem Mod.updSum_memOk (m : Mod) (l : Lane) (f : Summary → Summary) (hm : m.memOk) :
    (m.updSum l f).memOk := by
  unfold Mod.updSum
  repeat' with_reducible first
    | assumption | apply Mod.updRunning_memOk

theorem Mod.wakeUnit_memOk (m : Mod) (u : UnitRef) (hm : m.memOk) :
    (m.wakeUnit u).memOk := by
  unfold Mod.wakeUnit
  repeat' with_reducible first
    | assumption | apply memOk_wf | apply memOk_tierC | apply memOk_sessions | apply ite_memOk
    | (simp only [↓memOk_mk]; refine ⟨?_, ?_, ?_⟩)

theorem Mod.updSession_memOk (m : Mod) (sid : Nat) (f : Session → Session) (h : m.memOk)
    (hf : ∀ s : Session, s.staging.wf → (f s).staging.wf) : (m.updSession sid f).memOk := by
  refine ⟨h.1, h.2.1, ?_⟩
  intro s hs
  obtain ⟨x, hx, rfl⟩ := List.mem_map.mp hs
  have := h.2.2 x hx
  split
  · exact hf x this
  · exact this

theorem Mod.setTie_memOk (m : Mod) (t : Tie) (hm : m.memOk) :
    (m.setTie t).memOk := by
  unfold Mod.setTie
  repeat' with_reducible first
    | assumption | apply memOk_wf | apply memOk_tierC | apply memOk_sessions
    | (simp only [↓memOk_mk]; refine ⟨?_, ?_, ?_⟩)

theorem Mod.dropWaiters_memOk (m : Mod) (id : CmdId) (hm : m.memOk) :
    (m.dropWaiters id).1.memOk := by
  unfold Mod.dropWaiters
  repeat' with_reducible first
    | assumption | apply memOk_wf | apply memOk_tierC | apply memOk_sessions
    | (simp only [↓memOk_mk]; refine ⟨?_, ?_, ?_⟩)

theorem Mod.sendReply_memOk (m : Mod) (sid : Nat) (quiet : Bool) (r : Reply) (hm : m.memOk) :
    (m.sendReply sid quiet r).memOk := by
  unfold Mod.sendReply
  repeat' with_reducible first
    | assumption | apply Mod.emit_memOk | apply Mod.updSession_memOk | apply ite_memOk | exact fun _ h => h | split

theorem Mod.storeReply_memOk (m : Mod) (l : Lane) (r : Reply) (hm : m.memOk) :
    (m.storeReply l r).memOk := by
  unfold Mod.storeReply
  repeat' with_reducible first
    | assumption | apply Mod.updLane_memOk

theorem Mod.finish_memOk (m : Mod) (id : CmdId) (st : Status) (detail : Nat) (payload : Bytes) (hm : m.memOk) :
    (m.finish id st detail payload).1.memOk := by
  unfold Mod.finish
  repeat' with_reducible first
    | assumption | apply memOk_wf | apply memOk_tierC | apply memOk_sessions | apply Mod.wakeThreads_memOk
    | apply Mod.trace__memOk | apply Mod.updJob_memOk | apply Mod.updLane_memOk | apply Mod.dropWaiters_memOk
    | apply Mod.letGo_memOk | apply Mod.sendReply_memOk | apply Mod.storeReply_memOk | (simp only [↓memOk_mk]; refine ⟨?_, ?_, ?_⟩) | split

theorem Mod.release_memOk (m : Mod) (ref : Nat) (w : Waiter) (value : Nat) (hm : m.memOk) :
    (m.release ref w value).1.memOk := by
  unfold Mod.release
  repeat' with_reducible first
    | assumption | apply memOk_wf | apply memOk_tierC | apply memOk_sessions | apply Mod.wakeThread_memOk
    | apply Mod.emit_memOk | apply Mod.setWork_memOk | (simp only [↓memOk_mk]; refine ⟨?_, ?_, ?_⟩) | split

theorem Mod.releaseAll_memOk (m : Mod) (ref : Nat) (ws : List (Waiter × Nat)) (h : m.memOk) : (m.releaseAll ref
    ws).1.memOk := by
  induction ws generalizing m with
  | nil => exact h
  | cons w ws ih =>
    obtain ⟨w, v⟩ := w
    unfold Mod.releaseAll
    repeat' with_reducible first
      | assumption | apply ih | apply Mod.release_memOk

theorem Mod.serveTie_memOk (m : Mod) (ref : Nat) (hm : m.memOk) :
    (m.serveTie ref).1.memOk := by
  unfold Mod.serveTie
  repeat' with_reducible first
    | assumption | apply memOk_wf | apply memOk_tierC | apply memOk_sessions | apply Mod.setTie_memOk
    | apply Mod.releaseAll_memOk | (simp only [↓memOk_mk]; refine ⟨?_, ?_, ?_⟩) | split

theorem Mod.addTie_memOk (m : Mod) (ref : Nat) (amount : Int) (hm : m.memOk) :
    (m.addTie ref amount).1.memOk := by
  unfold Mod.addTie
  repeat' with_reducible first
    | assumption | apply memOk_wf | apply memOk_tierC | apply memOk_sessions | apply Mod.countJob_memOk
    | apply Mod.setTie_memOk | (simp only [↓memOk_mk]; refine ⟨?_, ?_, ?_⟩) | split

theorem Mod.settleFuel_memOk (n : Nat) (m : Mod) (ts : List Todo) (h : m.memOk) : (settleFuel n m ts).memOk := by
  induction n generalizing m ts with
  | zero => exact h
  | succ n ih =>
    cases ts with
    | nil => exact h
    | cons t ts =>
    dsimp only [settleFuel]
    repeat' with_reducible first
      | assumption | apply ih | apply Mod.finish_memOk | apply Mod.serveTie_memOk | apply Mod.addTie_memOk | split

theorem Mod.settle_memOk (m : Mod) (ts : List Todo) (hm : m.memOk) :
    (m.settle ts).memOk := by
  unfold Mod.settle
  repeat' with_reducible first
    | assumption | apply Mod.settleFuel_memOk

theorem Mod.complete_memOk (m : Mod) (id : CmdId) (st : Status) (detail : Nat) (payload : Bytes) (hm : m.memOk) :
    (m.complete id st detail payload).memOk := by
  unfold Mod.complete
  repeat' with_reducible first
    | assumption | apply Mod.settle_memOk

theorem Mod.completeAll_memOk (m : Mod) (ids : List CmdId) (st : Status) (detail : Nat) (hm : m.memOk) :
    (m.completeAll ids st detail).memOk := by
  unfold Mod.completeAll
  repeat' with_reducible first
    | assumption | apply Mod.settle_memOk

theorem Mod.signalTie_memOk (m : Mod) (ref : Nat) (amount : Int) (hm : m.memOk) :
    (m.signalTie ref amount).memOk := by
  unfold Mod.signalTie
  repeat' with_reducible first
    | assumption | apply Mod.settle_memOk | apply ite_memOk

theorem Mod.addWaiter_memOk (m : Mod) (ref : Nat) (w : Waiter) (hm : m.memOk) :
    (m.addWaiter ref w).memOk := by
  unfold Mod.addWaiter
  repeat' with_reducible first
    | assumption | apply Mod.setTie_memOk | apply Mod.settle_memOk | split

theorem Mod.removeWaiter_memOk (m : Mod) (ref : Nat) (who : WaiterId) (hm : m.memOk) :
    (m.removeWaiter ref who).memOk := by
  unfold Mod.removeWaiter
  repeat' with_reducible first
    | assumption | apply Mod.setTie_memOk | apply Mod.settle_memOk | split

theorem Mod.abandonWaiter_memOk (m : Mod) (ref : Nat) (w : Waiter) (hm : m.memOk) :
    (m.abandonWaiter ref w).1.memOk := by
  unfold Mod.abandonWaiter
  repeat' with_reducible first
    | assumption | apply memOk_wf | apply memOk_tierC | apply memOk_sessions | apply Mod.wakeThread_memOk
    | apply Mod.emit_memOk | (simp only [↓memOk_mk]; refine ⟨?_, ?_, ?_⟩) | split

theorem Mod.abandonTies_memOk (m : Mod) (p : Tie → Bool) (hm : m.memOk) :
    (m.abandonTies p).memOk := by
  unfold Mod.abandonTies
  repeat' with_reducible first
    | assumption | apply memOk_wf | apply memOk_tierC | apply memOk_sessions | apply Mod.settle_memOk
    | apply Mod.abandonWaiter_memOk | apply foldl_fst_memOk | (simp only [↓memOk_mk]; refine ⟨?_, ?_, ?_⟩)
    | (intro _ _ _; try dsimp only)

theorem Mod.initTies_memOk (m : Mod) (p : Plan) (hm : m.memOk) :
    (m.initTies p).memOk := by
  unfold Mod.initTies
  repeat' with_reducible first
    | assumption | apply memOk_wf | apply memOk_tierC | apply memOk_sessions
    | (simp only [↓memOk_mk]; refine ⟨?_, ?_, ?_⟩)

theorem Mod.renewTies_memOk (m : Mod) (p : Plan) (hm : m.memOk) :
    (m.renewTies p).memOk := by
  unfold Mod.renewTies
  repeat' with_reducible first
    | assumption | apply memOk_wf | apply memOk_tierC | apply memOk_sessions | apply Mod.settle_memOk
    | (simp only [↓memOk_mk]; refine ⟨?_, ?_, ?_⟩)

theorem Mod.startTieSignal_memOk (m : Mod) (id : CmdId) (c : Cmd) (j : Job) (reset : Bool) (hm : m.memOk) :
    (m.startTieSignal id c j reset).memOk := by
  unfold Mod.startTieSignal
  repeat' with_reducible first
    | assumption | apply Mod.sendReq_memOk | apply Mod.countJob_memOk | apply Mod.setWork_memOk
    | apply Mod.setTie_memOk | apply Mod.settle_memOk | apply Mod.complete_memOk | apply ite_memOk | split

theorem Mod.startTieWait_memOk (m : Mod) (id : CmdId) (c : Cmd) (j : Job) (hm : m.memOk) :
    (m.startTieWait id c j).memOk := by
  unfold Mod.startTieWait
  repeat' with_reducible first
    | assumption | apply Mod.sendReq_memOk | apply Mod.setWork_memOk | apply Mod.complete_memOk
    | apply Mod.addWaiter_memOk | apply ite_memOk | split

theorem Mod.startTieDump_memOk (m : Mod) (id : CmdId) (c : Cmd) (hm : m.memOk) :
    (m.startTieDump id c).memOk := by
  unfold Mod.startTieDump
  repeat' with_reducible first
    | assumption | apply Mod.complete_memOk

theorem Mod.farSignal_memOk (m : Mod) (f : FarMsg) (hm : m.memOk) :
    (m.farSignal f).memOk := by
  unfold Mod.farSignal
  repeat' with_reducible first
    | assumption | apply memOk_wf | apply memOk_tierC | apply memOk_sessions | apply Mod.count_memOk
    | apply Mod.emit_memOk | apply Mod.countJob_memOk | apply Mod.turnAway_memOk | apply Mod.setTie_memOk
    | apply Mod.settle_memOk | apply ite_memOk | (simp only [↓memOk_mk]; refine ⟨?_, ?_, ?_⟩) | split

theorem Mod.farWait_memOk (m : Mod) (f : FarMsg) (hm : m.memOk) :
    (m.farWait f).memOk := by
  unfold Mod.farWait
  repeat' with_reducible first
    | assumption | apply memOk_wf | apply memOk_tierC | apply memOk_sessions | apply Mod.count_memOk
    | apply Mod.emit_memOk | apply Mod.turnAway_memOk | apply Mod.addWaiter_memOk | apply ite_memOk
    | (simp only [↓memOk_mk]; refine ⟨?_, ?_, ?_⟩) | split

theorem Mod.farWithdraw_memOk (m : Mod) (f : FarMsg) (hm : m.memOk) :
    (m.farWithdraw f).memOk := by
  unfold Mod.farWithdraw
  repeat' with_reducible first
    | assumption | apply memOk_wf | apply memOk_tierC | apply memOk_sessions | apply Mod.count_memOk
    | apply Mod.emit_memOk | apply Mod.removeWaiter_memOk | apply ite_memOk
    | (simp only [↓memOk_mk]; refine ⟨?_, ?_, ?_⟩) | split

theorem Mod.farReleased_memOk (m : Mod) (id : CmdId) (value : Nat) (hm : m.memOk) :
    (m.farReleased id value).memOk := by
  unfold Mod.farReleased
  repeat' with_reducible first
    | assumption | apply Mod.countJob_memOk | apply Mod.complete_memOk | split

theorem Mod.farAnswered_memOk (m : Mod) (id : CmdId) (a : FarAnswer) (hm : m.memOk) :
    (m.farAnswered id a).memOk := by
  unfold Mod.farAnswered
  repeat' with_reducible first
    | assumption | apply Mod.setWork_memOk | apply Mod.complete_memOk | split

theorem Mod.farRetried_memOk (m : Mod) (id : CmdId) (hm : m.memOk) :
    (m.farRetried id).memOk := by
  unfold Mod.farRetried
  repeat' with_reducible first
    | assumption | apply Mod.sendReq_memOk | apply Mod.countJob_memOk | apply Mod.setWork_memOk | apply ite_memOk | split

theorem Mod.farUndecided_memOk (m : Mod) (id : CmdId) (hm : m.memOk) :
    (m.farUndecided id).memOk := by
  unfold Mod.farUndecided
  repeat' with_reducible first
    | assumption | apply Mod.complete_memOk | apply ite_memOk | split

theorem Mod.cross_memOk (m : Mod) (ls : List Link) (hm : m.memOk) :
    (m.cross ls).1.memOk := by
  unfold Mod.cross
  repeat' with_reducible first
    | assumption | apply memOk_wf | apply memOk_tierC | apply memOk_sessions
    | (simp only [↓memOk_mk]; refine ⟨?_, ?_, ?_⟩)

theorem Mod.crossFor_memOk (m : Mod) (c : Cmd) (locs : List Nat) (hm : m.memOk) :
    (m.crossFor c locs).1.memOk := by
  unfold Mod.crossFor
  repeat' with_reducible first
    | assumption | apply memOk_wf | apply memOk_tierC | apply memOk_sessions | apply Mod.addOpen_memOk
    | apply Mod.cross_memOk | refine fst_memOk ‹_ = (_, _)› ?_ | (simp only [↓memOk_mk]; refine ⟨?_, ?_, ?_⟩) | split

end Sys2Proof.Machine
end

