-- ==== Sys2Proof/Laws/MemOkData.lean ====
section
/-!
SUPPORT. The canonical form of the memories (`Mod.memOk`) is kept by
bodies, pools, transfers, the vector unit, the data commands, the arrays and residency: one lemma per operation, named after it, for callers to cite in place of unfolding it.
-/

namespace Sys2Proof.Machine

set_option linter.unusedSimpArgs false
set_option linter.unusedTactic false
set_option linter.unreachableTactic false

theorem Mod.issueTray_memOk (m : Mod) (j : Job) (id : CmdId) (op : TrayOp) (size : Nat) (fetch : Bool) (addr : Nat)
    (operand : Bytes) (into : Option Nat) (hm : m.memOk) :
    (m.issueTray j id op size fetch addr operand into).memOk := by
  unfold Mod.issueTray
  repeat' with_reducible first
    | assumption | apply memOk_wf | apply memOk_tierC | apply memOk_sessions | apply Mod.sendReq_memOk
    | (simp only [↓memOk_mk]; refine ⟨?_, ?_, ?_⟩)

theorem Mod.flushBlocks_memOk (m : Mod) (job : Nat) (p : GatewayBlock → Bool) (hm : m.memOk) :
    (m.flushBlocks job p).memOk := by
  unfold Mod.flushBlocks
  repeat' with_reducible first
    | assumption | apply memOk_wf | apply memOk_tierC | apply memOk_sessions | apply Mod.count_memOk
    | apply Mod.sendReq_memOk | apply Mod.updJob_memOk | apply foldl_memOk
    | (simp only [↓memOk_mk]; refine ⟨?_, ?_, ?_⟩) | (intro _ _ _; try dsimp only) | split

theorem Mod.parkCommand_memOk (m : Mod) (j : Job) (id : CmdId) (hm : m.memOk) :
    (m.parkCommand j id).memOk := by
  unfold Mod.parkCommand
  repeat' with_reducible first
    | assumption | apply Mod.parkThread_memOk | apply foldl_memOk | (intro _ _ _; try dsimp only) | split

theorem Mod.ask_memOk (m : Mod) (j : Job) (id : CmdId) (locs : List Nat) (hm : m.memOk) :
    (m.ask j id locs).memOk := by
  unfold Mod.ask
  repeat' with_reducible first
    | assumption | apply Mod.count_memOk | apply Mod.sendReq_memOk | apply Mod.updJob_memOk
    | apply Mod.issueTray_memOk | apply Mod.flushBlocks_memOk | apply Mod.parkCommand_memOk | apply foldl_memOk
    | (intro _ _ _; try dsimp only) | split

theorem Mod.logRead_memOk (m : Mod) (a : Nat) (lost : Option Nat) (c : Option Cmd) (hm : m.memOk) :
    (m.logRead a lost c).memOk := by
  unfold Mod.logRead
  repeat' with_reducible first
    | assumption | apply Mod.addLog_memOk

theorem Mod.countOwner_memOk (m : Mod) (a : Nat) (k : Ctr) (hm : m.memOk) :
    (m.countOwner a k).memOk := by
  unfold Mod.countOwner
  repeat' with_reducible first
    | assumption | apply Mod.countJob_memOk | split

theorem Mod.sparesGone_memOk (m : Mod) (r : Nat × Nat) (hm : m.memOk) :
    (m.sparesGone r).memOk := by
  unfold Mod.sparesGone
  repeat' with_reducible first
    | assumption | apply Mod.raiseCause_memOk | apply Mod.addLog_memOk | apply ite_memOk

theorem Mod.moveRow_memOk (m : Mod) (a : Nat) (hm : m.memOk) :
    (m.moveRow a).memOk := by
  unfold Mod.moveRow
  repeat' with_reducible first
    | assumption | apply memOk_wf | apply memOk_tierC | apply memOk_sessions | apply Mod.count_memOk
    | apply Mod.addLog_memOk | apply Mod.countOwner_memOk | apply Mod.sparesGone_memOk | apply ite_memOk
    | (simp only [↓memOk_mk]; refine ⟨?_, ?_, ?_⟩) | split

theorem Mod.touchBlocks_memOk (m : Mod) (job : Nat) (locs : List Nat) (hm : m.memOk) :
    (m.touchBlocks job locs).memOk := by
  unfold Mod.touchBlocks
  repeat' with_reducible first
    | assumption | apply Mod.updJob_memOk | apply ite_memOk

theorem Mod.checkLocal_memOk (m : Mod) (c : Option Cmd) (locs : List Nat) (hm : m.memOk) :
    (m.checkLocal c locs).1.memOk := by
  unfold Mod.checkLocal
  repeat' with_reducible first
    | assumption | apply memOk_wf | apply memOk_tierC | apply memOk_sessions | apply Mod.scrubWords_memOk
    | apply Mod.crossFor_memOk | apply Mod.logRead_memOk | apply Mod.moveRow_memOk | apply Mod.touchBlocks_memOk
    | (simp only [↓memOk_mk]; refine ⟨?_, ?_, ?_⟩) | dsimp only | split

theorem Mod.checkWrite_memOk (m : Mod) (c : Option Cmd) (locs : List Nat) (hm : m.memOk) :
    (m.checkWrite c locs).1.memOk := by
  unfold Mod.checkWrite
  repeat' with_reducible first
    | assumption | apply Mod.logRead_memOk | split

theorem Mod.checkAccess_memOk (m : Mod) (c : Option Cmd) (reads writes : List Nat) (hm : m.memOk) :
    (m.checkAccess c reads writes).1.memOk := by
  unfold Mod.checkAccess
  repeat' with_reducible first
    | assumption | apply memOk_wf | apply memOk_tierC | apply memOk_sessions | apply Mod.checkLocal_memOk
    | apply Mod.checkWrite_memOk | (simp only [↓memOk_mk]; refine ⟨?_, ?_, ?_⟩) | dsimp only | split

theorem Mod.noteReads_memOk (m : Mod) (id : CmdId) (job : Nat) (sweep : Bool) (locs : List Nat) (hm : m.memOk) :
    (m.noteReads id job sweep locs).memOk := by
  unfold Mod.noteReads
  repeat' with_reducible first
    | assumption | apply memOk_wf | apply memOk_tierC | apply memOk_sessions
    | (simp only [↓memOk_mk]; refine ⟨?_, ?_, ?_⟩)

theorem Mod.stageByte_memOk (m : Mod) (job : Nat) (lane : Lane) (a : Nat) (v : Byte) (hm : m.memOk) :
    (m.stageByte job lane a v).memOk := by
  unfold Mod.stageByte
  repeat' with_reducible first
    | assumption | apply memOk_wf | apply memOk_tierC | apply memOk_sessions | apply Mod.updJob_memOk
    | apply Mod.flushBlocks_memOk | apply ite_memOk | (simp only [↓memOk_mk]; refine ⟨?_, ?_, ?_⟩) | split

theorem Mod.land_memOk (m : Mod) (j : Job) (id : CmdId) (rd : Nat → Byte) (ws : List (Nat × Byte)) (hm : m.memOk) :
    (m.land j id rd ws).memOk := by
  unfold Mod.land
  repeat' with_reducible first
    | assumption | apply Mod.store_memOk | apply Mod.issueTray_memOk | apply Mod.stageByte_memOk | apply foldl_memOk
    | (intro _ _ _; try dsimp only)

theorem Mod.tally_memOk (m : Mod) (id : CmdId) (job : Nat) (e : Effect) (hm : m.memOk) :
    (m.tally id job e).memOk := by
  unfold Mod.tally
  repeat' with_reducible first
    | assumption | apply Mod.countJob_memOk | apply Mod.updSum_memOk | apply foldl_memOk
    | (intro _ _ _; try dsimp only)

theorem Mod.runEffect_memOk (m : Mod) (id : CmdId) (r : Running) (j : Job) (got : List (Nat × Byte)) (body : (Nat →
    Byte) → Effect) (hm : m.memOk) :
    Ran.memOk (m.runEffect id r j got body) := by
  unfold Mod.runEffect
  repeat' with_reducible first
    | assumption | apply Mod.setWork_memOk | apply Mod.updSum_memOk | apply Mod.ask_memOk
    | apply Mod.checkAccess_memOk | apply Mod.noteReads_memOk | apply Mod.land_memOk | apply Mod.tally_memOk
    | apply Ran.waits_memOk | apply Ran.failed_memOk | apply Ran.wrote_memOk | dsimp only | split

theorem Mod.endBody_memOk (m : Mod) (id : CmdId) (got : List (Nat × Byte)) (payload : Bytes) (hm : m.memOk) :
    (m.endBody id got payload).memOk := by
  unfold Mod.endBody
  repeat' with_reducible first
    | assumption | apply memOk_wf | apply memOk_tierC | apply memOk_sessions | apply Mod.setWork_memOk
    | apply Mod.complete_memOk | apply ite_memOk | (simp only [↓memOk_mk]; refine ⟨?_, ?_, ?_⟩) | split

theorem Mod.segmentSignal_memOk (m : Mod) (c : Cmd) (bad : Bool) (hm : m.memOk) :
    (m.segmentSignal c bad).memOk := by
  unfold Mod.segmentSignal
  repeat' with_reducible first
    | assumption | apply Mod.signalTie_memOk | apply ite_memOk

theorem Mod.updCell_memOk (m : Mod) (job pool place cls : Nat) (f : PoolCell → PoolCell) (hm : m.memOk) :
    (m.updCell job pool place cls f).memOk := by
  unfold Mod.updCell
  repeat' with_reducible first
    | assumption | apply memOk_wf | apply memOk_tierC | apply memOk_sessions
    | (simp only [↓memOk_mk]; refine ⟨?_, ?_, ?_⟩)

theorem Mod.poolRequest_memOk (m : Mod) (job pool place cls n r0 requester : Nat) (head : Bool) (hm : m.memOk) :
    (m.poolRequest job pool place cls n r0 requester head).1.memOk := by
  unfold Mod.poolRequest
  repeat' with_reducible first
    | assumption | apply memOk_wf | apply memOk_tierC | apply memOk_sessions | apply Mod.updCell_memOk
    | (simp only [↓memOk_mk]; refine ⟨?_, ?_, ?_⟩) | dsimp only | split

theorem Mod.logMisuse_memOk (m : Mod) (job : Nat) (unit : UnitRef) (sub : Nat) (hm : m.memOk) :
    (m.logMisuse job unit sub).memOk := by
  unfold Mod.logMisuse
  repeat' with_reducible first
    | assumption | apply Mod.addLog_memOk

theorem Mod.poolRelease_memOk (m : Mod) (job pool place cls index : Nat) (hm : m.memOk) :
    (m.poolRelease job pool place cls index).memOk := by
  unfold Mod.poolRelease
  repeat' with_reducible first
    | assumption | apply memOk_wf | apply memOk_tierC | apply memOk_sessions | apply Mod.countJob_memOk
    | apply Mod.updCell_memOk | apply Mod.logMisuse_memOk | apply ite_memOk
    | (simp only [↓memOk_mk]; refine ⟨?_, ?_, ?_⟩) | split

theorem Mod.poolAddRef_memOk (m : Mod) (job pool place cls index d : Nat) (hm : m.memOk) :
    (m.poolAddRef job pool place cls index d).memOk := by
  unfold Mod.poolAddRef
  repeat' with_reducible first
    | assumption | apply Mod.countJob_memOk | apply Mod.updCell_memOk | apply ite_memOk | split

theorem Mod.poolReleaseAll_memOk (m : Mod) (job pool place cls : Nat) (ws : List Nat) (hm : m.memOk) :
    (m.poolReleaseAll job pool place cls ws).memOk := by
  unfold Mod.poolReleaseAll
  repeat' with_reducible first
    | assumption | apply Mod.poolRelease_memOk | apply foldl_memOk | (intro _ _ _; try dsimp only)

theorem Mod.freePlaces_memOk (m : Mod) (p : Nat → Bool) (hm : m.memOk) :
    (m.freePlaces p).memOk := by
  unfold Mod.freePlaces
  repeat' with_reducible first
    | assumption | apply memOk_wf | apply memOk_tierC | apply memOk_sessions
    | (simp only [↓memOk_mk]; refine ⟨?_, ?_, ?_⟩)

theorem Mod.initPools_memOk (m : Mod) (p : Plan) (hm : m.memOk) :
    (m.initPools p).memOk := by
  unfold Mod.initPools
  repeat' with_reducible first
    | assumption | apply memOk_wf | apply memOk_tierC | apply memOk_sessions
    | (simp only [↓memOk_mk]; refine ⟨?_, ?_, ?_⟩)

theorem Mod.dropPools_memOk (m : Mod) (job : Nat) (hm : m.memOk) :
    (m.dropPools job).memOk := by
  unfold Mod.dropPools
  repeat' with_reducible first
    | assumption | apply memOk_wf | apply memOk_tierC | apply memOk_sessions
    | (simp only [↓memOk_mk]; refine ⟨?_, ?_, ?_⟩)

theorem Mod.startPoolConfig_memOk (m : Mod) (id : CmdId) (c : Cmd) (hm : m.memOk) :
    (m.startPoolConfig id c).memOk := by
  unfold Mod.startPoolConfig
  repeat' with_reducible first
    | assumption | apply memOk_wf | apply memOk_tierC | apply memOk_sessions | apply Mod.complete_memOk
    | (simp only [↓memOk_mk]; refine ⟨?_, ?_, ?_⟩)

theorem Mod.startPoolStat_memOk (m : Mod) (id : CmdId) (c : Cmd) (requesters : Bool) (hm : m.memOk) :
    (m.startPoolStat id c requesters).memOk := by
  unfold Mod.startPoolStat
  repeat' with_reducible first
    | assumption | apply Mod.complete_memOk

theorem Mod.endSplit_memOk (m : Mod) (id : CmdId) (rows : Nat) (hm : m.memOk) :
    (m.endSplit id rows).memOk := by
  unfold Mod.endSplit
  repeat' with_reducible first
    | assumption | apply memOk_wf | apply memOk_tierC | apply memOk_sessions | apply Mod.setWork_memOk
    | apply Mod.complete_memOk | apply Mod.segmentSignal_memOk | apply foldl_memOk | apply ite_memOk
    | (simp only [↓memOk_mk]; refine ⟨?_, ?_, ?_⟩) | (intro _ _ _; try dsimp only) | split

theorem Mod.oweSplit_memOk (m : Mod) (id : CmdId) (x : Data) (rd : Nat → Byte) (e : Effect) (hm : m.memOk) :
    (m.oweSplit id x rd e).memOk := by
  unfold Mod.oweSplit
  repeat' with_reducible first
    | assumption | apply Mod.updRunning_memOk

theorem Mod.payOwed_memOk (m : Mod) (id : CmdId) (hm : m.memOk) :
    (m.payOwed id).memOk := by
  unfold Mod.payOwed
  repeat' with_reducible first
    | assumption | apply memOk_wf | apply memOk_tierC | apply memOk_sessions | apply Mod.countJob_memOk
    | apply Mod.updRunning_memOk | apply foldl_memOk | (simp only [↓memOk_mk]; refine ⟨?_, ?_, ?_⟩)
    | (intro _ _ _; try dsimp only) | split

theorem Mod.stageSplit_memOk (m : Mod) (id : CmdId) (x : Data) (rd : Nat → Byte) (e : Effect) (hm : m.memOk) :
    (m.stageSplit id x rd e).memOk := by
  unfold Mod.stageSplit
  repeat' with_reducible first
    | assumption | apply memOk_wf | apply memOk_tierC | apply memOk_sessions | apply Mod.countJob_memOk
    | apply Mod.setWork_memOk | apply Mod.complete_memOk | apply Mod.poolRequest_memOk | apply Mod.endSplit_memOk
    | apply Mod.oweSplit_memOk | apply Mod.payOwed_memOk | refine fst_memOk ‹_ = (_, _)› ?_ | apply foldl_fst_memOk
    | apply ite_memOk | (simp only [↓memOk_mk]; refine ⟨?_, ?_, ?_⟩) | (intro _ _ _; try dsimp only) | split

theorem Mod.partStaged_memOk (m : Mod) (id : CmdId) (part status : Nat) (hm : m.memOk) :
    (m.partStaged id part status).memOk := by
  unfold Mod.partStaged
  repeat' with_reducible first
    | assumption | apply memOk_wf | apply memOk_tierC | apply memOk_sessions | apply Mod.countJob_memOk
    | apply Mod.setWork_memOk | apply Mod.complete_memOk | apply ite_memOk
    | (simp only [↓memOk_mk]; refine ⟨?_, ?_, ?_⟩) | split

theorem Mod.stagedWrites_memOk (m : Mod) (s : Staged) (hm : m.memOk) : (m.stagedWrites s).2.2.memOk := by
  have key : ∀ (f : List (Nat × Byte) × Counts × Mod → StagedAdd → List (Nat × Byte) × Counts × Mod)
      (hf : ∀ p a, p.2.2.memOk → (f p a).2.2.memOk) (l : List StagedAdd) (p : List (Nat × Byte) × Counts × Mod), p.2.2.memOk →
      (l.foldl f p).2.2.memOk := by
    intro f hf l
    induction l with
    | nil => exact fun _ h => h
    | cons a l ih => exact fun p h => ih _ (hf p a h)
  unfold Mod.stagedWrites
  refine key _ ?_ _ _ hm
  intro p a h
  dsimp only
  split
  · exact Mod.freeBytes_memOk _ _ h
  · exact h

theorem Mod.splitCommit_memOk (m : Mod) (id : CmdId) (part : Nat) (hm : m.memOk) :
    (m.splitCommit id part).memOk := by
  unfold Mod.splitCommit
  repeat' with_reducible first
    | assumption | apply memOk_wf | apply memOk_tierC | apply memOk_sessions | apply Mod.store_memOk
    | apply Mod.setWork_memOk | apply Mod.updSum_memOk | apply Mod.logRead_memOk | apply Mod.checkLocal_memOk
    | apply Mod.stagedWrites_memOk | apply ite_memOk | (simp only [↓memOk_mk]; refine ⟨?_, ?_, ?_⟩) | split

theorem Mod.freeStaged_memOk (m : Mod) (id : CmdId) (part : Nat) (hm : m.memOk) :
    (m.freeStaged id part).memOk := by
  unfold Mod.freeStaged
  repeat' with_reducible first
    | assumption | apply memOk_wf | apply memOk_tierC | apply memOk_sessions | apply Mod.poolReleaseAll_memOk
    | apply ite_memOk | (simp only [↓memOk_mk]; refine ⟨?_, ?_, ?_⟩) | split

theorem Mod.splitAbort_memOk (m : Mod) (id : CmdId) (part : Nat) (hm : m.memOk) :
    (m.splitAbort id part).memOk := by
  unfold Mod.splitAbort
  repeat' with_reducible first
    | assumption | apply Mod.freeStaged_memOk | apply ite_memOk | split

theorem Mod.commitAck_memOk (m : Mod) (id : CmdId) (part : Nat) (hm : m.memOk) :
    (m.commitAck id part).memOk := by
  unfold Mod.commitAck
  repeat' with_reducible first
    | assumption | apply memOk_wf | apply memOk_tierC | apply memOk_sessions | apply Mod.setWork_memOk
    | apply Mod.complete_memOk | apply Mod.endSplit_memOk | apply Mod.payOwed_memOk | apply Mod.freeStaged_memOk
    | apply ite_memOk | (simp only [↓memOk_mk]; refine ⟨?_, ?_, ?_⟩) | split

theorem Mod.splitTimeout_memOk (m : Mod) (id : CmdId) (hm : m.memOk) :
    (m.splitTimeout id).memOk := by
  unfold Mod.splitTimeout
  repeat' with_reducible first
    | assumption | apply memOk_wf | apply memOk_tierC | apply memOk_sessions | apply Mod.countJob_memOk
    | apply Mod.complete_memOk | apply Mod.payOwed_memOk | apply Mod.splitCommit_memOk | apply Mod.freeStaged_memOk
    | apply foldl_memOk | apply ite_memOk | (simp only [↓memOk_mk]; refine ⟨?_, ?_, ?_⟩)
    | (intro _ _ _; try dsimp only) | split

theorem Mod.finishCommits_memOk (m : Mod) (hm : m.memOk) :
    (m.finishCommits).memOk := by
  unfold Mod.finishCommits
  repeat' with_reducible first
    | assumption | apply memOk_wf | apply memOk_tierC | apply memOk_sessions | apply Mod.store_memOk
    | apply foldl_memOk | (simp only [↓memOk_mk]; refine ⟨?_, ?_, ?_⟩) | (intro _ _ _; try dsimp only)

theorem Mod.trayDo_memOk (m : Mod) (op : TrayOp) (n : Nat) (addr : Nat) (operand : Bytes) (hm : m.memOk) :
    (m.trayDo op n addr operand).2.memOk := by
  unfold Mod.trayDo
  repeat' with_reducible first
    | assumption | apply memOk_wf | apply memOk_tierC | apply memOk_sessions | apply Mod.store_memOk
    | (simp only [↓memOk_mk]; refine ⟨?_, ?_, ?_⟩) | dsimp only | split

theorem Mod.trayNodes_memOk (m : Mod) (id : CmdId) (j : Job) (x : Data) (got : List (Nat × Byte)) (n : Nat) (l : List
    (List Nat)) (h : m.memOk) : (m.trayNodes id j x got n l).1.memOk := by
  induction n generalizing m got l with
  | zero => exact h
  | succ n ih =>
    cases l with
    | nil => exact h
    | cons t ts =>
    dsimp only [Mod.trayNodes]
    repeat' with_reducible first
      | assumption | apply ih | apply Mod.issueTray_memOk | apply Mod.ask_memOk | apply Mod.touchBlocks_memOk
      | apply Mod.stageByte_memOk | apply Mod.trayDo_memOk | apply foldl_memOk | (intro _ _ _; try dsimp only) | split

theorem Mod.setArray_memOk (m : Mod) (s : ArrayState) (hm : m.memOk) :
    (m.setArray s).memOk := by
  unfold Mod.setArray
  repeat' with_reducible first
    | assumption | apply memOk_wf | apply memOk_tierC | apply memOk_sessions
    | (simp only [↓memOk_mk]; refine ⟨?_, ?_, ?_⟩)

theorem Mod.onGang_memOk (m : Mod) (w : PassWord) (a : Nat) (f : ArrayState → ArrayState) (hm : m.memOk) :
    (m.onGang w a f).memOk := by
  unfold Mod.onGang
  repeat' with_reducible first
    | assumption | apply Mod.setArray_memOk | apply foldl_memOk | (intro _ _ _; try dsimp only)

theorem Mod.dropPasses_memOk (m : Mod) (p : PassWord → Bool) (hm : m.memOk) :
    (m.dropPasses p).memOk := by
  unfold Mod.dropPasses
  repeat' with_reducible first
    | assumption | apply memOk_wf | apply memOk_tierC | apply memOk_sessions
    | (simp only [↓memOk_mk]; refine ⟨?_, ?_, ?_⟩)

theorem Mod.dropCommand_memOk (m : Mod) (id : CmdId) (hm : m.memOk) :
    (m.dropCommand id).memOk := by
  unfold Mod.dropCommand
  repeat' with_reducible first
    | assumption | apply Mod.dropPasses_memOk

theorem Mod.keepBytes_memOk (m : Mod) (id : CmdId) (got : List (Nat × Byte)) (hm : m.memOk) :
    (m.keepBytes id got).memOk := by
  unfold Mod.keepBytes
  repeat' with_reducible first
    | assumption | apply Mod.updRunning_memOk

theorem Mod.vexprNodes_memOk (m : Mod) (id : CmdId) (x : Data) (lo hi : Nat) (hm : m.memOk) :
    (m.vexprNodes id x lo hi).1.memOk := by
  unfold Mod.vexprNodes
  repeat' with_reducible first
    | assumption | apply memOk_wf | apply memOk_tierC | apply memOk_sessions | apply Mod.trayNodes_memOk
    | (simp only [↓memOk_mk]; refine ⟨?_, ?_, ?_⟩) | split

theorem Mod.runRows_memOk (m : Mod) (id : CmdId) (x : Data) (lo hi : Nat) (hm : m.memOk) :
    Ran.memOk (m.runRows id x lo hi) := by
  unfold Mod.runRows
  repeat' with_reducible first
    | assumption | apply Mod.updRunning_memOk | apply Mod.setWork_memOk | apply Mod.runEffect_memOk
    | apply Mod.keepBytes_memOk | apply Mod.vexprNodes_memOk | refine Ran.memOk_waits ‹_ = Ran.waits _› ?_
    | refine Ran.memOk_failed ‹_ = Ran.failed _ _ _ _› ?_ | refine Ran.memOk_wrote ‹_ = Ran.wrote _› ?_
    | apply Ran.waits_memOk | apply Ran.failed_memOk | apply Ran.wrote_memOk | dsimp only | split

theorem Mod.leaves_memOk (m : Mod) (x : Data) (hm : m.memOk) :
    (m.leaves x).memOk := by
  unfold Mod.leaves
  repeat' with_reducible first
    | assumption | apply Mod.updJob_memOk | apply Mod.countJob_memOk | apply ite_memOk

theorem Mod.nextSegment_memOk (m : Mod) (id : CmdId) (x : Data) (bad : Bool) (hm : m.memOk) :
    (m.nextSegment id x bad).memOk := by
  unfold Mod.nextSegment
  repeat' with_reducible first
    | assumption | apply Mod.setWork_memOk | apply ite_memOk | split

theorem Mod.endSegment_memOk (m : Mod) (id : CmdId) (x : Data) (hm : m.memOk) :
    (m.endSegment id x).memOk := by
  unfold Mod.endSegment
  repeat' with_reducible first
    | assumption | apply memOk_wf | apply memOk_tierC | apply memOk_sessions | apply Mod.setWork_memOk
    | apply Mod.complete_memOk | apply Mod.segmentSignal_memOk | apply Mod.leaves_memOk | apply Mod.nextSegment_memOk
    | apply ite_memOk | (simp only [↓memOk_mk]; refine ⟨?_, ?_, ?_⟩) | split

theorem Mod.runSegment_memOk (m : Mod) (id : CmdId) (r : Running) (x : Data) (hm : m.memOk) :
    (m.runSegment id r x).memOk := by
  unfold Mod.runSegment
  repeat' with_reducible first
    | assumption | apply memOk_wf | apply memOk_tierC | apply memOk_sessions | apply Mod.complete_memOk
    | apply Mod.runRows_memOk | apply Mod.endSegment_memOk | refine Ran.memOk_waits ‹_ = Ran.waits _› ?_
    | refine Ran.memOk_failed ‹_ = Ran.failed _ _ _ _› ?_ | refine Ran.memOk_wrote ‹_ = Ran.wrote _› ?_
    | (simp only [↓memOk_mk]; refine ⟨?_, ?_, ?_⟩) | dsimp only | split

theorem Mod.segmentComplete_memOk (m : Mod) (lane : Lane) (hm : m.memOk) :
    (m.segmentComplete lane).memOk := by
  unfold Mod.segmentComplete
  repeat' with_reducible first
    | assumption | apply memOk_wf | apply memOk_tierC | apply memOk_sessions | apply Mod.runSegment_memOk
    | apply ite_memOk | (simp only [↓memOk_mk]; refine ⟨?_, ?_, ?_⟩) | split

theorem Mod.arraySegments_memOk (m : Mod) (id : CmdId) (n : Nat) (h : m.memOk) : (m.arraySegments id n).memOk := by
  induction n generalizing m with
  | zero => exact h
  | succ n ih =>
    dsimp only [Mod.arraySegments]
    repeat' with_reducible first
      | assumption | apply ih | apply Mod.updRunning_memOk | apply Mod.setWork_memOk | apply Mod.complete_memOk
      | apply Mod.dropCommand_memOk | apply Mod.runRows_memOk | apply Mod.endSegment_memOk | apply ite_memOk
      | refine Ran.memOk_waits ‹_ = Ran.waits _› ?_ | refine Ran.memOk_failed ‹_ = Ran.failed _ _ _ _› ?_
      | refine Ran.memOk_wrote ‹_ = Ran.wrote _› ?_ | split

theorem Mod.goArray_memOk (m : Mod) (id : CmdId) (x : Data) (got : List (Nat × Byte)) (hm : m.memOk) :
    (m.goArray id x got).memOk := by
  unfold Mod.goArray
  repeat' with_reducible first
    | assumption | apply memOk_wf | apply memOk_tierC | apply memOk_sessions | apply Mod.setWork_memOk
    | apply Mod.ask_memOk | apply Mod.keepBytes_memOk | apply Mod.arraySegments_memOk
    | (simp only [↓memOk_mk]; refine ⟨?_, ?_, ?_⟩) | dsimp only | split

theorem Mod.goSplit_memOk (m : Mod) (id : CmdId) (x : Data) (got : List (Nat × Byte)) (hm : m.memOk) :
    (m.goSplit id x got).memOk := by
  unfold Mod.goSplit
  repeat' with_reducible first
    | assumption | apply memOk_wf | apply memOk_tierC | apply memOk_sessions | apply Mod.setWork_memOk
    | apply Mod.updSum_memOk | apply Mod.complete_memOk | apply Mod.ask_memOk | apply Mod.checkLocal_memOk
    | apply Mod.stageSplit_memOk | apply Mod.keepBytes_memOk | (simp only [↓memOk_mk]; refine ⟨?_, ?_, ?_⟩)
    | dsimp only | split

theorem Mod.noteTensors_memOk (m : Mod) (id : CmdId) (j : Job) (ts : List Nat) (hm : m.memOk) :
    (m.noteTensors id j ts).memOk := by
  unfold Mod.noteTensors
  repeat' with_reducible first
    | assumption | apply Mod.updJob_memOk | apply Mod.countJob_memOk | apply ite_memOk

theorem Mod.noteCopies_memOk (m : Mod) (id : CmdId) (x : Data) (hm : m.memOk) :
    (m.noteCopies id x).memOk := by
  unfold Mod.noteCopies
  repeat' with_reducible first
    | assumption | apply Mod.noteTensors_memOk

theorem Mod.launch_memOk (m : Mod) (id : CmdId) (x : Data) (got : List (Nat × Byte)) (hm : m.memOk) :
    (m.launch id x got).memOk := by
  unfold Mod.launch
  repeat' with_reducible first
    | assumption | apply Mod.setWork_memOk | apply Mod.runSegment_memOk | apply Mod.goArray_memOk
    | apply Mod.goSplit_memOk | apply ite_memOk | split

theorem Mod.startData_memOk (m : Mod) (id : CmdId) (c : Cmd) (j : Job) (hm : m.memOk) :
    (m.startData id c j).memOk := by
  unfold Mod.startData
  repeat' with_reducible first
    | assumption | apply memOk_wf | apply memOk_tierC | apply memOk_sessions | apply Mod.emit_memOk
    | apply Mod.countJob_memOk | apply Mod.setWork_memOk | apply Mod.complete_memOk | apply Mod.noteCopies_memOk
    | apply Mod.launch_memOk | apply ite_memOk | (simp only [↓memOk_mk]; refine ⟨?_, ?_, ?_⟩) | split

theorem Mod.resumeData_memOk (m : Mod) (id : CmdId) (hm : m.memOk) :
    (m.resumeData id).memOk := by
  unfold Mod.resumeData
  repeat' with_reducible first
    | assumption | apply memOk_wf | apply memOk_tierC | apply memOk_sessions | apply Mod.wakeThreads_memOk
    | apply Mod.endSegment_memOk | apply Mod.arraySegments_memOk | apply Mod.launch_memOk
    | (simp only [↓memOk_mk]; refine ⟨?_, ?_, ?_⟩) | split

theorem Mod.failPass_memOk (m : Mod) (id : CmdId) (st : Status) (d : Nat) (hm : m.memOk) :
    (m.failPass id st d).memOk := by
  unfold Mod.failPass
  repeat' with_reducible first
    | assumption | apply Mod.complete_memOk | apply Mod.dropCommand_memOk

theorem Mod.passEnded_memOk (m : Mod) (id : CmdId) (hm : m.memOk) :
    (m.passEnded id).memOk := by
  unfold Mod.passEnded
  repeat' with_reducible first
    | assumption | apply Mod.setWork_memOk | apply Mod.arraySegments_memOk | split

theorem Mod.mayRun_memOk (m : Mod) (job stake : Nat) (hm : m.memOk) :
    (m.mayRun job stake).2.memOk := by
  unfold Mod.mayRun
  repeat' with_reducible first
    | assumption | apply Mod.freeBool_memOk | split

theorem Mod.openGap_memOk (m : Mod) (w : PassWord) (a g : Nat) (hm : m.memOk) :
    (m.openGap w a g).memOk := by
  unfold Mod.openGap
  repeat' with_reducible first
    | assumption | apply Mod.trace__memOk | apply Mod.updSum_memOk | apply Mod.onGang_memOk

theorem Mod.passIssue_memOk (m : Mod) (a : Nat) (id : CmdId) (hm : m.memOk) :
    (m.passIssue a id).memOk := by
  unfold Mod.passIssue
  repeat' with_reducible first
    | assumption | apply memOk_wf | apply memOk_tierC | apply memOk_sessions | apply Mod.updRunning_memOk
    | apply Mod.setWork_memOk | apply Mod.setArray_memOk | apply Mod.onGang_memOk | apply Mod.passEnded_memOk
    | apply Mod.mayRun_memOk | apply Mod.openGap_memOk | apply ite_memOk
    | (simp only [↓memOk_mk]; refine ⟨?_, ?_, ?_⟩) | dsimp only | split

theorem Mod.preemptNow_memOk (m : Mod) (a : Nat) (hm : m.memOk) :
    (m.preemptNow a).memOk := by
  unfold Mod.preemptNow
  repeat' with_reducible first
    | assumption | apply Mod.updSum_memOk | apply Mod.onGang_memOk

theorem Mod.boundary_memOk (m : Mod) (a : Nat) (hm : m.memOk) :
    (m.boundary a).memOk := by
  unfold Mod.boundary
  repeat' with_reducible first
    | assumption | apply Mod.openGap_memOk | apply Mod.preemptNow_memOk | apply ite_memOk

theorem Mod.reloadDone_memOk (m : Mod) (a : Nat) (hm : m.memOk) :
    (m.reloadDone a).memOk := by
  unfold Mod.reloadDone
  repeat' with_reducible first
    | assumption | apply memOk_wf | apply memOk_tierC | apply memOk_sessions | apply Mod.updSum_memOk
    | apply Mod.checkLocal_memOk | apply Mod.setArray_memOk | apply Mod.onGang_memOk | apply Mod.failPass_memOk
    | apply Mod.boundary_memOk | apply foldl_memOk | apply ite_memOk | (simp only [↓memOk_mk]; refine ⟨?_, ?_, ?_⟩)
    | (intro _ _ _; try dsimp only) | dsimp only | split

theorem Mod.feed_memOk (m : Mod) (a : Nat) (x : Data) (stop elem : Nat) (hm : m.memOk) :
    (m.feed a x stop elem).memOk := by
  unfold Mod.feed
  repeat' with_reducible first
    | assumption | apply memOk_wf | apply memOk_tierC | apply memOk_sessions | apply Mod.freeNat_memOk
    | apply Mod.updSum_memOk | apply Mod.checkLocal_memOk | apply Mod.onGang_memOk | apply Mod.failPass_memOk
    | (simp only [↓memOk_mk]; refine ⟨?_, ?_, ?_⟩) | dsimp only | split

theorem Mod.feedUnits_memOk (m : Mod) (a : Nat) (x : Data) (n : Nat) (hm : m.memOk) :
    (m.feedUnits a x n).memOk := by
  unfold Mod.feedUnits
  repeat' with_reducible first
    | assumption | apply Mod.onGang_memOk | apply Mod.feed_memOk

theorem Mod.feedSome_memOk (m : Mod) (a : Nat) (x : Data) (hm : m.memOk) :
    (m.feedSome a x).memOk := by
  unfold Mod.feedSome
  repeat' with_reducible first
    | assumption | apply Mod.freeNat_memOk | apply Mod.feedUnits_memOk | apply ite_memOk

theorem Mod.rowBlock_memOk (m : Mod) (a : Nat) (hm : m.memOk) :
    (m.rowBlock a).memOk := by
  unfold Mod.rowBlock
  repeat' with_reducible first
    | assumption | apply memOk_wf | apply memOk_tierC | apply memOk_sessions | apply Mod.onGang_memOk
    | apply Mod.boundary_memOk | apply Mod.feedUnits_memOk | apply ite_memOk
    | (simp only [↓memOk_mk]; refine ⟨?_, ?_, ?_⟩) | dsimp only | split

theorem Mod.lastRow_memOk (m : Mod) (a : Nat) (hm : m.memOk) :
    (m.lastRow a).memOk := by
  unfold Mod.lastRow
  repeat' with_reducible first
    | assumption | apply memOk_wf | apply memOk_tierC | apply memOk_sessions | apply Mod.onGang_memOk
    | apply Mod.feed_memOk | apply ite_memOk | (simp only [↓memOk_mk]; refine ⟨?_, ?_, ?_⟩) | dsimp only | split

theorem Mod.passDone_memOk (m : Mod) (a : Nat) (r : PassRun) (hm : m.memOk) :
    (m.passDone a r).memOk := by
  unfold Mod.passDone
  repeat' with_reducible first
    | assumption | apply Mod.trace__memOk | apply Mod.updRunning_memOk | apply Mod.setArray_memOk
    | apply Mod.onGang_memOk | apply Mod.passEnded_memOk | apply ite_memOk

theorem Mod.checksClean_memOk (m : Mod) (a : Nat) (hm : m.memOk) :
    (m.checksClean a).memOk := by
  unfold Mod.checksClean
  repeat' with_reducible first
    | assumption | apply memOk_wf | apply memOk_tierC | apply memOk_sessions | apply Mod.onGang_memOk
    | apply Mod.passDone_memOk | apply ite_memOk | (simp only [↓memOk_mk]; refine ⟨?_, ?_, ?_⟩) | dsimp only | split

theorem Mod.dummyRun_memOk (m : Mod) (a : Nat) (hm : m.memOk) :
    (m.dummyRun a).memOk := by
  unfold Mod.dummyRun
  repeat' with_reducible first
    | assumption | apply memOk_wf | apply memOk_tierC | apply memOk_sessions | apply Mod.onGang_memOk
    | apply Mod.preemptNow_memOk | apply Mod.feedSome_memOk | apply ite_memOk
    | (simp only [↓memOk_mk]; refine ⟨?_, ?_, ?_⟩) | dsimp only | split

theorem Mod.rampRows_memOk (m : Mod) (s : ArrayState) (hm : m.memOk) :
    (m.rampRows s).2.memOk := by
  unfold Mod.rampRows
  repeat' with_reducible first
    | assumption | apply memOk_wf | apply memOk_tierC | apply memOk_sessions | apply Mod.freeNat_memOk
    | (simp only [↓memOk_mk]; refine ⟨?_, ?_, ?_⟩) | split

theorem Mod.rampDown_memOk (m : Mod) (a : Nat) (hm : m.memOk) :
    (m.rampDown a).memOk := by
  unfold Mod.rampDown
  repeat' with_reducible first
    | assumption | apply Mod.onGang_memOk | apply Mod.rampRows_memOk | apply ite_memOk

theorem Mod.rampUp_memOk (m : Mod) (a : Nat) (hm : m.memOk) :
    (m.rampUp a).memOk := by
  unfold Mod.rampUp
  repeat' with_reducible first
    | assumption | apply Mod.onGang_memOk | apply Mod.rampRows_memOk | apply ite_memOk | split

theorem Mod.gapEnd_memOk (m : Mod) (a : Nat) (hm : m.memOk) :
    (m.gapEnd a).memOk := by
  unfold Mod.gapEnd
  repeat' with_reducible first
    | assumption | apply Mod.freeBool_memOk | apply Mod.onGang_memOk | apply ite_memOk

theorem Mod.preemptStake_memOk (m : Mod) (stake : Nat) (hm : m.memOk) :
    (m.preemptStake stake).memOk := by
  unfold Mod.preemptStake
  repeat' with_reducible first
    | assumption | apply Mod.onGang_memOk | apply Mod.preemptNow_memOk | apply foldl_memOk | apply ite_memOk
    | (intro _ _ _; try dsimp only)

theorem Mod.passResume_memOk (m : Mod) (a : Nat) (hm : m.memOk) :
    (m.passResume a).memOk := by
  unfold Mod.passResume
  repeat' with_reducible first
    | assumption | apply memOk_wf | apply memOk_tierC | apply memOk_sessions | apply Mod.onGang_memOk
    | apply Mod.mayRun_memOk | apply ite_memOk | (simp only [↓memOk_mk]; refine ⟨?_, ?_, ?_⟩) | dsimp only | split

theorem Mod.stopFeeding_memOk (m : Mod) (p : PassWord → Bool) (hm : m.memOk) :
    (m.stopFeeding p).memOk := by
  unfold Mod.stopFeeding
  repeat' with_reducible first
    | assumption | apply Mod.feedSome_memOk | apply foldl_memOk | apply ite_memOk | (intro _ _ _; try dsimp only)
    | split

theorem Mod.reissue_memOk (m : Mod) (id : CmdId) (ps : List Nat) (hm : m.memOk) :
    (m.reissue id ps).memOk := by
  unfold Mod.reissue
  repeat' with_reducible first
    | assumption | apply Mod.updRunning_memOk

theorem Mod.faultyPass_memOk (m : Mod) (a : Nat) (hm : m.memOk) :
    (m.faultyPass a).2.memOk := by
  unfold Mod.faultyPass
  repeat' with_reducible first
    | assumption | apply memOk_wf | apply memOk_tierC | apply memOk_sessions | apply Mod.freeNat_memOk
    | (simp only [↓memOk_mk]; refine ⟨?_, ?_, ?_⟩) | dsimp only | split

theorem Mod.discardFaulty_memOk (m : Mod) (a : Nat) (r : PassRun) (n : Nat) (hm : m.memOk) :
    (m.discardFaulty a r n).memOk := by
  unfold Mod.discardFaulty
  repeat' with_reducible first
    | assumption | apply Mod.onGang_memOk | apply Mod.failPass_memOk | apply Mod.reissue_memOk | apply ite_memOk

theorem Mod.pokeResidency_memOk (m : Mod) (job : Nat) (hm : m.memOk) :
    (m.pokeResidency job).memOk := by
  unfold Mod.pokeResidency
  repeat' with_reducible first
    | assumption | apply Mod.updJob_memOk | apply Mod.countJob_memOk | apply Mod.setWork_memOk
    | apply Mod.complete_memOk | apply foldl_memOk | apply ite_memOk | (intro _ _ _; try dsimp only) | split

theorem Mod.fetchDone_memOk (m : Mod) (job t : Nat) (hm : m.memOk) :
    (m.fetchDone job t).memOk := by
  unfold Mod.fetchDone
  repeat' with_reducible first
    | assumption | apply memOk_wf | apply memOk_tierC | apply memOk_sessions | apply Mod.store_memOk
    | apply Mod.updJob_memOk | apply Mod.completeAll_memOk | apply Mod.checkLocal_memOk
    | apply Mod.pokeResidency_memOk | apply ite_memOk | (simp only [↓memOk_mk]; refine ⟨?_, ?_, ?_⟩) | dsimp only
    | split

theorem Mod.startReside_memOk (m : Mod) (id : CmdId) (c : Cmd) (j : Job) (hm : m.memOk) :
    (m.startReside id c j).memOk := by
  unfold Mod.startReside
  repeat' with_reducible first
    | assumption | apply Mod.updJob_memOk | apply Mod.setWork_memOk | apply Mod.complete_memOk
    | apply Mod.pokeResidency_memOk | apply ite_memOk

theorem Mod.startEvict_memOk (m : Mod) (id : CmdId) (c : Cmd) (hm : m.memOk) :
    (m.startEvict id c).memOk := by
  unfold Mod.startEvict
  repeat' with_reducible first
    | assumption | apply Mod.updJob_memOk | apply Mod.setWork_memOk | apply Mod.pokeResidency_memOk

theorem runRecord_memOk (s : BodyRun) (j : Job) (e : ExchangeDecl) (slot rows base total : Nat) (b : BodyRec) (hm :
    s.m.memOk) :
    (runRecord s j e slot rows base total b).m.memOk := by
  unfold runRecord
  repeat' with_reducible first
    | assumption | apply memOk_wf | apply memOk_tierC | apply memOk_sessions | apply Mod.store_memOk
    | apply Mod.countJob_memOk | apply Mod.checkAccess_memOk | apply Mod.leaves_memOk | apply foldl_memOk
    | (simp only [↓memOk_mk]; refine ⟨?_, ?_, ?_⟩) | (intro _ _ _; try dsimp only) | dsimp only | split

theorem Mod.runBody_memOk (m : Mod) (j : Job) (e : ExchangeDecl) (slot : Nat) (body : List BodyRec) (ins outs : List
    Bytes) (base total : Nat) (acc : List (List (BitVec 32))) (hm : m.memOk) :
    (m.runBody j e slot body ins outs base total acc).m.memOk := by
  unfold Mod.runBody
  repeat' with_reducible first
    | assumption | apply runRecord_memOk | apply foldl_run_memOk | (intro _ _ _; try dsimp only)

theorem Mod.writeGrads_memOk (m : Mod) (j : Job) (e : ExchangeDecl) (slot d : Nat) (acc : Option (List (List (BitVec
    32)))) (hm : m.memOk) :
    (m.writeGrads j e slot d acc).memOk := by
  unfold Mod.writeGrads
  repeat' with_reducible first
    | assumption | apply Mod.store_memOk | apply Mod.countJob_memOk | apply foldl_memOk
    | (intro _ _ _; try dsimp only) | split

end Sys2Proof.Machine
end

