-- ==== Sys2Proof/Laws/MemOkExchange.lean ====
section
/-!
SUPPORT. The canonical form of the memories (`Mod.memOk`) is kept by
the expert exchange: one lemma per operation, named after it, for callers to cite in place of unfolding it.
-/

namespace Sys2Proof.Machine

set_option linter.unusedSimpArgs false
set_option linter.unusedTactic false
set_option linter.unreachableTactic false

theorem Mod.updEx_memOk (m : Mod) (job exch step : Nat) (f : ExStep → ExStep) (hm : m.memOk) :
    (m.updEx job exch step f).memOk := by
  unfold Mod.updEx
  repeat' with_reducible first
    | assumption | apply Mod.updJob_memOk

theorem Mod.freeRecv_memOk (m : Mod) (p : Plan) (e : ExchangeDecl) (s : ExStep) (hm : m.memOk) :
    (m.freeRecv p e s).memOk := by
  unfold Mod.freeRecv
  repeat' with_reducible first
    | assumption | apply Mod.poolReleaseAll_memOk

theorem Mod.freeLedger_memOk (m : Mod) (p : Plan) (e : ExchangeDecl) (s : ExStep) (hm : m.memOk) :
    (m.freeLedger p e s).memOk := by
  unfold Mod.freeLedger
  repeat' with_reducible first
    | assumption | apply Mod.poolReleaseAll_memOk

theorem Mod.ensureEx_memOk (m : Mod) (j : Job) (e : ExchangeDecl) (step : Nat) (hm : m.memOk) :
    (m.ensureEx j e step).memOk := by
  unfold Mod.ensureEx
  repeat' with_reducible first
    | assumption | apply Mod.updJob_memOk | apply ite_memOk

theorem Mod.exTarget_memOk (m : Mod) (x : ExMsg) (hm : m.memOk) :
    exceptMemOk (m.exTarget x) := by
  unfold Mod.exTarget
  repeat' with_reducible first
    | assumption | apply Mod.count_memOk | apply Mod.countJob_memOk | apply Mod.turnAway_memOk
    | apply Mod.ensureEx_memOk | apply exceptMemOk_error | apply exceptMemOk_ok | dsimp only | split

theorem Mod.requestRecv_memOk (m : Mod) (p : Plan) (e : ExchangeDecl) (s : ExStep) (n : Nat) (isHead : Bool) (hm :
    m.memOk) :
    (m.requestRecv p e s n isHead).1.memOk := by
  unfold Mod.requestRecv
  repeat' with_reducible first
    | assumption | apply memOk_wf | apply memOk_tierC | apply memOk_sessions | apply Mod.updCell_memOk
    | apply Mod.poolRequest_memOk | refine fst_memOk ‹_ = (_, _)› ?_ | (simp only [↓memOk_mk]; refine ⟨?_, ?_, ?_⟩)
    | dsimp only | split

theorem Mod.pullFuel_memOk (n : Nat) (m : Mod) (job exch step : Nat) (h : m.memOk) : (Mod.pullFuel n m job exch
    step).memOk := by
  induction n generalizing m job exch step with
  | zero => exact h
  | succ n ih =>
    unfold Mod.pullFuel
    split
    · exact h
    · split
      · split
        · exact h
        · extract_lets held try_
          split
          · exact h
          · rename_i heq
            obtain ⟨x, -, hx⟩ := List.exists_of_findSome?_eq_some heq
            dsimp only [try_] at hx
            split at hx
            · cases hx
              rename_i he
              refine ih _ _ _ _ (Mod.emit_memOk _ _ (Mod.countJob_memOk _ _ _ _ (Mod.updEx_memOk _ _ _ _ _ ?_)))
              exact fst_memOk he (Mod.requestRecv_memOk _ _ _ _ _ _ h)
            · cases hx
      · exact h

theorem Mod.pulls_memOk (m : Mod) (job exch step : Nat) (hm : m.memOk) :
    (m.pulls job exch step).memOk := by
  unfold Mod.pulls
  repeat' with_reducible first
    | assumption | apply Mod.pullFuel_memOk

theorem Mod.pullsOf_memOk (m : Mod) (job pool : Nat) (hm : m.memOk) :
    (m.pullsOf job pool).memOk := by
  unfold Mod.pullsOf
  repeat' with_reducible first
    | assumption | apply Mod.pulls_memOk | apply foldl_memOk | apply ite_memOk | (intro _ _ _; try dsimp only) | split

theorem Mod.endEx_memOk (m : Mod) (job exch step : Nat) (ids : List CmdId) (st : Status) (detail : Nat) (hm : m.memOk) :
    (m.endEx job exch step ids st detail).memOk := by
  unfold Mod.endEx
  repeat' with_reducible first
    | assumption | apply memOk_wf | apply memOk_tierC | apply memOk_sessions | apply Mod.emit_memOk
    | apply Mod.completeAll_memOk | apply Mod.updEx_memOk | apply Mod.freeRecv_memOk | apply Mod.pullsOf_memOk
    | apply foldl_memOk | apply ite_memOk | (simp only [↓memOk_mk]; refine ⟨?_, ?_, ?_⟩)
    | (intro _ _ _; try dsimp only) | split

theorem Mod.spoilBy_memOk (m : Mod) (job exch step rank : Nat) (hm : m.memOk) :
    (m.spoilBy job exch step rank).memOk := by
  unfold Mod.spoilBy
  repeat' with_reducible first
    | assumption | apply Mod.updEx_memOk | apply Mod.endEx_memOk | apply ite_memOk

theorem Mod.spoilRank_memOk (m : Mod) (job rank : Nat) (hm : m.memOk) :
    (m.spoilRank job rank).memOk := by
  unfold Mod.spoilRank
  repeat' with_reducible first
    | assumption | apply Mod.spoilBy_memOk | apply foldl_memOk | apply ite_memOk | (intro _ _ _; try dsimp only)
    | split

theorem Mod.claimData_memOk (m : Mod) (id : CmdId) (c : Cmd) (j : Job) (limit : Option Nat) (test : Data → Option Nat)
    (hm : m.memOk) :
    exceptMemOk (m.claimData id c j limit test) := by
  unfold Mod.claimData
  repeat' with_reducible first
    | assumption | apply memOk_wf | apply memOk_tierC | apply memOk_sessions | apply Mod.countJob_memOk
    | apply Mod.setWork_memOk | apply Mod.complete_memOk | apply Mod.noteCopies_memOk | apply exceptMemOk_error
    | apply exceptMemOk_ok | (simp only [↓memOk_mk]; refine ⟨?_, ?_, ?_⟩) | dsimp only | split

theorem Mod.dropLedgers_memOk (m : Mod) (j : Job) (e : ExchangeDecl) (step : Nat) (hm : m.memOk) :
    (m.dropLedgers j e step).memOk := by
  unfold Mod.dropLedgers
  repeat' with_reducible first
    | assumption | apply Mod.updJob_memOk | apply Mod.freeLedger_memOk | apply foldl_memOk
    | (intro _ _ _; try dsimp only)

theorem Mod.endGroups_memOk (m : Mod) (id : CmdId) (r : Running) (n : Nat) (st : Status) (d : Nat) (hm : m.memOk) :
    (m.endGroups id r n st d).memOk := by
  unfold Mod.endGroups
  repeat' with_reducible first
    | assumption | apply Mod.setWork_memOk | apply Mod.complete_memOk | apply Mod.signalTie_memOk | apply foldl_memOk
    | apply ite_memOk | (intro _ _ _; try dsimp only)

theorem Mod.endRoute_memOk (m : Mod) (id : CmdId) (x : Data) (got : List (Nat × Byte)) (hm : m.memOk) :
    (m.endRoute id x got).memOk := by
  unfold Mod.endRoute
  repeat' with_reducible first
    | assumption | apply Mod.setWork_memOk | apply Mod.endGroups_memOk | apply ite_memOk | split

theorem Mod.runRoute_memOk (m : Mod) (id : CmdId) (x : Data) (got : List (Nat × Byte)) (hm : m.memOk) :
    (m.runRoute id x got).memOk := by
  unfold Mod.runRoute
  repeat' with_reducible first
    | assumption | apply memOk_wf | apply memOk_tierC | apply memOk_sessions | apply Mod.updJob_memOk
    | apply Mod.setWork_memOk | apply Mod.complete_memOk | apply Mod.ask_memOk | apply Mod.runEffect_memOk
    | apply Mod.poolRequest_memOk | apply Mod.poolReleaseAll_memOk | apply Mod.updEx_memOk | apply Mod.ensureEx_memOk
    | apply Mod.endEx_memOk | apply Mod.dropLedgers_memOk | apply Mod.endRoute_memOk
    | refine Ran.memOk_waits ‹_ = Ran.waits _› ?_ | refine Ran.memOk_failed ‹_ = Ran.failed _ _ _ _› ?_
    | refine Ran.memOk_wrote ‹_ = Ran.wrote _› ?_ | (simp only [↓memOk_mk]; refine ⟨?_, ?_, ?_⟩) | dsimp only | split

theorem Mod.startRoute_memOk (m : Mod) (id : CmdId) (c : Cmd) (j : Job) (hm : m.memOk) :
    (m.startRoute id c j).memOk := by
  unfold Mod.startRoute
  repeat' with_reducible first
    | assumption | apply Mod.claimData_memOk | apply Mod.runRoute_memOk | refine error_memOk ‹_ = Except.error _› ?_
    | refine ok_memOk ‹_ = Except.ok (_, _)› ?_ | split

theorem Mod.resumeRoute_memOk (m : Mod) (id : CmdId) (hm : m.memOk) :
    (m.resumeRoute id).memOk := by
  unfold Mod.resumeRoute
  repeat' with_reducible first
    | assumption | apply Mod.endRoute_memOk | apply Mod.runRoute_memOk | split

theorem Mod.mapLedger_memOk (m : Mod) (job exch step : Nat) (f : LedgerSlot → LedgerSlot) (hm : m.memOk) :
    (m.mapLedger job exch step f).memOk := by
  unfold Mod.mapLedger
  repeat' with_reducible first
    | assumption | apply Mod.updEx_memOk

theorem Mod.runGroup_memOk (m : Mod) (id : CmdId) (k : ExCmd) (body : (Nat → Byte) → Effect) (hm : m.memOk) :
    Ran.memOk (m.runGroup id k body) := by
  unfold Mod.runGroup
  repeat' with_reducible first
    | assumption | apply Mod.setWork_memOk | apply Mod.runEffect_memOk | refine Ran.memOk_waits ‹_ = Ran.waits _› ?_
    | apply Ran.waits_memOk | split

theorem Mod.sendGroup_memOk (m : Mod) (k : ExCmd) (g : Nat) (ps : List SentPair) (hm : m.memOk) :
    (m.sendGroup k g ps).memOk := by
  unfold Mod.sendGroup
  repeat' with_reducible first
    | assumption | apply Mod.emit_memOk | apply Mod.updEx_memOk | apply Mod.mapLedger_memOk | apply foldl_memOk
    | apply ite_memOk | (intro _ _ _; try dsimp only)

theorem Mod.endDispatch_memOk (m : Mod) (id : CmdId) (k : ExCmd) (hm : m.memOk) :
    (m.endDispatch id k).memOk := by
  unfold Mod.endDispatch
  repeat' with_reducible first
    | assumption | apply Mod.updSum_memOk | apply Mod.complete_memOk | apply ite_memOk

theorem Mod.signalGroups_memOk (m : Mod) (id : CmdId) (k : ExCmd) (hm : m.memOk) :
    (m.signalGroups id k).memOk := by
  unfold Mod.signalGroups
  repeat' with_reducible first
    | assumption | apply Mod.setWork_memOk | apply Mod.signalTie_memOk | apply foldl_memOk | apply ite_memOk
    | (intro _ _ _; try dsimp only)

theorem Mod.endSum_memOk (m : Mod) (id : CmdId) (k : ExCmd) (hm : m.memOk) :
    (m.endSum id k).memOk := by
  unfold Mod.endSum
  repeat' with_reducible first
    | assumption | apply Mod.setWork_memOk | apply Mod.complete_memOk | apply Mod.updEx_memOk
    | apply Mod.freeLedger_memOk | apply ite_memOk

theorem Mod.sendGrads_memOk (m : Mod) (k : ExCmd) (g : Nat) (pairs : List GradPair) (hm : m.memOk) :
    (m.sendGrads k g pairs).memOk := by
  unfold Mod.sendGrads
  repeat' with_reducible first
    | assumption | apply Mod.emit_memOk | apply Mod.updEx_memOk | apply Mod.mapLedger_memOk | apply foldl_memOk
    | (intro _ _ _; try dsimp only)

theorem Mod.failGroup_memOk (m : Mod) (id : CmdId) (k : ExCmd) (st : Status) (d : Nat) (hm : m.memOk) :
    (m.failGroup id k st d).memOk := by
  unfold Mod.failGroup
  repeat' with_reducible first
    | assumption | apply Mod.endEx_memOk

theorem Mod.moveFuel_memOk (n : Nat) (m : Mod) (id : CmdId) (h : m.memOk) : (moveFuel n m id).memOk := by
  induction n generalizing m id with
  | zero => exact h
  | succ n ih =>
    unfold Mod.moveFuel
    repeat' with_reducible first
      | assumption | apply memOk_wf | apply memOk_tierC | apply memOk_sessions | apply ih | apply Mod.complete_memOk
      | apply Mod.updEx_memOk | apply Mod.runGroup_memOk | apply Mod.sendGroup_memOk | apply Mod.endDispatch_memOk
      | apply Mod.signalGroups_memOk | apply Mod.endSum_memOk | apply Mod.sendGrads_memOk | apply Mod.failGroup_memOk
      | apply ite_memOk | refine Ran.memOk_waits ‹_ = Ran.waits _› ?_
      | refine Ran.memOk_failed ‹_ = Ran.failed _ _ _ _› ?_ | refine Ran.memOk_wrote ‹_ = Ran.wrote _› ?_
      | (simp only [↓memOk_mk]; refine ⟨?_, ?_, ?_⟩) | split

theorem Mod.moveEx_memOk (m : Mod) (id : CmdId) (hm : m.memOk) :
    (m.moveEx id).memOk := by
  unfold Mod.moveEx
  repeat' with_reducible first
    | assumption | apply Mod.moveFuel_memOk | split

theorem Mod.moveStep_memOk (m : Mod) (job exch step : Nat) (hm : m.memOk) :
    (m.moveStep job exch step).memOk := by
  unfold Mod.moveStep
  repeat' with_reducible first
    | assumption | apply Mod.moveEx_memOk | apply foldl_memOk

theorem Mod.moveAllEx_memOk (m : Mod) (hm : m.memOk) :
    (m.moveAllEx).memOk := by
  unfold Mod.moveAllEx
  repeat' with_reducible first
    | assumption | apply Mod.moveEx_memOk | apply foldl_memOk

theorem Mod.startTokens_memOk (m : Mod) (id : CmdId) (c : Cmd) (j : Job) (hm : m.memOk) :
    (m.startTokens id c j).memOk := by
  unfold Mod.startTokens
  repeat' with_reducible first
    | assumption | apply memOk_wf | apply memOk_tierC | apply memOk_sessions | apply Mod.setWork_memOk
    | apply Mod.ensureEx_memOk | apply Mod.claimData_memOk | apply Mod.moveStep_memOk
    | refine error_memOk ‹_ = Except.error _› ?_ | refine ok_memOk ‹_ = Except.ok (_, _)› ?_
    | (simp only [↓memOk_mk]; refine ⟨?_, ?_, ?_⟩) | split

theorem Mod.exTimeout_memOk (m : Mod) (id : CmdId) (hm : m.memOk) :
    (m.exTimeout id).memOk := by
  unfold Mod.exTimeout
  repeat' with_reducible first
    | assumption | apply Mod.endEx_memOk | split

theorem Mod.runCounts_memOk (m : Mod) (id : CmdId) (x : Data) (got : List (Nat × Byte)) (hm : m.memOk) :
    (m.runCounts id x got).memOk := by
  unfold Mod.runCounts
  repeat' with_reducible first
    | assumption | apply memOk_wf | apply memOk_tierC | apply memOk_sessions | apply Mod.complete_memOk
    | apply Mod.runEffect_memOk | apply Mod.endBody_memOk | refine Ran.memOk_waits ‹_ = Ran.waits _› ?_
    | refine Ran.memOk_failed ‹_ = Ran.failed _ _ _ _› ?_ | refine Ran.memOk_wrote ‹_ = Ran.wrote _› ?_
    | (simp only [↓memOk_mk]; refine ⟨?_, ?_, ?_⟩) | dsimp only | split

theorem Mod.startCounts_memOk (m : Mod) (id : CmdId) (c : Cmd) (j : Job) (hm : m.memOk) :
    (m.startCounts id c j).memOk := by
  unfold Mod.startCounts
  repeat' with_reducible first
    | assumption | apply memOk_wf | apply memOk_tierC | apply memOk_sessions | apply Mod.freeNat_memOk
    | apply Mod.complete_memOk | apply Mod.claimData_memOk | apply Mod.runCounts_memOk | apply ite_memOk
    | refine error_memOk ‹_ = Except.error _› ?_ | refine ok_memOk ‹_ = Except.ok (_, _)› ?_
    | (simp only [↓memOk_mk]; refine ⟨?_, ?_, ?_⟩) | dsimp only | split

theorem Mod.resumeCounts_memOk (m : Mod) (id : CmdId) (hm : m.memOk) :
    (m.resumeCounts id).memOk := by
  unfold Mod.resumeCounts
  repeat' with_reducible first
    | assumption | apply Mod.endBody_memOk | apply Mod.runCounts_memOk | split

theorem Mod.updSlot_memOk (m : Mod) (job exch step slot : Nat) (f : SlotProg → SlotProg) (hm : m.memOk) :
    (m.updSlot job exch step slot f).memOk := by
  unfold Mod.updSlot
  repeat' with_reducible first
    | assumption | apply Mod.updEx_memOk

theorem Mod.exchangeMsg_memOk (m : Mod) (x : ExMsg) (f : Mod → Job → ExchangeDecl → Nat → Mod) (hm : m.memOk) (hm1 : ∀
    m j e n, m.memOk → (f m j e n).memOk) :
    (m.exchangeMsg x f).memOk := by
  unfold Mod.exchangeMsg
  repeat' with_reducible first
    | assumption | apply hm1 | apply Mod.exTarget_memOk | refine error_memOk ‹_ = Except.error _› ?_
    | refine ok_memOk ‹_ = Except.ok (_, _)› ?_ | split

theorem Mod.mapParcel_memOk (m : Mod) (job exch step : Nat) (p : ParcelIn → Bool) (f : ParcelIn → ParcelIn) (hm :
    m.memOk) :
    (m.mapParcel job exch step p f).memOk := by
  unfold Mod.mapParcel
  repeat' with_reducible first
    | assumption | apply Mod.updEx_memOk

theorem Mod.selectSlot_memOk (m : Mod) (j : Job) (e : ExchangeDecl) (step slot : Nat) (hm : m.memOk) :
    (m.selectSlot j e step slot).memOk := by
  unfold Mod.selectSlot
  repeat' with_reducible first
    | assumption | apply memOk_wf | apply memOk_tierC | apply memOk_sessions | apply Mod.emit_memOk
    | apply Mod.countJob_memOk | apply Mod.updEx_memOk | apply Mod.updSlot_memOk | apply foldl_fst_memOk
    | (simp only [↓memOk_mk]; refine ⟨?_, ?_, ?_⟩) | (intro _ _ _; try dsimp only) | dsimp only | split

theorem Mod.recvMoved_memOk (m : Mod) (j : Job) (e : ExchangeDecl) (step : Nat) (hm : m.memOk) :
    (m.recvMoved j e step).memOk := by
  unfold Mod.recvMoved
  repeat' with_reducible first
    | assumption | apply Mod.pulls_memOk | apply Mod.moveStep_memOk | apply Mod.selectSlot_memOk | apply foldl_memOk
    | (intro _ _ _; try dsimp only)

theorem Mod.onCounts_memOk (m : Mod) (x : ExMsg) (hm : m.memOk) :
    (m.onCounts x).memOk := by
  unfold Mod.onCounts
  repeat' with_reducible first
    | assumption | apply Mod.updEx_memOk | apply Mod.exchangeMsg_memOk | apply Mod.recvMoved_memOk
    | (intro _ _ _ _ _; try dsimp only)

theorem Mod.answer_memOk (m : Mod) (j : Job) (e : ExchangeDecl) (step : Nat) (x : ParcelIn) (kind : ExKind) (hm :
    m.memOk) :
    (m.answer j e step x kind).memOk := by
  unfold Mod.answer
  repeat' with_reducible first
    | assumption | apply Mod.emit_memOk

theorem Mod.onRows_memOk (m : Mod) (x : ExMsg) (grad : Bool) (hm : m.memOk) :
    (m.onRows x grad).memOk := by
  unfold Mod.onRows
  repeat' with_reducible first
    | assumption | apply Mod.emit_memOk | apply Mod.countJob_memOk | apply Mod.updEx_memOk
    | apply Mod.requestRecv_memOk | apply Mod.updSlot_memOk | apply Mod.exchangeMsg_memOk | apply Mod.mapParcel_memOk
    | apply Mod.recvMoved_memOk | apply Mod.answer_memOk | refine fst_memOk ‹_ = (_, _)› ?_ | apply ite_memOk
    | (intro _ _ _ _ _; try dsimp only) | split

theorem Mod.onTags_memOk (m : Mod) (x : ExMsg) (hm : m.memOk) :
    (m.onTags x).memOk := by
  unfold Mod.onTags
  repeat' with_reducible first
    | assumption | apply Mod.updEx_memOk | apply Mod.exchangeMsg_memOk | apply Mod.recvMoved_memOk
    | (intro _ _ _ _ _; try dsimp only)

theorem Mod.answerHolds_memOk (m : Mod) (job : Nat) (hm : m.memOk) :
    (m.answerHolds job).memOk := by
  unfold Mod.answerHolds
  repeat' with_reducible first
    | assumption | apply memOk_wf | apply memOk_tierC | apply memOk_sessions | apply Mod.mapParcel_memOk
    | apply Mod.recvMoved_memOk | apply Mod.answer_memOk | apply foldl_memOk
    | (simp only [↓memOk_mk]; refine ⟨?_, ?_, ?_⟩) | (intro _ _ _; try dsimp only) | split

theorem Mod.mapOut_memOk (m : Mod) (job exch step : Nat) (x : ExMsg) (f : ParcelOut → ParcelOut) (hm : m.memOk) :
    (m.mapOut job exch step x f).memOk := by
  unfold Mod.mapOut
  repeat' with_reducible first
    | assumption | apply Mod.updEx_memOk

theorem Mod.onAccept_memOk (m : Mod) (x : ExMsg) (hm : m.memOk) :
    (m.onAccept x).memOk := by
  unfold Mod.onAccept
  repeat' with_reducible first
    | assumption | apply Mod.moveStep_memOk | apply Mod.exchangeMsg_memOk | apply Mod.mapOut_memOk
    | (intro _ _ _ _ _; try dsimp only)

theorem Mod.onHold_memOk (m : Mod) (x : ExMsg) (hm : m.memOk) :
    (m.onHold x).memOk := by
  unfold Mod.onHold
  repeat' with_reducible first
    | assumption | apply Mod.mapLedger_memOk | apply Mod.exchangeMsg_memOk | apply Mod.mapOut_memOk
    | (intro _ _ _ _ _; try dsimp only)

theorem Mod.onPull_memOk (m : Mod) (x : ExMsg) (hm : m.memOk) :
    (m.onPull x).memOk := by
  unfold Mod.onPull
  repeat' with_reducible first
    | assumption | apply Mod.emit_memOk | apply Mod.exchangeMsg_memOk | apply Mod.mapOut_memOk | apply ite_memOk
    | (intro _ _ _ _ _; try dsimp only) | split

theorem Mod.onResult_memOk (m : Mod) (x : ExMsg) (hm : m.memOk) :
    (m.onResult x).memOk := by
  unfold Mod.onResult
  repeat' with_reducible first
    | assumption | apply Mod.mapLedger_memOk | apply Mod.moveStep_memOk | apply Mod.exchangeMsg_memOk
    | (intro _ _ _ _ _; try dsimp only)

theorem Mod.onDgrad_memOk (m : Mod) (x : ExMsg) (hm : m.memOk) :
    (m.onDgrad x).memOk := by
  unfold Mod.onDgrad
  repeat' with_reducible first
    | assumption | apply Mod.mapLedger_memOk | apply Mod.moveStep_memOk | apply Mod.exchangeMsg_memOk
    | (intro _ _ _ _ _; try dsimp only)

theorem Mod.onKeep_memOk (m : Mod) (x : ExMsg) (hm : m.memOk) :
    (m.onKeep x).memOk := by
  unfold Mod.onKeep
  repeat' with_reducible first
    | assumption | apply Mod.emit_memOk | apply Mod.mapLedger_memOk | apply Mod.moveStep_memOk
    | apply Mod.exchangeMsg_memOk | apply Mod.mapOut_memOk | apply ite_memOk | (intro _ _ _ _ _; try dsimp only)
    | split

theorem Mod.onSpoil_memOk (m : Mod) (x : ExMsg) (hm : m.memOk) :
    (m.onSpoil x).memOk := by
  unfold Mod.onSpoil
  repeat' with_reducible first
    | assumption | apply Mod.spoilBy_memOk | apply Mod.exchangeMsg_memOk | (intro _ _ _ _ _; try dsimp only)

theorem Mod.bodyFailed_memOk (m : Mod) (j : Job) (e : ExchangeDecl) (step : Nat) (st : Status) (d : Nat) (hm :
    m.memOk) :
    (m.bodyFailed j e step st d).memOk := by
  unfold Mod.bodyFailed
  repeat' with_reducible first
    | assumption | apply Mod.endEx_memOk

theorem Mod.traceRound_memOk (m : Mod) (j : Job) (e : ExchangeDecl) (slot rows : Nat) (hm : m.memOk) :
    (m.traceRound j e slot rows).memOk := by
  unfold Mod.traceRound
  repeat' with_reducible first
    | assumption | apply Mod.trace__memOk

theorem Mod.freeWithies_memOk (m : Mod) (j : Job) (e : ExchangeDecl) (ws : List Nat) (hm : m.memOk) :
    (m.freeWithies j e ws).memOk := by
  unfold Mod.freeWithies
  repeat' with_reducible first
    | assumption | apply Mod.poolReleaseAll_memOk

theorem Mod.forwardRound_memOk (m : Mod) (job exch slot : Nat) (hm : m.memOk) :
    (m.forwardRound job exch slot).memOk := by
  unfold Mod.forwardRound
  repeat' with_reducible first
    | assumption | apply memOk_wf | apply memOk_tierC | apply memOk_sessions | apply Mod.emit_memOk
    | apply Mod.runBody_memOk | apply Mod.updSlot_memOk | apply Mod.mapParcel_memOk | apply Mod.recvMoved_memOk
    | apply Mod.bodyFailed_memOk | apply Mod.traceRound_memOk | apply foldl_fst_memOk | apply ite_memOk
    | (simp only [↓memOk_mk]; refine ⟨?_, ?_, ?_⟩) | (intro _ _ _; try dsimp only) | dsimp only | split

theorem Mod.endSpan_memOk (m : Mod) (j : Job) (e : ExchangeDecl) (s : ExStep) (slot : Nat) (took rest : List SpanPair)
    (hm : m.memOk) :
    (m.endSpan j e s slot took rest).1.memOk := by
  unfold Mod.endSpan
  repeat' with_reducible first
    | assumption | apply Mod.mapParcel_memOk | apply Mod.freeWithies_memOk | apply foldl_memOk
    | (intro _ _ _; try dsimp only)

theorem Mod.sendDgrads_memOk (m : Mod) (j : Job) (e : ExchangeDecl) (step slot : Nat) (took : List (SpanPair × Bytes))
    (hm : m.memOk) :
    (m.sendDgrads j e step slot took).memOk := by
  unfold Mod.sendDgrads
  repeat' with_reducible first
    | assumption | apply Mod.emit_memOk | apply foldl_memOk | (intro _ _ _; try dsimp only)

theorem Mod.backwardIn_memOk (m : Mod) (j : Job) (e : ExchangeDecl) (s : ExStep) (slot : Nat) (hm : m.memOk) :
    optMemOk (m.backwardIn j e s slot) := by
  unfold Mod.backwardIn
  repeat' with_reducible first
    | assumption | apply Mod.runBody_memOk | apply Mod.writeGrads_memOk | apply Mod.pullsOf_memOk
    | apply Mod.updSlot_memOk | apply Mod.recvMoved_memOk | apply Mod.bodyFailed_memOk | apply Mod.traceRound_memOk
    | apply Mod.endSpan_memOk | apply Mod.sendDgrads_memOk | apply ite_memOk | apply optMemOk_some
    | exact optMemOk_none | dsimp only | split

theorem Mod.backwardRound_memOk (m : Mod) (job exch slot : Nat) (hm : m.memOk) :
    (m.backwardRound job exch slot).memOk := by
  unfold Mod.backwardRound
  repeat' first
    | with_reducible assumption | with_reducible apply Mod.backwardIn_memOk | with_reducible apply ite_memOk
    | with_reducible refine some_memOk ‹_ = some _› ?_ | with_reducible apply optMemOk_getD
    | with_reducible apply optMemOk_findSome | (intro _ _ _; try dsimp only) | split

theorem Mod.withyReleased_memOk (m : Mod) (job pool place cls index : Nat) (hm : m.memOk) :
    (m.withyReleased job pool place cls index).memOk := by
  unfold Mod.withyReleased
  repeat' with_reducible first
    | assumption | apply memOk_wf | apply memOk_tierC | apply memOk_sessions | apply Mod.poolRelease_memOk
    | apply Mod.pullsOf_memOk | apply Mod.updSlot_memOk | apply Mod.mapParcel_memOk | apply Mod.recvMoved_memOk
    | apply Mod.freeWithies_memOk | (simp only [↓memOk_mk]; refine ⟨?_, ?_, ?_⟩) | split

end Sys2Proof.Machine
end

