-- ==== Sys2Proof/Laws/MemOkTrain.lean ====
section
/-!
SUPPORT. The canonical form of the memories (`Mod.memOk`) is kept by
collectives, the norm, the optimizer, the tiers and ownership: one lemma per operation, named after it, for callers to cite in place of unfolding it.
-/

namespace Sys2Proof.Machine

set_option linter.unusedSimpArgs false
set_option linter.unusedTactic false
set_option linter.unreachableTactic false

theorem Mod.updNode_memOk (m : Mod) (job bucket step shard : Nat) (f : WaleNode → WaleNode) (hm : m.memOk) :
    (m.updNode job bucket step shard f).memOk := by
  unfold Mod.updNode
  repeat' with_reducible first
    | assumption | apply Mod.updJob_memOk

theorem Mod.setNode_memOk (m : Mod) (a : NodeAt) (f : WaleNode → WaleNode) (hm : m.memOk) :
    (m.setNode a f).memOk := by
  unfold Mod.setNode
  repeat' with_reducible first
    | assumption | apply Mod.updNode_memOk

theorem Mod.ensureNode_memOk (m : Mod) (job bucket step shard : Nat) (hm : m.memOk) :
    (m.ensureNode job bucket step shard).memOk := by
  unfold Mod.ensureNode
  repeat' with_reducible first
    | assumption | apply Mod.updJob_memOk

theorem Mod.storeScales_memOk (m : Mod) (job bucket step shard : Nat) (codes : List Nat) (hm : m.memOk) :
    (m.storeScales job bucket step shard codes).memOk := by
  unfold Mod.storeScales
  repeat' with_reducible first
    | assumption | apply Mod.updJob_memOk

theorem Mod.sendScales_memOk (m : Mod) (a : NodeAt) (codes : List Nat) (hm : m.memOk) :
    (m.sendScales a codes).memOk := by
  unfold Mod.sendScales
  repeat' with_reducible first
    | assumption | apply Mod.emit_memOk | apply foldl_memOk | (intro _ _ _; try dsimp only)

theorem Mod.writeShard_memOk (m : Mod) (a : NodeAt) (c : Nat) (s : ChunkSum) (hm : m.memOk) :
    (m.writeShard a c s).memOk := by
  unfold Mod.writeShard
  repeat' with_reducible first
    | assumption | apply memOk_wf | apply memOk_tierC | apply memOk_sessions | apply Mod.store_memOk
    | apply Mod.completeAll_memOk | apply Mod.checkWrite_memOk | apply Mod.setNode_memOk
    | refine fst_memOk ‹_ = (_, _)› ?_ | (simp only [↓memOk_mk]; refine ⟨?_, ?_, ?_⟩) | dsimp only | split

theorem Mod.sendChunk_memOk (m : Mod) (a : NodeAt) (parent c : Nat) (s : ChunkSum) (codes : List Nat) (hm : m.memOk) :
    (m.sendChunk a parent c s codes).memOk := by
  unfold Mod.sendChunk
  repeat' with_reducible first
    | assumption | apply Mod.store_memOk | apply Mod.emit_memOk | apply Mod.countJob_memOk | apply Mod.setNode_memOk
    | apply ite_memOk

theorem Mod.rootDone_memOk (m : Mod) (a : NodeAt) (codes : List Nat) (hm : m.memOk) :
    (m.rootDone a codes).memOk := by
  unfold Mod.rootDone
  repeat' with_reducible first
    | assumption | apply Mod.trace__memOk | apply Mod.storeScales_memOk | apply Mod.sendScales_memOk | apply ite_memOk

theorem Mod.formChunk_memOk (m : Mod) (job bucket step shard : Nat) (force : Bool) (c : Nat) (hm : m.memOk) :
    (m.formChunk job bucket step shard force c).memOk := by
  unfold Mod.formChunk
  repeat' with_reducible first
    | assumption | apply memOk_wf | apply memOk_tierC | apply memOk_sessions | apply Mod.updJob_memOk
    | apply Mod.countJob_memOk | apply Mod.setNode_memOk | apply Mod.writeShard_memOk | apply Mod.sendChunk_memOk
    | apply Mod.rootDone_memOk | apply ite_memOk | (simp only [↓memOk_mk]; refine ⟨?_, ?_, ?_⟩) | dsimp only | split

theorem Mod.formNode_memOk (m : Mod) (job bucket step shard : Nat) (force : Bool) (hm : m.memOk) :
    (m.formNode job bucket step shard force).memOk := by
  unfold Mod.formNode
  repeat' with_reducible first
    | assumption | apply Mod.formChunk_memOk | apply foldl_memOk | (intro _ _ _; try dsimp only) | split

theorem Mod.armNode_memOk (m : Mod) (a : NodeAt) (hm : m.memOk) :
    (m.armNode a).memOk := by
  unfold Mod.armNode
  repeat' with_reducible first
    | assumption | apply Mod.setNode_memOk | apply ite_memOk

theorem Mod.lateInput_memOk (m : Mod) (a : NodeAt) (e c count : Nat) (values : List (BitVec 32)) (hm : m.memOk) :
    (m.lateInput a e c count values).memOk := by
  unfold Mod.lateInput
  repeat' with_reducible first
    | assumption | apply Mod.updJob_memOk | apply Mod.countJob_memOk | apply ite_memOk

theorem Mod.giveInput_memOk (m : Mod) (job bucket step shard : Nat) (x : WaleInput) (hm : m.memOk) :
    (m.giveInput job bucket step shard x).memOk := by
  unfold Mod.giveInput
  repeat' with_reducible first
    | assumption | apply Mod.setNode_memOk | apply Mod.formChunk_memOk | apply Mod.armNode_memOk
    | apply Mod.lateInput_memOk | apply ite_memOk | split

theorem Mod.expireNode_memOk (m : Mod) (a : NodeAt) (hm : m.memOk) :
    (m.expireNode a).memOk := by
  unfold Mod.expireNode
  repeat' with_reducible first
    | assumption | apply Mod.trace__memOk | apply Mod.setNode_memOk | apply Mod.formNode_memOk

theorem Mod.passNode_memOk (m : Mod) (job bucket step shard : Nat) (hm : m.memOk) :
    (m.passNode job bucket step shard).memOk := by
  unfold Mod.passNode
  repeat' with_reducible first
    | assumption | apply Mod.expireNode_memOk | apply ite_memOk | split

theorem Mod.ownPresent_memOk (m : Mod) (j : Job) (b : BucketDecl) (step count : Nat) (hm : m.memOk) :
    (m.ownPresent j b step count).memOk := by
  unfold Mod.ownPresent
  repeat' with_reducible first
    | assumption | apply Mod.passNode_memOk | apply Mod.ensureNode_memOk | apply Mod.formNode_memOk | apply Mod.giveInput_memOk
    | apply foldl_memOk | (intro _ _ _; try dsimp only)

theorem Mod.giveUp_memOk (m : Mod) (job bucket step : Nat) (hm : m.memOk) :
    (m.giveUp job bucket step).memOk := by
  unfold Mod.giveUp
  repeat' with_reducible first
    | assumption | apply Mod.updJob_memOk

theorem Mod.chunkRefused_memOk (m : Mod) (job bucket step shard chunk : Nat) (hm : m.memOk) :
    (m.chunkRefused job bucket step shard chunk).memOk := by
  unfold Mod.chunkRefused
  repeat' with_reducible first
    | assumption | apply memOk_wf | apply memOk_tierC | apply memOk_sessions | apply Mod.countJob_memOk
    | apply Mod.setNode_memOk | apply ite_memOk | (simp only [↓memOk_mk]; refine ⟨?_, ?_, ?_⟩) | split

theorem Mod.waleNotice_memOk (m : Mod) (job rank : Nat) (hm : m.memOk) :
    (m.waleNotice job rank).memOk := by
  unfold Mod.waleNotice
  repeat' with_reducible first
    | assumption | apply memOk_wf | apply memOk_tierC | apply memOk_sessions | apply Mod.countJob_memOk
    | apply Mod.setNode_memOk | apply Mod.formNode_memOk | apply foldl_memOk | apply ite_memOk
    | (simp only [↓memOk_mk]; refine ⟨?_, ?_, ?_⟩) | (intro _ _ _; try dsimp only) | split

theorem Mod.holdWale_memOk (m : Mod) (job : Nat) (kind : WaleKind) (x : WaleMsg) (hm : m.memOk) :
    (m.holdWale job kind x).memOk := by
  unfold Mod.holdWale
  repeat' with_reducible first
    | assumption | apply Mod.updJob_memOk

theorem Mod.ackWale_memOk (m : Mod) (j : Job) (x : WaleMsg) (hm : m.memOk) :
    (m.ackWale j x).memOk := by
  unfold Mod.ackWale
  repeat' with_reducible first
    | assumption | apply Mod.emit_memOk

theorem Mod.updGather_memOk (m : Mod) (job bucket step : Nat) (f : GatherState → GatherState) (hm : m.memOk) :
    (m.updGather job bucket step f).memOk := by
  unfold Mod.updGather
  repeat' with_reducible first
    | assumption | apply Mod.updJob_memOk

theorem Mod.ensureGather_memOk (m : Mod) (job bucket step : Nat) (hm : m.memOk) :
    (m.ensureGather job bucket step).memOk := by
  unfold Mod.ensureGather
  repeat' with_reducible first
    | assumption | apply Mod.updJob_memOk

theorem Mod.takeGather_memOk (m : Mod) (j : Job) (b : BucketDecl) (step shard c fmt : Nat) (body : Bytes) (hm :
    m.memOk) :
    (m.takeGather j b step shard c fmt body).memOk := by
  unfold Mod.takeGather
  repeat' with_reducible first
    | assumption | apply Mod.store_memOk | apply Mod.emit_memOk | apply Mod.completeAll_memOk
    | apply Mod.checkWrite_memOk | apply Mod.updGather_memOk | refine fst_memOk ‹_ = (_, _)› ?_ | apply foldl_memOk
    | (intro _ _ _; try dsimp only) | split

theorem Mod.endReduction_memOk (m : Mod) (id : CmdId) (missing : Nat) (hm : m.memOk) :
    (m.endReduction id missing).memOk := by
  unfold Mod.endReduction
  repeat' with_reducible first
    | assumption | apply Mod.updSum_memOk | apply Mod.complete_memOk | apply ite_memOk

theorem Mod.endGathers_memOk (m : Mod) (job : Nat) (hm : m.memOk) :
    (m.endGathers job).memOk := by
  unfold Mod.endGathers
  repeat' with_reducible first
    | assumption | apply Mod.updJob_memOk | apply Mod.updSum_memOk | apply Mod.endReduction_memOk | apply foldl_memOk
    | apply ite_memOk | (intro _ _ _; try dsimp only) | split

theorem Mod.startGather_memOk (m : Mod) (id : CmdId) (j : Job) (b : BucketDecl) (step missing : Nat) (src : Elems) (hm
    : m.memOk) :
    (m.startGather id j b step missing src).memOk := by
  unfold Mod.startGather
  repeat' with_reducible first
    | assumption | apply memOk_wf | apply memOk_tierC | apply memOk_sessions | apply Mod.setWork_memOk
    | apply Mod.updSum_memOk | apply Mod.complete_memOk | apply Mod.checkLocal_memOk | apply Mod.ensureGather_memOk
    | apply Mod.takeGather_memOk | apply Mod.endReduction_memOk | apply Mod.endGathers_memOk | apply foldl_memOk
    | apply ite_memOk | (simp only [↓memOk_mk]; refine ⟨?_, ?_, ?_⟩) | (intro _ _ _; try dsimp only) | dsimp only
    | split

theorem Mod.endReduces_memOk (m : Mod) (job bucket step : Nat) (hm : m.memOk) :
    (m.endReduces job bucket step).memOk := by
  unfold Mod.endReduces
  repeat' with_reducible first
    | assumption | apply memOk_wf | apply memOk_tierC | apply memOk_sessions | apply Mod.updSum_memOk
    | apply Mod.endReduction_memOk | apply Mod.startGather_memOk | apply foldl_memOk | apply ite_memOk
    | (simp only [↓memOk_mk]; refine ⟨?_, ?_, ?_⟩) | (intro _ _ _; try dsimp only) | split

theorem Mod.beginReduce_memOk (m : Mod) (id : CmdId) (c : Cmd) (j : Job) (b : BucketDecl) (step : Nat) (hm : m.memOk) :
    (m.beginReduce id c j b step).memOk := by
  unfold Mod.beginReduce
  repeat' with_reducible first
    | assumption | apply memOk_wf | apply memOk_tierC | apply memOk_sessions | apply Mod.setWork_memOk
    | apply Mod.updSum_memOk | apply Mod.complete_memOk | apply Mod.checkLocal_memOk | apply Mod.ownPresent_memOk
    | apply Mod.endReduces_memOk | apply ite_memOk | (simp only [↓memOk_mk]; refine ⟨?_, ?_, ?_⟩) | dsimp only | split

theorem Mod.pokeScales_memOk (m : Mod) (job : Nat) (hm : m.memOk) :
    (m.pokeScales job).memOk := by
  unfold Mod.pokeScales
  repeat' with_reducible first
    | assumption | apply Mod.beginReduce_memOk | apply foldl_memOk | apply ite_memOk | (intro _ _ _; try dsimp only)
    | split

theorem Mod.startCollective_memOk (m : Mod) (id : CmdId) (c : Cmd) (j : Job) (hm : m.memOk) :
    (m.startCollective id c j).memOk := by
  unfold Mod.startCollective
  repeat' with_reducible first
    | assumption | apply memOk_wf | apply memOk_tierC | apply memOk_sessions | apply Mod.complete_memOk
    | apply Mod.startGather_memOk | apply Mod.beginReduce_memOk | apply ite_memOk
    | (simp only [↓memOk_mk]; refine ⟨?_, ?_, ?_⟩) | split

theorem Mod.endBroadcast_memOk (m : Mod) (id : CmdId) (hm : m.memOk) :
    (m.endBroadcast id).memOk := by
  unfold Mod.endBroadcast
  repeat' with_reducible first
    | assumption | apply Mod.endBody_memOk | apply ite_memOk | split

theorem Mod.takeCast_memOk (m : Mod) (id : CmdId) (x : Data) (c fmt : Nat) (body : Bytes) (last : Bool) (hm : m.memOk) :
    (m.takeCast id x c fmt body last).memOk := by
  unfold Mod.takeCast
  repeat' with_reducible first
    | assumption | apply memOk_wf | apply memOk_tierC | apply memOk_sessions | apply Mod.emit_memOk
    | apply Mod.updRunning_memOk | apply Mod.setWork_memOk | apply Mod.updSum_memOk | apply Mod.complete_memOk
    | apply Mod.checkAccess_memOk | apply Mod.land_memOk | apply foldl_memOk | apply ite_memOk
    | (simp only [↓memOk_mk]; refine ⟨?_, ?_, ?_⟩) | (intro _ _ _; try dsimp only) | dsimp only | split

theorem Mod.goBroadcast_memOk (m : Mod) (id : CmdId) (x : Data) (got : List (Nat × Byte)) (hm : m.memOk) :
    (m.goBroadcast id x got).memOk := by
  unfold Mod.goBroadcast
  repeat' with_reducible first
    | assumption | apply memOk_wf | apply memOk_tierC | apply memOk_sessions | apply Mod.setWork_memOk
    | apply Mod.updSum_memOk | apply Mod.complete_memOk | apply Mod.ask_memOk | apply Mod.checkLocal_memOk
    | apply Mod.endBroadcast_memOk | apply Mod.takeCast_memOk | apply foldl_memOk
    | (simp only [↓memOk_mk]; refine ⟨?_, ?_, ?_⟩) | (intro _ _ _; try dsimp only) | dsimp only | split

theorem Mod.goSend_memOk (m : Mod) (id : CmdId) (x : Data) (got : List (Nat × Byte)) (theirs : Nat) (hm : m.memOk) :
    (m.goSend id x got theirs).memOk := by
  unfold Mod.goSend
  repeat' with_reducible first
    | assumption | apply memOk_wf | apply memOk_tierC | apply memOk_sessions | apply Mod.emit_memOk
    | apply Mod.setWork_memOk | apply Mod.updSum_memOk | apply Mod.complete_memOk | apply Mod.checkLocal_memOk
    | apply foldl_memOk | apply ite_memOk | (simp only [↓memOk_mk]; refine ⟨?_, ?_, ?_⟩)
    | (intro _ _ _; try dsimp only) | dsimp only | split

theorem Mod.pokeSend_memOk (m : Mod) (id : CmdId) (hm : m.memOk) :
    (m.pokeSend id).memOk := by
  unfold Mod.pokeSend
  repeat' with_reducible first
    | assumption | apply memOk_wf | apply memOk_tierC | apply memOk_sessions | apply Mod.updJob_memOk
    | apply Mod.setWork_memOk | apply Mod.ask_memOk | apply Mod.goSend_memOk
    | (simp only [↓memOk_mk]; refine ⟨?_, ?_, ?_⟩) | dsimp only | split

theorem Mod.endRecv_memOk (m : Mod) (id : CmdId) (hm : m.memOk) :
    (m.endRecv id).memOk := by
  unfold Mod.endRecv
  repeat' with_reducible first
    | assumption | apply Mod.endBody_memOk | apply ite_memOk | split

theorem Mod.pokeRecv_memOk (m : Mod) (id : CmdId) (hm : m.memOk) :
    (m.pokeRecv id).memOk := by
  unfold Mod.pokeRecv
  repeat' with_reducible first
    | assumption | apply memOk_wf | apply memOk_tierC | apply memOk_sessions | apply Mod.setWork_memOk
    | apply Mod.ask_memOk | (simp only [↓memOk_mk]; refine ⟨?_, ?_, ?_⟩) | dsimp only | split

theorem Mod.startStream_memOk (m : Mod) (id : CmdId) (c : Cmd) (j : Job) (hm : m.memOk) :
    (m.startStream id c j).memOk := by
  unfold Mod.startStream
  repeat' with_reducible first
    | assumption | apply memOk_wf | apply memOk_tierC | apply memOk_sessions | apply Mod.emit_memOk
    | apply Mod.setWork_memOk | apply Mod.claimData_memOk | apply Mod.goBroadcast_memOk | apply Mod.pokeSend_memOk
    | apply Mod.pokeRecv_memOk | refine error_memOk ‹_ = Except.error _› ?_
    | refine ok_memOk ‹_ = Except.ok (_, _)› ?_ | (simp only [↓memOk_mk]; refine ⟨?_, ?_, ?_⟩) | dsimp only | split

theorem Mod.onClear_memOk (m : Mod) (j : Job) (x : WaleMsg) (hm : m.memOk) :
    (m.onClear j x).memOk := by
  unfold Mod.onClear
  repeat' with_reducible first
    | assumption | apply memOk_wf | apply memOk_tierC | apply memOk_sessions | apply Mod.updJob_memOk
    | apply Mod.pokeSend_memOk | (simp only [↓memOk_mk]; refine ⟨?_, ?_, ?_⟩) | dsimp only | split

theorem Mod.onSendData_memOk (m : Mod) (j : Job) (x : WaleMsg) (hm : m.memOk) :
    (m.onSendData j x).1.memOk := by
  unfold Mod.onSendData
  repeat' with_reducible first
    | assumption | apply memOk_wf | apply memOk_tierC | apply memOk_sessions | apply Mod.updRunning_memOk
    | apply Mod.setWork_memOk | apply Mod.updSum_memOk | apply Mod.complete_memOk | apply Mod.checkAccess_memOk
    | apply Mod.land_memOk | apply Mod.ackWale_memOk | apply Mod.endRecv_memOk
    | (simp only [↓memOk_mk]; refine ⟨?_, ?_, ?_⟩) | dsimp only | split

theorem Mod.onGather_memOk (m : Mod) (j : Job) (x : WaleMsg) (hm : m.memOk) :
    (m.onGather j x).1.memOk := by
  unfold Mod.onGather
  repeat' with_reducible first
    | assumption | apply memOk_wf | apply memOk_tierC | apply memOk_sessions | apply Mod.ackWale_memOk
    | apply Mod.ensureGather_memOk | apply Mod.takeGather_memOk | apply Mod.endGathers_memOk
    | apply Mod.endBroadcast_memOk | apply Mod.takeCast_memOk | (simp only [↓memOk_mk]; refine ⟨?_, ?_, ?_⟩)
    | dsimp only | split

theorem Mod.onChunk_memOk (m : Mod) (j : Job) (x : WaleMsg) (hm : m.memOk) :
    (m.onChunk j x).memOk := by
  unfold Mod.onChunk
  repeat' with_reducible first
    | assumption | apply memOk_wf | apply memOk_tierC | apply memOk_sessions | apply Mod.countJob_memOk
    | apply Mod.passNode_memOk | apply Mod.ensureNode_memOk | apply Mod.giveInput_memOk | apply Mod.ackWale_memOk
    | apply Mod.endReduces_memOk | apply ite_memOk | (simp only [↓memOk_mk]; refine ⟨?_, ?_, ?_⟩) | dsimp only | split

theorem Mod.onAck_memOk (m : Mod) (j : Job) (x : WaleMsg) (hm : m.memOk) :
    (m.onAck j x).memOk := by
  unfold Mod.onAck
  repeat' with_reducible first
    | assumption | apply memOk_wf | apply memOk_tierC | apply memOk_sessions | apply Mod.setWork_memOk
    | apply Mod.endBody_memOk | apply Mod.updNode_memOk | apply Mod.updGather_memOk | apply Mod.endGathers_memOk
    | apply Mod.endReduces_memOk | apply Mod.endBroadcast_memOk | apply foldl_memOk | apply ite_memOk
    | (simp only [↓memOk_mk]; refine ⟨?_, ?_, ?_⟩) | (intro _ _ _; try dsimp only) | split

theorem Mod.onScales_memOk (m : Mod) (j : Job) (x : WaleMsg) (hm : m.memOk) :
    (m.onScales j x).memOk := by
  unfold Mod.onScales
  repeat' with_reducible first
    | assumption | apply memOk_wf | apply memOk_tierC | apply memOk_sessions | apply Mod.ensureNode_memOk
    | apply Mod.storeScales_memOk | apply Mod.sendScales_memOk | apply Mod.formNode_memOk | apply Mod.endReduces_memOk
    | apply Mod.pokeScales_memOk | (simp only [↓memOk_mk]; refine ⟨?_, ?_, ?_⟩) | split

theorem Mod.waleDeadline_memOk (m : Mod) (job bucket step shard : Nat) (hm : m.memOk) :
    (m.waleDeadline job bucket step shard).memOk := by
  unfold Mod.waleDeadline
  repeat' with_reducible first
    | assumption | apply Mod.expireNode_memOk | apply Mod.endReduces_memOk | apply ite_memOk | split

theorem Mod.recordVerdict_memOk (m : Mod) (v : VerdictRec) (hm : m.memOk) :
    (m.recordVerdict v).memOk := by
  unfold Mod.recordVerdict
  repeat' with_reducible first
    | assumption | apply memOk_wf | apply memOk_tierC | apply memOk_sessions | apply Mod.mirror_memOk
    | apply ite_memOk | (simp only [↓memOk_mk]; refine ⟨?_, ?_, ?_⟩)

theorem Mod.endNorm_memOk (m : Mod) (id : CmdId) (v : VerdictRec) (hm : m.memOk) :
    (m.endNorm id v).memOk := by
  unfold Mod.endNorm
  repeat' with_reducible first
    | assumption | apply Mod.updSum_memOk | apply Mod.complete_memOk

theorem Mod.endNorms_memOk (m : Mod) (v : VerdictRec) (hm : m.memOk) :
    (m.endNorms v).memOk := by
  unfold Mod.endNorms
  repeat' with_reducible first
    | assumption | apply Mod.endNorm_memOk | apply foldl_memOk | (intro _ _ _; try dsimp only)

theorem Mod.updNorm_memOk (m : Mod) (job step : Nat) (f : NormNode → NormNode) (hm : m.memOk) :
    (m.updNorm job step f).memOk := by
  unfold Mod.updNorm
  repeat' with_reducible first
    | assumption | apply Mod.updJob_memOk

theorem Mod.ensureNorm_memOk (m : Mod) (job step : Nat) (hm : m.memOk) :
    (m.ensureNorm job step).memOk := by
  unfold Mod.ensureNorm
  repeat' with_reducible first
    | assumption | apply Mod.updJob_memOk

theorem Mod.formNorm_memOk (m : Mod) (job step : Nat) (hm : m.memOk) :
    (m.formNorm job step).memOk := by
  unfold Mod.formNorm
  repeat' with_reducible first
    | assumption | apply memOk_wf | apply memOk_tierC | apply memOk_sessions | apply Mod.emit_memOk
    | apply Mod.recordVerdict_memOk | apply Mod.endNorms_memOk | apply Mod.updNorm_memOk | apply foldl_memOk
    | apply ite_memOk | (simp only [↓memOk_mk]; refine ⟨?_, ?_, ?_⟩) | (intro _ _ _; try dsimp only) | split

theorem Mod.normDeadline_memOk (m : Mod) (job step : Nat) (hm : m.memOk) :
    (m.normDeadline job step).memOk := by
  unfold Mod.normDeadline
  repeat' with_reducible first
    | assumption | apply memOk_wf | apply memOk_tierC | apply memOk_sessions | apply Mod.trace__memOk
    | apply Mod.updJob_memOk | apply Mod.updNorm_memOk | apply Mod.formNorm_memOk | apply ite_memOk
    | (simp only [↓memOk_mk]; refine ⟨?_, ?_, ?_⟩) | split

theorem Mod.passNorm_memOk (m : Mod) (job step : Nat) (hm : m.memOk) :
    (m.passNorm job step).memOk := by
  unfold Mod.passNorm
  repeat' with_reducible first
    | assumption | apply Mod.normDeadline_memOk | apply ite_memOk | split

theorem Mod.giveNorm_memOk (m : Mod) (j : Job) (step e : Nat) (vec : List (BitVec 32)) (degraded spoiled nonfinite :
    Bool) (spoiler : Nat) (hm : m.memOk) :
    (m.giveNorm j step e vec degraded spoiled nonfinite spoiler).memOk := by
  unfold Mod.giveNorm
  repeat' with_reducible first
    | assumption | apply Mod.updNorm_memOk | apply Mod.passNorm_memOk | apply Mod.ensureNorm_memOk
    | apply Mod.formNorm_memOk

theorem Mod.normNotice_memOk (m : Mod) (job rank : Nat) (hm : m.memOk) :
    (m.normNotice job rank).memOk := by
  unfold Mod.normNotice
  repeat' with_reducible first
    | assumption | apply memOk_wf | apply memOk_tierC | apply memOk_sessions | apply Mod.updNorm_memOk
    | apply Mod.ensureNorm_memOk | apply Mod.formNorm_memOk | apply foldl_memOk
    | (simp only [↓memOk_mk]; refine ⟨?_, ?_, ?_⟩) | (intro _ _ _; try dsimp only) | split

theorem Mod.beginNorm_memOk (m : Mod) (id : CmdId) (hm : m.memOk) :
    (m.beginNorm id).memOk := by
  unfold Mod.beginNorm
  repeat' with_reducible first
    | assumption | apply memOk_wf | apply memOk_tierC | apply memOk_sessions | apply Mod.setWork_memOk
    | apply Mod.endNorm_memOk | apply Mod.giveNorm_memOk | (simp only [↓memOk_mk]; refine ⟨?_, ?_, ?_⟩) | dsimp only
    | split

theorem Mod.startNorm_memOk (m : Mod) (id : CmdId) (c : Cmd) (hm : m.memOk) :
    (m.startNorm id c).memOk := by
  unfold Mod.startNorm
  repeat' with_reducible first
    | assumption | apply Mod.updJob_memOk | apply Mod.setWork_memOk | apply Mod.beginNorm_memOk | apply ite_memOk

theorem Mod.normLane_memOk (m : Mod) (channel : Nat) (hm : m.memOk) :
    (m.normLane channel).memOk := by
  unfold Mod.normLane
  repeat' with_reducible first
    | assumption | apply Mod.setWork_memOk | apply Mod.beginNorm_memOk | apply foldl_memOk
    | (intro _ _ _; try dsimp only) | split

theorem Mod.onNormUp_memOk (m : Mod) (j : Job) (x : WaleMsg) (hm : m.memOk) :
    (m.onNormUp j x).memOk := by
  unfold Mod.onNormUp
  repeat' with_reducible first
    | assumption | apply Mod.giveNorm_memOk | split

theorem Mod.onVerdict_memOk (m : Mod) (j : Job) (x : WaleMsg) (hm : m.memOk) :
    (m.onVerdict j x).memOk := by
  unfold Mod.onVerdict
  repeat' with_reducible first
    | assumption | apply memOk_wf | apply memOk_tierC | apply memOk_sessions | apply Mod.recordVerdict_memOk
    | apply Mod.endNorms_memOk | (simp only [↓memOk_mk]; refine ⟨?_, ?_, ?_⟩) | dsimp only | split

theorem Mod.takeWale_memOk (m : Mod) (j : Job) (kind : WaleKind) (x : WaleMsg) (hm : m.memOk) :
    (m.takeWale j kind x).1.memOk := by
  unfold Mod.takeWale
  repeat' with_reducible first
    | assumption | apply Mod.onClear_memOk | apply Mod.onSendData_memOk | apply Mod.onGather_memOk
    | apply Mod.onChunk_memOk | apply Mod.onAck_memOk | apply Mod.onScales_memOk | apply Mod.onNormUp_memOk
    | apply Mod.onVerdict_memOk | split

theorem Mod.replayFuel_memOk (n : Nat) (m : Mod) (job : Nat) (l : List (WaleKind × WaleMsg)) (h : m.memOk) :
    (replayFuel n m job l).memOk := by
  induction n generalizing m job l with
  | zero => exact h
  | succ n ih =>
    cases l with
    | nil => exact h
    | cons t ts =>
    dsimp only [replayFuel]
    repeat' with_reducible first
      | assumption | apply ih | apply Mod.holdWale_memOk | apply Mod.takeWale_memOk | apply ite_memOk | split

theorem Mod.replayWale_memOk (m : Mod) (job : Nat) (hm : m.memOk) :
    (m.replayWale job).memOk := by
  unfold Mod.replayWale
  repeat' with_reducible first
    | assumption | apply Mod.updJob_memOk | apply Mod.replayFuel_memOk | apply ite_memOk | split

theorem Mod.onWale_memOk (m : Mod) (kind : WaleKind) (x : WaleMsg) (hm : m.memOk) :
    (m.onWale kind x).memOk := by
  unfold Mod.onWale
  repeat' with_reducible first
    | assumption | apply memOk_wf | apply memOk_tierC | apply memOk_sessions | apply Mod.count_memOk
    | apply Mod.countJob_memOk | apply Mod.turnAway_memOk | apply Mod.holdWale_memOk | apply Mod.ackWale_memOk
    | apply Mod.takeWale_memOk | apply Mod.replayWale_memOk | apply ite_memOk
    | (simp only [↓memOk_mk]; refine ⟨?_, ?_, ?_⟩) | split

theorem Mod.verdictRequest_memOk (m : Mod) (job step rank : Nat) (hm : m.memOk) :
    (m.verdictRequest job step rank).memOk := by
  unfold Mod.verdictRequest
  repeat' with_reducible first
    | assumption | apply Mod.emit_memOk | apply Mod.turnAway_memOk | apply ite_memOk | split

theorem Mod.journal_memOk (m : Mod) (r : JournalRec) (hm : m.memOk) :
    (m.journal r).memOk := by
  unfold Mod.journal
  repeat' with_reducible first
    | assumption | apply memOk_wf | apply memOk_tierC | apply memOk_sessions
    | (simp only [↓memOk_mk]; refine ⟨?_, ?_, ?_⟩)

theorem Mod.rollForward_memOk (m : Mod) (job : Nat) (hm : m.memOk) :
    (m.rollForward job).memOk := by
  unfold Mod.rollForward
  repeat' with_reducible first
    | assumption | apply memOk_wf | apply memOk_tierC | apply memOk_sessions | apply Mod.store_memOk
    | apply Mod.updJob_memOk | apply Mod.countJob_memOk | apply foldl_memOk | apply ite_memOk
    | (simp only [↓memOk_mk]; refine ⟨?_, ?_, ?_⟩) | (intro _ _ _; try dsimp only) | split

theorem Mod.endSweep_memOk (m : Mod) (id : CmdId) (degraded : Bool) (pages : Nat) (hm : m.memOk) :
    (m.endSweep id degraded pages).memOk := by
  unfold Mod.endSweep
  repeat' with_reducible first
    | assumption | apply Mod.updSum_memOk | apply Mod.complete_memOk

theorem Mod.gateSweep_memOk (m : Mod) (id : CmdId) (c : Cmd) (j : Job) (v : VerdictRec) (hm : m.memOk) :
    (m.gateSweep id c j v).memOk := by
  unfold Mod.gateSweep
  repeat' with_reducible first
    | assumption | apply memOk_wf | apply memOk_tierC | apply memOk_sessions | apply Mod.updJob_memOk
    | apply Mod.countJob_memOk | apply Mod.setWork_memOk | apply Mod.complete_memOk | apply Mod.noteTensors_memOk
    | apply Mod.endSweep_memOk | apply ite_memOk | (simp only [↓memOk_mk]; refine ⟨?_, ?_, ?_⟩) | split

theorem Mod.askVerdict_memOk (m : Mod) (j : Job) (hm : m.memOk) :
    (m.askVerdict j).memOk := by
  unfold Mod.askVerdict
  repeat' with_reducible first
    | assumption | apply Mod.sendReq_memOk | apply ite_memOk

theorem Mod.startSweep_memOk (m : Mod) (id : CmdId) (c : Cmd) (j : Job) (hm : m.memOk) :
    (m.startSweep id c j).memOk := by
  unfold Mod.startSweep
  repeat' with_reducible first
    | assumption | apply Mod.countJob_memOk | apply Mod.setWork_memOk | apply Mod.complete_memOk
    | apply Mod.gateSweep_memOk | apply Mod.askVerdict_memOk | apply ite_memOk | split

theorem Mod.pokeVerdict_memOk (m : Mod) (job : Nat) (hm : m.memOk) :
    (m.pokeVerdict job).memOk := by
  unfold Mod.pokeVerdict
  repeat' with_reducible first
    | assumption | apply Mod.gateSweep_memOk | apply foldl_memOk | apply ite_memOk | (intro _ _ _; try dsimp only)
    | split

theorem Mod.verdictRetry_memOk (m : Mod) (id : CmdId) (hm : m.memOk) :
    (m.verdictRetry id).memOk := by
  unfold Mod.verdictRetry
  repeat' with_reducible first
    | assumption | apply Mod.askVerdict_memOk | split

theorem Mod.verdictHere_memOk (m : Mod) (x : WaleMsg) (hm : m.memOk) :
    (m.verdictHere x).memOk := by
  unfold Mod.verdictHere
  repeat' with_reducible first
    | assumption | apply Mod.onWale_memOk | apply Mod.pokeVerdict_memOk

theorem Mod.goCommit_memOk (m : Mod) (id : CmdId) (c : Cmd) (j : Job) (hm : m.memOk) :
    (m.goCommit id c j).memOk := by
  unfold Mod.goCommit
  repeat' with_reducible first
    | assumption | apply Mod.updJob_memOk | apply Mod.setWork_memOk | apply Mod.complete_memOk | apply ite_memOk

theorem Mod.dropExStep_memOk (m : Mod) (j : Job) (s : ExStep) (hm : m.memOk) :
    (m.dropExStep j s).memOk := by
  unfold Mod.dropExStep
  repeat' with_reducible first
    | assumption | apply memOk_wf | apply memOk_tierC | apply memOk_sessions | apply Mod.updJob_memOk
    | apply Mod.freeRecv_memOk | apply Mod.freeLedger_memOk | apply Mod.pullsOf_memOk
    | (simp only [↓memOk_mk]; refine ⟨?_, ?_, ?_⟩) | split

theorem Mod.goRollback_memOk (m : Mod) (id : CmdId) (c : Cmd) (j : Job) (hm : m.memOk) :
    (m.goRollback id c j).memOk := by
  unfold Mod.goRollback
  repeat' with_reducible first
    | assumption | apply memOk_wf | apply memOk_tierC | apply memOk_sessions | apply Mod.mirror_memOk
    | apply Mod.updJob_memOk | apply Mod.setWork_memOk | apply Mod.complete_memOk | apply Mod.dropExStep_memOk
    | apply foldl_memOk | apply ite_memOk | (simp only [↓memOk_mk]; refine ⟨?_, ?_, ?_⟩)
    | (intro _ _ _; try dsimp only)

theorem Mod.startRollback_memOk (m : Mod) (id : CmdId) (c : Cmd) (j : Job) (hm : m.memOk) :
    (m.startRollback id c j).memOk := by
  unfold Mod.startRollback
  repeat' with_reducible first
    | assumption | apply Mod.complete_memOk | apply Mod.goRollback_memOk | apply ite_memOk

theorem Mod.pokeSteps_memOk (m : Mod) (job : Nat) (hm : m.memOk) :
    (m.pokeSteps job).memOk := by
  unfold Mod.pokeSteps
  repeat' with_reducible first
    | assumption | apply Mod.goCommit_memOk | apply Mod.goRollback_memOk | apply foldl_memOk | apply ite_memOk
    | (intro _ _ _; try dsimp only) | split

theorem Mod.rollbackEnd_memOk (m : Mod) (job : Nat) (hm : m.memOk) :
    (m.rollbackEnd job).memOk := by
  unfold Mod.rollbackEnd
  repeat' with_reducible first
    | assumption | apply Mod.updJob_memOk | apply ite_memOk | split

theorem Mod.cutUnit_memOk (m : Mod) (id : CmdId) (r : Running) (j : Job) (v : VerdictRec) (left : List (Nat × Nat × Nat))
    (u : Nat) (hm : m.memOk) :
    (m.cutUnit id r j v left u).memOk := by
  unfold Mod.cutUnit
  repeat' with_reducible first
    | assumption | apply Mod.journal_memOk | apply foldl_memOk | apply ite_memOk | apply Mod.freeNat_memOk
    | (simp only [↓memOk_mk]; refine ⟨?_, ?_, ?_⟩) | (intro _ _ _; try dsimp only) | dsimp only | split

theorem Mod.cutSweep_memOk (m : Mod) (id : CmdId) (hm : m.memOk) :
    (m.cutSweep id).memOk := by
  unfold Mod.cutSweep
  repeat' with_reducible first
    | assumption | apply Mod.cutUnit_memOk | apply foldl_memOk | (intro _ _ _; try dsimp only) | split

theorem Mod.failSweep_memOk (m : Mod) (id : CmdId) (job : Nat) (st : Status) (detail : Nat) (hm : m.memOk) :
    (m.failSweep id job st detail).memOk := by
  unfold Mod.failSweep
  repeat' with_reducible first
    | assumption | apply Mod.complete_memOk | apply Mod.rollForward_memOk | apply Mod.pokeSteps_memOk
    | apply Mod.cutSweep_memOk

theorem Mod.sweepPage_memOk (m : Mod) (u : Nat) (hm : m.memOk) :
    (m.sweepPage u).memOk := by
  unfold Mod.sweepPage
  repeat' with_reducible first
    | assumption | apply memOk_wf | apply memOk_tierC | apply memOk_sessions | apply Mod.store_memOk
    | apply Mod.updJob_memOk | apply Mod.countJob_memOk | apply Mod.setWork_memOk | apply Mod.updSum_memOk
    | apply Mod.checkAccess_memOk | apply Mod.noteReads_memOk | apply Mod.journal_memOk | apply Mod.endSweep_memOk
    | apply Mod.pokeSteps_memOk | apply Mod.failSweep_memOk | apply ite_memOk
    | (simp only [↓memOk_mk]; refine ⟨?_, ?_, ?_⟩) | dsimp only | split

theorem Mod.startLoss_memOk (m : Mod) (id : CmdId) (c : Cmd) (j : Job) (hm : m.memOk) :
    (m.startLoss id c j).memOk := by
  unfold Mod.startLoss
  repeat' with_reducible first
    | assumption | apply Mod.updJob_memOk | apply Mod.complete_memOk | apply ite_memOk

theorem Mod.startTraining_memOk (m : Mod) (id : CmdId) (c : Cmd) (j : Job) (hm : m.memOk) :
    (m.startTraining id c j).memOk := by
  unfold Mod.startTraining
  repeat' with_reducible first
    | assumption | apply Mod.startSweep_memOk | apply Mod.goCommit_memOk | apply Mod.startRollback_memOk
    | apply Mod.startLoss_memOk | split

theorem Mod.checkC_memOk (m : Mod) (c : Cmd) (extent off n : Nat) (hm : m.memOk) :
    (m.checkC c extent off n).1.memOk := by
  unfold Mod.checkC
  repeat' with_reducible first
    | assumption | apply memOk_wf | apply memOk_tierC | apply memOk_sessions | apply Mod.addLog_memOk
    | (simp only [↓memOk_mk]; refine ⟨?_, ?_, ?_⟩) | dsimp only | split

theorem Mod.programmed_memOk (m : Mod) (key n : Nat) (hm : m.memOk) :
    (m.programmed key n).memOk := by
  unfold Mod.programmed
  repeat' with_reducible first
    | assumption | apply memOk_wf | apply memOk_tierC | apply memOk_sessions
    | (simp only [↓memOk_mk]; refine ⟨?_, ?_, ?_⟩)

theorem Mod.writeC_memOk (m : Mod) (extent off : Nat) (bs : Bytes) (hm : m.memOk) :
    (m.writeC extent off bs).memOk := by
  unfold Mod.writeC
  repeat' with_reducible first
    | assumption | apply Memory.write_wf | apply memOk_wf | apply memOk_tierC | apply memOk_sessions
    | apply Mod.programmed_memOk | (simp only [↓memOk_mk]; refine ⟨?_, ?_, ?_⟩)

theorem Mod.afterC_memOk (m : Mod) (id : CmdId) (c : Cmd) (extent off n : Nat) (k : Mod → Mod) (hm : m.memOk) (hm1 : ∀
    m, m.memOk → (k m).memOk) :
    (m.afterC id c extent off n k).memOk := by
  unfold Mod.afterC
  repeat' with_reducible first
    | assumption | apply memOk_wf | apply memOk_tierC | apply memOk_sessions | apply hm1 | apply Mod.updSum_memOk
    | apply Mod.complete_memOk | apply Mod.checkC_memOk | (simp only [↓memOk_mk]; refine ⟨?_, ?_, ?_⟩) | dsimp only
    | split

theorem Mod.writeBlocks_memOk (m : Mod) (extent first : Nat) (bs : Bytes) (hm : m.memOk) :
    (m.writeBlocks extent first bs).memOk := by
  unfold Mod.writeBlocks
  repeat' with_reducible first
    | assumption | apply Memory.clear_wf | apply Memory.write_wf | apply memOk_wf | apply memOk_tierC
    | apply memOk_sessions | apply Mod.programmed_memOk | (simp only [↓memOk_mk]; refine ⟨?_, ?_, ?_⟩)

theorem Mod.startCheckpoint_memOk (m : Mod) (id : CmdId) (c : Cmd) (j : Job) (hm : m.memOk) :
    (m.startCheckpoint id c j).memOk := by
  unfold Mod.startCheckpoint
  repeat' with_reducible first
    | assumption | apply memOk_wf | apply memOk_tierC | apply memOk_sessions | apply Mod.updSum_memOk
    | apply Mod.complete_memOk | apply Mod.checkLocal_memOk | apply Mod.noteReads_memOk | apply Mod.writeBlocks_memOk
    | apply foldl_memOk | apply ite_memOk | (simp only [↓memOk_mk]; refine ⟨?_, ?_, ?_⟩)
    | (intro _ _ _; try dsimp only) | dsimp only | split

theorem Mod.restoreAll_memOk (m : Mod) (id : CmdId) (cmd : Cmd) (job extent : Nat) (l : List Stored) (h : m.memOk) :
    (m.restoreAll id cmd job extent l).1.memOk := by
  induction l generalizing m with
  | nil => exact h
  | cons s l ih =>
    unfold Mod.restoreAll
    repeat' with_reducible first
      | assumption | apply memOk_wf | apply memOk_tierC | apply memOk_sessions | apply ih | apply Mod.store_memOk
      | apply Mod.addLog_memOk | apply Mod.updJob_memOk | apply Mod.updSum_memOk | apply Mod.checkWrite_memOk
      | apply Mod.checkC_memOk | apply ite_memOk | (simp only [↓memOk_mk]; refine ⟨?_, ?_, ?_⟩) | dsimp only | split

theorem Mod.startRestore_memOk (m : Mod) (id : CmdId) (c : Cmd) (j : Job) (hm : m.memOk) :
    (m.startRestore id c j).memOk := by
  unfold Mod.startRestore
  repeat' with_reducible first
    | assumption | apply memOk_wf | apply memOk_tierC | apply memOk_sessions | apply Mod.freeNat_memOk
    | apply Mod.mirror_memOk | apply Mod.updJob_memOk | apply Mod.complete_memOk | apply Mod.afterC_memOk
    | apply Mod.restoreAll_memOk | (simp only [↓memOk_mk]; refine ⟨?_, ?_, ?_⟩) | dsimp only | split | intro _

theorem Mod.hitRow_memOk (m : Mod) (a : Nat) (hm : m.memOk) :
    (m.hitRow a).memOk := by
  unfold Mod.hitRow
  repeat' with_reducible first
    | assumption | apply memOk_wf | apply memOk_tierC | apply memOk_sessions | apply Mod.moveRow_memOk
    | apply ite_memOk | (simp only [↓memOk_mk]; refine ⟨?_, ?_, ?_⟩) | split

theorem Mod.hitSram_memOk (m : Mod) (a : Nat) (hm : m.memOk) :
    (m.hitSram a).memOk := by
  unfold Mod.hitSram
  repeat' with_reducible first
    | assumption | apply memOk_wf | apply memOk_tierC | apply memOk_sessions | apply ite_memOk
    | (simp only [↓memOk_mk]; refine ⟨?_, ?_, ?_⟩) | split

theorem Mod.repairSram_memOk (m : Mod) (p : Nat → Bool) (hm : m.memOk) :
    (m.repairSram p).memOk := by
  unfold Mod.repairSram
  repeat' with_reducible first
    | assumption | apply memOk_wf | apply memOk_tierC | apply memOk_sessions | apply Mod.scrubWords_memOk
    | apply Mod.count_memOk | apply Mod.addOpen_memOk | apply foldl_memOk | apply ite_memOk
    | (simp only [↓memOk_mk]; refine ⟨?_, ?_, ?_⟩) | (intro _ _ _; try dsimp only)

theorem Mod.patrolScrub_memOk (m : Mod) (g : Nat) (hm : m.memOk) :
    (m.patrolScrub g).memOk := by
  unfold Mod.patrolScrub
  repeat' with_reducible first
    | assumption | apply Mod.scrubWords_memOk | apply Mod.logRead_memOk | apply Mod.countOwner_memOk
    | apply Mod.moveRow_memOk | apply Mod.hitRow_memOk | apply Mod.hitSram_memOk | apply ite_memOk | split

theorem Mod.repairRows_memOk (m : Mod) (hm : m.memOk) :
    (m.repairRows).memOk := by
  unfold Mod.repairRows
  repeat' with_reducible first
    | assumption | apply memOk_wf | apply memOk_tierC | apply memOk_sessions | apply Mod.freeBool_memOk
    | apply Mod.sparesGone_memOk | apply foldl_memOk | apply ite_memOk | (simp only [↓memOk_mk]; refine ⟨?_, ?_, ?_⟩)
    | (intro _ _ _; try dsimp only)

theorem Mod.laneFails_memOk (m : Mod) (pc lane : Nat) (hm : m.memOk) :
    (m.laneFails pc lane).memOk := by
  unfold Mod.laneFails
  repeat' with_reducible first
    | assumption | apply memOk_wf | apply memOk_tierC | apply memOk_sessions | apply Mod.raiseCause_memOk
    | apply Mod.addLog_memOk | apply ite_memOk | (simp only [↓memOk_mk]; refine ⟨?_, ?_, ?_⟩)

theorem Mod.trainMemory_memOk (m : Mod) (lanes : List (Nat × Nat)) (hm : m.memOk) :
    (m.trainMemory lanes).memOk := by
  unfold Mod.trainMemory
  repeat' with_reducible first
    | assumption | apply Mod.repairRows_memOk | apply Mod.laneFails_memOk | apply foldl_memOk
    | (intro _ _ _; try dsimp only)

theorem Mod.startReadCheck_memOk (m : Mod) (id : CmdId) (c : Cmd) (hm : m.memOk) :
    (m.startReadCheck id c).memOk := by
  unfold Mod.startReadCheck
  repeat' with_reducible first
    | assumption | apply memOk_wf | apply memOk_tierC | apply memOk_sessions | apply Mod.freeNat_memOk
    | apply Mod.updSum_memOk | apply Mod.complete_memOk | (simp only [↓memOk_mk]; refine ⟨?_, ?_, ?_⟩) | split

theorem Mod.startPattern_memOk (m : Mod) (id : CmdId) (c : Cmd) (hm : m.memOk) :
    (m.startPattern id c).memOk := by
  unfold Mod.startPattern
  repeat' with_reducible first
    | assumption | apply Memory.filter_wf | apply memOk_wf | apply memOk_tierC | apply memOk_sessions
    | apply Mod.freeNat_memOk | apply Mod.complete_memOk | (simp only [↓memOk_mk]; refine ⟨?_, ?_, ?_⟩) | split

theorem Mod.setHome_memOk (m : Mod) (region : Nat) (owner : Option (Nat × Nat)) (hm : m.memOk) :
    (m.setHome region owner).memOk := by
  unfold Mod.setHome
  repeat' with_reducible first
    | assumption | apply memOk_wf | apply memOk_tierC | apply memOk_sessions
    | (simp only [↓memOk_mk]; refine ⟨?_, ?_, ?_⟩)

theorem Mod.stewardAnswered_memOk (m : Mod) (id : CmdId) (stale full : Bool) (hm : m.memOk) :
    (m.stewardAnswered id stale full).memOk := by
  unfold Mod.stewardAnswered
  repeat' with_reducible first
    | assumption | apply memOk_wf | apply memOk_tierC | apply memOk_sessions | apply Mod.updJob_memOk
    | apply Mod.setWork_memOk | apply Mod.complete_memOk | apply ite_memOk
    | (simp only [↓memOk_mk]; refine ⟨?_, ?_, ?_⟩) | split

theorem Mod.setOwner_memOk (m : Mod) (region : Nat) (owner : Option (Nat × Nat)) (stale : Bool) (hm : m.memOk) :
    (m.setOwner region owner stale).memOk := by
  unfold Mod.setOwner
  repeat' with_reducible first
    | assumption | apply memOk_wf | apply memOk_tierC | apply memOk_sessions | apply Mod.emit_memOk
    | apply Mod.setHome_memOk | apply ite_memOk | (simp only [↓memOk_mk]; refine ⟨?_, ?_, ?_⟩)

theorem Mod.answerOwner_memOk (m : Mod) (addr : Nat) (id : CmdId) (stale full : Bool) (hm : m.memOk) :
    (m.answerOwner addr id stale full).memOk := by
  unfold Mod.answerOwner
  repeat' with_reducible first
    | assumption | apply Mod.emit_memOk | apply Mod.stewardAnswered_memOk | apply ite_memOk

theorem Mod.grantRegion_memOk (m : Mod) (w : OwnTakeWait) (hm : m.memOk) :
    (m.grantRegion w).memOk := by
  unfold Mod.grantRegion
  repeat' with_reducible first
    | assumption | apply Mod.setOwner_memOk | apply Mod.answerOwner_memOk

theorem Mod.grantNext_memOk (m : Mod) (region : Nat) (hm : m.memOk) :
    (m.grantNext region).memOk := by
  unfold Mod.grantNext
  repeat' with_reducible first
    | assumption | apply memOk_wf | apply memOk_tierC | apply memOk_sessions | apply Mod.grantRegion_memOk
    | (simp only [↓memOk_mk]; refine ⟨?_, ?_, ?_⟩) | split

theorem Mod.ownTake_memOk (m : Mod) (id : CmdId) (owner job region : Nat) (hm : m.memOk) :
    (m.ownTake id owner job region).memOk := by
  unfold Mod.ownTake
  repeat' with_reducible first
    | assumption | apply memOk_wf | apply memOk_tierC | apply memOk_sessions | apply Mod.emit_memOk
    | apply Mod.turnAway_memOk | apply Mod.answerOwner_memOk | apply Mod.grantRegion_memOk | apply ite_memOk
    | (simp only [↓memOk_mk]; refine ⟨?_, ?_, ?_⟩) | split

theorem Mod.ownGive_memOk (m : Mod) (id : CmdId) (owner job region : Nat) (hm : m.memOk) :
    (m.ownGive id owner job region).memOk := by
  unfold Mod.ownGive
  repeat' with_reducible first
    | assumption | apply Mod.turnAway_memOk | apply Mod.setOwner_memOk | apply Mod.answerOwner_memOk
    | apply Mod.grantNext_memOk | apply ite_memOk

theorem Mod.clearOwner_memOk (m : Mod) (owner : Nat) (job : Option Nat) (stale : Bool) (hm : m.memOk) :
    (m.clearOwner owner job stale).memOk := by
  unfold Mod.clearOwner
  repeat' with_reducible first
    | assumption | apply memOk_wf | apply memOk_tierC | apply memOk_sessions | apply Mod.setOwner_memOk
    | apply Mod.grantNext_memOk | apply foldl_memOk | (simp only [↓memOk_mk]; refine ⟨?_, ?_, ?_⟩)
    | (intro _ _ _; try dsimp only)

theorem Mod.askSteward_memOk (m : Mod) (id : CmdId) (op : Op) (job region : Nat) (hm : m.memOk) :
    (m.askSteward id op job region).memOk := by
  unfold Mod.askSteward
  repeat' with_reducible first
    | assumption | apply Mod.emit_memOk | apply Mod.setWork_memOk | apply Mod.ownTake_memOk | apply Mod.ownGive_memOk
    | apply ite_memOk

theorem Mod.startOwn_memOk (m : Mod) (id : CmdId) (c : Cmd) (j : Job) (hm : m.memOk) :
    (m.startOwn id c j).memOk := by
  unfold Mod.startOwn
  repeat' with_reducible first
    | assumption | apply memOk_wf | apply memOk_tierC | apply memOk_sessions | apply Mod.setWork_memOk
    | apply Mod.complete_memOk | apply Mod.askSteward_memOk | apply ite_memOk
    | (simp only [↓memOk_mk]; refine ⟨?_, ?_, ?_⟩) | split

theorem Mod.retryOwn_memOk (m : Mod) (id : CmdId) (phase : Nat) (hm : m.memOk) :
    (m.retryOwn id phase).memOk := by
  unfold Mod.retryOwn
  repeat' with_reducible first
    | assumption | apply Mod.startOwn_memOk | apply ite_memOk | split

end Sys2Proof.Machine
end

