-- ==== Sys2Proof/Laws/MemOkFaults.lean ====
section
/-!
SUPPORT. The canonical form of the memories (`Mod.memOk`) is kept by
jobs, resets, faults, routes and the fabric: one lemma per operation, named after it, for callers to cite in place of unfolding it.
-/

namespace Sys2Proof.Machine

set_option linter.unusedSimpArgs false
set_option linter.unusedTactic false
set_option linter.unreachableTactic false

theorem Mod.withdrawFar_memOk (m : Mod) (id : CmdId) (hm : m.memOk) :
    (m.withdrawFar id).memOk := by
  unfold Mod.withdrawFar
  repeat' with_reducible first
    | assumption | apply Mod.sendReq_memOk | apply ite_memOk | split

theorem Mod.endWith_memOk (m : Mod) (id : CmdId) (st : Status) (d : Nat) (hm : m.memOk) :
    (m.endWith id st d).memOk := by
  unfold Mod.endWith
  repeat' with_reducible first
    | assumption | apply Mod.countJob_memOk | apply Mod.complete_memOk | apply Mod.payOwed_memOk
    | apply Mod.splitCommit_memOk | apply Mod.freeStaged_memOk | apply Mod.dropCommand_memOk
    | apply Mod.stopFeeding_memOk | apply Mod.endEx_memOk | apply Mod.giveUp_memOk | apply Mod.failSweep_memOk
    | apply Mod.withdrawFar_memOk | apply foldl_memOk | apply ite_memOk | (intro _ _ _; try dsimp only) | split

theorem Mod.endQueued_memOk (m : Mod) (l : Lane) (c : Cmd) (st : Status) (d : Nat) (hm : m.memOk) :
    (m.endQueued l c st d).memOk := by
  unfold Mod.endQueued
  repeat' with_reducible first
    | assumption | apply Mod.trace__memOk | apply Mod.updJob_memOk | apply Mod.sendReply_memOk
    | apply Mod.storeReply_memOk

theorem Mod.endCommands_memOk (m : Mod) (p : CmdId → Cmd → Bool) (st : Status) (detail : Mod → Nat × Mod) (hm :
    m.memOk) (hm1 : ∀ m, m.memOk → (detail m).2.memOk) :
    (m.endCommands p st detail).memOk := by
  unfold Mod.endCommands
  repeat' with_reducible first
    | assumption | apply memOk_wf | apply memOk_tierC | apply memOk_sessions | apply hm1 | apply Mod.endWith_memOk
    | apply Mod.endQueued_memOk | apply foldl_memOk | (simp only [↓memOk_mk]; refine ⟨?_, ?_, ?_⟩)
    | (intro _ _ _; try dsimp only)

theorem freeDetail_memOk (m : Mod) (hm : m.memOk) :
    (freeDetail m).2.memOk := by
  unfold freeDetail
  repeat' with_reducible first
    | assumption | apply Mod.freeNat_memOk

theorem Mod.installPlan_memOk (m : Mod) (p : Plan) (s : Placed) (sid : Nat) (hm : m.memOk) :
    (m.installPlan p s sid).memOk := by
  unfold Mod.installPlan
  repeat' with_reducible first
    | assumption | apply memOk_wf | apply memOk_tierC | apply memOk_sessions | apply Mod.zeroFill_memOk
    | apply Mod.extend_memOk | apply Mod.initTies_memOk | apply Mod.initPools_memOk | apply foldl_memOk
    | (simp only [↓memOk_mk]; refine ⟨?_, ?_, ?_⟩) | (intro _ _ _; try dsimp only)

theorem Mod.startPlanLoad_memOk (m : Mod) (id : CmdId) (c : Cmd) (hm : m.memOk) :
    (m.startPlanLoad id c).memOk := by
  unfold Mod.startPlanLoad
  repeat' with_reducible first
    | assumption | apply memOk_wf | apply memOk_tierC | apply memOk_sessions | apply Mod.complete_memOk
    | apply freeDetail_memOk | apply Mod.installPlan_memOk | apply ite_memOk
    | (simp only [↓memOk_mk]; refine ⟨?_, ?_, ?_⟩) | dsimp only | split

theorem Mod.applyPools_memOk (m : Mod) (job : Nat) (hm : m.memOk) :
    (m.applyPools job).memOk := by
  unfold Mod.applyPools
  repeat' with_reducible first
    | assumption | apply memOk_wf | apply memOk_tierC | apply memOk_sessions
    | (simp only [↓memOk_mk]; refine ⟨?_, ?_, ?_⟩)

theorem Mod.startPlanStart_memOk (m : Mod) (id : CmdId) (c : Cmd) (hm : m.memOk) :
    (m.startPlanStart id c).memOk := by
  unfold Mod.startPlanStart
  repeat' with_reducible first
    | assumption | apply memOk_wf | apply memOk_tierC | apply memOk_sessions | apply Mod.sendReq_memOk
    | apply Mod.updJob_memOk | apply Mod.complete_memOk | apply Mod.renewTies_memOk | apply Mod.answerHolds_memOk
    | apply Mod.replayWale_memOk | apply Mod.pokeVerdict_memOk | apply Mod.applyPools_memOk | apply foldl_memOk
    | apply ite_memOk | (simp only [↓memOk_mk]; refine ⟨?_, ?_, ?_⟩) | (intro _ _ _; try dsimp only) | split

theorem Mod.startQuiesce_memOk (m : Mod) (id : CmdId) (c : Cmd) (hm : m.memOk) :
    (m.startQuiesce id c).memOk := by
  unfold Mod.startQuiesce
  repeat' with_reducible first
    | assumption | apply Mod.updJob_memOk | apply Mod.setWork_memOk | apply Mod.complete_memOk | split

theorem Mod.drainComplete_memOk (m : Mod) (job : Nat) (hm : m.memOk) :
    (m.drainComplete job).memOk := by
  unfold Mod.drainComplete
  repeat' with_reducible first
    | assumption | apply memOk_wf | apply memOk_tierC | apply memOk_sessions | apply Mod.updJob_memOk
    | apply Mod.updSum_memOk | apply Mod.complete_memOk | apply foldl_memOk | apply ite_memOk
    | (simp only [↓memOk_mk]; refine ⟨?_, ?_, ?_⟩) | (intro _ _ _; try dsimp only) | split

theorem Mod.fillPlace_memOk (m : Mod) (t : TensorPlace) (hm : m.memOk) :
    (m.fillPlace t).memOk := by
  unfold Mod.fillPlace
  repeat' with_reducible first
    | assumption | apply Mod.zeroFill_memOk | apply foldl_memOk | (intro _ _ _; try dsimp only)

theorem Mod.retain_memOk (m : Mod) (job : Nat) (t : TensorPlace) (hm : m.memOk) :
    (m.retain job t).memOk := by
  unfold Mod.retain
  repeat' with_reducible first
    | assumption | apply memOk_wf | apply memOk_tierC | apply memOk_sessions | apply Mod.fillPlace_memOk
    | apply foldl_memOk | (simp only [↓memOk_mk]; refine ⟨?_, ?_, ?_⟩) | (intro _ _ _; try dsimp only)

theorem Mod.unload_memOk (m : Mod) (j : Job) (hm : m.memOk) :
    (m.unload j).memOk := by
  unfold Mod.unload
  repeat' with_reducible first
    | assumption | apply memOk_wf | apply memOk_tierC | apply memOk_sessions | apply Mod.zeroFill_memOk
    | apply Mod.abandonTies_memOk | apply Mod.dropPools_memOk | apply Mod.clearOwner_memOk | apply Mod.fillPlace_memOk
    | apply Mod.retain_memOk | apply foldl_memOk | apply ite_memOk | (simp only [↓memOk_mk]; refine ⟨?_, ?_, ?_⟩)
    | (intro _ _ _; try dsimp only)

theorem Mod.startUnload_memOk (m : Mod) (id : CmdId) (c : Cmd) (hm : m.memOk) :
    (m.startUnload id c).memOk := by
  unfold Mod.startUnload
  repeat' with_reducible first
    | assumption | apply memOk_wf | apply memOk_tierC | apply memOk_sessions | apply Mod.complete_memOk
    | apply Mod.unload_memOk | apply ite_memOk | (simp only [↓memOk_mk]; refine ⟨?_, ?_, ?_⟩) | split

theorem Mod.retainExpiry_memOk (m : Mod) (job tensor : Nat) (hm : m.memOk) :
    (m.retainExpiry job tensor).memOk := by
  unfold Mod.retainExpiry
  repeat' with_reducible first
    | assumption | apply memOk_wf | apply memOk_tierC | apply memOk_sessions | apply Mod.fillPlace_memOk
    | apply foldl_memOk | (simp only [↓memOk_mk]; refine ⟨?_, ?_, ?_⟩) | (intro _ _ _; try dsimp only)

theorem Mod.discardTraffic_memOk (m : Mod) (j : Job) (hm : m.memOk) :
    (m.discardTraffic j).memOk := by
  unfold Mod.discardTraffic
  repeat' with_reducible first
    | assumption | apply memOk_wf | apply memOk_tierC | apply memOk_sessions | apply Mod.updJob_memOk
    | apply Mod.dropPasses_memOk | apply Mod.rollForward_memOk | apply Mod.dropExStep_memOk | apply foldl_memOk
    | (simp only [↓memOk_mk]; refine ⟨?_, ?_, ?_⟩) | (intro _ _ _; try dsimp only)

theorem Mod.abortJob_memOk (m : Mod) (job : Nat) (keep : Option CmdId) (st : Status) (detail : Mod → Nat × Mod) (hm :
    m.memOk) (hm1 : ∀ m, m.memOk → (detail m).2.memOk) :
    (m.abortJob job keep st detail).memOk := by
  unfold Mod.abortJob
  repeat' with_reducible first
    | assumption | apply memOk_wf | apply memOk_tierC | apply memOk_sessions | apply Mod.updJob_memOk
    | apply Mod.abandonTies_memOk | apply Mod.endCommands_memOk | apply Mod.discardTraffic_memOk
    | (simp only [↓memOk_mk]; refine ⟨?_, ?_, ?_⟩) | dsimp only | split

theorem Mod.disown_memOk (m : Mod) (job : Nat) (hm : m.memOk) :
    (m.disown job).memOk := by
  unfold Mod.disown
  repeat' with_reducible first
    | assumption | apply Mod.updJob_memOk | apply Mod.clearOwner_memOk | apply ite_memOk

theorem Mod.startAbort_memOk (m : Mod) (id : CmdId) (c : Cmd) (hm : m.memOk) :
    (m.startAbort id c).memOk := by
  unfold Mod.startAbort
  repeat' with_reducible first
    | assumption | apply Mod.updJob_memOk | apply Mod.complete_memOk | apply freeDetail_memOk
    | apply Mod.abortJob_memOk | apply Mod.disown_memOk

theorem Mod.endAllReduces_memOk (m : Mod) (job : Nat) (hm : m.memOk) :
    (m.endAllReduces job).memOk := by
  unfold Mod.endAllReduces
  repeat' with_reducible first
    | assumption | apply Mod.endReduces_memOk | apply foldl_memOk | (intro _ _ _; try dsimp only) | split

theorem Mod.rankReset_memOk (m : Mod) (job rank : Nat) (hm : m.memOk) :
    (m.rankReset job rank).memOk := by
  unfold Mod.rankReset
  repeat' with_reducible first
    | assumption | apply Mod.completeAll_memOk | apply Mod.spoilRank_memOk | apply Mod.waleNotice_memOk
    | apply Mod.normNotice_memOk | apply Mod.endAllReduces_memOk

theorem Mod.applyNotice_memOk (m : Mod) (n : NoticeRec) (hm : m.memOk) :
    (m.applyNotice n).memOk := by
  unfold Mod.applyNotice
  repeat' with_reducible first
    | assumption | apply memOk_wf | apply memOk_tierC | apply memOk_sessions | apply Mod.clearOwner_memOk
    | apply Mod.rankReset_memOk | apply ite_memOk | (simp only [↓memOk_mk]; refine ⟨?_, ?_, ?_⟩) | dsimp only | split

theorem Mod.startNotice_memOk (m : Mod) (id : CmdId) (c : Cmd) (hm : m.memOk) :
    (m.startNotice id c).memOk := by
  unfold Mod.startNotice
  repeat' with_reducible first
    | assumption | apply Mod.complete_memOk | apply Mod.applyNotice_memOk | apply foldl_memOk
    | (intro _ _ _; try dsimp only)

theorem Mod.startJobs_memOk (m : Mod) (id : CmdId) (c : Cmd) (hm : m.memOk) :
    (m.startJobs id c).memOk := by
  unfold Mod.startJobs
  repeat' with_reducible first
    | assumption | apply Mod.startPlanLoad_memOk | apply Mod.startPlanStart_memOk | apply Mod.startQuiesce_memOk
    | apply Mod.startUnload_memOk | apply Mod.startAbort_memOk | apply Mod.startNotice_memOk | split

theorem Mod.sendNotice_memOk (m : Mod) (n : Notice) (hm : m.memOk) :
    (m.sendNotice n).memOk := by
  unfold Mod.sendNotice
  repeat' with_reducible first
    | assumption | apply Mod.emit_memOk | apply foldl_memOk | (intro _ _ _; try dsimp only)

theorem Mod.notify_memOk (m : Mod) (n : Notice) (hm : m.memOk) :
    (m.notify n).memOk := by
  unfold Mod.notify
  repeat' with_reducible first
    | assumption | apply memOk_wf | apply memOk_tierC | apply memOk_sessions | apply Mod.sendNotice_memOk
    | (simp only [↓memOk_mk]; refine ⟨?_, ?_, ?_⟩)

theorem Mod.resendNotices_memOk (m : Mod) (hm : m.memOk) :
    (m.resendNotices).memOk := by
  unfold Mod.resendNotices
  repeat' with_reducible first
    | assumption | apply memOk_wf | apply memOk_tierC | apply memOk_sessions | apply Mod.sendNotice_memOk
    | apply foldl_memOk | (simp only [↓memOk_mk]; refine ⟨?_, ?_, ?_⟩)

theorem Mod.takeDump_memOk (m : Mod) (record level : Nat) (hm : m.memOk) :
    (m.takeDump record level).memOk := by
  unfold Mod.takeDump
  repeat' with_reducible first
    | assumption | apply memOk_wf | apply memOk_tierC | apply memOk_sessions | apply Mod.mirror_memOk
    | apply Mod.writeC_memOk | apply ite_memOk | (simp only [↓memOk_mk]; refine ⟨?_, ?_, ?_⟩)

theorem Mod.stopMove_memOk (m : Mod) (rib : Nat) (hm : m.memOk) :
    (m.stopMove rib).memOk := by
  unfold Mod.stopMove
  repeat' with_reducible first
    | assumption | apply memOk_wf | apply memOk_tierC | apply memOk_sessions
    | (simp only [↓memOk_mk]; refine ⟨?_, ?_, ?_⟩)

theorem Mod.dropStakes_memOk (m : Mod) (ps : List Nat) (hm : m.memOk) :
    (m.dropStakes ps).memOk := by
  unfold Mod.dropStakes
  repeat' with_reducible first
    | assumption | apply memOk_wf | apply memOk_tierC | apply memOk_sessions | apply Mod.abandonTies_memOk
    | apply Mod.freePlaces_memOk | (simp only [↓memOk_mk]; refine ⟨?_, ?_, ?_⟩)

theorem Mod.endEach_memOk (m : Mod) (ids : List CmdId) (st : Status) (d : Nat) (hm : m.memOk) :
    (m.endEach ids st d).memOk := by
  unfold Mod.endEach
  repeat' with_reducible first
    | assumption | apply Mod.endWith_memOk | apply foldl_memOk | (intro _ _ _; try dsimp only)

theorem Mod.logReset_memOk (m : Mod) (level : Nat) (unit : UnitRef) (hm : m.memOk) :
    (m.logReset level unit).memOk := by
  unfold Mod.logReset
  repeat' with_reducible first
    | assumption | apply Mod.addOpen_memOk

theorem Mod.beginLevel_memOk (m : Mod) (e : Escalation) (hm : m.memOk) :
    (m.beginLevel e).memOk := by
  unfold Mod.beginLevel
  repeat' with_reducible first
    | assumption | apply memOk_wf | apply memOk_tierC | apply memOk_sessions | apply Mod.mirror_memOk
    | apply Mod.complete_memOk | apply foldl_memOk | (simp only [↓memOk_mk]; refine ⟨?_, ?_, ?_⟩)
    | (intro _ _ _; try dsimp only) | split

theorem Mod.enterEngine_memOk (m : Mod) (u : Nat) (reply : Option CmdId) (hm : m.memOk) :
    (m.enterEngine u reply).memOk := by
  unfold Mod.enterEngine
  repeat' with_reducible first
    | assumption | apply Mod.stopMove_memOk | apply Mod.dropStakes_memOk | apply Mod.endEach_memOk
    | apply Mod.logReset_memOk | apply Mod.beginLevel_memOk | apply foldl_memOk

theorem Mod.enterPartition_memOk (m : Mod) (side : Nat) (reply : Option CmdId) (hm : m.memOk) :
    (m.enterPartition side reply).memOk := by
  unfold Mod.enterPartition
  repeat' with_reducible first
    | assumption | apply memOk_wf | apply memOk_tierC | apply memOk_sessions | apply Mod.store_memOk
    | apply Mod.abandonTies_memOk | apply Mod.freePlaces_memOk | apply Mod.abortJob_memOk | apply Mod.notify_memOk
    | apply Mod.takeDump_memOk | apply Mod.stopMove_memOk | apply Mod.dropStakes_memOk | apply Mod.logReset_memOk
    | apply Mod.beginLevel_memOk | apply foldl_memOk | (simp only [↓memOk_mk]; refine ⟨?_, ?_, ?_⟩)
    | (intro _ _ _; try dsimp only) | exact fun _ h => h

theorem Mod.ackSideband_memOk (m : Mod) (code : Nat) (body : Option Bytes) (hm : m.memOk) :
    (m.ackSideband code body).memOk := by
  unfold Mod.ackSideband
  repeat' with_reducible first
    | assumption | apply memOk_wf | apply memOk_tierC | apply memOk_sessions | apply Mod.raiseIbi_memOk
    | (simp only [↓memOk_mk]; refine ⟨?_, ?_, ?_⟩)

theorem Mod.enterModule_memOk (m : Mod) (reply : Option CmdId) (hm : m.memOk) :
    (m.enterModule reply).memOk := by
  unfold Mod.enterModule
  repeat' with_reducible first
    | assumption | apply memOk_wf | apply memOk_tierC | apply memOk_sessions | apply Mod.notify_memOk
    | apply Mod.takeDump_memOk | apply Mod.logReset_memOk | apply Mod.beginLevel_memOk | apply Mod.ackSideband_memOk
    | apply ite_memOk | (simp only [↓memOk_mk]; refine ⟨?_, ?_, ?_⟩) | dsimp only | split

theorem Mod.flushLog_memOk (m : Mod) (hm : m.memOk) :
    (m.flushLog).memOk := by
  unfold Mod.flushLog
  repeat' with_reducible first
    | assumption | apply memOk_wf | apply memOk_tierC | apply memOk_sessions | apply Mod.mirror_memOk
    | apply Mod.writeC_memOk | apply foldl_memOk | apply ite_memOk | (simp only [↓memOk_mk]; refine ⟨?_, ?_, ?_⟩)
    | (intro _ _ _; try dsimp only)

theorem Mod.enterPowerCycle_memOk (m : Mod) (hm : m.memOk) :
    (m.enterPowerCycle).memOk := by
  unfold Mod.enterPowerCycle
  repeat' with_reducible first
    | assumption | apply memOk_wf | apply memOk_tierC | apply memOk_sessions | apply Mod.notify_memOk
    | apply Mod.takeDump_memOk | apply Mod.logReset_memOk | apply Mod.beginLevel_memOk | apply Mod.flushLog_memOk
    | (simp only [↓memOk_mk]; refine ⟨?_, ?_, ?_⟩)

theorem Mod.startLevel_memOk (m : Mod) (level unit : Nat) (reply : Option CmdId) (hm : m.memOk) :
    (m.startLevel level unit reply).memOk := by
  unfold Mod.startLevel
  repeat' with_reducible first
    | assumption | apply memOk_wf | apply memOk_tierC | apply memOk_sessions | apply Mod.complete_memOk
    | apply Mod.enterEngine_memOk | apply Mod.enterPartition_memOk | apply Mod.enterModule_memOk
    | apply Mod.enterPowerCycle_memOk | apply ite_memOk | (simp only [↓memOk_mk]; refine ⟨?_, ?_, ?_⟩) | dsimp only
    | split

theorem Mod.afterContext_memOk (m : Mod) (e : Engine) (hm : m.memOk) :
    (m.afterContext e).memOk := by
  unfold Mod.afterContext
  repeat' with_reducible first
    | assumption | apply Mod.startLevel_memOk | split

theorem Mod.logSuspects_memOk (m : Mod) (e : Engine) (hm : m.memOk) :
    (m.logSuspects e).memOk := by
  unfold Mod.logSuspects
  repeat' with_reducible first
    | assumption | apply Mod.addOpen_memOk

theorem Mod.resume_memOk (m : Mod) (i : Isolation) (hm : m.memOk) :
    (m.resume i).memOk := by
  unfold Mod.resume
  repeat' with_reducible first
    | assumption | apply Mod.updRunning_memOk | apply foldl_memOk | (intro _ _ _; try dsimp only)

theorem Mod.hang_memOk (m : Mod) (e : Engine) (cause : Option CmdId) (hm : m.memOk) :
    (m.hang e cause).memOk := by
  unfold Mod.hang
  repeat' with_reducible first
    | assumption | apply memOk_wf | apply memOk_tierC | apply memOk_sessions | apply Mod.count_memOk
    | apply Mod.addOpen_memOk | apply Mod.afterContext_memOk | apply Mod.logSuspects_memOk | apply ite_memOk
    | (simp only [↓memOk_mk]; refine ⟨?_, ?_, ?_⟩)

theorem Mod.watchdog_memOk (m : Mod) (e : Engine) (hm : m.memOk) :
    (m.watchdog e).memOk := by
  unfold Mod.watchdog
  repeat' with_reducible first
    | assumption | apply Mod.hang_memOk | apply ite_memOk

theorem Mod.contextStopped_memOk (m : Mod) (e : Engine) (hm : m.memOk) :
    (m.contextStopped e).memOk := by
  unfold Mod.contextStopped
  repeat' with_reducible first
    | assumption | apply memOk_wf | apply memOk_tierC | apply memOk_sessions
    | (simp only [↓memOk_mk]; refine ⟨?_, ?_, ?_⟩)

theorem Mod.abortWhole_memOk (m : Mod) (job : Nat) (hm : m.memOk) :
    (m.abortWhole job).memOk := by
  unfold Mod.abortWhole
  repeat' with_reducible first
    | assumption | apply Mod.updJob_memOk | apply freeDetail_memOk | apply Mod.abortJob_memOk | apply Mod.disown_memOk

theorem Mod.convict_memOk (m : Mod) (e : Engine) (job : Nat) (hm : m.memOk) :
    (m.convict e job).memOk := by
  unfold Mod.convict
  repeat' with_reducible first
    | assumption | apply Mod.addOpen_memOk | apply Mod.endEach_memOk | apply Mod.abortWhole_memOk | apply ite_memOk

theorem Mod.endIsolation_memOk (m : Mod) (i : Isolation) (hm : m.memOk) :
    (m.endIsolation i).memOk := by
  unfold Mod.endIsolation
  repeat' with_reducible first
    | assumption | apply memOk_wf | apply memOk_tierC | apply memOk_sessions | apply Mod.logSuspects_memOk
    | apply Mod.resume_memOk | apply Mod.convict_memOk | apply foldl_memOk | apply ite_memOk
    | (simp only [↓memOk_mk]; refine ⟨?_, ?_, ?_⟩) | (intro _ _ _; try dsimp only)

theorem Mod.replayVerdict_memOk (m : Mod) (e : Engine) (guilty : Bool) (hm : m.memOk) :
    (m.replayVerdict e guilty).memOk := by
  unfold Mod.replayVerdict
  repeat' with_reducible first
    | assumption | apply memOk_wf | apply memOk_tierC | apply memOk_sessions | apply Mod.count_memOk
    | apply Mod.endIsolation_memOk | apply ite_memOk | (simp only [↓memOk_mk]; refine ⟨?_, ?_, ?_⟩) | split

theorem Mod.takeover_memOk (m : Mod) (border record : Nat) (keep : Option CmdId) (hm : m.memOk) :
    (m.takeover border record keep).memOk := by
  unfold Mod.takeover
  repeat' with_reducible first
    | assumption | apply memOk_wf | apply memOk_tierC | apply memOk_sessions | apply Mod.count_memOk
    | apply Mod.endCommands_memOk | apply Mod.ackSideband_memOk | apply ite_memOk
    | (simp only [↓memOk_mk]; refine ⟨?_, ?_, ?_⟩) | exact fun _ h => h

theorem Mod.mgmtFails_memOk (m : Mod) (border cls : Nat) (hm : m.memOk) :
    (m.mgmtFails border cls).memOk := by
  unfold Mod.mgmtFails
  repeat' with_reducible first
    | assumption | apply memOk_wf | apply memOk_tierC | apply memOk_sessions | apply Mod.addOpen_memOk
    | apply Mod.startLevel_memOk | apply Mod.takeover_memOk | apply ite_memOk
    | (simp only [↓memOk_mk]; refine ⟨?_, ?_, ?_⟩) | split

theorem Mod.mgmtTested_memOk (m : Mod) (border : Nat) (pass : Bool) (hm : m.memOk) :
    (m.mgmtTested border pass).memOk := by
  unfold Mod.mgmtTested
  repeat' with_reducible first
    | assumption | apply memOk_wf | apply memOk_tierC | apply memOk_sessions | apply Mod.raiseCause_memOk
    | apply Mod.addOpen_memOk | apply ite_memOk | (simp only [↓memOk_mk]; refine ⟨?_, ?_, ?_⟩)

theorem Mod.fence_memOk (m : Mod) (border : Nat) (hm : m.memOk) :
    (m.fence border).memOk := by
  unfold Mod.fence
  repeat' with_reducible first
    | assumption | apply memOk_wf | apply memOk_tierC | apply memOk_sessions | apply Mod.raiseCause_memOk
    | (simp only [↓memOk_mk]; refine ⟨?_, ?_, ?_⟩)

theorem Mod.logFault_memOk (m : Mod) (cls level : Nat) (unit : UnitRef) (hm : m.memOk) :
    (m.logFault cls level unit).memOk := by
  unfold Mod.logFault
  repeat' with_reducible first
    | assumption | apply Mod.addOpen_memOk

theorem Mod.clockFails_memOk (m : Mod) (c : Clock) (hm : m.memOk) :
    (m.clockFails c).memOk := by
  unfold Mod.clockFails
  repeat' with_reducible first
    | assumption | apply Mod.startLevel_memOk | apply Mod.mgmtFails_memOk | apply Mod.fence_memOk
    | apply Mod.logFault_memOk | split

theorem Mod.updRib_memOk (m : Mod) (r : Nat) (f : RibState → RibState) (hm : m.memOk) :
    (m.updRib r f).memOk := by
  unfold Mod.updRib
  repeat' with_reducible first
    | assumption | apply memOk_wf | apply memOk_tierC | apply memOk_sessions
    | (simp only [↓memOk_mk]; refine ⟨?_, ?_, ?_⟩)

theorem Mod.goAbsent_memOk (m : Mod) (l : Nat) (hm : m.memOk) :
    (m.goAbsent l).memOk := by
  unfold Mod.goAbsent
  repeat' with_reducible first
    | assumption | apply memOk_wf | apply memOk_tierC | apply memOk_sessions | apply Mod.addLog_memOk
    | apply Mod.endEach_memOk | (simp only [↓memOk_mk]; refine ⟨?_, ?_, ?_⟩)

theorem Mod.pauseStake_memOk (m : Mod) (p : Nat) (hm : m.memOk) :
    (m.pauseStake p).memOk := by
  unfold Mod.pauseStake
  repeat' with_reducible first
    | assumption | apply memOk_wf | apply memOk_tierC | apply memOk_sessions | apply Mod.updSum_memOk | apply foldl_memOk
    | (simp only [↓memOk_mk]; refine ⟨?_, ?_, ?_⟩) | (intro _ _ _; try dsimp only)

theorem Mod.beginMove_memOk (m : Mod) (l spare : Nat) (hm : m.memOk) :
    (m.beginMove l spare).memOk := by
  unfold Mod.beginMove
  repeat' with_reducible first
    | assumption | apply Mod.pauseStake_memOk | apply Mod.updRib_memOk | split

theorem Mod.swapStakes_memOk (m : Mod) (p q : Nat) (hm : m.memOk) :
    (m.swapStakes p q).memOk := by
  unfold Mod.swapStakes
  repeat' with_reducible first
    | assumption | apply memOk_wf | apply memOk_tierC | apply memOk_sessions
    | (simp only [↓memOk_mk]; refine ⟨?_, ?_, ?_⟩)

theorem Mod.replaceStake_memOk (m : Mod) (l p : Nat) (hm : m.memOk) :
    (m.replaceStake l p).memOk := by
  unfold Mod.replaceStake
  repeat' with_reducible first
    | assumption | apply Mod.goAbsent_memOk | apply Mod.beginMove_memOk | apply Mod.pauseStake_memOk | apply ite_memOk | split

theorem Mod.retireOut_memOk (m : Mod) (l : Nat) (hm : m.memOk) :
    (m.retireOut l).memOk := by
  unfold Mod.retireOut
  repeat' with_reducible first
    | assumption | apply Mod.replaceStake_memOk | apply ite_memOk | split

theorem Mod.replaceOut_memOk (m : Mod) (ribs : List Nat) (hm : m.memOk) :
    (m.replaceOut ribs).memOk := by
  unfold Mod.replaceOut
  repeat' with_reducible first
    | assumption | apply Mod.retireOut_memOk | apply foldl_memOk

theorem Mod.finishMove_memOk (m : Mod) (rib : Nat) (hm : m.memOk) :
    (m.finishMove rib).memOk := by
  unfold Mod.finishMove
  repeat' with_reducible first
    | assumption | apply memOk_wf | apply memOk_tierC | apply memOk_sessions | apply Mod.count_memOk
    | apply Mod.addOpen_memOk | apply Mod.completeAll_memOk | apply Mod.endEach_memOk | apply Mod.updRib_memOk
    | apply Mod.swapStakes_memOk | apply Mod.replaceOut_memOk | (simp only [↓memOk_mk]; refine ⟨?_, ?_, ?_⟩) | split

theorem Mod.moveDone_memOk (m : Mod) (rib : Nat) (hm : m.memOk) :
    (m.moveDone rib).memOk := by
  unfold Mod.moveDone
  repeat' with_reducible first
    | assumption | apply Mod.finishMove_memOk | apply ite_memOk | split

theorem Mod.takeOut_memOk (m : Mod) (p : Nat) (hm : m.memOk) :
    (m.takeOut p).memOk := by
  unfold Mod.takeOut
  repeat' with_reducible first
    | assumption | apply memOk_wf | apply memOk_tierC | apply memOk_sessions | apply Mod.count_memOk
    | apply Mod.addOpen_memOk | apply Mod.stopMove_memOk | apply Mod.updRib_memOk | apply Mod.replaceOut_memOk
    | apply ite_memOk | (simp only [↓memOk_mk]; refine ⟨?_, ?_, ?_⟩) | dsimp only | split

theorem Mod.stakeFault_memOk (m : Mod) (p : Nat) (hm : m.memOk) :
    (m.stakeFault p).memOk := by
  unfold Mod.stakeFault
  repeat' with_reducible first
    | assumption | apply memOk_wf | apply memOk_tierC | apply memOk_sessions | apply Mod.takeOut_memOk
    | apply ite_memOk | (simp only [↓memOk_mk]; refine ⟨?_, ?_, ?_⟩)

theorem Mod.dupFails_memOk (m : Mod) (u : DupUnit) (hm : m.memOk) :
    (m.dupFails u).memOk := by
  unfold Mod.dupFails
  repeat' with_reducible first
    | assumption | apply Mod.startLevel_memOk | apply Mod.stakeFault_memOk | apply Mod.fence_memOk | apply Mod.logFault_memOk | split

theorem Mod.lockstepFails_memOk (m : Mod) (p : LockPair) (hm : m.memOk) :
    (m.lockstepFails p).memOk := by
  unfold Mod.lockstepFails
  repeat' with_reducible first
    | assumption | apply Mod.startLevel_memOk | apply Mod.mgmtFails_memOk | apply Mod.logFault_memOk | split

theorem Mod.timerFails_memOk (m : Mod) (hm : m.memOk) :
    (m.timerFails).memOk := by
  unfold Mod.timerFails
  repeat' with_reducible first
    | assumption | apply Mod.startLevel_memOk | apply Mod.logFault_memOk

theorem Mod.checkerFails_memOk (m : Mod) (u : UnitRef) (hm : m.memOk) :
    (m.checkerFails u).memOk := by
  unfold Mod.checkerFails
  repeat' with_reducible first
    | assumption | apply Mod.startLevel_memOk | apply Mod.fence_memOk | apply Mod.logFault_memOk
    | apply Mod.clockFails_memOk | apply Mod.dupFails_memOk | apply Mod.lockstepFails_memOk
    | apply Mod.timerFails_memOk | apply ite_memOk

theorem Mod.inject_memOk (m : Mod) (u : UnitRef) (reported : Bool) (hm : m.memOk) :
    (m.inject u reported).memOk := by
  unfold Mod.inject
  repeat' with_reducible first
    | assumption | apply Mod.count_memOk | apply Mod.checkerFails_memOk | apply ite_memOk

theorem Mod.rotate_memOk (m : Mod) (rib : Nat) (hm : m.memOk) :
    (m.rotate rib).memOk := by
  unfold Mod.rotate
  repeat' with_reducible first
    | assumption | apply memOk_wf | apply memOk_tierC | apply memOk_sessions | apply Mod.beginMove_memOk
    | apply ite_memOk | (simp only [↓memOk_mk]; refine ⟨?_, ?_, ?_⟩) | dsimp only | split

theorem Mod.bistEntry_memOk (m : Mod) (unit : UnitRef) (test : Nat) (pass : Bool) (hm : m.memOk) :
    (m.bistEntry unit test pass).2.memOk := by
  unfold Mod.bistEntry
  repeat' with_reducible first
    | assumption | apply memOk_wf | apply memOk_tierC | apply memOk_sessions | apply Mod.freeNat_memOk
    | (simp only [↓memOk_mk]; refine ⟨?_, ?_, ?_⟩) | split

theorem Mod.endStakeBist_memOk (m : Mod) (phys : Nat) (pass : Bool) (record : Nat) (hm : m.memOk) :
    (m.endStakeBist phys pass record).memOk := by
  unfold Mod.endStakeBist
  repeat' with_reducible first
    | assumption | apply Mod.freeBool_memOk | apply Mod.complete_memOk | apply Mod.bistEntry_memOk | apply foldl_memOk
    | (intro _ _ _; try dsimp only)

theorem Mod.selfTested_memOk (m : Mod) (phys : Nat) (pass : Bool) (hm : m.memOk) :
    (m.selfTested phys pass).memOk := by
  unfold Mod.selfTested
  repeat' with_reducible first
    | assumption | apply memOk_wf | apply memOk_tierC | apply memOk_sessions | apply Mod.count_memOk
    | apply Mod.addOpen_memOk | apply Mod.repairSram_memOk | apply Mod.updRib_memOk | apply Mod.finishMove_memOk
    | apply Mod.takeOut_memOk | apply Mod.endStakeBist_memOk | apply ite_memOk
    | (simp only [↓memOk_mk]; refine ⟨?_, ?_, ?_⟩) | dsimp only | split

theorem Mod.arrayCheck_memOk (m : Mod) (a : Nat) (hm : m.memOk) :
    (m.arrayCheck a).memOk := by
  unfold Mod.arrayCheck
  repeat' with_reducible first
    | assumption | apply memOk_wf | apply memOk_tierC | apply memOk_sessions | apply Mod.addLog_memOk
    | apply Mod.faultyPass_memOk | apply Mod.discardFaulty_memOk | apply Mod.takeOut_memOk
    | apply Mod.stakeFault_memOk | refine snd_memOk ‹_ = (_, _)› ?_ | apply ite_memOk
    | (simp only [↓memOk_mk]; refine ⟨?_, ?_, ?_⟩) | split

theorem Mod.residue_memOk (m : Mod) (u : ResidueAt) (again : Bool) (hm : m.memOk) :
    (m.residue u again).memOk := by
  unfold Mod.residue
  repeat' with_reducible first
    | assumption | apply memOk_wf | apply memOk_tierC | apply memOk_sessions | apply Mod.addOpen_memOk
    | apply Mod.countJob_memOk | apply Mod.endWith_memOk | apply Mod.endEach_memOk | apply Mod.takeOut_memOk
    | apply Mod.stakeFault_memOk | apply ite_memOk | (simp only [↓memOk_mk]; refine ⟨?_, ?_, ?_⟩) | dsimp only | split

theorem Mod.converterFails_memOk (m : Mod) (p : Nat) (hm : m.memOk) :
    (m.converterFails p).memOk := by
  unfold Mod.converterFails
  repeat' with_reducible first
    | assumption | apply Mod.addOpen_memOk | apply Mod.endEach_memOk | apply Mod.stakeFault_memOk

theorem Mod.laneFault_memOk (m : Mod) (ch : Nat) (hm : m.memOk) :
    (m.laneFault ch).memOk := by
  unfold Mod.laneFault
  repeat' with_reducible first
    | assumption | apply memOk_wf | apply memOk_tierC | apply memOk_sessions | apply Mod.addLog_memOk
    | apply Mod.updJob_memOk | apply Mod.endWith_memOk | apply foldl_memOk | apply ite_memOk
    | (simp only [↓memOk_mk]; refine ⟨?_, ?_, ?_⟩) | (intro _ _ _; try dsimp only) | split

theorem Mod.laneTested_memOk (m : Mod) (ch : Nat) (mismatch : Bool) (hm : m.memOk) :
    (m.laneTested ch mismatch).memOk := by
  unfold Mod.laneTested
  repeat' with_reducible first
    | assumption | apply memOk_wf | apply memOk_tierC | apply memOk_sessions | apply Mod.normLane_memOk
    | apply Mod.laneFault_memOk | apply ite_memOk | (simp only [↓memOk_mk]; refine ⟨?_, ?_, ?_⟩)

theorem Mod.closeLevel_memOk (m : Mod) (e : Escalation) (hm : m.memOk) :
    (m.closeLevel e).memOk := by
  unfold Mod.closeLevel
  repeat' with_reducible first
    | assumption | apply memOk_wf | apply memOk_tierC | apply memOk_sessions | apply Mod.mirror_memOk
    | (simp only [↓memOk_mk]; refine ⟨?_, ?_, ?_⟩)

theorem Mod.levelDone_memOk (m : Mod) (level unit : Nat) (hm : m.memOk) :
    (m.levelDone level unit).memOk := by
  unfold Mod.levelDone
  repeat' with_reducible first
    | assumption | apply memOk_wf | apply memOk_tierC | apply memOk_sessions | apply Mod.zeroFill_memOk
    | apply Mod.count_memOk | apply Mod.complete_memOk | apply Mod.repairSram_memOk | apply Mod.notify_memOk
    | apply Mod.replaceOut_memOk | apply Mod.closeLevel_memOk | apply foldl_memOk | apply ite_memOk
    | (simp only [↓memOk_mk]; refine ⟨?_, ?_, ?_⟩) | (intro _ _ _; try dsimp only) | split

theorem Mod.boundPassed_memOk (m : Mod) (level unit : Nat) (hm : m.memOk) :
    (m.boundPassed level unit).memOk := by
  unfold Mod.boundPassed
  repeat' with_reducible first
    | assumption | apply memOk_wf | apply memOk_tierC | apply memOk_sessions | apply Mod.startLevel_memOk
    | apply Mod.afterContext_memOk | apply Mod.logSuspects_memOk | apply Mod.takeOut_memOk | apply foldl_memOk
    | apply ite_memOk | (simp only [↓memOk_mk]; refine ⟨?_, ?_, ?_⟩) | split

theorem Mod.compareCopy_memOk (m : Mod) (copy : Nat) (hm : m.memOk) :
    (m.compareCopy copy).memOk := by
  unfold Mod.compareCopy
  repeat' with_reducible first
    | assumption | apply memOk_wf | apply memOk_tierC | apply memOk_sessions | apply Mod.freeNat_memOk
    | apply Mod.addOpen_memOk | apply ite_memOk | (simp only [↓memOk_mk]; refine ⟨?_, ?_, ?_⟩)

theorem Mod.reloadCopies_memOk (m : Mod) (hm : m.memOk) :
    (m.reloadCopies).memOk := by
  unfold Mod.reloadCopies
  repeat' with_reducible first
    | assumption | apply memOk_wf | apply memOk_tierC | apply memOk_sessions | apply ite_memOk
    | (simp only [↓memOk_mk]; refine ⟨?_, ?_, ?_⟩)

theorem Mod.startReset_memOk (m : Mod) (id : CmdId) (c : Cmd) (hm : m.memOk) :
    (m.startReset id c).memOk := by
  unfold Mod.startReset
  repeat' with_reducible first
    | assumption | apply memOk_wf | apply memOk_tierC | apply memOk_sessions | apply Mod.setWork_memOk
    | apply Mod.complete_memOk | apply Mod.startLevel_memOk | (simp only [↓memOk_mk]; refine ⟨?_, ?_, ?_⟩) | split

theorem Mod.spareIn_memOk (m : Mod) (unit : UnitRef) (sub : Nat) (hm : m.memOk) :
    (m.spareIn unit sub).memOk := by
  unfold Mod.spareIn
  repeat' with_reducible first
    | assumption | apply Mod.count_memOk | apply Mod.addOpen_memOk

theorem Mod.startSpare_memOk (m : Mod) (id : CmdId) (c : Cmd) (hm : m.memOk) :
    (m.startSpare id c).memOk := by
  unfold Mod.startSpare
  repeat' with_reducible first
    | assumption | apply memOk_wf | apply memOk_tierC | apply memOk_sessions | apply Mod.setWork_memOk
    | apply Mod.complete_memOk | apply Mod.moveRow_memOk | apply Mod.repairSram_memOk | apply Mod.takeover_memOk
    | apply Mod.beginMove_memOk | apply Mod.spareIn_memOk | apply ite_memOk
    | (simp only [↓memOk_mk]; refine ⟨?_, ?_, ?_⟩) | dsimp only | split

theorem Mod.takeHop_memOk (m : Mod) (hs : List (Nat × Bool × Nat)) (hm : m.memOk) :
    (m.takeHop hs).2.memOk := by
  unfold Mod.takeHop
  repeat' with_reducible first
    | assumption | apply memOk_wf | apply memOk_tierC | apply memOk_sessions
    | (simp only [↓memOk_mk]; refine ⟨?_, ?_, ?_⟩) | split

theorem Mod.countPort_memOk (m : Mod) (port : Nat) (k : Ctr) (n : Nat) (hm : m.memOk) :
    (m.countPort port k n).memOk := by
  unfold Mod.countPort
  repeat' with_reducible first
    | assumption | apply memOk_wf | apply memOk_tierC | apply memOk_sessions
    | (simp only [↓memOk_mk]; refine ⟨?_, ?_, ?_⟩)

theorem Mod.countInjected_memOk (m : Mod) (hm : m.memOk) :
    (m.countInjected).memOk := by
  unfold Mod.countInjected
  repeat' with_reducible first
    | assumption | apply memOk_wf | apply memOk_tierC | apply memOk_sessions | apply Mod.takeHop_memOk
    | apply Mod.countPort_memOk | apply foldl_memOk | apply ite_memOk | (simp only [↓memOk_mk]; refine ⟨?_, ?_, ?_⟩)
    | (intro _ _ _; try dsimp only) | split

theorem Mod.leave_memOk (m : Mod) (port : Nat) (p : WeavePkt) (hm : m.memOk) :
    (m.leave port p).memOk := by
  unfold Mod.leave
  repeat' with_reducible first
    | assumption | apply Mod.emit_memOk | apply Mod.countPort_memOk

theorem Mod.leaveAtomic_memOk (m : Mod) (port : Nat) (h : HeldAtomic) (hm : m.memOk) :
    (m.leaveAtomic port h).memOk := by
  unfold Mod.leaveAtomic
  repeat' with_reducible first
    | assumption | apply memOk_wf | apply memOk_tierC | apply memOk_sessions | apply Mod.leave_memOk | apply ite_memOk
    | (simp only [↓memOk_mk]; refine ⟨?_, ?_, ?_⟩)

theorem Mod.drainPort_memOk (m : Mod) (port : Nat) (hm : m.memOk) :
    (m.drainPort port).memOk := by
  unfold Mod.drainPort
  repeat' with_reducible first
    | assumption | apply memOk_wf | apply memOk_tierC | apply memOk_sessions | apply Mod.leaveAtomic_memOk
    | apply foldl_memOk | (simp only [↓memOk_mk]; refine ⟨?_, ?_, ?_⟩) | (intro _ _ _; try dsimp only)

theorem Mod.drainPorts_memOk (m : Mod) (hm : m.memOk) :
    (m.drainPorts).memOk := by
  unfold Mod.drainPorts
  repeat' with_reducible first
    | assumption | apply Mod.drainPort_memOk | apply foldl_memOk

theorem Mod.countHalf_memOk (m : Mod) (half : Nat) (hm : m.memOk) :
    (m.countHalf half).memOk := by
  unfold Mod.countHalf
  repeat' with_reducible first
    | assumption | apply memOk_wf | apply memOk_tierC | apply memOk_sessions
    | (simp only [↓memOk_mk]; refine ⟨?_, ?_, ?_⟩)

theorem Mod.queueAtomic_memOk (m : Mod) (port fclk : Nat) (op : TrayOp) (p : WeavePkt) (hm : m.memOk) :
    (m.queueAtomic port fclk op p).memOk := by
  unfold Mod.queueAtomic
  repeat' with_reducible first
    | assumption | apply memOk_wf | apply memOk_tierC | apply memOk_sessions | apply Mod.countHalf_memOk
    | (simp only [↓memOk_mk]; refine ⟨?_, ?_, ?_⟩) | dsimp only | split

theorem Mod.channelOn_memOk (m : Mod) (p : WeavePkt) (d : Nat) (plus : Bool) (hm : m.memOk) :
    (m.channelOn p d plus).2.memOk := by
  unfold Mod.channelOn
  repeat' with_reducible first
    | assumption | apply memOk_wf | apply memOk_tierC | apply memOk_sessions | apply Mod.freeNat_memOk
    | (simp only [↓memOk_mk]; refine ⟨?_, ?_, ?_⟩) | split

theorem Mod.forward_memOk (m : Mod) (op : Option TrayOp) (p : WeavePkt) (fclk : Nat) (hm : m.memOk) :
    (m.forward op p fclk).memOk := by
  unfold Mod.forward
  repeat' with_reducible first
    | assumption | apply memOk_wf | apply memOk_tierC | apply memOk_sessions | apply Mod.count_memOk
    | apply Mod.emit_memOk | apply Mod.takeHop_memOk | apply Mod.leave_memOk | apply Mod.drainPort_memOk
    | apply Mod.queueAtomic_memOk | apply Mod.channelOn_memOk | apply ite_memOk
    | (simp only [↓memOk_mk]; refine ⟨?_, ?_, ?_⟩) | dsimp only | split

theorem Mod.splitResponse_memOk (m : Mod) (h : HeldAtomic) (p : WeavePkt) (fclk : Nat) (hm : m.memOk) :
    (m.splitResponse h p fclk).memOk := by
  unfold Mod.splitResponse
  repeat' with_reducible first
    | assumption | apply memOk_wf | apply memOk_tierC | apply memOk_sessions | apply Mod.forward_memOk
    | apply foldl_memOk | (simp only [↓memOk_mk]; refine ⟨?_, ?_, ?_⟩) | (intro _ _ _; try dsimp only)

theorem Mod.transit_memOk (m : Mod) (op : Option TrayOp) (p : WeavePkt) (fclk : Nat) (hm : m.memOk) :
    (m.transit op p fclk).memOk := by
  unfold Mod.transit
  repeat' with_reducible first
    | assumption | apply Mod.count_memOk | apply Mod.forward_memOk | apply Mod.splitResponse_memOk | apply ite_memOk
    | split

theorem Mod.updPort_memOk (m : Mod) (i : Nat) (f : Port → Port) (hm : m.memOk) :
    (m.updPort i f).memOk := by
  unfold Mod.updPort
  repeat' with_reducible first
    | assumption | apply memOk_wf | apply memOk_tierC | apply memOk_sessions
    | (simp only [↓memOk_mk]; refine ⟨?_, ?_, ?_⟩)

theorem Mod.logLink_memOk (m : Mod) (cls outcome i lane : Nat) (hm : m.memOk) :
    (m.logLink cls outcome i lane).memOk := by
  unfold Mod.logLink
  repeat' with_reducible first
    | assumption | apply Mod.addLog_memOk

theorem Mod.replayed_memOk (m : Mod) (i : Nat) (uncorrectable : Bool) (hm : m.memOk) :
    (m.replayed i uncorrectable).memOk := by
  unfold Mod.replayed
  repeat' with_reducible first
    | assumption | apply Mod.countPort_memOk | apply Mod.updPort_memOk | apply Mod.logLink_memOk

theorem Mod.fecWindow_memOk (m : Mod) (i lane corrected : Nat) (excess : Bool) (hm : m.memOk) :
    (m.fecWindow i lane corrected excess).memOk := by
  unfold Mod.fecWindow
  repeat' with_reducible first
    | assumption | apply Mod.countPort_memOk | apply Mod.updPort_memOk

theorem Mod.laneSwitched_memOk (m : Mod) (i : Nat) (hm : m.memOk) :
    (m.laneSwitched i).memOk := by
  unfold Mod.laneSwitched
  repeat' with_reducible first
    | assumption | apply memOk_wf | apply memOk_tierC | apply memOk_sessions | apply Mod.spareIn_memOk
    | apply Mod.countPort_memOk | apply Mod.updPort_memOk | (simp only [↓memOk_mk]; refine ⟨?_, ?_, ?_⟩) | split

theorem Mod.narrow_memOk (m : Mod) (i lane : Nat) (hm : m.memOk) :
    (m.narrow i lane).memOk := by
  unfold Mod.narrow
  repeat' with_reducible first
    | assumption | apply Mod.raiseCause_memOk | apply Mod.updPort_memOk | apply Mod.logLink_memOk | apply ite_memOk

theorem Mod.laneFailed_memOk (m : Mod) (i lane : Nat) (hm : m.memOk) :
    (m.laneFailed i lane).memOk := by
  unfold Mod.laneFailed
  repeat' with_reducible first
    | assumption | apply Mod.updPort_memOk | apply Mod.narrow_memOk | apply ite_memOk

theorem Mod.trainPort_memOk (m : Mod) (i : Nat) (t : PortTrain) (hm : m.memOk) :
    (m.trainPort i t).memOk := by
  unfold Mod.trainPort
  repeat' with_reducible first
    | assumption | apply Mod.spareIn_memOk | apply Mod.countPort_memOk | apply Mod.updPort_memOk
    | apply Mod.narrow_memOk | apply ite_memOk

theorem Mod.serveTray_memOk (m : Mod) (op : TrayOp) (r : TrayReq) (hm : m.memOk) :
    (m.serveTray op r).memOk := by
  unfold Mod.serveTray
  repeat' with_reducible first
    | assumption | apply Mod.emit_memOk | apply Mod.turnAway_memOk | apply Mod.checkAccess_memOk
    | apply Mod.trayDo_memOk | apply ite_memOk

theorem Mod.poke_memOk (m : Mod) (id : CmdId) (hm : m.memOk) :
    (m.poke id).memOk := by
  unfold Mod.poke
  repeat' with_reducible first
    | assumption | apply Mod.complete_memOk | apply Mod.resumeData_memOk | apply Mod.resumeRoute_memOk
    | apply Mod.moveEx_memOk | apply Mod.resumeCounts_memOk | apply Mod.endBroadcast_memOk
    | apply Mod.goBroadcast_memOk | apply Mod.pokeSend_memOk | apply Mod.pokeRecv_memOk | apply Mod.retryOwn_memOk
    | apply ite_memOk | split

theorem Mod.pokeAll_memOk (m : Mod) (ids : List CmdId) (hm : m.memOk) :
    (m.pokeAll ids).memOk := by
  unfold Mod.pokeAll
  repeat' with_reducible first
    | assumption | apply Mod.poke_memOk | apply foldl_memOk

theorem Mod.dropTag_memOk (m : Mod) (tag : Nat) (hm : m.memOk) :
    (m.dropTag tag).memOk := by
  unfold Mod.dropTag
  repeat' with_reducible first
    | assumption | apply memOk_wf | apply memOk_tierC | apply memOk_sessions
    | (simp only [↓memOk_mk]; refine ⟨?_, ?_, ?_⟩)

theorem Mod.pokeWaiting_memOk (m : Mod) (hm : m.memOk) :
    (m.pokeWaiting).memOk := by
  unfold Mod.pokeWaiting
  repeat' with_reducible first
    | assumption | apply Mod.pokeAll_memOk | apply Mod.letGo_memOk

theorem Mod.trayAnswered_memOk (m : Mod) (x : TrayResp) (hm : m.memOk) :
    (m.trayAnswered x).memOk := by
  unfold Mod.trayAnswered
  repeat' with_reducible first
    | assumption | apply memOk_wf | apply memOk_tierC | apply memOk_sessions | apply Mod.addOpen_memOk
    | apply Mod.updRunning_memOk | apply Mod.endWith_memOk | apply Mod.poke_memOk | apply Mod.dropTag_memOk
    | apply Mod.pokeWaiting_memOk | apply ite_memOk | (simp only [↓memOk_mk]; refine ⟨?_, ?_, ?_⟩) | split

theorem Mod.reopen_memOk (m : Mod) (job window : Nat) (hm : m.memOk) :
    (m.reopen job window).memOk := by
  unfold Mod.reopen
  repeat' with_reducible first
    | assumption | apply Mod.updJob_memOk

theorem Mod.endAnswered_memOk (m : Mod) (ids : List CmdId) (unreachable : Bool) (rank job : Nat) (hm : m.memOk) :
    (m.endAnswered ids unreachable rank job).memOk := by
  unfold Mod.endAnswered
  repeat' with_reducible first
    | assumption | apply Mod.addOpen_memOk | apply Mod.endWith_memOk | apply foldl_memOk | apply ite_memOk
    | (intro _ _ _; try dsimp only)

theorem Mod.challenge_memOk (m : Mod) (x : Nat) (hm : m.memOk) :
    (m.challenge x).memOk := by
  unfold Mod.challenge
  repeat' with_reducible first
    | assumption | apply memOk_wf | apply memOk_tierC | apply memOk_sessions | apply Mod.freeBytes_memOk
    | apply Mod.emit_memOk | (simp only [↓memOk_mk]; refine ⟨?_, ?_, ?_⟩)

theorem Mod.answered_memOk (m : Mod) (a : Answered) (unreachable : Bool) (hm : m.memOk) :
    (m.answered a unreachable).memOk := by
  unfold Mod.answered
  repeat' with_reducible first
    | assumption | apply memOk_wf | apply memOk_tierC | apply memOk_sessions | apply Mod.setWork_memOk
    | apply Mod.spoilBy_memOk | apply Mod.chunkRefused_memOk | apply Mod.endReduces_memOk | apply Mod.dropTag_memOk
    | apply Mod.pokeWaiting_memOk | apply Mod.reopen_memOk | apply Mod.endAnswered_memOk | apply Mod.challenge_memOk
    | apply ite_memOk | (simp only [↓memOk_mk]; refine ⟨?_, ?_, ?_⟩) | split

theorem Mod.placed_memOk (m : Mod) (job inc rank : Nat) (ps : List RemotePlace) (hm : m.memOk) :
    (m.placed job inc rank ps).memOk := by
  unfold Mod.placed
  repeat' with_reducible first
    | assumption | apply memOk_wf | apply memOk_tierC | apply memOk_sessions | apply Mod.count_memOk
    | apply Mod.updJob_memOk | apply ite_memOk | (simp only [↓memOk_mk]; refine ⟨?_, ?_, ?_⟩) | split

theorem Mod.gatewayFlushed_memOk (m : Mod) (job inc rank tensor window block : Nat) (data : List (Nat × Byte)) (hm :
    m.memOk) :
    (m.gatewayFlushed job inc rank tensor window block data).memOk := by
  unfold Mod.gatewayFlushed
  repeat' with_reducible first
    | assumption | apply memOk_wf | apply memOk_tierC | apply memOk_sessions | apply Mod.store_memOk
    | apply Mod.count_memOk | apply Mod.emit_memOk | apply Mod.turnAway_memOk | apply Mod.checkWrite_memOk
    | refine fst_memOk ‹_ = (_, _)› ?_ | apply ite_memOk | (simp only [↓memOk_mk]; refine ⟨?_, ?_, ?_⟩) | dsimp only
    | split

theorem Mod.gatewayFetched_memOk (m : Mod) (job inc rank tensor window block : Nat) (hm : m.memOk) :
    (m.gatewayFetched job inc rank tensor window block).memOk := by
  unfold Mod.gatewayFetched
  repeat' with_reducible first
    | assumption | apply memOk_wf | apply memOk_tierC | apply memOk_sessions | apply Mod.count_memOk
    | apply Mod.emit_memOk | apply Mod.turnAway_memOk | apply Mod.checkLocal_memOk | apply ite_memOk
    | (simp only [↓memOk_mk]; refine ⟨?_, ?_, ?_⟩) | split

theorem Mod.gatewayLost_memOk (m : Mod) (job window block : Nat) (hm : m.memOk) :
    (m.gatewayLost job window block).memOk := by
  unfold Mod.gatewayLost
  repeat' with_reducible first
    | assumption | apply memOk_wf | apply memOk_tierC | apply memOk_sessions | apply Mod.addOpen_memOk
    | apply Mod.updJob_memOk | apply Mod.endWith_memOk | apply foldl_memOk
    | (simp only [↓memOk_mk]; refine ⟨?_, ?_, ?_⟩) | (intro _ _ _; try dsimp only) | split

theorem Mod.gatewayFilled_memOk (m : Mod) (job window block : Nat) (data : Option Bytes) (hm : m.memOk) :
    (m.gatewayFilled job window block data).memOk := by
  unfold Mod.gatewayFilled
  repeat' with_reducible first
    | assumption | apply memOk_wf | apply memOk_tierC | apply memOk_sessions | apply Mod.updJob_memOk
    | apply Mod.pokeAll_memOk | apply Mod.gatewayLost_memOk | apply Mod.letGo_memOk | apply ite_memOk
    | (simp only [↓memOk_mk]; refine ⟨?_, ?_, ?_⟩) | split

theorem Mod.gatewayAcked_memOk (m : Mod) (job window block : Nat) (hm : m.memOk) :
    (m.gatewayAcked job window block).memOk := by
  unfold Mod.gatewayAcked
  repeat' with_reducible first
    | assumption | apply memOk_wf | apply memOk_tierC | apply memOk_sessions | apply Mod.updJob_memOk
    | apply Mod.pokeAll_memOk | apply Mod.pokeWaiting_memOk | (simp only [↓memOk_mk]; refine ⟨?_, ?_, ?_⟩) | split

theorem Mod.relay_memOk (m : Mod) (n : NoticeRec) (hm : m.memOk) :
    (m.relay n).memOk := by
  unfold Mod.relay
  repeat' with_reducible first
    | assumption | apply Mod.emit_memOk | apply Mod.applyNotice_memOk | apply foldl_memOk | apply ite_memOk
    | (intro _ _ _; try dsimp only)

theorem Mod.assignSteward_memOk (m : Mod) (addr noticeId : Nat) (sig : Bytes) (hm : m.memOk) :
    (m.assignSteward addr noticeId sig).memOk := by
  unfold Mod.assignSteward
  repeat' with_reducible first
    | assumption | apply memOk_wf | apply memOk_tierC | apply memOk_sessions | apply ite_memOk
    | (simp only [↓memOk_mk]; refine ⟨?_, ?_, ?_⟩)

theorem Mod.useRoster_memOk (m : Mod) (epoch : Nat) (rs : List RosterRec) (hm : m.memOk) :
    (m.useRoster epoch rs).memOk := by
  unfold Mod.useRoster
  repeat' with_reducible first
    | assumption | apply memOk_wf | apply memOk_tierC | apply memOk_sessions | apply Mod.extend_memOk
    | (simp only [↓memOk_mk]; refine ⟨?_, ?_, ?_⟩) | split

theorem Mod.rosterHere_memOk (m : Mod) (r : RosterMsg) (hm : m.memOk) :
    (m.rosterHere r).memOk := by
  unfold Mod.rosterHere
  repeat' with_reducible first
    | assumption | apply Mod.raiseCause_memOk | apply Mod.useRoster_memOk | apply ite_memOk

theorem Mod.setFaultTable_memOk (m : Mod) (links : List (Nat × Nat)) (hm : m.memOk) :
    (m.setFaultTable links).memOk := by
  unfold Mod.setFaultTable
  repeat' with_reducible first
    | assumption | apply memOk_wf | apply memOk_tierC | apply memOk_sessions | apply ite_memOk
    | (simp only [↓memOk_mk]; refine ⟨?_, ?_, ?_⟩)

theorem Mod.markHere_memOk (m : Mod) (port src markId : Nat) (hm : m.memOk) :
    (m.markHere port src markId).memOk := by
  unfold Mod.markHere
  repeat' with_reducible first
    | assumption | apply Mod.emit_memOk | apply Mod.trace__memOk

theorem Mod.markReplied_memOk (m : Mod) (port src markId : Nat) (hm : m.memOk) :
    (m.markReplied port src markId).memOk := by
  unfold Mod.markReplied
  repeat' with_reducible first
    | assumption | apply Mod.trace__memOk

theorem Mod.linkTrained_memOk (m : Mod) (port : Nat) (t : PortTrain) (hm : m.memOk) :
    (m.linkTrained port t).memOk := by
  unfold Mod.linkTrained
  repeat' with_reducible first
    | assumption | apply Mod.trainPort_memOk | apply Mod.challenge_memOk | apply ite_memOk

theorem Mod.exchangeHere_memOk (m : Mod) (k : ExKind) (x : ExMsg) (hm : m.memOk) :
    (m.exchangeHere k x).memOk := by
  unfold Mod.exchangeHere
  repeat' with_reducible first
    | assumption | apply Mod.onCounts_memOk | apply Mod.onRows_memOk | apply Mod.onTags_memOk
    | apply Mod.onAccept_memOk | apply Mod.onHold_memOk | apply Mod.onPull_memOk | apply Mod.onResult_memOk
    | apply Mod.onDgrad_memOk | apply Mod.onKeep_memOk | apply Mod.onSpoil_memOk | split

theorem Mod.waleHere_memOk (m : Mod) (k : WaleKind) (x : WaleMsg) (hm : m.memOk) :
    (m.waleHere k x).memOk := by
  unfold Mod.waleHere
  repeat' with_reducible first
    | assumption | apply Mod.onWale_memOk | apply Mod.verdictHere_memOk | split

theorem Mod.takeMessage_memOk (m : Mod) (b : Bytes) (hm : m.memOk) :
    (m.takeMessage b).memOk := by
  unfold Mod.takeMessage
  repeat' with_reducible first
    | assumption | apply Mod.exchangeHere_memOk | apply Mod.waleHere_memOk | split

theorem Mod.damaged_memOk (m : Mod) (b : Bytes) (headerBad : Bool) (hm : m.memOk) :
    (m.damaged b headerBad).memOk := by
  unfold Mod.damaged
  repeat' with_reducible first
    | assumption | apply Mod.addOpen_memOk | apply Mod.completeAll_memOk | apply Mod.exchangeMsg_memOk
    | apply Mod.bodyFailed_memOk | apply ite_memOk | (intro _ _ _ _ _; try dsimp only) | split

theorem Mod.takePacket_memOk (m : Mod) (p : WeavePkt) (hm : m.memOk) :
    (m.takePacket p).memOk := by
  unfold Mod.takePacket
  repeat' with_reducible first
    | assumption | apply memOk_wf | apply memOk_tierC | apply memOk_sessions | apply Mod.takeMessage_memOk
    | apply Mod.damaged_memOk | apply ite_memOk | (simp only [↓memOk_mk]; refine ⟨?_, ?_, ?_⟩) | dsimp only | split

theorem Mod.trayPacket_memOk (m : Mod) (op : TrayOp) (p : WeavePkt) (hm : m.memOk) :
    (m.trayPacket op p).memOk := by
  unfold Mod.trayPacket
  repeat' with_reducible first
    | assumption | apply Mod.emit_memOk | apply Mod.serveTray_memOk | apply Mod.trayAnswered_memOk | apply ite_memOk

theorem Mod.arrivePacket_memOk (m : Mod) (op : Option TrayOp) (p : WeavePkt) (fclk : Nat) (hm : m.memOk) :
    (m.arrivePacket op p fclk).memOk := by
  unfold Mod.arrivePacket
  repeat' with_reducible first
    | assumption | apply Mod.transit_memOk | apply Mod.takePacket_memOk | apply Mod.trayPacket_memOk | apply ite_memOk
    | split

end Sys2Proof.Machine
end

