-- ==== Sys2Proof/Laws/MemOkPower.lean ====
section
/-!
SUPPORT. The canonical form of the memories (`Mod.memOk`) is kept by
boot, power, security, the sideband, traces, the queues and the tick: one lemma per operation, named after it, for callers to cite in place of unfolding it.
-/

namespace Sys2Proof.Machine

set_option linter.unusedSimpArgs false
set_option linter.unusedTactic false
set_option linter.unreachableTactic false

theorem Mod.powerLost_memOk (m : Mod) (hm : m.memOk) :
    (m.powerLost).memOk := by
  unfold Mod.powerLost
  repeat' with_reducible first
    | assumption | apply memOk_tierC | exact Memory.wf_nil | exact sessions_nil
    | (simp only [↓memOk_mk]; refine ⟨?_, ?_, ?_⟩)

theorem Mod.mainLost_memOk (m : Mod) (hm : m.memOk) :
    (m.mainLost).memOk := by
  unfold Mod.mainLost
  repeat' with_reducible first
    | assumption | apply memOk_wf | apply memOk_tierC | apply memOk_sessions | apply Mod.powerLost_memOk
    | (simp only [↓memOk_mk]; refine ⟨?_, ?_, ?_⟩)

theorem Mod.setSlot_memOk (m : Mod) (s off n v : Nat) (hm : m.memOk) :
    (m.setSlot s off n v).memOk := by
  unfold Mod.setSlot
  repeat' with_reducible first
    | assumption | apply Mod.writeC_memOk

theorem Mod.chooseSlot_memOk (m : Mod) (first : Option Nat) (n : Nat) (l : List Nat) (h : m.memOk) : (m.chooseSlot
    first n l).2.memOk := by
  induction n generalizing m first l with
  | zero => exact h
  | succ n ih =>
    unfold Mod.chooseSlot
    repeat' with_reducible first
      | assumption | apply ih | apply Mod.count_memOk | apply Mod.raiseCause_memOk | apply Mod.setSlot_memOk | split

theorem Mod.testPairs_memOk (m : Mod) (b0ok b1ok : Bool) (hm : m.memOk) :
    (m.testPairs b0ok b1ok).memOk := by
  unfold Mod.testPairs
  repeat' with_reducible first
    | assumption | apply memOk_wf | apply memOk_tierC | apply memOk_sessions | apply Mod.raiseCause_memOk
    | apply Mod.addOpen_memOk | apply ite_memOk | (simp only [↓memOk_mk]; refine ⟨?_, ?_, ?_⟩)

theorem Mod.bootFails_memOk (m : Mod) (hm : m.memOk) :
    (m.bootFails).memOk := by
  unfold Mod.bootFails
  repeat' with_reducible first
    | assumption | apply memOk_wf | apply memOk_tierC | apply memOk_sessions | apply Mod.raiseCause_memOk
    | (simp only [↓memOk_mk]; refine ⟨?_, ?_, ?_⟩)

theorem Mod.bootRom_memOk (m : Mod) (first : Option Nat) (hm : m.memOk) :
    (m.bootRom first).memOk := by
  unfold Mod.bootRom
  repeat' with_reducible first
    | assumption | apply memOk_wf | apply memOk_tierC | apply memOk_sessions | apply Mod.extend_memOk
    | apply Mod.chooseSlot_memOk | apply Mod.bootFails_memOk | refine snd_memOk ‹_ = (_, _)› ?_ | apply ite_memOk
    | (simp only [↓memOk_mk]; refine ⟨?_, ?_, ?_⟩) | split

theorem Mod.rstReleased_memOk (m : Mod) (wakeLow b0ok b1ok : Bool) (hm : m.memOk) :
    (m.rstReleased wakeLow b0ok b1ok).memOk := by
  unfold Mod.rstReleased
  repeat' with_reducible first
    | assumption | apply memOk_wf | apply memOk_tierC | apply memOk_sessions | apply Mod.testPairs_memOk
    | apply Mod.bootRom_memOk | apply ite_memOk | (simp only [↓memOk_mk]; refine ⟨?_, ?_, ?_⟩) | dsimp only | split

theorem Mod.rstAsserted_memOk (m : Mod) (micros : Nat) (hm : m.memOk) :
    (m.rstAsserted micros).memOk := by
  unfold Mod.rstAsserted
  repeat' with_reducible first
    | assumption | apply memOk_wf | apply memOk_tierC | apply memOk_sessions | apply Mod.startLevel_memOk
    | apply ite_memOk | (simp only [↓memOk_mk]; refine ⟨?_, ?_, ?_⟩) | dsimp only | split

theorem Mod.fillWhere_memOk (m : Mod) (p : Region → Bool) (hm : m.memOk) :
    (m.fillWhere p).memOk := by
  unfold Mod.fillWhere
  repeat' with_reducible first
    | assumption | apply Memory.filter_wf | apply memOk_wf | apply memOk_tierC | apply memOk_sessions
    | (simp only [↓memOk_mk]; refine ⟨?_, ?_, ?_⟩)

theorem Mod.memoryTrained_memOk (m : Mod) (failedLanes : List (Nat × Nat)) (hm : m.memOk) :
    (m.memoryTrained failedLanes).memOk := by
  unfold Mod.memoryTrained
  repeat' with_reducible first
    | assumption | apply memOk_wf | apply memOk_tierC | apply memOk_sessions | apply Mod.trainMemory_memOk
    | apply Mod.fillWhere_memOk | apply ite_memOk | (simp only [↓memOk_mk]; refine ⟨?_, ?_, ?_⟩)

theorem Mod.bootTested_memOk (m : Mod) (failedStakes : List Nat) (hm : m.memOk) :
    (m.bootTested failedStakes).memOk := by
  unfold Mod.bootTested
  repeat' with_reducible first
    | assumption | apply memOk_wf | apply memOk_tierC | apply memOk_sessions | apply Mod.count_memOk
    | apply Mod.addLog_memOk | apply Mod.addOpen_memOk | apply Mod.repairSram_memOk | apply Mod.fillWhere_memOk
    | apply foldl_memOk | apply ite_memOk | (simp only [↓memOk_mk]; refine ⟨?_, ?_, ?_⟩)
    | (intro _ _ _; try dsimp only)

theorem Mod.confirmSlot_memOk (m : Mod) (hm : m.memOk) :
    (m.confirmSlot).memOk := by
  unfold Mod.confirmSlot
  repeat' with_reducible first
    | assumption | apply Mod.setSlot_memOk

theorem Mod.policyUp_memOk (m : Mod) (hm : m.memOk) :
    (m.policyUp).memOk := by
  unfold Mod.policyUp
  repeat' with_reducible first
    | assumption | apply memOk_wf | apply memOk_tierC | apply memOk_sessions | apply Mod.extend_memOk
    | apply Mod.useRoster_memOk | apply ite_memOk | (simp only [↓memOk_mk]; refine ⟨?_, ?_, ?_⟩) | split

theorem Mod.takeRole_memOk (m : Mod) (hm : m.memOk) :
    (m.takeRole).memOk := by
  unfold Mod.takeRole
  repeat' with_reducible first
    | assumption | apply memOk_wf | apply memOk_tierC | apply memOk_sessions | apply Mod.raiseCause_memOk
    | apply Mod.addOpen_memOk | apply ite_memOk | (simp only [↓memOk_mk]; refine ⟨?_, ?_, ?_⟩)

theorem Mod.challengeAll_memOk (m : Mod) (hm : m.memOk) :
    (m.challengeAll).memOk := by
  unfold Mod.challengeAll
  repeat' with_reducible first
    | assumption | apply Mod.challenge_memOk | apply foldl_memOk | apply ite_memOk

theorem Mod.linksTrained_memOk (m : Mod) (ts : List PortTrain) (hm : m.memOk) :
    (m.linksTrained ts).memOk := by
  unfold Mod.linksTrained
  repeat' with_reducible first
    | assumption | apply memOk_wf | apply memOk_tierC | apply memOk_sessions | apply Mod.trainPort_memOk
    | apply Mod.confirmSlot_memOk | apply Mod.policyUp_memOk | apply Mod.takeRole_memOk | apply Mod.challengeAll_memOk
    | apply foldl_memOk | apply ite_memOk | (simp only [↓memOk_mk]; refine ⟨?_, ?_, ?_⟩)
    | (intro _ _ _; try dsimp only)

theorem Mod.quietAll_memOk (m : Mod) (record : Nat) (hm : m.memOk) :
    (m.quietAll record).memOk := by
  unfold Mod.quietAll
  repeat' with_reducible first
    | assumption | apply memOk_wf | apply memOk_tierC | apply memOk_sessions | apply Mod.abandonTies_memOk
    | apply Mod.freePlaces_memOk | apply Mod.endCommands_memOk | apply Mod.discardTraffic_memOk | apply foldl_memOk
    | (simp only [↓memOk_mk]; refine ⟨?_, ?_, ?_⟩) | exact fun _ h => h

theorem Mod.resetDone_memOk (m : Mod) (hm : m.memOk) :
    (m.resetDone).memOk := by
  unfold Mod.resetDone
  repeat' with_reducible first
    | assumption | apply memOk_wf | apply memOk_tierC | apply memOk_sessions | apply Mod.freeBool_memOk
    | apply Mod.count_memOk | apply Mod.extend_memOk | apply Mod.finishCommits_memOk | apply Mod.rollForward_memOk
    | apply Mod.repairSram_memOk | apply Mod.trainMemory_memOk | apply Mod.notify_memOk | apply Mod.stopMove_memOk
    | apply Mod.startLevel_memOk | apply Mod.replaceOut_memOk | apply Mod.closeLevel_memOk | apply Mod.testPairs_memOk
    | apply Mod.bootRom_memOk | apply Mod.fillWhere_memOk | apply Mod.confirmSlot_memOk | apply Mod.policyUp_memOk
    | apply Mod.quietAll_memOk | apply foldl_memOk | apply ite_memOk | (simp only [↓memOk_mk]; refine ⟨?_, ?_, ?_⟩)
    | (intro _ _ _; try dsimp only) | split

theorem Mod.inputApplied_memOk (m : Mod) (mv : Nat) (hm : m.memOk) :
    (m.inputApplied mv).memOk := by
  unfold Mod.inputApplied
  repeat' with_reducible first
    | assumption | apply memOk_wf | apply memOk_tierC | apply memOk_sessions
    | (simp only [↓memOk_mk]; refine ⟨?_, ?_, ?_⟩)

theorem Mod.bulkCharged_memOk (m : Mod) (hm : m.memOk) :
    (m.bulkCharged).memOk := by
  unfold Mod.bulkCharged
  repeat' with_reducible first
    | assumption | apply memOk_wf | apply memOk_tierC | apply memOk_sessions | apply ite_memOk
    | (simp only [↓memOk_mk]; refine ⟨?_, ?_, ?_⟩)

theorem Mod.inputFails_memOk (m : Mod) (mv : Nat) (hm : m.memOk) :
    (m.inputFails mv).memOk := by
  unfold Mod.inputFails
  repeat' with_reducible first
    | assumption | apply memOk_wf | apply memOk_tierC | apply memOk_sessions | apply Mod.powerLost_memOk
    | apply ite_memOk | (simp only [↓memOk_mk]; refine ⟨?_, ?_, ?_⟩)

theorem Mod.pwrEnRises_memOk (m : Mod) (hm : m.memOk) :
    (m.pwrEnRises).memOk := by
  unfold Mod.pwrEnRises
  repeat' with_reducible first
    | assumption | apply memOk_wf | apply memOk_tierC | apply memOk_sessions | apply ite_memOk
    | (simp only [↓memOk_mk]; refine ⟨?_, ?_, ?_⟩)

theorem Mod.railsUp_memOk (m : Mod) (group : Nat) (hm : m.memOk) :
    (m.railsUp group).memOk := by
  unfold Mod.railsUp
  repeat' with_reducible first
    | assumption | apply memOk_wf | apply memOk_tierC | apply memOk_sessions | apply Mod.raiseIbi_memOk
    | apply ite_memOk | (simp only [↓memOk_mk]; refine ⟨?_, ?_, ?_⟩)

theorem Mod.railsTimeout_memOk (m : Mod) (hm : m.memOk) :
    (m.railsTimeout).memOk := by
  unfold Mod.railsTimeout
  repeat' with_reducible first
    | assumption | apply memOk_wf | apply memOk_tierC | apply memOk_sessions | apply Mod.raiseCause_memOk
    | apply ite_memOk | (simp only [↓memOk_mk]; refine ⟨?_, ?_, ?_⟩)

theorem Mod.pwrEnFalls_memOk (m : Mod) (hm : m.memOk) :
    (m.pwrEnFalls).memOk := by
  unfold Mod.pwrEnFalls
  repeat' with_reducible first
    | assumption | apply memOk_wf | apply memOk_tierC | apply memOk_sessions | apply Mod.mainLost_memOk
    | apply ite_memOk | (simp only [↓memOk_mk]; refine ⟨?_, ?_, ?_⟩)

theorem Mod.alwaysOnResets_memOk (m : Mod) (hm : m.memOk) :
    (m.alwaysOnResets).memOk := by
  unfold Mod.alwaysOnResets
  repeat' with_reducible first
    | assumption | apply Mod.powerLost_memOk | apply ite_memOk

theorem Mod.sampled_memOk (m : Mod) (mv ma arrays : Nat) (hm : m.memOk) :
    (m.sampled mv ma arrays).memOk := by
  unfold Mod.sampled
  repeat' with_reducible first
    | assumption | apply memOk_wf | apply memOk_tierC | apply memOk_sessions | apply Mod.raiseCause_memOk
    | apply ite_memOk | (simp only [↓memOk_mk]; refine ⟨?_, ?_, ?_⟩)

theorem Mod.limit_memOk (m : Mod) (hm : m.memOk) :
    (m.limit).memOk := by
  unfold Mod.limit
  repeat' with_reducible first
    | assumption | apply memOk_wf | apply memOk_tierC | apply memOk_sessions | apply Mod.raiseCause_memOk
    | apply ite_memOk | (simp only [↓memOk_mk]; refine ⟨?_, ?_, ?_⟩)

theorem Mod.beginHold_memOk (m : Mod) (thermal : Bool) (n : Nat) (hm : m.memOk) :
    (m.beginHold thermal n).memOk := by
  unfold Mod.beginHold
  repeat' with_reducible first
    | assumption | apply memOk_wf | apply memOk_tierC | apply memOk_sessions | apply ite_memOk
    | (simp only [↓memOk_mk]; refine ⟨?_, ?_, ?_⟩)

theorem Mod.noteBelow_memOk (m : Mod) (hm : m.memOk) :
    (m.noteBelow).memOk := by
  unfold Mod.noteBelow
  repeat' with_reducible first
    | assumption | apply memOk_wf | apply memOk_tierC | apply memOk_sessions
    | (simp only [↓memOk_mk]; refine ⟨?_, ?_, ?_⟩)

theorem Mod.sensed_memOk (m : Mod) (vs : List Int) (hm : m.memOk) :
    (m.sensed vs).memOk := by
  unfold Mod.sensed
  repeat' with_reducible first
    | assumption | apply memOk_wf | apply memOk_tierC | apply memOk_sessions | apply Mod.raiseCause_memOk
    | apply Mod.beginHold_memOk | apply Mod.noteBelow_memOk | apply ite_memOk
    | (simp only [↓memOk_mk]; refine ⟨?_, ?_, ?_⟩) | split

theorem Mod.thermalRaised_memOk (m : Mod) (hm : m.memOk) :
    (m.thermalRaised).memOk := by
  unfold Mod.thermalRaised
  repeat' with_reducible first
    | assumption | apply memOk_wf | apply memOk_tierC | apply memOk_sessions | apply Mod.noteBelow_memOk
    | apply ite_memOk | (simp only [↓memOk_mk]; refine ⟨?_, ?_, ?_⟩)

theorem Mod.thermalPersists_memOk (m : Mod) (hm : m.memOk) :
    (m.thermalPersists).memOk := by
  unfold Mod.thermalPersists
  repeat' with_reducible first
    | assumption | apply Mod.raiseCause_memOk | apply ite_memOk | split

theorem Mod.shutDown_memOk (m : Mod) (hm : m.memOk) :
    (m.shutDown).memOk := by
  unfold Mod.shutDown
  repeat' with_reducible first
    | assumption | apply memOk_wf | apply memOk_tierC | apply memOk_sessions | apply Mod.addLog_memOk
    | apply Mod.notify_memOk | apply Mod.takeDump_memOk | apply Mod.beginLevel_memOk | apply Mod.flushLog_memOk
    | apply Mod.mainLost_memOk | (simp only [↓memOk_mk]; refine ⟨?_, ?_, ?_⟩) | split

theorem Mod.setLimit_memOk (m : Mod) (w : Nat) (hm : m.memOk) :
    (m.setLimit w).memOk := by
  unfold Mod.setLimit
  repeat' with_reducible first
    | assumption | apply memOk_wf | apply memOk_tierC | apply memOk_sessions | apply Mod.noteBelow_memOk
    | (simp only [↓memOk_mk]; refine ⟨?_, ?_, ?_⟩)

theorem Mod.railsBody_memOk (m : Mod) (hm : m.memOk) :
    (m.railsBody).2.memOk := by
  unfold Mod.railsBody
  repeat' with_reducible first
    | assumption | apply Mod.freeBytes_memOk

theorem Mod.sign_memOk (m : Mod) (msg : Bytes) (hm : m.memOk) :
    (m.sign msg).2.memOk := by
  unfold Mod.sign
  repeat' with_reducible first
    | assumption | apply memOk_wf | apply memOk_tierC | apply memOk_sessions
    | (simp only [↓memOk_mk]; refine ⟨?_, ?_, ?_⟩)

theorem Mod.dropLanes_memOk (m : Mod) (hm : m.memOk) :
    (m.dropLanes).memOk := by
  unfold Mod.dropLanes
  repeat' with_reducible first
    | assumption | apply memOk_wf | apply memOk_tierC | apply memOk_sessions
    | (simp only [↓memOk_mk]; refine ⟨?_, ?_, ?_⟩)

theorem Mod.endSession_memOk (m : Mod) (sid : Nat) (hm : m.memOk) :
    (m.endSession sid).memOk := by
  unfold Mod.endSession
  repeat' with_reducible first
    | assumption | apply memOk_wf | apply memOk_tierC | apply sessions_filter | apply memOk_sessions
    | apply Mod.dropLanes_memOk | (simp only [↓memOk_mk]; refine ⟨?_, ?_, ?_⟩)

theorem Mod.closeSessions_memOk (m : Mod) (hm : m.memOk) :
    (m.closeSessions).memOk := by
  unfold Mod.closeSessions
  repeat' with_reducible first
    | assumption | apply Mod.dropLanes_memOk | apply Mod.endSession_memOk | apply foldl_memOk

theorem Mod.initiate_memOk (m : Mod) (src : Endpoint) (point chain nonce : Bytes) (hm : m.memOk) :
    (m.initiate src point chain nonce).memOk := by
  unfold Mod.initiate
  repeat' with_reducible first
    | assumption | apply memOk_wf | apply memOk_tierC | apply memOk_sessions | apply Mod.freeNat_memOk
    | apply Mod.count_memOk | apply Mod.emit_memOk | apply ite_memOk | (simp only [↓memOk_mk]; refine ⟨?_, ?_, ?_⟩)

theorem Mod.openSession_memOk (m : Mod) (h : Handshake) (hm : m.memOk) : (m.openSession h).memOk := by
  unfold Mod.openSession
  have key : ∀ (m : Mod) (s : Session) (l : LaneState), m.memOk → s.staging.wf →
    (({ m with sessions := m.sessions.concat s, lanes := m.lanes.concat l, nextSid := m.nextSid + 1 } : Mod).count
      .SESSIONS_OPENED).memOk := fun m s l h hs =>
    Mod.count_memOk _ _ _ ⟨h.1, h.2.1, sessions_concat h.2.2 hs⟩
  refine key _ _ _ ?_ Memory.wf_nil
  split
  · exact Mod.endSession_memOk _ _ hm
  · exact hm

theorem Mod.finishHandshake_memOk (m : Mod) (src : Endpoint) (confirm : Bytes) (hm : m.memOk) :
    (m.finishHandshake src confirm).memOk := by
  unfold Mod.finishHandshake
  repeat' with_reducible first
    | assumption | apply memOk_wf | apply memOk_tierC | apply memOk_sessions | apply Mod.openSession_memOk
    | apply ite_memOk | (simp only [↓memOk_mk]; refine ⟨?_, ?_, ?_⟩) | split

theorem Mod.handshakeLapses_memOk (m : Mod) (src : Endpoint) (hm : m.memOk) :
    (m.handshakeLapses src).memOk := by
  unfold Mod.handshakeLapses
  repeat' with_reducible first
    | assumption | apply memOk_wf | apply memOk_tierC | apply memOk_sessions
    | (simp only [↓memOk_mk]; refine ⟨?_, ?_, ?_⟩)

theorem Mod.sessionExpires_memOk (m : Mod) (sid : Nat) (hm : m.memOk) :
    (m.sessionExpires sid).memOk := by
  unfold Mod.sessionExpires
  repeat' with_reducible first
    | assumption | apply Mod.endSession_memOk | apply ite_memOk | split

theorem Mod.report_memOk (m : Mod) (nonce : Bytes) (hm : m.memOk) :
    (m.report nonce).2.memOk := by
  unfold Mod.report
  repeat' with_reducible first
    | assumption | apply Mod.sign_memOk

theorem Mod.startAttest_memOk (m : Mod) (id : CmdId) (c : Cmd) (hm : m.memOk) :
    (m.startAttest id c).memOk := by
  unfold Mod.startAttest
  repeat' with_reducible first
    | assumption | apply memOk_wf | apply memOk_tierC | apply memOk_sessions | apply Mod.complete_memOk
    | apply Mod.report_memOk | (simp only [↓memOk_mk]; refine ⟨?_, ?_, ?_⟩) | split

theorem Mod.startFwStage_memOk (m : Mod) (id : CmdId) (c : Cmd) (hm : m.memOk) :
    (m.startFwStage id c).memOk := by
  unfold Mod.startFwStage
  repeat' with_reducible first
    | assumption | apply Memory.clear_wf | apply memOk_wf | apply memOk_tierC | apply memOk_sessions
    | apply Mod.complete_memOk | apply Mod.programmed_memOk | apply Mod.writeC_memOk | apply freeDetail_memOk
    | apply Mod.setSlot_memOk | apply ite_memOk | (simp only [↓memOk_mk]; refine ⟨?_, ?_, ?_⟩) | split

theorem Mod.extendActivate_memOk (m : Mod) (s : Nat) (hm : m.memOk) :
    (m.extendActivate s).memOk := by
  unfold Mod.extendActivate
  repeat' with_reducible first
    | assumption | apply Mod.extend_memOk

theorem Mod.startFwActivate_memOk (m : Mod) (id : CmdId) (c : Cmd) (hm : m.memOk) :
    (m.startFwActivate id c).memOk := by
  unfold Mod.startFwActivate
  repeat' with_reducible first
    | assumption | apply memOk_wf | apply memOk_tierC | apply memOk_sessions | apply Mod.addOpen_memOk
    | apply Mod.complete_memOk | apply Mod.afterC_memOk | apply Mod.startLevel_memOk | apply Mod.setSlot_memOk
    | apply Mod.extendActivate_memOk | apply ite_memOk | (simp only [↓memOk_mk]; refine ⟨?_, ?_, ?_⟩) | split
    | intro _

theorem Mod.spreadRoster_memOk (m : Mod) (hm : m.memOk) :
    (m.spreadRoster).memOk := by
  unfold Mod.spreadRoster
  repeat' with_reducible first
    | assumption | apply Mod.emit_memOk | apply foldl_memOk | (intro _ _ _; try dsimp only)

theorem Mod.newRoster_memOk (m : Mod) (p : Policy) (hm : m.memOk) :
    (m.newRoster p).memOk := by
  unfold Mod.newRoster
  repeat' with_reducible first
    | assumption | apply Mod.challenge_memOk | apply Mod.useRoster_memOk | apply Mod.spreadRoster_memOk
    | apply foldl_memOk | apply ite_memOk

theorem Mod.closeWhere_memOk (m : Mod) (f : Session → Bool) (hm : m.memOk) :
    (m.closeWhere f).memOk := by
  unfold Mod.closeWhere
  repeat' with_reducible first
    | assumption | apply memOk_wf | apply memOk_tierC | apply memOk_sessions
    | (simp only [↓memOk_mk]; refine ⟨?_, ?_, ?_⟩)

theorem Mod.installPolicy_memOk (m : Mod) (p : Policy) (hm : m.memOk) :
    (m.installPolicy p).memOk := by
  unfold Mod.installPolicy
  repeat' with_reducible first
    | assumption | apply memOk_wf | apply memOk_tierC | apply memOk_sessions | apply Mod.count_memOk
    | apply Mod.extend_memOk | apply Mod.newRoster_memOk | apply Mod.closeWhere_memOk
    | (simp only [↓memOk_mk]; refine ⟨?_, ?_, ?_⟩)

theorem Mod.releaseModule_memOk (m : Mod) (hm : m.memOk) :
    (m.releaseModule).memOk := by
  unfold Mod.releaseModule
  repeat' with_reducible first
    | assumption | apply Memory.filter_wf | apply memOk_wf | apply memOk_tierC | apply memOk_sessions
    | apply Mod.mirror_memOk | apply Mod.closeWhere_memOk | (simp only [↓memOk_mk]; refine ⟨?_, ?_, ?_⟩)

theorem Mod.refusePolicy_memOk (m : Mod) (id : CmdId) (code : Nat) (hm : m.memOk) :
    (m.refusePolicy id code).memOk := by
  unfold Mod.refusePolicy
  repeat' with_reducible first
    | assumption | apply Mod.count_memOk | apply Mod.complete_memOk

theorem Mod.startPropose_memOk (m : Mod) (id : CmdId) (c : Cmd) (hm : m.memOk) :
    (m.startPropose id c).memOk := by
  unfold Mod.startPropose
  repeat' with_reducible first
    | assumption | apply memOk_wf | apply memOk_tierC | apply memOk_sessions | apply Mod.complete_memOk
    | apply Mod.refusePolicy_memOk | apply ite_memOk | (simp only [↓memOk_mk]; refine ⟨?_, ?_, ?_⟩) | dsimp only
    | split

theorem Mod.startCountersign_memOk (m : Mod) (id : CmdId) (c : Cmd) (hm : m.memOk) :
    (m.startCountersign id c).memOk := by
  unfold Mod.startCountersign
  repeat' with_reducible first
    | assumption | apply memOk_wf | apply memOk_tierC | apply memOk_sessions | apply Mod.complete_memOk
    | apply Mod.closeSessions_memOk | apply Mod.installPolicy_memOk | apply Mod.releaseModule_memOk
    | apply Mod.refusePolicy_memOk | apply ite_memOk | (simp only [↓memOk_mk]; refine ⟨?_, ?_, ?_⟩) | split

theorem Mod.challenged_memOk (m : Mod) (steward : Nat) (nonce : Bytes) (hm : m.memOk) :
    (m.challenged steward nonce).memOk := by
  unfold Mod.challenged
  repeat' with_reducible first
    | assumption | apply Mod.emit_memOk | apply Mod.turnAway_memOk | apply Mod.report_memOk | apply ite_memOk

theorem Mod.joinNotice_memOk (m : Mod) (addr : Nat) (digest : Bytes) (hm : m.memOk) :
    (m.joinNotice addr digest).2.memOk := by
  unfold Mod.joinNotice
  repeat' with_reducible first
    | assumption | apply Mod.freeNat_memOk | split | dsimp only

theorem Mod.quarantine_memOk (m : Mod) (x : Nat) (digest : Bytes) (hm : m.memOk) :
    (m.quarantine x digest).memOk := by
  unfold Mod.quarantine
  repeat' with_reducible first
    | assumption | apply Mod.count_memOk | apply Mod.emit_memOk | apply Mod.raiseCause_memOk | apply Mod.addOpen_memOk
    | apply Mod.joinNotice_memOk
    | apply foldl_memOk | (intro _ _ _; try dsimp only)

theorem Mod.setRosterState_memOk (m : Mod) (x st : Nat) (hm : m.memOk) :
    (m.setRosterState x st).memOk := by
  unfold Mod.setRosterState
  repeat' with_reducible first
    | assumption | apply memOk_wf | apply memOk_tierC | apply memOk_sessions
    | (simp only [↓memOk_mk]; refine ⟨?_, ?_, ?_⟩)

theorem Mod.decideJoin_memOk (m : Mod) (x : Nat) (report : Option JoinReport) (hm : m.memOk) :
    (m.decideJoin x report).memOk := by
  unfold Mod.decideJoin
  repeat' with_reducible first
    | assumption | apply memOk_wf | apply memOk_tierC | apply memOk_sessions | apply Mod.quarantine_memOk
    | apply Mod.setRosterState_memOk | apply ite_memOk | (simp only [↓memOk_mk]; refine ⟨?_, ?_, ?_⟩) | split

theorem Mod.answerStatus_memOk (m : Mod) (hm : m.memOk) :
    (m.answerStatus).memOk := by
  unfold Mod.answerStatus
  repeat' with_reducible first
    | assumption | apply Mod.ackSideband_memOk

theorem Mod.answerIdentity_memOk (m : Mod) (hm : m.memOk) :
    (m.answerIdentity).memOk := by
  unfold Mod.answerIdentity
  repeat' with_reducible first
    | assumption | apply Mod.ackSideband_memOk

theorem Mod.answerAttest_memOk (m : Mod) (hm : m.memOk) :
    (m.answerAttest).memOk := by
  unfold Mod.answerAttest
  repeat' with_reducible first
    | assumption | apply Mod.ackSideband_memOk | apply Mod.sign_memOk

theorem Mod.answerClaimWrite_memOk (m : Mod) (hm : m.memOk) :
    (m.answerClaimWrite).memOk := by
  unfold Mod.answerClaimWrite
  repeat' with_reducible first
    | assumption | apply memOk_wf | apply memOk_tierC | apply memOk_sessions | apply Mod.ackSideband_memOk
    | apply ite_memOk | (simp only [↓memOk_mk]; refine ⟨?_, ?_, ?_⟩)

theorem Mod.answerClaimCommit_memOk (m : Mod) (hm : m.memOk) :
    (m.answerClaimCommit).memOk := by
  unfold Mod.answerClaimCommit
  repeat' with_reducible first
    | assumption | apply memOk_wf | apply memOk_tierC | apply memOk_sessions | apply Mod.ackSideband_memOk
    | apply Mod.closeSessions_memOk | apply Mod.installPolicy_memOk | apply ite_memOk
    | (simp only [↓memOk_mk]; refine ⟨?_, ?_, ?_⟩) | split

theorem Mod.answerBootControl_memOk (m : Mod) (hm : m.memOk) :
    (m.answerBootControl).memOk := by
  unfold Mod.answerBootControl
  repeat' with_reducible first
    | assumption | apply memOk_wf | apply memOk_tierC | apply memOk_sessions | apply Mod.ackSideband_memOk
    | apply ite_memOk | (simp only [↓memOk_mk]; refine ⟨?_, ?_, ?_⟩)

theorem Mod.answerLogTail_memOk (m : Mod) (hm : m.memOk) :
    (m.answerLogTail).memOk := by
  unfold Mod.answerLogTail
  repeat' with_reducible first
    | assumption | apply Mod.ackSideband_memOk

theorem Mod.answerSetLimit_memOk (m : Mod) (hm : m.memOk) :
    (m.answerSetLimit).memOk := by
  unfold Mod.answerSetLimit
  repeat' with_reducible first
    | assumption | apply Mod.ackSideband_memOk | apply Mod.setLimit_memOk | apply ite_memOk

theorem Mod.answerRails_memOk (m : Mod) (hm : m.memOk) :
    (m.answerRails).memOk := by
  unfold Mod.answerRails
  repeat' with_reducible first
    | assumption | apply Mod.ackSideband_memOk | apply Mod.railsBody_memOk

theorem Mod.serve_memOk (m : Mod) (code : Nat) (f : Mod → Mod) (hm : m.memOk) (hm1 : ∀ m, m.memOk → (f m).memOk) :
    (m.serve code f).memOk := by
  unfold Mod.serve
  repeat' with_reducible first
    | assumption | apply hm1 | apply ite_memOk

theorem Mod.sideRequest_memOk (m : Mod) (hm : m.memOk) :
    (m.sideRequest).memOk := by
  unfold Mod.sideRequest
  repeat' with_reducible first
    | assumption | apply memOk_wf | apply memOk_tierC | apply memOk_sessions | apply Mod.count_memOk
    | apply Mod.wakeUnit_memOk | apply Mod.ackSideband_memOk | apply Mod.setLimit_memOk | apply ite_memOk
    | (simp only [↓memOk_mk]; refine ⟨?_, ?_, ?_⟩)

theorem Mod.sideCancel_memOk (m : Mod) (hm : m.memOk) :
    (m.sideCancel).memOk := by
  unfold Mod.sideCancel
  repeat' with_reducible first
    | assumption | apply memOk_wf | apply memOk_tierC | apply memOk_sessions | apply Mod.freeBool_memOk
    | apply Mod.ackSideband_memOk | apply ite_memOk | (simp only [↓memOk_mk]; refine ⟨?_, ?_, ?_⟩)

theorem Mod.sideAckClear_memOk (m : Mod) (hm : m.memOk) :
    (m.sideAckClear).memOk := by
  unfold Mod.sideAckClear
  repeat' with_reducible first
    | assumption | apply memOk_wf | apply memOk_tierC | apply memOk_sessions
    | (simp only [↓memOk_mk]; refine ⟨?_, ?_, ?_⟩)

theorem Mod.causeClear_memOk (m : Mod) (bits : BitVec 32) (hm : m.memOk) :
    (m.causeClear bits).memOk := by
  unfold Mod.causeClear
  repeat' with_reducible first
    | assumption | apply Mod.setAlert_memOk

theorem Mod.maskAlert_memOk (m : Mod) (v : BitVec 32) (hm : m.memOk) :
    (m.maskAlert v).memOk := by
  unfold Mod.maskAlert
  repeat' with_reducible first
    | assumption | apply Mod.setAlert_memOk

theorem Mod.sideBuffer_memOk (m : Mod) (off : Nat) (v : BitVec 32) (hm : m.memOk) :
    (m.sideBuffer off v).memOk := by
  unfold Mod.sideBuffer
  repeat' with_reducible first
    | assumption | apply memOk_wf | apply memOk_tierC | apply memOk_sessions | apply Mod.count_memOk | apply ite_memOk
    | (simp only [↓memOk_mk]; refine ⟨?_, ?_, ?_⟩)

theorem Mod.sideWrite_memOk (m : Mod) (off : Nat) (v : BitVec 32) (hm : m.memOk) :
    (m.sideWrite off v).memOk := by
  unfold Mod.sideWrite
  repeat' with_reducible first
    | assumption | apply memOk_wf | apply memOk_tierC | apply memOk_sessions | apply Mod.sideRequest_memOk
    | apply Mod.sideCancel_memOk | apply Mod.sideAckClear_memOk | apply Mod.causeClear_memOk
    | apply Mod.maskAlert_memOk | apply Mod.sideBuffer_memOk | apply ite_memOk
    | (simp only [↓memOk_mk]; refine ⟨?_, ?_, ?_⟩)

theorem Mod.setSideBox_memOk (m : Mod) (n : Nat) (b : MailboxRegs) (hm : m.memOk) :
    (m.setSideBox n b).memOk := by
  unfold Mod.setSideBox
  repeat' with_reducible first
    | assumption | apply memOk_wf | apply memOk_tierC | apply memOk_sessions
    | (simp only [↓memOk_mk]; refine ⟨?_, ?_, ?_⟩)

theorem Mod.sideController_memOk (m : Mod) (n : Nat) (msg : Bytes) (hm : m.memOk) :
    (m.sideController n msg).memOk := by
  unfold Mod.sideController
  repeat' with_reducible first
    | assumption | apply Mod.freeNat_memOk | apply Mod.freeBytes_memOk | apply Mod.count_memOk
    | apply Mod.setSideBox_memOk | apply Mod.wakeUnit_memOk | apply ite_memOk

theorem Mod.sideBoxWrite_memOk (m : Mod) (n off : Nat) (v : BitVec 32) (hm : m.memOk) :
    (m.sideBoxWrite n off v).memOk := by
  unfold Mod.sideBoxWrite
  repeat' with_reducible first
    | assumption | apply Mod.setSideBox_memOk | apply Mod.sideController_memOk | apply ite_memOk

theorem Mod.setSmallBox_memOk (m : Mod) (b : SmallMailbox) (hm : m.memOk) :
    (m.setSmallBox b).memOk := by
  unfold Mod.setSmallBox
  repeat' with_reducible first
    | assumption | apply memOk_wf | apply memOk_tierC | apply memOk_sessions
    | (simp only [↓memOk_mk]; refine ⟨?_, ?_, ?_⟩)

theorem Mod.smallSend_memOk (m : Mod) (receiver sender channel : Nat) (msg : Bytes) (hm : m.memOk) :
    (m.smallSend receiver sender channel msg).memOk := by
  unfold Mod.smallSend
  repeat' with_reducible first
    | assumption | apply Mod.count_memOk | apply Mod.parkThread_memOk | apply Mod.addOpen_memOk
    | apply Mod.wakeUnit_memOk | apply Mod.setSmallBox_memOk | apply ite_memOk | split

theorem Mod.smallClear_memOk (m : Mod) (receiver channel : Nat) (hm : m.memOk) :
    (m.smallClear receiver channel).memOk := by
  unfold Mod.smallClear
  repeat' with_reducible first
    | assumption | apply Mod.wakeThreads_memOk | apply Mod.setSmallBox_memOk | apply ite_memOk

theorem Mod.smallWrite_memOk (m : Mod) (stake off : Nat) (v : BitVec 32) (hm : m.memOk) :
    (m.smallWrite stake off v).memOk := by
  unfold Mod.smallWrite
  repeat' with_reducible first
    | assumption | apply Mod.setSmallBox_memOk | apply Mod.smallClear_memOk | apply foldl_memOk | apply ite_memOk
    | (intro _ _ _; try dsimp only)

theorem Mod.registerWrite_memOk (m : Mod) (box : Mailbox) (off : Nat) (v : BitVec 32) (hm : m.memOk) :
    (m.registerWrite box off v).memOk := by
  unfold Mod.registerWrite
  repeat' with_reducible first
    | assumption | apply Mod.sideWrite_memOk | apply Mod.sideBoxWrite_memOk | apply Mod.smallWrite_memOk | split

theorem Mod.setDynamic_memOk (m : Mod) (a : Option (BitVec 7)) (hm : m.memOk) :
    (m.setDynamic a).memOk := by
  unfold Mod.setDynamic
  repeat' with_reducible first
    | assumption | apply memOk_wf | apply memOk_tierC | apply memOk_sessions
    | (simp only [↓memOk_mk]; refine ⟨?_, ?_, ?_⟩)

theorem Mod.setdasa_memOk (m : Mod) (a : BitVec 7) (hm : m.memOk) :
    (m.setdasa a).memOk := by
  unfold Mod.setdasa
  repeat' with_reducible first
    | assumption | apply Mod.setDynamic_memOk | apply ite_memOk

theorem Mod.setnewda_memOk (m : Mod) (a : BitVec 7) (hm : m.memOk) :
    (m.setnewda a).memOk := by
  unfold Mod.setnewda
  repeat' with_reducible first
    | assumption | apply Mod.setDynamic_memOk | apply ite_memOk

theorem Mod.rstdaa_memOk (m : Mod) (hm : m.memOk) :
    (m.rstdaa).memOk := by
  unfold Mod.rstdaa
  repeat' with_reducible first
    | assumption | apply Mod.setDynamic_memOk | apply ite_memOk

theorem Mod.i3cAnswer_memOk (m : Mod) (b : Bytes) (hm : m.memOk) :
    (m.i3cAnswer b).memOk := by
  unfold Mod.i3cAnswer
  repeat' with_reducible first
    | assumption | apply Mod.emit_memOk | apply ite_memOk

theorem Mod.i3cGetStatus_memOk (m : Mod) (hm : m.memOk) :
    (m.i3cGetStatus).memOk := by
  unfold Mod.i3cGetStatus
  repeat' with_reducible first
    | assumption | apply memOk_wf | apply memOk_tierC | apply memOk_sessions | apply Mod.i3cAnswer_memOk
    | (simp only [↓memOk_mk]; refine ⟨?_, ?_, ?_⟩)

theorem Mod.setIbi_memOk (m : Mod) (events : BitVec 8) (on : Bool) (hm : m.memOk) :
    (m.setIbi events on).memOk := by
  unfold Mod.setIbi
  repeat' with_reducible first
    | assumption | apply memOk_wf | apply memOk_tierC | apply memOk_sessions | apply ite_memOk
    | (simp only [↓memOk_mk]; refine ⟨?_, ?_, ?_⟩)

theorem Mod.tck_memOk (m : Mod) (tms tdi trstN : Bool) (hm : m.memOk) :
    (m.tck tms tdi trstN).memOk := by
  unfold Mod.tck
  repeat' with_reducible first
    | assumption | apply memOk_wf | apply memOk_tierC | apply memOk_sessions | apply ite_memOk
    | (simp only [↓memOk_mk]; refine ⟨?_, ?_, ?_⟩)

theorem Mod.testFails_memOk (m : Mod) (u : UnitRef) (hm : m.memOk) :
    (m.testFails u).memOk := by
  unfold Mod.testFails
  repeat' with_reducible first
    | assumption | apply Mod.addOpen_memOk | apply Mod.checkerFails_memOk | apply Mod.takeOut_memOk | apply ite_memOk

theorem Mod.runTests_memOk (m : Mod) (l : List (UnitRef × Nat)) (h : m.memOk) : (m.runTests l).2.2.memOk := by
  induction l generalizing m with
  | nil => exact h
  | cons s l ih =>
    unfold Mod.runTests
    repeat' with_reducible first
      | assumption | apply memOk_wf | apply memOk_tierC | apply memOk_sessions | apply ih | apply Mod.count_memOk
      | apply Mod.bistEntry_memOk | (simp only [↓memOk_mk]; refine ⟨?_, ?_, ?_⟩)

theorem Mod.finishTests_memOk (m : Mod) (id : CmdId) (ts : List (UnitRef × Nat)) (wipe : Region → Bool) (hm : m.memOk) :
    (m.finishTests id ts wipe).memOk := by
  unfold Mod.finishTests
  repeat' with_reducible first
    | assumption | apply memOk_wf | apply memOk_tierC | apply memOk_sessions | apply Mod.complete_memOk
    | apply Mod.fillWhere_memOk | apply Mod.testFails_memOk | apply Mod.runTests_memOk | apply foldl_memOk
    | (simp only [↓memOk_mk]; refine ⟨?_, ?_, ?_⟩) | dsimp only | split

theorem Mod.startBist_memOk (m : Mod) (id : CmdId) (c : Cmd) (hm : m.memOk) :
    (m.startBist id c).memOk := by
  unfold Mod.startBist
  repeat' with_reducible first
    | assumption | apply memOk_wf | apply memOk_tierC | apply memOk_sessions | apply Mod.setWork_memOk
    | apply Mod.complete_memOk | apply Mod.beginMove_memOk | apply Mod.finishTests_memOk | apply ite_memOk
    | (simp only [↓memOk_mk]; refine ⟨?_, ?_, ?_⟩) | dsimp only | split

theorem Mod.startTraceSet_memOk (m : Mod) (id : CmdId) (c : Cmd) (hm : m.memOk) :
    (m.startTraceSet id c).memOk := by
  unfold Mod.startTraceSet
  repeat' with_reducible first
    | assumption | apply memOk_wf | apply memOk_tierC | apply memOk_sessions | apply Mod.complete_memOk
    | apply ite_memOk | (simp only [↓memOk_mk]; refine ⟨?_, ?_, ?_⟩) | dsimp only | split

theorem Mod.sendMarks_memOk (m : Mod) (mark : Nat) (hm : m.memOk) :
    (m.sendMarks mark).memOk := by
  unfold Mod.sendMarks
  repeat' with_reducible first
    | assumption | apply Mod.emit_memOk | apply Mod.trace__memOk | apply foldl_memOk | (intro _ _ _; try dsimp only)

theorem Mod.startTrace_memOk (m : Mod) (id : CmdId) (c : Cmd) (hm : m.memOk) :
    (m.startTrace id c).memOk := by
  unfold Mod.startTrace
  repeat' with_reducible first
    | assumption | apply memOk_wf | apply memOk_tierC | apply memOk_sessions | apply Mod.complete_memOk
    | apply Mod.startTraceSet_memOk | apply Mod.sendMarks_memOk | (simp only [↓memOk_mk]; refine ⟨?_, ?_, ?_⟩) | split

theorem Mod.streamTrace_memOk (m : Mod) (records : Nat) (hm : m.memOk) :
    (m.streamTrace records).memOk := by
  unfold Mod.streamTrace
  repeat' with_reducible first
    | assumption | apply memOk_wf | apply memOk_tierC | apply memOk_sessions | apply Mod.emit_memOk | apply ite_memOk
    | (simp only [↓memOk_mk]; refine ⟨?_, ?_, ?_⟩) | dsimp only | split

theorem Mod.startCounters_memOk (m : Mod) (id : CmdId) (c : Cmd) (hm : m.memOk) :
    (m.startCounters id c).memOk := by
  unfold Mod.startCounters
  repeat' with_reducible first
    | assumption | apply Mod.complete_memOk | apply Mod.countInjected_memOk

theorem Mod.checkLogArea_memOk (m : Mod) (id : CmdId) (c : Cmd) (ns : List Nat) (k : Mod → Mod) (hm : m.memOk) (hm1 :
    ∀ m, m.memOk → (k m).memOk) :
    (m.checkLogArea id c ns k).memOk := by
  unfold Mod.checkLogArea
  repeat' with_reducible first
    | assumption | apply memOk_wf | apply memOk_tierC | apply memOk_sessions | apply hm1 | apply Mod.updSum_memOk
    | apply Mod.complete_memOk | apply Mod.checkC_memOk | apply foldl_fst_memOk
    | (simp only [↓memOk_mk]; refine ⟨?_, ?_, ?_⟩) | (intro _ _ _; try dsimp only) | dsimp only | split

theorem Mod.startLogRead_memOk (m : Mod) (id : CmdId) (c : Cmd) (hm : m.memOk) :
    (m.startLogRead id c).memOk := by
  unfold Mod.startLogRead
  repeat' with_reducible first
    | assumption | apply memOk_wf | apply memOk_tierC | apply memOk_sessions | apply Mod.complete_memOk
    | apply Mod.checkLogArea_memOk | (simp only [↓memOk_mk]; refine ⟨?_, ?_, ?_⟩) | split | intro _

theorem Mod.startDumpRead_memOk (m : Mod) (id : CmdId) (c : Cmd) (hm : m.memOk) :
    (m.startDumpRead id c).memOk := by
  unfold Mod.startDumpRead
  repeat' with_reducible first
    | assumption | apply memOk_wf | apply memOk_tierC | apply memOk_sessions | apply Mod.complete_memOk
    | apply Mod.afterC_memOk | apply freeDetail_memOk | apply ite_memOk | (simp only [↓memOk_mk]; refine ⟨?_, ?_, ?_⟩)
    | dsimp only | split | intro _

theorem Mod.startFence_memOk (m : Mod) (id : CmdId) (c : Cmd) (whole : Bool) (hm : m.memOk) :
    (m.startFence id c whole).memOk := by
  unfold Mod.startFence
  repeat' with_reducible first
    | assumption | apply Mod.updJob_memOk | apply Mod.setWork_memOk | apply Mod.complete_memOk
    | apply Mod.flushBlocks_memOk | apply ite_memOk

theorem Mod.startEcho_memOk (m : Mod) (id : CmdId) (c : Cmd) (hm : m.memOk) :
    (m.startEcho id c).memOk := by
  unfold Mod.startEcho
  repeat' with_reducible first
    | assumption | apply Mod.trace__memOk | apply Mod.complete_memOk | apply ite_memOk

theorem Mod.startQueued_memOk (m : Mod) (id : CmdId) (c : Cmd) (j : Job) (hm : m.memOk) :
    (m.startQueued id c j).memOk := by
  unfold Mod.startQueued
  repeat' with_reducible first
    | assumption | apply Mod.complete_memOk | apply Mod.startTieSignal_memOk | apply Mod.startTieWait_memOk
    | apply Mod.startTieDump_memOk | apply Mod.startPoolStat_memOk | apply Mod.startData_memOk
    | apply Mod.startReside_memOk | apply Mod.startEvict_memOk | apply Mod.startRoute_memOk
    | apply Mod.startTokens_memOk | apply Mod.startCounts_memOk | apply Mod.startCollective_memOk
    | apply Mod.startStream_memOk | apply Mod.startNorm_memOk | apply Mod.startTraining_memOk
    | apply Mod.startCheckpoint_memOk | apply Mod.startRestore_memOk | apply Mod.startOwn_memOk
    | apply Mod.startFence_memOk | apply Mod.startEcho_memOk | split

theorem Mod.startControl_memOk (m : Mod) (id : CmdId) (c : Cmd) (hm : m.memOk) :
    (m.startControl id c).memOk := by
  unfold Mod.startControl
  repeat' with_reducible first
    | assumption | apply Mod.startPoolConfig_memOk | apply Mod.startReadCheck_memOk | apply Mod.startPattern_memOk
    | apply Mod.startJobs_memOk | apply Mod.startReset_memOk | apply Mod.startSpare_memOk
    | apply Mod.startAttest_memOk | apply Mod.startFwStage_memOk | apply Mod.startFwActivate_memOk
    | apply Mod.startPropose_memOk | apply Mod.startCountersign_memOk | apply Mod.startBist_memOk
    | apply Mod.startTrace_memOk | apply Mod.startCounters_memOk | apply Mod.startLogRead_memOk
    | apply Mod.startDumpRead_memOk | split

theorem Mod.startOnControl_memOk (m : Mod) (id : CmdId) (c : Cmd) (hm : m.memOk) :
    (m.startOnControl id c).memOk := by
  unfold Mod.startOnControl
  repeat' with_reducible first
    | assumption | apply Mod.complete_memOk | apply Mod.startControl_memOk | apply ite_memOk | split

theorem Mod.markStarted_memOk (m : Mod) (l : Lane) (r : Running) (hm : m.memOk) :
    (m.markStarted l r).memOk := by
  unfold Mod.markStarted
  repeat' with_reducible first
    | assumption | apply Mod.trace__memOk | apply Mod.updRunning_memOk | apply ite_memOk

theorem Mod.begin_memOk (m : Mod) (l : Lane) (hm : m.memOk) :
    (m.begin l).memOk := by
  unfold Mod.begin
  repeat' with_reducible first
    | assumption | apply memOk_wf | apply memOk_tierC | apply memOk_sessions | apply Mod.complete_memOk
    | apply Mod.startQueued_memOk | apply Mod.startOnControl_memOk | apply Mod.markStarted_memOk | apply ite_memOk
    | (simp only [↓memOk_mk]; refine ⟨?_, ?_, ?_⟩) | split

theorem Mod.reach_memOk (m : Mod) (l : Lane) (hm : m.memOk) :
    (m.reach l).memOk := by
  unfold Mod.reach
  repeat' with_reducible first
    | assumption | apply memOk_wf | apply memOk_tierC | apply memOk_sessions | apply Mod.updLane_memOk
    | apply Mod.complete_memOk | apply Mod.addWaiter_memOk | apply Mod.begin_memOk | apply foldl_memOk
    | (simp only [↓memOk_mk]; refine ⟨?_, ?_, ?_⟩) | (intro _ _ _; try dsimp only) | dsimp only | split

theorem Mod.queueHead_memOk (m : Mod) (l : Lane) (hm : m.memOk) :
    (m.queueHead l).memOk := by
  unfold Mod.queueHead
  repeat' with_reducible first
    | assumption | apply memOk_wf | apply memOk_tierC | apply memOk_sessions | apply Mod.complete_memOk
    | apply Mod.pokeResidency_memOk | apply Mod.moveEx_memOk | apply Mod.goCommit_memOk | apply Mod.goRollback_memOk
    | apply Mod.retryOwn_memOk | apply Mod.begin_memOk | apply Mod.reach_memOk
    | (simp only [↓memOk_mk]; refine ⟨?_, ?_, ?_⟩) | dsimp only | split

theorem Mod.refuseCmd_memOk (m : Mod) (l : Lane) (sid : Nat) (quiet : Bool) (r : Reply) (hm : m.memOk) :
    (m.refuseCmd l sid quiet r).memOk := by
  unfold Mod.refuseCmd
  repeat' with_reducible first
    | assumption | apply Mod.sendReply_memOk | apply Mod.storeReply_memOk

theorem Mod.countStale_memOk (m : Mod) (st : Status) (hm : m.memOk) :
    (m.countStale st).memOk := by
  unfold Mod.countStale
  repeat' with_reducible first
    | assumption | apply Mod.count_memOk | apply ite_memOk

theorem Mod.takeUp_memOk (m : Mod) (l : Lane) (a : Arrived) (hm : m.memOk) :
    (m.takeUp l a).memOk := by
  unfold Mod.takeUp
  repeat' with_reducible first
    | assumption | apply memOk_wf | apply memOk_tierC | apply memOk_sessions | apply Mod.freeNat_memOk
    | apply Mod.updLane_memOk | apply Mod.reach_memOk | apply Mod.refuseCmd_memOk | apply Mod.countStale_memOk
    | (simp only [↓memOk_mk]; refine ⟨?_, ?_, ?_⟩) | split

theorem Mod.catchUp_memOk (n : Nat) (m : Mod) (l : Lane) (h : m.memOk) : (catchUp n m l).memOk := by
  induction n generalizing m l with
  | zero => exact h
  | succ n ih =>
    unfold Mod.catchUp
    repeat' with_reducible first
      | assumption | apply memOk_wf | apply memOk_tierC | apply memOk_sessions | apply ih | apply Mod.updLane_memOk
      | apply Mod.takeUp_memOk | (simp only [↓memOk_mk]; refine ⟨?_, ?_, ?_⟩) | dsimp only | split

theorem Mod.sequence_memOk (m : Mod) (l : Lane) (p : Packet) (ss : Session) (a : Arrived) (bad : Nat → Reply) (hm :
    m.memOk) :
    (m.sequence l p ss a bad).memOk := by
  unfold Mod.sequence
  repeat' with_reducible first
    | assumption | apply memOk_wf | apply memOk_tierC | apply memOk_sessions | apply Mod.count_memOk
    | apply Mod.updLane_memOk | apply Mod.sendReply_memOk | apply Mod.takeUp_memOk | apply Mod.catchUp_memOk
    | apply ite_memOk | (simp only [↓memOk_mk]; refine ⟨?_, ?_, ?_⟩) | split

theorem Mod.receiveAs_memOk (m : Mod) (op : Option Op) (major variant : Nat) (p : Packet) (hm : m.memOk) :
    (m.receiveAs op major variant p).memOk := by
  unfold Mod.receiveAs
  repeat' with_reducible first
    | assumption | apply memOk_wf | apply memOk_tierC | apply memOk_sessions | apply Mod.count_memOk
    | apply Mod.updSession_memOk | apply Mod.sendReply_memOk | apply Mod.sequence_memOk | apply ite_memOk
    | (simp only [↓memOk_mk]; refine ⟨?_, ?_, ?_⟩) | exact fun _ h => h | split

theorem Mod.receive_memOk (m : Mod) (op : Op) (p : Packet) (hm : m.memOk) :
    (m.receive op p).memOk := by
  unfold Mod.receive
  repeat' with_reducible first
    | assumption | apply Mod.closeSessions_memOk | apply Mod.receiveAs_memOk

theorem Mod.receiveDatagram_memOk (m : Mod) (src : Endpoint) (b : Bytes) (hm : m.memOk) :
    (m.receiveDatagram src b).memOk := by
  unfold Mod.receiveDatagram
  repeat' with_reducible first
    | assumption | apply Mod.count_memOk | apply Mod.updSession_memOk | apply Mod.closeSessions_memOk
    | apply Mod.receiveAs_memOk | apply ite_memOk | exact fun _ h => h | split

theorem Mod.hangWith_memOk (m : Mod) (id : CmdId) (e : Engine) (hm : m.memOk) :
    (m.hangWith id e).memOk := by
  unfold Mod.hangWith
  repeat' with_reducible first
    | assumption | apply Mod.endWith_memOk | apply Mod.hang_memOk

theorem Mod.timeoutAt_memOk (m : Mod) (l : Lane) (hm : m.memOk) :
    (m.timeoutAt l).memOk := by
  unfold Mod.timeoutAt
  repeat' with_reducible first
    | assumption | apply memOk_wf | apply memOk_tierC | apply memOk_sessions | apply Mod.setWork_memOk
    | apply Mod.complete_memOk | apply Mod.splitTimeout_memOk | apply Mod.exTimeout_memOk
    | apply Mod.withdrawFar_memOk | apply Mod.endWith_memOk | apply Mod.hangWith_memOk | apply ite_memOk
    | (simp only [↓memOk_mk]; refine ⟨?_, ?_, ?_⟩) | split

theorem Mod.reorderTimeout_memOk (m : Mod) (l : Lane) (seq : Nat) (hm : m.memOk) :
    (m.reorderTimeout l seq).memOk := by
  unfold Mod.reorderTimeout
  repeat' with_reducible first
    | assumption | apply memOk_wf | apply memOk_tierC | apply memOk_sessions | apply Mod.count_memOk
    | apply Mod.updLane_memOk | (simp only [↓memOk_mk]; refine ⟨?_, ?_, ?_⟩) | split

theorem Mod.rdmaRead_memOk (m : Mod) (src : Endpoint) (target : RdmaTarget) (off len : Nat) (hm : m.memOk) :
    (m.rdmaRead src target off len).memOk := by
  unfold Mod.rdmaRead
  repeat' with_reducible first
    | assumption | apply memOk_wf | apply memOk_tierC | apply memOk_sessions | apply Mod.freeBool_memOk
    | apply Mod.count_memOk | apply Mod.emit_memOk | apply Mod.checkLocal_memOk | refine fst_memOk ‹_ = (_, _)› ?_
    | apply ite_memOk | (simp only [↓memOk_mk]; refine ⟨?_, ?_, ?_⟩) | dsimp only | split

theorem Mod.rdmaWrite_memOk (m : Mod) (src : Endpoint) (target : RdmaTarget) (off : Nat) (data : Bytes) (hm : m.memOk) :
    (m.rdmaWrite src target off data).memOk := by
  unfold Mod.rdmaWrite
  repeat' with_reducible first
    | assumption | apply Memory.write_wf | apply memOk_wf | apply memOk_tierC | apply memOk_sessions
    | apply Mod.store_memOk | apply Mod.freeBool_memOk | apply Mod.count_memOk | apply Mod.emit_memOk
    | apply Mod.updSession_memOk | apply Mod.checkWrite_memOk | refine fst_memOk ‹_ = (_, _)› ?_ | apply ite_memOk
    | (simp only [↓memOk_mk]; refine ⟨?_, ?_, ?_⟩) | dsimp only | split | intro _

theorem Mod.rdmaOther_memOk (m : Mod) (src : Endpoint) (hm : m.memOk) :
    (m.rdmaOther src).memOk := by
  unfold Mod.rdmaOther
  repeat' with_reducible first
    | assumption | apply Mod.count_memOk | apply Mod.emit_memOk | apply ite_memOk

theorem Mod.waiterArrives_memOk (m : Mod) (ref : Nat) (who : WaiterId) (threshold : Nat) (hm : m.memOk) :
    (m.waiterArrives ref who threshold).memOk := by
  unfold Mod.waiterArrives
  repeat' with_reducible first
    | assumption | apply memOk_wf | apply memOk_tierC | apply memOk_sessions | apply Mod.parkThread_memOk
    | apply Mod.addWaiter_memOk | apply ite_memOk | (simp only [↓memOk_mk]; refine ⟨?_, ?_, ?_⟩) | split

theorem Mod.waiterLeaves_memOk (m : Mod) (ref : Nat) (who : WaiterId) (hm : m.memOk) :
    (m.waiterLeaves ref who).memOk := by
  unfold Mod.waiterLeaves
  repeat' with_reducible first
    | assumption | apply memOk_wf | apply memOk_tierC | apply memOk_sessions | apply Mod.wakeThread_memOk
    | apply Mod.emit_memOk | apply Mod.complete_memOk | apply Mod.removeWaiter_memOk | apply ite_memOk
    | (simp only [↓memOk_mk]; refine ⟨?_, ?_, ?_⟩) | split

theorem Mod.tick_memOk (m : Mod) (hm : m.memOk) :
    (m.tick).memOk := by
  unfold Mod.tick
  repeat' with_reducible first
    | assumption | apply memOk_wf | apply memOk_tierC | apply memOk_sessions | apply Mod.drainPorts_memOk
    | apply Mod.closeSessions_memOk | apply ite_memOk | (simp only [↓memOk_mk]; refine ⟨?_, ?_, ?_⟩)

end Sys2Proof.Machine
end

