-- ==== Sys2Proof/WellFormed.lean ====
section
/-!
DEFINITION. The range checks that make a command well formed: unit numbers within the module of R14,
tags and nonces of their stated lengths.
-/

namespace Sys2Proof

/-- A packet carries a 16-byte tag (R46). -/
def Packet.wf (p : Packet) : Bool := p.tag.length == 16

/-- A port of the Weave router (R27). -/
def portOk (p : Nat) : Bool := p < 16

/-- A matrix array: 4 per physical stake (R14, R21). -/
def arrayOk (a : Nat) : Bool := a < 1024

/-- A physical stake (R14). -/
def stakeOk (s : Nat) : Bool := s < 256

def Engine.wf : Engine → Bool
  | .sequencer s | .transfer s | .adder s => stakeOk s
  | .slew n | .pairing n => n < 4
  | .sweep u => u < 24

def Mailbox.wf : Mailbox → Bool
  | .sideband => true
  | .side n => n < 4
  | .small s => stakeOk s

def LockPair.wf : LockPair → Bool
  | .side n => n < 4
  | .mgmt b => b < 2

def Clock.wf : Clock → Bool
  | .aclk s | .nclkSide s => s < 4
  | .nclkBorder b | .mclk b | .fclk b => b < 2
  | .aoclk => true

def DupUnit.wf : DupUnit → Bool
  | .stake s => stakeOk s
  | .sideUnit s => s < 4
  | .borderUnit b | .router b => b < 2
  | .escalation => true

/-- Whether a command names units that the module has and carries fields of the stated lengths. -/
def Instr.wf : Instr → Bool
  | .nop p | .fenceQueue p | .fenceJob p | .tieSignalAdd p | .tieSignalReset p | .tieWait p
  | .tieDump p | .echo p | .planLoad p | .planStart p | .quiesce p | .planUnload p | .jobAbort p
  | .jobNotice p | .copy p | .gather p | .scatter p | .scatterAdd p | .fill p | .rngFill p
  | .convert p | .matmul p | .hadamard p | .sparseForward p | .sparseDataGrad p
  | .sparseWeightGrad p | .spmm p | .riddleExact p | .riddleGuarded p | .riddleFree p | .mend p
  | .vexpr p | .reduceSum p | .reduceSumsq p | .reduceMax p | .reduceMin p | .distMinPlus p
  | .distMaxPlus p | .distL2 p | .distL1 p | .route p | .dispatch p | .combine p
  | .dispatchGrad p | .combineGrad p | .expertCounts p | .reduceScatter p | .allGather p
  | .allReduce p | .norm p | .broadcast p | .send p | .recv p | .optimSweep p | .lossRead p
  | .lossLoad p | .stepCommit p | .stepRollback p | .reside p | .evict p | .checkpoint p
  | .restore p | .ownTake p | .ownGive p | .poolConfig p | .poolStatRecords p
  | .poolStatRequesters p | .bistStake p | .bistSide p | .bistModule p | .bistCheckers p
  | .crashDumpRead p | .logByNumber p | .logNewest p | .countersJob p | .countersModule p
  | .countersPort p | .countersArray p | .countersRouterHalf p | .traceSet p | .traceStart p
  | .traceStop p | .traceMark p | .hbmReadCheck p | .hbmPattern p | .spareStake p
  | .spareWeaveLane p | .spareHbmLane p | .spareDramRow p | .spareSramRow p | .spareMgmt p
  | .resetEngine p | .resetPartition p | .resetModule p | .resetPowerCycle p | .attestReport p
  | .attestChain p | .fwStageBegin p | .fwStageWrite p | .fwActivateTrial p | .fwActivateReset p
  | .fwActivateLock p | .policyPropose p | .policyCountersign p => p.wf
  | .registerWrite b _ _ => b.wf
  | .sideMailboxRequest n m => n < 4 && m.length ≤ 256
  | .smallMailboxSend r s c m => stakeOk r && stakeOk s && c < 32 && m.length == 64
  | .smallDoorbellClear r c => stakeOk r && c < 32
  | .passIssue a _ | .reloadDone a | .lastRowFed a | .passChecksClean a | .rowBlockBoundary a
  | .dummyRowRun a | .rampDownDone a | .rampUpDone a | .limiterGapEnd a | .passResume a
  | .arrayCheckFault a => arrayOk a
  | .preemptRequest s => stakeOk s
  | .trayAttest _ n => n.length == 32
  | .weaveTransit p _ _ _ | .mark p _ _ | .markReply p _ _ | .linkReplay p _
  | .fecWindowEnd p _ _ _ | .laneSwitch p | .laneFailure p _ | .weaveLinkTrained p _ => portOk p
  | .laneTest c _ => c < 96
  | .clockLockLoss c => c.wf
  | .lockstepMismatch p => p.wf
  | .dupStateMismatch u => u.wf
  | .progressWatchdog e | .contextStopDone e | .replayVerdict e _ => e.wf
  | .firmwareWatchdog b | .mgmtSelfTestDone b _ => b < 2
  | .converterMismatch s => stakeOk s
  | .rotatingTakeover r | .stakeTakeoverDone r => r < 32
  | .selfTestDone s _ => stakeOk s
  | .railGroupInRegulation g => g < 6
  | .railFault r => r < 24
  | .linkTrainingDone l => l.length == 16
  | .sweepPage u => u < 24
  | _ => true

end Sys2Proof
end

