-- ==== Sys2Proof/Tests/Slice0.lean ====
section
/-!
SUPPORT. The model's own tests: a term for each check of WellFormed that it refuses, a state that meets the hypotheses of
each statement, and a few worked values of the spec. Expected values are taken from the spec's tables and examples.
-/

namespace Sys2Proof.Tests

open Sys2Proof Sys2Proof.Machine

/-! ### A small module: ready, one session, one running job with one queue on stake 0 -/

def ep : Endpoint := { network := .a, addr := 7#128, port := 9#16 }

def ses : Session := { sid := 0, ep := ep, key := [1#8], chain := [], digest := [2#8], openedAt := 0 }

def rights : Right := { digest := [2#8], groups := 0x7FF, jobLo := 0, jobHi := 4095, trace := true, countersAll := true }

def pol : Policy := { bytes := [], epoch := 1, ownerKey := [], custodianKey := [], rights := [rights], planKeys := [7] }

def plan1 : Plan :=
  { cls := 0, job := 1, inc := 5, seed := 0, rank := 0, ranks := 2, dir := [], rankTable := .explicit [0, 1]
    groups := [{ id := 0, stakes := [0] }], queues := [(1, 0)], ties := [{ ref := 0, level := false, value := 3 }] }

def job1 : Job := { plan := plan1, phase := .running }

def lane1 : LaneState := { lane := .queue 1 }

def tie0 : Tie := { ref := 0, job := 1, inc := 5, level := false, value := 3 }

def ready : Mod :=
  { timerOn := true
    power := { standby := true, pwrEn := true, mainEnabled := true, inRange := true, groups := 4, pwrGood := true }
    boot := { stage := .ready, modRst := false, noFirmware := false, unclaimed := false }
    policy := some pol
    sessions := [ses]
    nextSid := 1
    stakeMap := (List.range 224).map fun l => some (8 * (l / 7) + l % 7)
    jobs := [job1]
    lanes := [lane1, { lane := .control 0 }]
    ties := [tie0] }

def st (m : Mod) : State := { m := m, pending := [] }

/-- A packet of an operation from `ep` for job 1 with number 0, and its integrity tag. -/
def untagged (q flags : Nat) (timeout : Nat) (payload : Bytes) : Packet :=
  { src := ep, magic := 0x5153, version := 1, hlen := 4, flags := BitVec.ofNat 15 flags, quiet := false, resv := 0
    queue := BitVec.ofNat 6 q, inc := 5, job := 1, seq := 0, timeout := BitVec.ofNat 32 timeout
    plen := BitVec.ofNat 32 payload.length, wait0 := 0xFFFFFFFF, wait1 := 0xFFFFFFFF, sig0 := 0xFFFFFFFF, sig1 := 0xFFFFFFFF
    handle := 0, tag := [], payload := payload }

def tagged (op : Op) (p : Packet) : Packet := { p with tag := tag16 ses.key (p.header op.major op.variant ++ p.payload) }

def pkt (op : Op) (payload : Bytes := []) : Packet := tagged op (untagged 1 0 0 payload)

def ctl (op : Op) (payload : Bytes := []) : Packet := tagged op (untagged 0 (2 ^ 14) 0 payload)

theorem tagged_tag (op : Op) (p : Packet) :
    tag16 ses.key ((tagged op p).header op.major op.variant ++ (tagged op p).payload) = (tagged op p).tag := rfl

theorem hears_of (m : Mod) (op : Op) (p : Packet) (h : p.src = ep) (hm : m.resetting = none ∧ m.boot.stage = .ready ∧ m.closing = [] ∧
    m.sessionOf ep = some ses ∧ m.session? 0 = some ses) (hp : p.payload.length ≤ 8128 ∧ p.magic = 0x5153 ∧ p.version = 1 ∧ p.hlen = 4)
    (ht : tag16 ses.key (p.header op.major op.variant ++ p.payload) = p.tag) (ha : op.actual p = op) : m.hears op p ses :=
  ⟨hm.1, hm.2.1, hp.1, by rw [h]; exact hm.2.2.2.1, hm.2.2.2.2, hm.2.2.1, ht, hp.2.1, hp.2.2.1, hp.2.2.2, ha⟩

theorem ready_facts : ready.resetting = none ∧ ready.boot.stage = .ready ∧ ready.closing = [] ∧ ready.sessionOf ep = some ses ∧
    ready.session? 0 = some ses := by decide +kernel

/-- R54: a NOP of the job's queue passes every check. -/
theorem witness_QueueCommandStarts : ready.accepts .nop (pkt .nop) ses lane1 ∧ ready.job? 1 = some job1 ∧
    ready.stakesBusy job1 1 = false ∧ Op.control .nop = false :=
  ⟨⟨hears_of _ _ _ rfl ready_facts (by decide +kernel) (tagged_tag _ _) rfl, by decide +kernel, by decide +kernel, by decide +kernel, by decide +kernel, by decide +kernel, by decide +kernel, by decide +kernel, by decide +kernel,
    by decide +kernel⟩, by decide +kernel, by decide +kernel, by decide +kernel⟩

/-- R54: a QUIESCE of the control lane passes every check. -/
theorem witness_ControlCommandStarts : ready.accepts .quiesce (ctl .quiesce) ses { lane := .control 0 } ∧ Op.control .quiesce = true :=
  ⟨⟨hears_of _ _ _ rfl ready_facts (by decide +kernel) (tagged_tag _ _) rfl, by decide +kernel, by decide +kernel, by decide +kernel, by decide +kernel, by decide +kernel, by decide +kernel, by decide +kernel, by decide +kernel,
    by decide +kernel⟩, by decide +kernel⟩

/-! ### The block's frame -/

theorem witness_IdleStepTicks : State.reset.pending = [] ∧ (st ready).pending = [] ∧ ready.timerOn = true := by decide +kernel

theorem witness_StepKeepsMemoryCanonical : State.reset.m.memOk ∧ ∃ t, step State.reset = .next t :=
  ⟨⟨by decide +kernel, by decide +kernel, by intro s h; cases h⟩, _, rfl⟩

/-- The packet of R50's example. -/
def matmul50 : Packet :=
  { src := ep, magic := 0x5153, version := 0x01, hlen := 4, flags := 0, quiet := false, resv := 0, queue := 9, inc := 5
    job := 0x2A7, seq := 1000, timeout := 0, plen := 96, wait0 := 0x0A200040, wait1 := 0xFFFFFFFF, sig0 := 0xFFFFFFFF
    sig1 := 0xFFFFFFFF, handle := 0, tag := List.replicate 16 0#8, payload := [] }

theorem witness_PacketRoundTrip : matmul50.tag.length = 16 ∧ Op.major .matmul < 256 ∧ Op.variant .matmul < 256 := by decide +kernel

theorem witness_ModuleResetDiscards :
    (st { ready with resetting := some { started := 0, record := 0, noticeId := 0 } }).m.resetting.isSome := by decide +kernel

theorem witness_UnverifiedPacketDiscarded : ready.resetting = none ∧ ready.boot.stage = .ready ∧
    8128 < (List.replicate 8129 0#8).length ∧ ready.sessionOf { ep with port := 10 } = none ∧ ready.sessionOf ep = some ses ∧
    ready.closing = [] ∧
    tag16 ses.key ((untagged 1 0 0 []).header (Op.major .nop) (Op.variant .nop) ++ (untagged 1 0 0 []).payload) ≠ (untagged 1 0 0 []).tag := by
  decide +kernel

/-- Packets 1, 64, 65, 2^31 − 1 and 2^31 ahead of the expected number. -/
theorem witness_SequenceNumbers :
    (∀ n ∈ [(1 : BitVec 32), 64, 65, 0x7FFFFFFF, 0x80000000], ready.hears .nop (tagged .nop { untagged 1 0 0 [] with seq := n }) ses) ∧
    ready.lane? (.queue 1) = some lane1 ∧
    ((1 : BitVec 32) - lane1.expected).toNat = 1 ∧ ((64 : BitVec 32) - lane1.expected).toNat = 64 ∧
    ((65 : BitVec 32) - lane1.expected).toNat = 65 ∧ ((0x7FFFFFFF : BitVec 32) - lane1.expected).toNat < 2 ^ 31 ∧
    2 ^ 31 ≤ ((0x80000000 : BitVec 32) - lane1.expected).toNat ∧ lane1.replies = [] ∧ lane1.accepted = [] ∧ lane1.current = none := by
  refine ⟨?_, by decide +kernel⟩
  intro n hn
  simp only [List.mem_cons, List.not_mem_nil, or_false] at hn
  rcases hn with h | h | h | h | h <;> subst h <;>
    exact hears_of _ _ _ rfl ready_facts (by decide +kernel) (tagged_tag _ _) rfl

/-- A NOP whose timeout is above 60 s is refused in sequence (R54). -/
theorem witness_refusal : ready.hears .nop (tagged .nop (untagged 1 0 60000001 [])) ses ∧ ready.lane? (.queue 1) = some lane1 ∧
    lane1.expected = (untagged 1 0 60000001 []).seq ∧ lane1.held = [] ∧ lane1.badHeld = [] ∧
    ready.checkPacket .nop (tagged .nop (untagged 1 0 60000001 [])) ses = some (.badPacket, some 0x10) :=
  ⟨hears_of _ _ _ rfl ready_facts (by decide +kernel) (tagged_tag _ _) rfl, by decide +kernel⟩

theorem witness_CheckOrder :
    headerReserved (some .nop) { untagged 1 0 0 [] with resv := 1 } ≠ none ∧
    (headerReserved (some .matmul) (untagged 1 0 0 []) = none ∧ payloadReserved .tieDump (untagged 1 0 0 (List.replicate 16 255#8)) ≠ none) ∧
    (headerReserved (some .nop) (untagged 1 0 0 []) = none ∧ payloadReserved .nop (untagged 1 0 0 []) = none ∧
      Op.control .nop = false ∧ ready.laneRule .nop (untagged 1 0 0 []) = true ∧ (untagged 1 0 0 []).plen.toNat = 0 ∧
      job1.plan.queueIds.contains 1 = true ∧ job1.plan.queueIds.contains 2 = false) ∧
    (Op.control .quiesce = true ∧ (untagged 0 0 0 []).flag 14 = false) := by decide +kernel

/-- R529: a datagram of major 0xFF from `ep`, in sequence. -/
def undef : Packet :=
  let p := untagged 1 0 0 []
  { p with tag := tag16 ses.key (p.header 0xFF 0 ++ p.payload) }

theorem witness_UndefinedOpcodeRefused : Op.ofCode 0xFF 0 = none ∧ Op.ofCode 0x30 0 = some .matmul ∧
    (let b := undef.toBytes 0xFF 0
     let w := word32 b 4
     let p := Packet.ofBytes ep b
     64 ≤ b.length ∧ b.length ≤ 8192 ∧ Op.ofCode (w % 256) (w / 256 % 256) = none ∧ headerReserved none p = none ∧
      tag16 ses.key (p.header (w % 256) (w / 256 % 256) ++ p.payload) = p.tag ∧ p.magic = 0x5153 ∧ p.version = 1 ∧ p.hlen = 4 ∧
      ready.lane? (laneOf p ses.sid) = some lane1 ∧ lane1.expected = p.seq) := by decide +kernel

/-! ### Sideband, mailboxes, I3C, test access port -/

/-- A module that holds a sideband request: SEQ 9, a code and a body. -/
def asked (code : Nat) (body : Bytes) (m : Mod := ready) : Mod :=
  { m with sideband := { m.sideband with busy := true
                                         latched := [9#8, 0#8] ++ leBytes 2 code ++ leBytes 2 body.length ++ [0#8, 0#8] ++ body } }

/-- A module whose REQ_BUF holds a request of a code and a LENGTH. -/
def asking (code len : Nat) : Mod :=
  { ready with sideband := { reqBuf := Memory.write [] 0 ([9#8, 0#8] ++ leBytes 2 code ++ leBytes 2 len) } }

def latched (m : Mod) : MailboxRegs := { m.sideband with latched := m.sideband.reqBuf.read 0 256, busy := true, cancel := false }

theorem witness_SidebandRequests : 0xFFFF < 2 ^ 16 ∧ ready.power.standby = true ∧ ready.i3c.ibi = false ∧
    (asked 1 []).sideband.busy = true ∧ (asking 1 0).sideband.busy = false ∧ (asking 1 0).sideband.valid = false ∧
    ((asking 1 0).boot.noFirmware = false ∧ codeKnown (latched (asking 1 0)).code = true ∧
      lengthSuits (latched (asking 1 0)).code (latched (asking 1 0)).length = true) ∧
    248 < (latched (asking 4 249)).length ∧ (latched (asking 4 248)).length ≤ 248 ∧ codeKnown (latched (asking 8 0)).code = false ∧
    codeKnown (latched (asking 0 0)).code = false ∧ codeKnown (latched (asking 0x104 0)).code = false ∧
    lengthSuits (latched (asking 4 245)).code (latched (asking 4 245)).length = false ∧
    (State.reset.m.boot.noFirmware = true ∧ (latched (asking 1 0)).code ≠ 0x101) := by decide +kernel

theorem witness_SidebandRequestEffects :
    (∀ c ∈ [1, 2, 7, 0x100, 0x102, 0x103], (asked c []).serves c = true) ∧ (asked 3 (List.replicate 32 0#8)).serves 3 = true ∧
    (asked 4 (List.replicate 5 0#8)).serves 4 = true ∧ ready.boot.unclaimed = false ∧
    (let m := asked 4 (List.replicate 244 0#8) { ready with boot := { ready.boot with unclaimed := true } }
     m.serves 4 = true ∧ m.boot.unclaimed = true ∧ leNat (m.sideband.body.take 4) + (m.sideband.body.drop 4).length ≤ policyMax) ∧
    (let m := asked 5 (List.replicate 128 0#8) { ready with boot := { ready.boot with unclaimed := true } }
     m.serves 5 = true ∧ m.boot.unclaimed = true) ∧
    (asked 6 [2#8]).serves 6 = true ∧ (asked 6 [2#8]).sideband.body = [2#8] ∧ (asked 6 [0xFF#8]).sideband.body = [0xFF#8] ∧
    (∀ w ∈ [2390, 2400, 2405, 4800, 4810], (asked 0x101 (leBytes 2 w)).serves 0x101 = true ∧
      w = leNat ((asked 0x101 (leBytes 2 w)).sideband.body.take 2)) := by decide +kernel

/-- R556: SET_POWER_LIMIT of 2,400 W. -/
theorem test_setPowerLimit : (ready.setLimit 2400).power.limit = 2400 := by decide +kernel

theorem witness_SidebandRegisterWrites : ready.power.standby = true ∧ ready.sideband.busy = false ∧ (asked 1 []).sideband.busy = true ∧
    (0x80#32).getLsbD 7 = true := by decide +kernel

/-- A job on the stakes 0 and 1, so that each is the other's channel 0. -/
def twoStakes : Mod := { ready with jobs := [{ job1 with plan := { plan1 with groups := [{ id := 0, stakes := [0, 1] }] } }] }

theorem witness_MailboxChannels : (List.replicate 64 0#8).length = 64 ∧ twoStakes.channelFor 0 1 = some 0 ∧ 0 / 64 = 1 / 64 ∧
    (twoStakes.smallBox 0).doorbell.getLsbD 0 = false ∧
    (twoStakes.setSmallBox { stake := 0, doorbell := 1, channels := [(0, List.replicate 64 0#8)] }).channelFor 0 1 = some 0 ∧
    ((twoStakes.setSmallBox { stake := 0, doorbell := 1, channels := [(0, List.replicate 64 0#8)] }).smallBox 0).doorbell.getLsbD 0 = true ∧
    twoStakes.channelFor 0 1 ≠ some 31 ∧ 0 / 64 ≠ 64 / 64 ∧ ready.power.pwrGood = true ∧ (ready.sideBox 3).busy = false ∧
    (ready.sideBox 3).valid = false ∧ ((ready.setSideBox 3 { valid := true }).sideBox 3).valid = true ∧
    ((ready.setSideBox 3 { valid := true }).sideBox 3).busy = false ∧ ready.boot.noFirmware = false := by decide +kernel

theorem witness_ManagementBusRows : ready.power.standby = true ∧ ready.i3c.dynamic = none ∧
    ({ ready with i3c := { dynamic := some 8 } } : Mod).i3c.dynamic ≠ none ∧ (1#8).getLsbD 0 = true ∧
    ready.tap.ir = 0x01#8 ∧ TapState.selDr.next false = .capDr ∧ TapState.capDr.next false = .shiftDr ∧
    TapState.shiftIr.next true = .exit1Ir ∧ (0x55#8) ≠ 0x01#8 ∧ (0x55#8) ≠ 0x02#8 := by decide +kernel

/-! ### Ties and lanes -/

theorem witness_TieArithmetic : tie0.level = false ∧ ({ tie0 with level := true } : Tie).level = true ∧ tie0.value < 2 ^ 32 ∧
    (2 ^ 32 - 1 < 2 ^ 32 ∧ ({ tie0 with value := 2 ^ 32 - 1 } : Tie).value < 2 ^ 32) := by decide +kernel

/-- `ready` with a command of queue 1 at the head of its lane, doing `w`. -/
def doing (op : Op) (w : Work) (payload : Bytes := []) (m : Mod := ready) : Mod :=
  m.updLane (.queue 1) fun l => { l with current := some { cmd := cmdOf op (pkt op payload) ses m.now, headAt := 0, work := w } }

def id1 : CmdId := ⟨.queue 1, 0⟩

theorem witness_CompletionReplies : ((doing .nop .ready).cmd? id1).isSome ∧ ((doing .nop .ready).lane? id1.lane).isSome ∧
    ∀ r, (doing .nop .ready).cmd? id1 = some r → ((doing .nop .ready).session? r.cmd.sid).isSome := by
  refine ⟨by decide +kernel, by decide +kernel, ?_⟩
  intro r h
  have : r.cmd.sid = 0 := by
    have : ((doing .nop .ready).cmd? id1).map (·.cmd.sid) = some 0 := by decide +kernel
    rw [h] at this; simpa using this
  rw [this]; decide +kernel

theorem accepts_of (op : Op) (p : Packet) (hs : p.src = ep) (hp : p.payload.length ≤ 8128 ∧ p.magic = 0x5153 ∧ p.version = 1 ∧ p.hlen = 4)
    (ht : tag16 ses.key (p.header op.major op.variant ++ p.payload) = p.tag) (ha : op.actual p = op)
    (hl : laneOf p ses.sid = .queue 1) (h : p.seq = 0 ∧ p.wait0.toNat = noTie ∧ p.wait1.toNat = noTie)
    (hc : ready.checkPacket op p ses = none) : ready.accepts op p ses lane1 :=
  ⟨hears_of _ _ _ hs ready_facts hp ht ha, by rw [hl]; decide +kernel, h.1.symm, rfl, rfl, rfl, rfl, h.2.1, h.2.2, hc⟩

def tieDumpPay : Bytes := [0, 0, 0, 0, 1, 0] ++ List.replicate 10 0#8

theorem witness_ControlCommandsComplete : ready.accepts .nop (pkt .nop) ses lane1 ∧ ready.accepts .echo (pkt .echo [1, 2, 3, 4]) ses lane1 ∧
    ready.accepts .fenceQueue (pkt .fenceQueue) ses lane1 ∧ ready.accepts .fenceJob (pkt .fenceJob) ses lane1 ∧
    ready.accepts .tieDump (pkt .tieDump tieDumpPay) ses lane1 ∧ ready.job? (pkt .nop).job.toNat = some job1 ∧
    ready.stakesBusy job1 (pkt .nop).queue.toNat = false ∧ ready.trayOps = [] ∧ job1.stageBlocks = [] := by
  refine ⟨?_, ?_, ?_, ?_, ?_, by decide +kernel⟩ <;>
    exact accepts_of _ _ rfl (by decide +kernel) (tagged_tag _ _) (by decide +kernel) (by decide +kernel) (by decide +kernel) (by decide +kernel)

def tiePay (t : Nat) : Bytes := leBytes 8 0 ++ leBytes 8 t

/-- The tie holds 3: a wait for 3 is covered, one for 4 is not. -/
theorem witness_TieCommandsOnLocalTie : ready.accepts .tieSignalAdd (pkt .tieSignalAdd (tiePay 3)) ses lane1 ∧
    ready.accepts .tieSignalReset (pkt .tieSignalReset (tiePay 3)) ses lane1 ∧ ready.accepts .tieWait (pkt .tieWait (tiePay 3)) ses lane1 ∧
    ready.accepts .tieWait (pkt .tieWait (tiePay 4)) ses lane1 ∧
    (let p := pkt .tieWait (tiePay 3)
     ready.job? p.job.toNat = some job1 ∧ p.sig0.toNat = noTie ∧ p.sig1.toNat = noTie ∧ (job1.plan.tieRef (p.u 0 8)).far = false ∧
      ready.tie? (job1.plan.tieRef (p.u 0 8)).ref = some tie0 ∧ tie0.abandoned = false ∧ tie0.waiters = [] ∧
      (∀ u ∈ ready.ties, u.waiters = []) ∧ p.u 8 4 ≤ tie0.value) ∧ tie0.value < (pkt .tieWait (tiePay 4)).u 8 4 := by
  refine ⟨?_, ?_, ?_, ?_, by decide +kernel⟩ <;>
    exact accepts_of _ _ rfl (by decide +kernel) (tagged_tag _ _) (by decide +kernel) (by decide +kernel) (by decide +kernel) (by decide +kernel)

def waiting (who : WaiterId) (m : Mod) : Mod := { m with ties := [{ tie0 with waiters := [⟨who, 9⟩] }] }

def farOf (w : Work) : Mod := doing .tieWait w (leBytes 8 (2 ^ 63 + 2 ^ 32 + 5) ++ leBytes 8 3)

def far0 : FarMsg := { rank := 1, id := ⟨.queue 3, 7⟩, job := 1, inc := 5, ref := 0, reset := false, amount := 1, threshold := 4 }

/-- The timeout of a header of 0 is 50 ms, which is 5,000,000 ticks (R55). -/
theorem witness_TieRows : (ready.tie? 0 = some tie0 ∧ tie0.abandoned = false ∧ (tie0.waiters.any fun w => w.who == .thread 0 0) = false) ∧
    ((waiting (.thread 0 0) ready).tie? 0).isSome ∧
    (let m := { waiting (.cmd id1 2) (doing .tieWait (.tieWait false)) with timer := 5000000 }
     (m.cmd? id1).map m.expired = some true ∧ (m.tie? 0).map (fun t => t.waiters.any fun w => w.who == .cmd id1 2) = some true) ∧
    ((doing .nop (.ties [(0, 0)])).cmd? id1).map (fun r => r.waitsOn 0 0) = some true ∧
    (ready.resettingFor 1 = false ∧ (ready.job? 1).isSome ∧ job1.plan.inc = far0.inc ∧ ready.tieOk job1.plan 0 = true ∧
      ready.farWaiters < 2048 ∧ 2048 ≤ ({ ready with farWaiters := 2048 } : Mod).farWaiters) ∧
    ((waiting (.far 1 ⟨.queue 3, 7⟩) ready).tie? 0).map (fun t => t.waiters.any fun w => w.who == .far far0.rank far0.id) = some true ∧
    job1.plan.inc ≠ ({ far0 with inc := 4 } : FarMsg).inc ∧
    ((farOf .farSignal).farCmd? id1).isSome ∧ ((farOf (.tieWait true)).farCmd? id1).isSome ∧ ((farOf .farRetry).farCmd? id1).isSome ∧
    ((farOf (.farDecision 0)).farCmd? id1).isSome ∧ 0 ≤ (farOf (.farDecision 0)).now ∧ (farOf (.farDecision 1)).now < 1 := by decide +kernel

/-- A command that was held back with number 5 at time 0. -/
def heldBack (now : Nat) : Mod :=
  { ready.updLane (.queue 1) (fun l => { l with held := [(0, cmdOf .nop { pkt .nop with seq := 5 } ses 0)] }) with timer := BitVec.ofNat 64 now }

theorem witness_LaneRows : ready.running? (.queue 1) = none ∧ (doing .nop .ready).running? (.queue 1) ≠ none ∧
    (doing .fenceQueue (.fence [] [])).running? (.queue 1) ≠ none ∧ ready.resetting = none ∧ ready.isolations = [] ∧
    (let m := doing .nop (.ties [(0, 0)])
     ((m.running? (.queue 1)).map fun r => (m.expired r, r.work)) = some (false, .ties [(0, 0)]) ∧
     ((m.running? (.queue 1)).map fun r => ({ m with timer := 4999999 } : Mod).expired r) = some false ∧
     ((m.running? (.queue 1)).map fun r => ({ m with timer := 5000000 } : Mod).expired r) = some true) ∧
    ((doing .ownTake (.steward 0)).running? (.queue 1)).map (·.work) = some (.steward 0) ∧
    ((doing .copy (.segments 2 0 false)).running? (.queue 1)).map (·.work) = some (.segments 2 0 false) ∧
    ((heldBack 10000000).lane? (.queue 1)).map (fun l => (l.held.length, l.badHeld)) = some (1, []) ∧
    0 + 10000000 ≤ (heldBack 10000000).now := by decide +kernel

/-! ### Data commands and passes -/

def decl (id bytes : Nat) : TensorDecl := { id := id, tier := .a, bytes := bytes }

def vec4 : Desc := { format := 0, ndim := 1, tensor := 7, dims := [{ extent := 4 }] }

def mat (f t a b : Nat) : Desc :=
  { format := f, ndim := 2, tensor := t, dims := [{ extent := a }, { extent := b, stride := a }] }

def dataJob : Job :=
  { plan := { plan1 with tensors := [decl 7 64, decl 8 64, decl 9 64, decl 10 64], stored := [vec4, mat 1 8 2 1, mat 1 9 2 1, mat 0 10 1 1] }
    phase := .running
    places := [⟨decl 7 64, .flat 0x700⟩, ⟨decl 8 64, .flat 0x800⟩, ⟨decl 9 64, .flat 0x900⟩, ⟨decl 10 64, .flat 0xA00⟩] }

def entry (ix : Nat) : Bytes := [1, 0, 0, 0] ++ leBytes 2 ix ++ [0, 0] ++ leBytes 8 0

def fillPay : Bytes := leBytes 4 0 ++ leBytes 4 0x3F800000 ++ leBytes 8 0 ++ entry 1

def mulPay : Bytes := List.replicate 32 0#8 ++ entry 2 ++ entry 3 ++ entry 4 ++ List.replicate 16 0#8

def withData : Mod :=
  { ready with jobs := [dataJob]
               mem := Memory.writeAll [] ((leBytes 2 0x3F80 ++ leBytes 2 0x4000).zipIdx.map (fun x => (0x800 + x.2, x.1)) ++
                 (leBytes 2 0x4040 ++ leBytes 2 0x4080).zipIdx.map (fun x => (0x900 + x.2, x.1))) }

theorem test_fill : (withData.receive .fill (pkt .fill fillPay)).mem.read 0x700 16 =
    [0, 0, 0x80, 0x3F, 0, 0, 0x80, 0x3F, 0, 0, 0x80, 0x3F, 0, 0, 0x80, 0x3F] := by decide +kernel

def running (op : Op) (w : Work) (payload : Bytes) : Mod := doing op w payload withData

def stored (d : Desc) : Job := { dataJob with plan := { dataJob.plan with stored := [d] } }

/-- What a data command with found operands meets when it starts: the limit it breaks, whether it is a far scatter, and its bounds. -/
def starts (c : Cmd) (j : Job) : Option (Option Nat × Bool × Option Nat) :=
  match dataOf c j with
  | .ok x => some (dataLimit c.op j c.pkt, x.farScatter, dataTest x (withData.reader j []))
  | .error _ => none

theorem witness_DataCommandStartOrder :
    (let m := { running .fill .ready fillPay with stakeMap := [none], ribs := [{ rib := 0, spare := none, moving := some (0, 7) }] }
     (m.stakesOf dataJob 1).1 = true) ∧
    ({ running .fill .ready fillPay with stakeMap := [none] }.stakesOf dataJob 1) = (false, some 0) ∧
    (running .fill .ready fillPay).stakesOf dataJob 1 = (false, none) ∧
    (let c := cmdOf .fill (pkt .fill fillPay) ses 0
     starts c dataJob = some (none, false, none) ∧
     (match withData.claimExtents id1 c dataJob with | .ok rs => rs.length == 1 | _ => false) = true ∧
     (starts c (stored { vec4 with base := 52 })).any (fun x => x.2.2.isSome) = true ∧
     (match dataOf c { dataJob with places := [] } with | .error (none, _) => true | _ => false) = true ∧
     (match dataOf c (stored { vec4 with remote := true, rank := 1 }) with | .error (some k, _) => k == 1 | _ => false) = true ∧
     (let m := { withData with registry := [{ id := ⟨.queue 2, 4⟩, job := 1, desc := vec4, lo := 0, hi := 15 }] }
      match m.claimExtents id1 c dataJob with | .overlaps d => d == 2 * 2 ^ 32 + 4 | _ => false) = true) := by decide +kernel

theorem witness_EffectWritesOnlyItsBytes : (running .fill .ready fillPay).mem.wf ∧
    (match (running .fill .ready fillPay).dataAt? id1 with
     | some (r, x) =>
       (match (running .fill .ready fillPay).runEffect id1 r dataJob [] (x.body [] 0 x.rows) with | .wrote _ => true | _ => false) &&
         (x.body [] 0 x.rows (withData.reader dataJob [])).put.writes.all fun w => isLocal w.1
     | none => false) = true := by decide +kernel

theorem witness_RoundingModes : (3 : Int) ≤ 3 ∧ (0 : Int) < 1 ∧ roundMag .rne 0 1 0 1 % 2 = 0 ∧ roundMag .rne 0 3 0 1 = 2 ∧
    roundMag .rtz 0 3 0 1 = 1 ∧ roundMag .rne 0 1 (-200) (fp32.quantum 1 (-200)) = 0 := by decide +kernel

theorem witness_NumberFormats : (fp32.decode 0x3F800000).nonfinite = false ∧ (0x3F800000 : Nat) < 2 ^ fp32.width ∧
    Val.lt fp32.largest (.fin false (roundMag .rne 0 1 0 (fp32.quantum 1 0)) (fp32.quantum 1 0)) = false ∧
    (fp32.convert ⟨.rne, false, false⟩ 0 (.fin false 1 0)).code = 0x3F800000 := by decide +kernel

theorem witness_TierBPlacement : tierBBase ≤ tierBEnd - 1 ∧ tierBEnd - 1 < tierBEnd ∧
    (lpddrPlace tierBBase).2.2.1 = (lpddrPlace (tierBBase + 255)).2.2.1 ∧
    (lpddrPlace tierBBase).2.2.2 = (lpddrPlace (tierBBase + 255)).2.2.2 := by decide +kernel

/-! A MATMUL of BF16 rows (1, 2) and (3, 4) into FP32: issued, its pass streaming, its last row fed. -/

def mulHead : Mod := withData.receive .matmul (pkt .matmul mulPay)

def mulIssued : Mod := mulHead.passIssue 0 id1

def mulStreams : Mod := (mulIssued.reloadDone 0).rampUp 0

def mulDrains : Mod := mulStreams.lastRow 0

/-- R140–R147: 1 × 3 + 2 × 4 = 11, which is 0x41300000. -/
theorem test_matmul : (mulDrains.checksClean 0).mem.read 0xA00 4 = [0, 0, 0x30, 0x41] := by decide +kernel

/-- A HADAMARD of the same rows, issued. -/
def hadIssued : Mod :=
  let j := { dataJob with plan := { dataJob.plan with stored := [vec4, mat 1 8 2 1, mat 1 9 2 1, mat 0 10 2 1] } }
  ({ withData with jobs := [j] }.receive .hadamard (pkt .hadamard mulPay)).passIssue 0 id1

/-- Array 0 changed in the streaming state. -/
def streams (f : ArrayState → ArrayState) : Mod := mulStreams.onGang (mulStreams.array 0).word 0 f

/-- Whether the tile of array 0's pass loads clean, and the units left to feed beside those of a row-block. -/
def passOf (m : Mod) : Option (Op × Bool × Nat × Nat) :=
  let st := m.array 0
  (m.passData? st.toPassRun).map fun x =>
    let p := x.product (m.reader x.j x.got)
    let rows := if x.c.op == .hadamard then [] else x.fedList (m.reader x.j x.got) st.spec.lo st.spec.hi
    let ks := if x.c.op == .hadamard then [] else p.tileKs rows st.spec.k0 st.spec.k1
    let locs := if x.c.op == .hadamard then [] else p.colLocs rows st.spec.cols st.spec.k0 st.spec.k1
    (x.c.op, (p.tileFail ks st.spec.cols).isNone && (m.checkLocal (some x.c) locs).2.2.isNone, x.blockUnits - st.fedIn, m.leftAt 0 x)

def fillerJob : Job := { plan := { plan1 with cls := 2, job := 2, groups := [], queues := [(2, 0)], ties := [] }, phase := .running, bound := 1 }

def fillerRuns : Mod :=
  { ready with jobs := [job1, fillerJob]
               arrays := [{ arr := 0, word := { job := 2, inc := 5, queue := 2, state := 2 }, ramp := .none }] }

/-- The reload's end, a row-block, the last row and the dummy rows. -/
theorem witness_ArrayPassRows :
    (mulIssued.power.holding = none ∧ mulIssued.stoppedAt (.sequencer (0 / 4)) = false) ∧
    ((mulIssued.array 0).word.state = 1 ∧ (passOf mulIssued).map (fun x => (x.1, x.2.1)) = some (.matmul, true)) ∧
    ((hadIssued.array 0).word.state = 1 ∧ (passOf hadIssued).map (fun x => (x.1, x.2.1)) = some (.hadamard, true)) ∧
    ((mulStreams.array 0).feeding = true ∧ (mulStreams.array 0).preempt = false ∧ (passOf mulStreams).map (·.2.2) = some (256, 1)) ∧
    (∀ n ∈ [256, 257], (passOf (streams fun t => { t with spec := { t.spec with hi := n } })).map (·.2.2) = some (256, n)) ∧
    (let m := streams fun t => { t with spec := { t.spec with hi := 0 } }
     (m.array 0).feeding = true ∧ (m.array 0).preempt = false ∧
      ((m.passData? (m.array 0).toPassRun).map fun x => ((m.feedSome 0 x).array 0).word.state) = some 2) ∧
    (((streams fun t => { t with preempt := true }).array 0).feeding = true ∧ ((streams fun t => { t with preempt := true }).array 0).preempt = true) := by
  decide +kernel

/-- The checks, the ramps, the gap and a resumption. -/
theorem witness_ArrayPassEnds :
    (∀ n ∈ [3, 4], let r := { (mulDrains.array 0).toPassRun with word := { (mulDrains.array 0).word with state := n } }
      ((streams fun t => { t with draining := [r] }).array 0).draining = [r] ∧ r.clean = true ∧ r.word.state = n) ∧
    ((mulDrains.array 0).draining = [] ∧ (mulDrains.array 0).word.state = 3 ∧ (mulDrains.array 0).clean = true) ∧
    ((streams fun t => { t with ramp := .down }).array 0).ramp = .down ∧
    (let m := streams fun t => { t with word := { t.word with state := 6 } }
     (m.array 0).word.state = 6 ∧ (m.array 0).draining = [] ∧ (m.array 0).ramp = .none) ∧
    (let m := mulIssued.reloadDone 0
     (m.array 0).word.state = 2 ∧ (m.array 0).ramp = .gated ∧ (m.array 0).inGap = false) ∧
    ((streams fun t => { t with inGap := true }).array 0).inGap = true ∧
    (let r := { (mulStreams.array 0).toPassRun with word := { (mulStreams.array 0).word with state := 5 } }
     let m := streams fun t => { t with word := {}, suspended := [r] }
     (m.array 0).suspended = [r] ∧ m.filler r.word.job = false ∧ ((m.passData? r).map fun x => m.stakeServes (0 / 4) x) = some true ∧
      ((gangOf r.word 0).all fun b => (m.array b).canTake) = true) := by decide +kernel

theorem witness_PassIssued :
    (match mulHead.dataAt? id1 with
     | some (r, x) =>
       let plan := x.passPlan (mulHead.reader x.j x.got)
       let spec := plan.passes.getD 0 {}
       r.work == .passes 1 0 0 [] && nextPass id1 (mulHead.array 0) r plan [] == some (0, false) && spec.link == 0 && spec.last &&
         0 % gangSize plan.gang == 0 && !x.c.op.isDistance && mulHead.stakeServes (0 / 4) x && !mulHead.filler x.c.job &&
         mulHead.limiterGap x.c.job == 0 && (gangOf { gang := plan.gang } 0).all (fun b => (mulHead.array b).canTake) &&
         x.fedBetween (mulHead.reader x.j x.got) spec.lo spec.hi != 0
     | none => false) = true := by decide +kernel

theorem witness_PassFaults :
    (ready.faultyPass 0).1.isNone = true ∧
    ((mulDrains.faultyPass 0).1.map (·.word.reissued)) = some false ∧
    (((streams fun t => { t with word := { t.word with reissued := true } }).faultyPass 0).1.map (·.word.reissued)) = some true ∧
    ((mulStreams.array 0).draining = [] ∧ (mulStreams.array 0).word.state = 2 ∧ (mulDrains.array 0).word.state = 3) ∧
    (∀ i < 4, mulStreams.filler (mulStreams.array (4 * 0 + i)).word.job = false) ∧
    (fillerRuns.filler (fillerRuns.array 0).word.job = true ∧ (fillerRuns.array 0).word.state = 2 ∧ (fillerRuns.array 0).ramp = .none ∧
      (fillerRuns.array 0).word.gang = 0 ∧ (∀ i < 4, 1 ≤ i → (fillerRuns.array (4 * 0 + i)).word.state = 0)) := by decide +kernel

/-- A COPY whose source is a proxy of a gateway window, so that its bytes come from elsewhere. -/
def proxyCopy : Mod :=
  doing .copy (.segments 1 0 false) (List.replicate 16 0#8 ++ entry 1 ++ entry 2)
    { withData with jobs := [{ dataJob with plan := { dataJob.plan with stored := [vec4, { vec4 with tensor := 20 }], gateways := [⟨2, 20, 1, 8, 64⟩] } }] }

/-- A FILL that holds the transfer engine of stake 0. -/
def busy : Mod := running .fill (.segments 2 0 false) fillPay

/-- Whether a segment finds its command, waits for bytes from elsewhere, and reads and may write what is here. -/
def segmentOf (m : Mod) : Option (Work × Bool × Bool × Bool) :=
  match m.running? (.queue 1), m.dataAt? id1 with
  | some r, some (r', x) =>
    let rg := x.segSpan r.segs
    let e := x.body x.got rg.1 rg.2 (m.reader x.j x.got)
    some (r.work, r == r', (e.needs x.j x.got).isSome,
      e.fail.isNone && (m.checkAccess (some r.cmd) e.reads.flatten (e.put.writes.map (·.1))).2.2.isNone)
  | _, _ => none

theorem witness_SegmentCompletes : (∀ n ∈ [1, 2],
      segmentOf (running .fill (.segments n 0 false) fillPay) = some (.segments n 0 false, true, false, true)) ∧
    (segmentOf proxyCopy).map (fun x => (x.1, x.2.1, x.2.2.1)) = some (.segments 1 0 false, true, true) ∧
    busy.isolations = [] ∧
    (match busy.cmd? id1, busy.dataAt? id1 with
     | some r, some (_, x) => !r.cmd.namesSignal && x.segmentCount == 1 && r.segs == 0
     | _, _ => false) = true ∧
    (((busy.updRunning (.queue 1) fun r => { r with segs := 1 }).cmd? id1).map (·.segs)) = some 1 ∧
    busy.acked id1 1 = true := by decide +kernel

/-! ### Jobs, pools, residency -/

/-- A session whose staging region holds a plan of 128 bytes that has one section of an ID. -/
def staged1 (section_ : Nat) : Session :=
  { ses with staging := Memory.write (Memory.write (Memory.write [] 8 (leBytes 2 1)) 64 (leBytes 2 section_)) 0 (leBytes 2 0x514C) }

def loadCmd : Cmd := { cmdOf .planLoad (ctl .planLoad (leBytes 8 0 ++ leBytes 4 128 ++ leBytes 4 0)) ses 0 with }

theorem witness_PlanLoadOutcome : (ready.job? loadCmd.job).isSome ∧
    (let m := { ready with jobs := [], policy := none, sessions := [staged1 1] }
     m.job? loadCmd.job = none ∧ (m.session? loadCmd.sid).isSome ∧
     ((m.session? loadCmd.sid).map fun ss => (planOf (ss.staging.read (loadCmd.pkt.u 0 8) (loadCmd.pkt.u 8 4))).hasSection 1) = some true ∧
     ∀ k, ((m.policy.map (·.planKeys)).getD []).contains k = false) ∧
    (let m := { ready with jobs := [], sessions := [staged1 2] }
     ((m.session? loadCmd.sid).map fun ss => (planOf (ss.staging.read (loadCmd.pkt.u 0 8) (loadCmd.pkt.u 8 4))).hasSection 1) = some false) := by
  refine ⟨by decide +kernel, ⟨by decide +kernel, by decide +kernel, by decide +kernel, fun k => rfl⟩, by decide +kernel⟩

theorem witness_JobCommands : (ready.job? 1).isSome ∧ ({ plan1 with ranks := 1, rankTable := .explicit [0] } : Plan).trayPeers = [] ∧
    ({ job1 with phase := .loaded } : Job).phase = .loaded ∧ (ready.jobs.countP fun o => o.plan.cls == 2 && o.bound == 1) = 0 ∧
    (fillerRuns.jobs.countP fun o => o.plan.cls == 2 && o.bound == 1) = 1 := by decide +kernel

def keepRec : Retained := { job := 1, place := ⟨decl 7 64, .flat 0x700⟩, since := 0 }

def note (kind : Nat) : NoticeRec := { noticeId := 3, kind := kind, rank := 1, job := 1, inc := 5, record := 0 }

/-- A job that quiesces, whose QUIESCE waits for the drain since `before` deadlines had passed. -/
def quiesces (before : Nat) : Mod :=
  ({ ready with jobs := [{ job1 with phase := .quiescing, deadlines := 3 }] } : Mod).updLane (.control 0) fun l =>
    { l with current := some { cmd := cmdOf .quiesce (ctl .quiesce) ses 0, headAt := 0, work := .drain before } }

theorem witness_JobRows :
    (∀ n ∈ [2, 3], ((quiesces n).job? 1).map (fun j => (j.phase, (quiesces n).drained j, j.deadlines)) = some (.quiescing, true, 3) ∧
      (quiesces n).runnings.map (fun x => (x.1, x.2.work, x.2.cmd.job)) = [(.control 0, .drain n, 1)]) ∧
    (let m := { ready with jobs := [{ job1 with phase := .quiescing }] }
     (m.job? 1).map (fun j => (j.phase, m.drained j)) = some (.quiescing, true) ∧ m.runnings = []) ∧
    (doing .nop .ready).drained job1 = false ∧
    (keepRec.job = 1 ∧ keepRec.place.decl.id = 7 ∧ ({ ready with timer := 5999999999 } : Mod).now < keepRec.since + 6000000000 ∧
      keepRec.since + 6000000000 ≤ ({ ready with timer := 6000000000 } : Mod).now ∧ keepRec.place.extents = [(0x700, 64)] ∧ ready.mem.wf) ∧
    ({ ready with noticeIds := [3] } : Mod).noticeIds.contains (note 1).noticeId = true ∧ ready.noticeIds.contains (note 1).noticeId = false ∧
    ready.current? 1 4 = none ∧ (ready.current? 1 5).isSome ∧ ready.isSteward = false ∧ (∀ k ∈ [1, 2, 4], (note k).kind = k) ∧
    ({ ready with isSteward := true } : Mod).isSteward = true := by decide +kernel

/-- A pool of 4 withies of class 0 at unit 0, of which 0 is taken; requester 0 may hold 2. -/
def pooled (quota refs : Nat) : Mod :=
  let q : Requester := { job := 1, engine := 2, quota := quota, head := true }
  { ready with pools := [{ job := 1, pool := 1, place := 0, cls := 0, total := 4, reserve := 1, busy := [⟨0, refs, 0⟩], lowWater := 3 }]
               poolStates := [{ job := 1, pool := 1, requesters := [q], nextReserves := [1, 0, 0, 0], nextRequesters := [q] }] }

theorem witness_WithyPools :
    (∀ x ∈ [(2, 1), (1, 1), (9, 4)], ((pooled x.1 1).cell? 1 1 0 0).isSome ∧
      (((((pooled x.1 1).poolState? 1 1).map (·.requesters)).getD [])[0]?).map (·.quota) = some x.1) ∧
    ((pooled 2 1).held 1 1 0 + 1 * classUnits 0 ≤ 2 ∧ ((pooled 2 1).cell? 1 1 0 0).map (fun c => (c.free, c.reserve)) = some (3, 1)) ∧
    1 < (pooled 1 1).held 1 1 0 + 1 * classUnits 0 ∧
    ((pooled 9 1).held 1 1 0 + 4 * classUnits 0 ≤ 9 ∧ (3 : Nat) < 4) ∧
    (∀ r ∈ [1, 65534, 65535], ((pooled 9 r).cell? 1 1 0 0).map (fun c => (c.busy.find? fun w => w.index == 0).map (·.refs)) = some (some r)) ∧
    65534 + 1 ≤ 65535 ∧ 65535 < 65535 + 1 ∧
    ((pooled 9 1).cell? 1 1 0 0).map (fun c => c.busy.any fun w => w.index == 3) = some false ∧
    ((pooled 9 1).job? 1).all (fun j => (j.resultedIn 1 0 0 0).isNone && (j.resultedIn 1 0 0 3).isNone) = true ∧
    ([0].Nodup ∧ (∀ b ∈ [0], b < 4) ∧ 3 ≤ 4 - [0].length ∧ lowestFree [0] 4 0 3 = [1, 2, 3]) := by decide +kernel

def copying : Mod :=
  { withData with jobs := [{ dataJob with residency := [{ tensor := 7, fetching := true, copyBase := some 0xB00 }] }] }

theorem witness_ResidencyFetch : (copying.job? 1).isSome ∧
    (copying.job? 1).bind (·.res? 7) = some { tensor := 7, fetching := true, copyBase := some 0xB00 } ∧
    (copying.job? 1).bind (·.place? 7) = some ⟨decl 7 64, .flat 0x700⟩ ∧ copying.written 1 7 = false ∧
    ({ copying with registry := [{ id := id1, job := 1, desc := vec4, lo := 0, hi := 15 }] } : Mod).written 1 7 = true ∧
    (copying.checkLocal none ((List.range 64).map (Placement.flat 0x700).addr)).2.2 = none := by decide +kernel

/-! ### Exchange -/

def exch1 : ExchangeDecl :=
  { id := 1, experts := 1, kTop := 1, owners := [[0]], rowInFmt := 1, rowInW := 2, rowOutFmt := 1, rowOutW := 2, withyClass := 0
    ledgerPool := 2, recvPool := 1 }

def exStep0 : ExStep := { job := 1, exch := 1, step := 0, counts := [{ source := 1, group := 0, last := true, entries := [(1, 1)] }] }

def exJob (st : ExStep) : Job :=
  { plan := { plan1 with exchanges := [exch1]
                         pools := [{ id := 1, name := "R", place := .unit 0, counts := [4], reserves := [1], requesters := [] }] }
    phase := .running, exSteps := [st] }

def tag0 : Tag :=
  { gate := 0, held := false, dropped := false, replica := false, last := true, pad := false, kslot := 0, expert := 0, token := 0
    source := 1, inc := 5 }

def exMod (quota : Nat) (st : ExStep) : Mod := { pooled quota 1 with jobs := [exJob st] }

def exMsg0 : ExMsg :=
  { job := 1, inc := 5, source := 1, exch := 1, group := 0, step := 0, lastGroup := true, slot := 0, entries := [(1, 1)], tags := [tag0]
    rows := [[0, 0, 0, 0]], rows2 := [], keep := [true], held := false }

def ledger0 : LedgerSlot := { tag := tag0, group := 0, rank := 1, slot := 0 }

def parcel0 (ph : ParcelPhase) (g : Option ParcelPhase := none) : ParcelOut := { group := 0, rank := 1, slot := 0, phase := ph, grad := g }

/-- Whether `exMsg0` is taken for step 0 of exchange 1, which is open. -/
def finds (m : Mod) : Bool :=
  match m.job? 1 with
  | some j => j == (exJob ((j.ex? 1 0).getD exStep0)) && !m.resettingFor 1 && j.plan.inc == 5 && j.plan.exchange? 1 == some exch1 &&
      j.stepOf 1 0 == some 0 && j.rollbackUntil.isNone && (j.ex? 1 0).isSome
  | none => false

theorem takesEx_of (m : Mod) (h : finds m = true) : ∃ j, m.takesEx exMsg0 j exch1 0 ∧ (j.ex? exch1.id 0).isSome := by
  unfold finds at h
  split at h
  · rename_i j hj
    simp only [Bool.and_eq_true, beq_iff_eq, Bool.not_eq_true', Option.isNone_iff_eq_none] at h
    obtain ⟨⟨⟨⟨⟨⟨-, h1⟩, h2⟩, h3⟩, h4⟩, h5⟩, h6⟩ := h
    exact ⟨j, ⟨hj, h1, h2, h3, h4, .inl h5⟩, h6⟩
  · cases h

theorem witness_StrayExchangeMessages : ready.job? 9 = none ∧ (ready.job? 1).isSome ∧
    (let m := { ready with resetting := some { started := 0, record := 0, noticeId := 0 } }
     m.resettingFor 1 = true ∧ (m.job? 1).isSome) ∧ ready.resettingFor 1 = false ∧ job1.plan.inc ≠ 4 := by decide +kernel

theorem witness_ExchangeReceiverRows : finds (exMod 9 exStep0) = true ∧ (exJob exStep0).phase = .running ∧
    (exStep0.spoiled = none ∧ (exStep0.entry 1 0 0).isSome ∧ exStep0.parcel? 1 0 0 false = none ∧ exStep0.parcel? 1 0 0 true = none) ∧
    ((exMod 9 exStep0).requestRecv (exJob exStep0).plan exch1 exStep0 (exch1.withiesFor 1) true).2 = some [1] ∧
    ((exMod 0 exStep0).requestRecv (exJob exStep0).plan exch1 exStep0 (exch1.withiesFor 1) true).2 = none ∧
    finds (exMod 9 { exStep0 with spoiled := some 1 }) = true := by decide +kernel

theorem witness_ExchangeOwnerRows : finds (exMod 9 { exStep0 with spoiled := some 1 }) = true ∧
    (∀ o ∈ [parcel0 .tagsSent, parcel0 .sent (some .sent)],
      let st := { exStep0 with parcelsOut := [o], ledger := [ledger0] }
      finds (exMod 9 st) = true ∧ st.out? exMsg0 = some o ∧ st.spoiled = none) ∧ (parcel0 .tagsSent).phase = .tagsSent ∧
    (∀ k ∈ [true, false],
      let st := { exStep0 with parcelsOut := [parcel0 .tagsSent], ledger := [ledger0] }
      (((st.parcelSlots 0 1 0).zip [k]).filter fun p => !p.2).length = if k then 0 else 1) := by decide +kernel

def parcelIn0 : ParcelIn :=
  { source := 1, group := 0, slot := 0, grad := false, count := 1, tags := [tag0], rows := [[0, 0, 0, 0]], rows2 := [], phase := .inWithies
    wasHeld := false, withies := [1] }

theorem witness_WithyOfResult :
    (let j := exJob { exStep0 with parcelsIn := [{ parcelIn0 with phase := .resulted }] }
     (j.resultedIn 1 (j.plan.poolPlace 1) 0 1).isSome = true ∧ j.plan.poolPlace 1 = 0) ∧ ((exMod 9 exStep0).cell? 1 1 0 0).isSome ∧
    (∀ p ∈ [parcelIn0, parcelIn0], p.ran < p.count) ∧ (takeRound 2 0 [parcelIn0, parcelIn0]).length = 2 ∧
    ((takeRound 16 0 [{ parcelIn0 with count := 17 }]).map (·.2)) = [16] := by decide +kernel

/-- An exchange on which every count of two senders is there and names `n` pairs of slot 0. -/
def counted (n : Nat) : ExStep :=
  { exStep0 with counts := [{ source := 1, group := 0, last := true, entries := [(n, n)] },
                            { source := 0, group := 0, last := true, entries := [(0, 0)] }] }

/-- What a backward round of slot 0 meets: whether all counts are there, the pairs known, and the pairs that it takes. -/
def spanAt (st : ExStep) : Bool × Nat × Nat :=
  let j := exJob st
  let q : SlotProg := (st.slots.find? fun q => q.slot == 0).getD { slot := 0 }
  let fin := st.allFinished (j.plan.senders exch1)
  let known := st.knownParcels exch1 0 (j.plan.senders exch1)
  let total := (known.map (·.2.2)).sum
  (fin, total, spanLen q.bwdNext exch1.roundRows (st.present 0 known).length (if fin then some total else none))

def gradIn0 : ParcelIn := { parcelIn0 with grad := true, rows2 := [[0, 0, 0, 0]] }

/-- An empty body does not fail; one with a COPY that names no operand does. -/
theorem witness_ExpertRounds :
    (let j := exJob exStep0
     j.plan.exchange? 1 = some exch1 ∧ ((j.openSteps 1).find? fun s => !(s.waiting 0).isEmpty) = none ∧ j.runs = true ∧
      0 < (exch1.slotsOf j.plan.rank).length) ∧
    ({ exJob exStep0 with phase := .loaded } : Job).runs = false ∧
    (let st := { exStep0 with parcelsIn := [parcelIn0] }
     let j := exJob st
     ((j.openSteps 1).find? fun s => !(s.waiting 0).isEmpty) = some st ∧
      ((exMod 9 st).runBody j exch1 0 exch1.bodyFwd [[0, 0, 0, 0]] [] 0 0 []).fail = none ∧
      ((exMod 9 st).runBody j exch1 0 [{ op := .copy, flags := 0, payload := [] }] [[0, 0, 0, 0]] [] 0 0 []).fail.isSome) ∧
    (((exJob (counted 0)).openSteps 1).head? = some (counted 0) ∧ spanAt (counted 0) = (true, 0, 0)) ∧
    (let st := { counted 1 with parcelsIn := [gradIn0] }
     ((exJob st).openSteps 1).head? = some st ∧ spanAt st = (true, 1, 1) ∧
      ((exMod 9 st).runBody (exJob st) exch1 0 exch1.bodyBwd [[0, 0, 0, 0]] [[0, 0, 0, 0]] 0 1 []).fail = none) := by decide +kernel

/-! ### Wale, sweep, split requests -/

def wale0 : WaleMsg :=
  { job := 1, inc := 5, source := 1, bucket := 1, step := 0, shard := 0, chunk := 0, vfmt := 0, esc := false, carried := false
    nonfinite := false, last := true, contrib := 1, missing := 0, body := [], vec := [], word := 0, count := 1 }

def resets (m : Mod) : Mod := { m with resetting := some { started := 0, record := 0, noticeId := 0 } }

theorem takesWale_of (m : Mod) (k : WaleKind) (x : WaleMsg) (j : Job)
    (h : m.resettingFor x.job = false ∧ m.current? x.job x.inc = some j ∧ j.phase ≠ .loaded ∧ j.rollbackUntil = none) :
    m.takesWale k x j := ⟨h.1, h.2.1, h.2.2.1, .inl h.2.2.2⟩

theorem witness_WalePacketRows : (resets ready).resettingFor wale0.job = true ∧ ready.resettingFor wale0.job = false ∧
    ready.current? 1 4 = none ∧
    (({ ready with jobs := [{ job1 with phase := .loaded }] } : Mod).current? 1 5).map (·.phase) = some .loaded ∧
    (∀ k, ready.takesWale k wale0 job1) :=
  ⟨by decide +kernel, by decide +kernel, by decide +kernel, by decide +kernel, fun k => takesWale_of _ _ _ _ (by decide +kernel)⟩

/-- A bucket of two chunks, one of each rank's shard. -/
def bucket1 : BucketDecl := { id := 1, len := 4096, input := 7, inputFmt := 0, shardOut := 8, shardFmt := 0 }

def node1 : WaleNode := { bucket := 1, step := 0, shard := 0, deadline := some 100 }

def waleJob : Job := { job1 with plan := { plan1 with buckets := [bucket1] }, waleNodes := [node1], gathers := [{ bucket := 1, step := 0 }] }

def tree (shard : Nat) : Tree := ⟨(waleJob.plan.group bucket1.group).length, shard⟩

def waleOf (j : Job) : Mod := { ready with jobs := [j] }

theorem witness_WaleReduce : (∀ k, (waleOf waleJob).takesWale k wale0 waleJob) ∧ waleJob.plan.bucket? wale0.bucket = some bucket1 ∧
    waleJob.step.toNat ≤ waleJob.waleStep wale0.step + 16 ∧
    (((tree 0).children (waleJob.plan.posIn bucket1.group)).find? fun c => waleJob.plan.rankOf bucket1.group c.2 == wale0.source) = some (1, 1) ∧
    ((((waleOf waleJob).ackWale waleJob wale0).ensureNode 1 1 0 0).nodeAt? 1 1 0 0).map (fun a => a.n.deadline) = some (some 100) ∧
    ready.now ≤ 100 ∧ wale0.bucket ≠ 0 ∧
    ((tree 1).parent (waleJob.plan.posIn bucket1.group)).map (waleJob.plan.rankOf bucket1.group) = some wale0.source ∧
    ((tree 0).parent (waleJob.plan.posIn bucket1.group)).map (waleJob.plan.rankOf bucket1.group) ≠ some wale0.source ∧
    ((((waleOf waleJob).ensureGather 1 1 0).job? 1).bind (·.gather? 1 0)).map (·.stored.contains (0, 0)) = some false ∧
    ((waleJob.plan.normTree.children waleJob.plan.rank).find? fun c => c.2 == wale0.source) = some (1, 1) :=
  ⟨fun k => takesWale_of _ _ _ _ (by decide +kernel), by decide +kernel⟩

/-- A SEND that waits for its CLEAR, and a RECV that takes what is sent. -/
def sends : Mod := running .send (.stream 1 0 [] true false []) (List.replicate 16 0#8 ++ entry 1)

def recvs : Mod := running .recv (.stream 1 0 [] true true []) (List.replicate 16 0#8 ++ entry 1)

theorem witness_WaleSends : (∀ k, sends.takesWale k wale0 dataJob) ∧ (∀ k, recvs.takesWale k wale0 dataJob) ∧
    sends.streams 1 .recv wale0.source wale0.step = [] ∧ recvs.streams 1 .send wale0.source wale0.step = [] ∧
    (sends.streams 1 .send wale0.source wale0.step).map (fun x => (x.1, x.2.work)) = [(id1, .stream 1 0 [] true false [])] ∧
    (recvs.streams 1 .recv wale0.source wale0.step).map (fun x => (x.1, x.2.work)) = [(id1, .stream 1 0 [] true true [])] ∧
    (recvs.dataAt? id1).map (fun x => (x.2.v 0x10).d.volume) = some 4 ∧ wale0.count ≠ 4 :=
  ⟨fun k => takesWale_of _ _ _ _ (by decide +kernel), fun k => takesWale_of _ _ _ _ (by decide +kernel), by decide +kernel⟩

def waleMod (now : Nat) : Mod :=
  { waleOf { waleJob with norms := [{ step := 0, deadline := some 100 }], rollbackUntil := some 100 } with timer := BitVec.ofNat 64 now }

def verdict1 : VerdictRec := { job := 1, inc := 5, step := 0, word := 0, vec := [0x3F800000] }

theorem witness_WaleTimersAndVerdicts : ready.takesWale .verdict wale0 job1 ∧ ready.verdict? 1 (job1.waleStep wale0.step) = none ∧
    ({ ready with verdicts := [verdict1] } : Mod).verdict? 1 0 = some verdict1 ∧ (resets ready).resettingFor wale0.job = true ∧
    ((({ ready with verdicts := [verdict1] } : Mod).verdicts.reverse.find? fun v => v.job == 1 && v.step == 0) = some verdict1 ∧
      ready.resettingFor 1 = false) ∧
    (((doing .optimSweep .verdictAsk).cmd? id1).map (·.work) = some .verdictAsk ∧ ((doing .optimSweep .verdictAsk).job? 1).isSome) ∧
    (∀ n ∈ [99, 100], ((waleMod n).nodeAt? 1 1 0 0).map (fun a => (a.n.deadline, a.j.phase)) = some (some 100, .running) ∧
      ((waleMod n).job? 1).bind (·.norm? 0) = some { step := 0, deadline := some 100 } ∧
      ((waleMod n).job? 1).map (·.rollbackUntil) = some (some 100) ∧ (waleMod n).now = n) :=
  ⟨takesWale_of _ _ _ _ (by decide +kernel), by decide +kernel⟩

def range1 : RangeDecl := { id := 1, optimizer := .sgd, bucket := 1, weightHi := 8, weightLo := 9, m := 10 }

/-- A sweep of two pages left, or of one, with the verdict of its step. -/
def sweepsOf (ps : List (Nat × Nat × Nat)) (errs : List (Nat × BitVec 144)) : Mod :=
  let m := doing .optimSweep (.sweep ps 0) (List.replicate 48 0#8)
    { ready with jobs := [{ dataJob with plan := { dataJob.plan with ranges := [range1], buckets := [{ bucket1 with len := 1 }], rank := 1 } }] }
  { m with verdicts := [verdict1], memErrors := errs }

def sweeps : Mod := sweepsOf [(1, 0, 0), (1, 0, 1)] []

/-- Whether the first page of a sweep finds its job, its range and its verdict; the words that it reads; whether one of them fails. -/
def pageOf (m : Mod) : Option (Bool × Nat × Bool) :=
  match m.job? 1, m.running? (.queue 1) with
  | some j, some r =>
    let w := (j.readBy id1).pageWork j range1 (fun i => f32 (BitVec.ofNat 32 (r.cmd.pkt.u (8 + 4 * i) 4))) (verdict1.vec.headD 0#32) 0 0 m.byte
    some (j.plan.range? 1 == some range1 && m.verdict? 1 j.step.toNat == some verdict1 && r.cmd.job == 1, w.reads.length,
      (m.checkAccess (some r.cmd) w.reads (w.put.writes.map (·.1))).2.2.isNone)
  | _, _ => none

theorem witness_SweepPageDone :
    (∀ ps ∈ [[(1, 0, 0), (1, 0, 1)], [(1, 0, 0)]],
      (sweepsOf ps []).runnings.map (fun x => (x.1, x.2.work)) = [(.queue 1, .sweep ps 0)] ∧ (sweepsOf ps []).stoppedAt (.sweep 0) = false) ∧
    (pageOf sweeps).map (fun x => (x.1, x.2.2)) = some (true, true) ∧
    (pageOf (sweepsOf [(1, 0, 0)] [(0x80, 0x3FF)])).map (fun x => (x.1, x.2.2)) = some (true, false) := by decide +kernel

def staged (recorded : Bool) : Staged :=
  { id := id1, job := 1, part := 0, withies := [], conv := 0, format := 0, writes := [(0x700, 1)], adds := [], recorded := recorded }

def splits (w : Work) (recorded : Bool) : Mod := { doing .scatter w with staged := [staged recorded] }

theorem witness_SplitRequestRows :
    (∀ u ∈ [[0], [0, 1]], ((splits (.split u [] []) false).cmd? id1).map (·.work) = some (.split u [] []) ∧ 0 ∈ u) ∧
    ([0].filter (· != 0) = [] ∧ [0, 1].filter (· != 0) ≠ []) ∧
    (((splits (.split [] [] [0]) false).cmd? id1).map (·.work) = some (.split [] [] [0]) ∧
      ((splits (.split [] [] [0]) false).staged.find? fun t => t.id == id1 && t.part == 0) = some (staged false)) ∧
    (({ ready with staged := [staged true] } : Mod).cmd? id1 = none ∧
      (({ ready with staged := [staged true] } : Mod).staged.find? fun t => t.id == id1 && t.part == 0) = some (staged true) ∧
      (({ ready with staged := [staged false] } : Mod).staged.find? fun t => t.id == id1 && t.part == 0) = some (staged false)) ∧
    (∀ f ∈ [[], [(1, 9)]], ((splits (.split [] f [0]) true).cmd? id1).map (·.work) = some (.split [] f [0]) ∧
      ((splits (.split [] f [0]) true).staged.find? fun t => t.id == id1 && t.part == 0 && !t.recorded) = none) := by decide +kernel

/-- A request whose part is to commit, with channels out of service. -/
def commits (bad : List Nat) : Mod := { splits (.split [] [] [0]) false with badChannels := bad }

/-- Channel 129 holds the address 0x700 that the part writes (R228). -/
theorem witness_SplitCommit : (∀ f ∈ [[], [(1, 9)]], ((splits (.split [0] f []) false).cmd? id1).map (·.work) = some (.split [0] f [])) ∧
    (∀ bad ∈ [[], [129]], ((commits bad).cmd? id1).map (·.work) = some (.split [] [] [0]) ∧
      ((commits bad).staged.find? fun t => t.id == id1 && t.part == 0) = some (staged false)) ∧ (staged false).written = false ∧
    (((commits []).stagedWrites (staged false)).1.find? fun w => isLocal w.1 && (commits []).badChannel w.1) = none ∧
    (((commits [129]).stagedWrites (staged false)).1.find? fun w => isLocal w.1 && (commits [129]).badChannel w.1) = some (0x700, 1) ∧
    (∀ f ∈ [[], [(1, 9)]], ((splits (.split [] f [0, 1]) true).cmd? id1).map (·.work) = some (.split [] f [0, 1])) := by decide +kernel

/-! ### Tray, steward, gateways, fabric -/

/-- An 8-byte operation at 0x40 of this module's Tier A. -/
def treq (addr : Nat) : TrayReq := { src := 3, job := 1, tag := 4, size := 3, fetch := true, addr := BitVec.ofNat 52 addr, operand := leBytes 8 5 }

def topen : TrayOut := { tag := 4, id := id1, job := 1, rank := 1, op := .load, addr := 0x40, size := 3, into := none }

theorem witness_TrayOperationRows : (resets ready).resettingFor 1 = true ∧ ready.resettingFor 1 = false ∧
    (∀ op ∈ [TrayOp.load, .store], ready.trayReachable op (treq 0x40) = true) ∧ ready.trayReachable .load (treq 0xE00000000000) = false ∧
    ready.trayReachable .load (treq 0x44) = false ∧ ready.keepsOut .store (treq 0x40) = false ∧
    ({ ready with homeOwners := [(0, 2, 1)] } : Mod).keepsOut .store (treq 0x40) = true ∧
    (ready.checkLocal none ((List.range 8).map (0x40 + ·))).2.2 = none ∧
    (({ ready with memErrors := [(4, 0x3FF)] } : Mod).checkLocal none ((List.range 8).map (0x40 + ·))).2.2.isSome ∧
    (ready.trayOps.find? fun t => t.tag == 4) = none ∧
    (({ doing .copy (.remote [] false) with trayOps := [topen] } : Mod).trayOps.find? fun t => t.tag == 4) = some topen ∧
    topen.id.lane = .queue 1 ∧ (({ doing .copy (.remote [] false) with trayOps := [topen] } : Mod).cmd? topen.id).isSome ∧
    ((exMod 9 exStep0).job? 1).bind (·.stepOf 1 0) = some 0 := by decide +kernel

/-- Channel 96 holds the address 0x40. -/
theorem witness_TrayAccess :
    (let at_ := (List.range 8).map (0x40 + ·)
     (∀ w ∈ [[], at_], (ready.checkAccess none w at_).2.2 = none) ∧
      (({ ready with memErrors := [(4, 0x3FF)] } : Mod).checkAccess none at_ at_).2.2.isSome ∧
      (({ ready with badChannels := [96] } : Mod).checkAccess none [] at_).2.2.isSome ∧
      ready.badChannel 0x40 = false ∧ ∀ a ∈ at_, ready.badChannel a = false) ∧
    (let m := { doing .copy (.remote [] false) with trayOps := [topen] }
     (m.trayOps.find? fun t => t.tag == 4) = some topen ∧ topen.id.lane = .queue 1 ∧ (m.cmd? topen.id).isSome) ∧
    ((doing .ownTake (.steward 0)).cmd? id1).map (·.work) = some (.steward 0) := by decide +kernel

def steward (t : List OwnEntry) (w : List OwnTakeWait) : Mod := { ready with isSteward := true, ownTable := t, ownWaits := w }

def wait0 : OwnTakeWait := { region := 9, owner := 5, job := 1, id := id1 }

theorem witness_StewardRows : ready.isSteward = false ∧ (resets (steward [] [])).resetting.isSome ∧ (steward [] []).resetting = none ∧
    ((steward [] []).ownEntry 1).owner = none ∧ ((steward [⟨1, some (3, 1), false⟩] []).ownEntry 1).owner = some (3, 1) ∧
    ((4, 1) ≠ (3, 1)) ∧ (List.replicate 255 wait0).length < 256 ∧ 256 ≤ (steward [] (List.replicate 256 wait0)).ownWaits.length ∧
    ready.cmd? id1 = none ∧ (∀ k ∈ [0, 1, 2], ((doing .ownTake (.steward k)).cmd? id1).map (·.work) = some (.steward k)) ∧
    (ready.job? 1).isSome := by decide +kernel

/-- A take, or a give, of the region of a shared tensor at 0x200000 of the module in slot 1. -/
def owns (op : Op) (k : Nat) : Mod :=
  doing op (.steward k) (List.replicate 16 0#8 ++ entry 1)
    { withData with jobs := [{ dataJob with plan := { dataJob.plan with stored := [{ vec4 with remote := true, rank := 1 }] }
                                            placements := [(1, [⟨7, [0x200000], false, 64⟩])] }] }

/-- Whether the operand that a take or a give names lies at 0x200000 of slot 1, and goes on past its region's offset. -/
def takesFar (m : Mod) (op : Op) (k : Nat) : Bool :=
  match m.cmd? id1 with
  | some r =>
    match m.job? r.cmd.job with
    | some j =>
      let off := stripe * r.cmd.pkt.u 0 4
      r.cmd.op == op && r.work == .steward k && (match (r.cmd.op.opnds j.plan r.cmd.pkt).head?.map j.find with
        | some (.ok v) => (match v.place with
          | .tray slot p => slot == 1 && p.addr off == 0x200000 && off < v.len
          | _ => false)
        | _ => false)
    | none => false
  | none => false

theorem witness_StewardOperands : ready.isSteward = false ∧ (∀ k ∈ [0, 1, 2], takesFar (owns .ownTake k) .ownTake k = true) ∧
    takesFar (owns .ownGive 0) .ownGive 0 = true := by decide +kernel

def block0 (flushing : Bool) : GatewayBlock := { window := 2, block := 3, data := [(0, 7)], flushing := flushing }

theorem witness_GatewayAndPlacementRows : ready.current? 1 4 = none ∧ ready.resettingFor 1 = false ∧ (ready.current? 1 5).isSome ∧
    (resets ready).resettingFor 1 = true ∧ ((resets ready).current? 1 5).isSome ∧ (2, 3) ∉ job1.fetching ∧ job1.stageBlocks = [] ∧
    (let j := { job1 with fetching := [(2, 3)], stageBlocks := [block0 true] }
     (({ ready with jobs := [j] } : Mod).job? 1).isSome ∧ (2, 3) ∈ j.fetching ∧
      (j.stageBlocks.find? fun b => b.window == 2 && b.block == 3 && b.flushing) = some (block0 true)) := by decide +kernel

/-- A reader that waits for a block of a gateway window, and a channel that a flush of tensor 7 writes out of service. -/
def fetches : Mod := { withData with jobs := [{ dataJob with fetching := [(2, 3)], fetchers := [((2, 3), id1)] }] }

theorem witness_GatewayWrites :
    (let ws := [(0, (7 : Byte))].flatMap fun (o, b) => dataJob.tensorWrites 7 (65536 * 0 + o) b
     ws = [(0x700, 7)] ∧ (∀ w ∈ ws, (isLocal w.1 && withData.badChannel w.1) = false) ∧
      ((ws.map (·.1)).find? fun a => isLocal a && ({ withData with badChannels := [129] } : Mod).badChannel a) = some 0x700 ∧
      (withData.current? 1 5 = some dataJob ∧ withData.resettingFor 1 = false)) ∧
    ((fetches.job? 1).map fun j => decide ((2, 3) ∈ j.fetching) && (j.fetchers.filter fun f => f.1 == (2, 3)).map (·.2) == [id1]) = some true := by
  decide +kernel

def up : Port := { neighbour := 1, state := 2, width := 8 }

def linked (p : Port) : Mod := { ready with ports := p :: List.replicate 15 {} }

def member (st : Nat) : RosterRec := { addr := 1, state := st, digest := [4], ipv4 := 0, ipv6 := 0 }

theorem witness_FabricRows :
    (let m := { ready with roster := [member 2], rosterEpoch := 3 }
     (m.roster.any fun x => x.state == 2 && x.digest == [4]) = true ∧ (m.roster.any fun x => x.state == 2 && x.digest == [5]) = false ∧
      3 ≤ m.rosterEpoch ∧ m.rosterEpoch < 4) ∧
    (List.replicate 256 (0, 0)).length ≤ 256 ∧ 256 < (List.replicate 257 (0, 0)).length ∧ ready.isSteward = false ∧
    (sameTray 1 ({ ready with isSteward := true } : Mod).modAddr = true ∧ 1 ≠ ({ ready with isSteward := true } : Mod).modAddr) ∧
    (linked up).ports[0]? = some up ∧ up.spareFor = 0xF ∧ up.training = none ∧ up.up = true ∧ ready.ports[0]? = some ({} : Port) ∧
    ({} : Port).up = false ∧ (linked { up with training := some 2 }).ports[0]? = some { up with training := some 2 } := by decide +kernel

/-- A narrowed port with `n` more lanes failed. -/
def narrowed (lanes : List Nat) : Port := { up with state := 3, width := 4, failed := lanes }

theorem witness_LinkLanes : (linked up).ports[0]? = some up ∧ up.up = true ∧ 2 ∉ up.failed ∧
    (linked (narrowed [0])).ports[0]? = some (narrowed [0]) ∧ (narrowed [0]).up = true ∧ 0 ∈ (narrowed [0]).failed ∧ 1 ∉ (narrowed [0]).failed ∧
    (narrowed [0]).state = 3 ∧ 4 ≤ usableLanes (1 :: (narrowed [0]).failed).eraseDups ∧
    (usableLanes (narrowed [0, 1, 2, 3, 4, 5]).failed < 4 ∧ 4 ≤ usableLanes (narrowed [0, 1, 2, 3, 4]).failed) := by decide +kernel

def wpkt (dest : Nat) : WeavePkt :=
  { dest := BitVec.ofNat 16 dest, src := 3, cls := 0, vc := 0, ordered := false, dateline := 0, length := 1, first := true, last := true
    pkt := 5, operand := 0, u := 0, data := [] }

theorem witness_TransitRows :
    (({ ready with roster := [{ member 3 with addr := 3 }] } : Mod).quarantinedAddr 3 = true ∧ 15 ≤ 15 ∧ 15 < 16) ∧
    (ready.quarantinedAddr 3 = false ∧ ready.quarantinedAddr 1 = false ∧ ready.combined = []) ∧ ((0#16).toNat = ready.modAddr) ∧
    ((4096#16).toNat ≠ ready.modAddr ∧ (wpkt 4096).cls = 0 ∧ ready.hops true false (wpkt 4096).u 4096 = []) ∧
    ({ ready with ports := List.replicate 14 {} ++ [up, up] } : Mod).hops true false (wpkt 4096).u 4096 = [(3, true, 14)] := by decide +kernel

/-- A packet for this module: of a tray operation, or a part of a message, with or without an uncorrectable word. -/
def mine (cls pkt : Nat) (last bad : Bool) : WeavePkt :=
  { wpkt 0 with cls := cls, pkt := pkt, last := last, errs := if bad then [(0, 0x3FF)] else [] }

theorem witness_TransitArrivals :
    (∀ x ∈ [(0, false), (0, true), (1, false)],
      let p := (mine x.1 5 true x.2).routed
      p.dest.toNat = ready.modAddr ∧ p.cls = x.1 ∧ (decide (p.errs = []) = !x.2) ∧ ready.quarantinedAddr p.src.toNat = false ∧
        ready.quarantinedAddr p.dest.toNat = false ∧ ready.combined = []) ∧
    (ready.assembly = [] ∧ wholePackets [(mine 0 1 true false).routed] = none ∧ wholePackets [(mine 0 0 false false).routed] = none ∧
      wholePackets [(mine 0 0 true false).routed] = some 0 ∧
      wholePackets [(mine 0 1 true false).routed, (mine 0 0 false false).routed] = some 1 ∧
      (mine 0 0 true false).routed.errs = [] ∧ (mine 0 0 true true).routed.errs ≠ []) ∧
    (let m : Mod := { ready with ports := List.replicate 14 ({} : Port) ++ [up, up] }
     let p := (wpkt 4096).routed
     p.dest.toNat ≠ m.modAddr ∧ p.cls = 0 ∧ m.hops true false p.u p.dest.toNat = [(3, true, 14)] ∧ m.combined = [] ∧
      m.quarantinedAddr p.src.toNat = false ∧ m.quarantinedAddr p.dest.toNat = false) := by decide +kernel

/-! ### Sessions, RDMA, datagrams -/

def inits (n : Nat) : Mod := { ready with initTimes := List.replicate n (7#128, 0) }

def shake : Handshake := { ep := ep, key := [], chain := [], confirm := [9], replyAt := 0 }

def aged (opened now : Nat) (pkts : Nat) : Mod :=
  { ready with timer := BitVec.ofNat 64 now, sessions := [{ ses with openedAt := opened, inPkts := pkts }] }

def joining (now : Nat) : Mod := { ready with timer := BitVec.ofNat 64 now, joins := [(1, 0, [])], roster := [member 1] }

theorem witness_SessionRows : State.reset.m.boot.stage ≠ .ready ∧ ready.boot.stage = .ready ∧ (List.replicate 6144 0#8).length ≤ 6144 ∧
    (inits 15).recentInits 7 < 16 ∧ 16 ≤ (inits 16).recentInits 7 ∧ ({ ready with policy := none } : Mod).policy = none ∧ ready.policy ≠ none ∧
    (List.replicate 31 ses).length < 32 ∧ (ready.handshakes.find? fun h => h.ep == ep) = none ∧
    (let m := { ready with handshakes := [shake], timer := 100000000 }
     (m.handshakes.find? fun h => h.ep == ep) = some shake ∧ [9#8] = shake.confirm ∧ m.now ≤ shake.replyAt + 100000000 ∧
      m.sessions.length < 32 ∧ [8#8] ≠ shake.confirm) ∧
    shake.replyAt + 100000000 < ({ ready with timer := 100000001 } : Mod).now ∧ ready.session? 9 = none ∧
    (((aged 0 8640000000000 0).session? 0).isSome ∧ 0 + 8640000000000 ≤ (aged 0 8640000000000 0).now) ∧
    ((aged 0 8639999999999 (2 ^ 32 - 1)).now < 0 + 8640000000000 ∧ 2 ^ 32 - 1 < 2 ^ 32) ∧
    ((resets ready).resetting.isSome ∧ ready.resetting = none ∧ (ready.joins.find? fun j => j.1 == 1) = none) ∧
    (∀ n ∈ [100000000, 100000001], ((joining n).joins.find? fun j => j.1 == 1) = some (1, 0, [])) ∧
    (let r : JoinReport := { chainOk := true, digest := [4], m1 := [] }
     ({ joining 100000000 with policy := some { pol with images := [[]] } } : Mod).joins? 1 r = true ∧ (joining 0).joins? 1 { r with chainOk := false } = false ∧
      (joining 100000000).now ≤ 0 + 100000000 ∧ 0 + 100000000 < (joining 100000001).now) := by decide +kernel

/-- A region that hosts may reach, of 64 bytes, whatever key it was given. -/
def hosted : Mod :=
  { withData with jobs := [{ dataJob with places := [⟨{ decl 7 64 with host := true }, .flat 0x700⟩] }] }

theorem witness_RdmaAndDatagramRows : (resets ready).rdmaClosed = true ∧ ready.rdmaClosed = false ∧ ready.session? 9 = none ∧
    (ready.session? 0).isSome ∧ 67108863 + 1 ≤ 64 * 2 ^ 20 ∧ 64 * 2 ^ 20 < 67108864 + 1 ∧ ready.rdmaRegion? 5 = none ∧
    (List.replicate 63 0#8).length < 64 ∧ 64 ≤ (List.replicate 64 0#8).length ∧ ready.resetting = none ∧ ready.boot.stage = .ready ∧
    ready.sessionOf { ep with port := 10 } = none ∧ ready.sessionOf ep = some ses ∧ ready.closing = [] ∧
    (dataJob.rdmaMayWrite ⟨decl 7 64, .flat 0x700⟩ 0 64 = true ∧ dataJob.copyOf 7 = none ∧ (decl 7 64).bytes < 0 + 65 ∧
      (let t := ⟨{ decl 7 64 with mask := [(0, 4)] }, .flat 0x700⟩
       dataJob.rdmaMayWrite t 3 1 = false ∧ dataJob.rdmaMayWrite t 4 1 = true)) := by decide +kernel

theorem witness_RdmaRegion : ∃ key, (hosted.rdmaRegion? key).isSome := by
  refine ⟨(Config.rdmaKey 1 7).toNat, ?_⟩
  simp [Mod.rdmaRegion?, hosted, dataJob, decl, plan1, List.find?]

theorem witness_HandshakeEndpoints : (let m := { ready with handshakes := [shake] }
     (m.handshakes.find? fun h => h.ep.same ep) = some shake ∧ (m.handshakes.find? fun h => h.ep.same { ep with port := 10 }) = none ∧
      m.boot.stage = .ready) := by decide +kernel

/-- The region of `hosted` with an uncorrectable word, or with its channel out of service. -/
theorem witness_RdmaWords :
    (let t : TensorPlace := ⟨decl 7 64, .flat 0x700⟩
     0 + 16 ≤ t.decl.bytes ∧ (hosted.checkLocal none (t.span 0 16)).2.2 = none ∧
      (({ hosted with memErrors := [(0x70, 0x3FF)] } : Mod).checkLocal none (t.span 0 16)).2.2.isSome ∧
      dataJob.copyOf t.decl.id = none ∧ dataJob.rdmaMayWrite t 0 1 = true ∧
      (let ws := (t.span 0 1).zip [(7 : Byte)]
       (∀ w ∈ ws, (isLocal w.1 && hosted.badChannel w.1) = false) ∧
        ((ws.map (·.1)).find? fun a => isLocal a && ({ hosted with badChannels := [129] } : Mod).badChannel a) = some 0x700)) := by decide +kernel

/-- A NOP of 64 bytes whose tag is one byte 16 times over. -/
def taggedBy (x : Byte) : Bytes := ({ untagged 1 0 0 [] with tag := List.replicate 16 x } : Packet).toBytes 0xFF 0

/-- Of two datagrams that differ in their tag alone, one does not verify. -/
theorem witness_Datagrams :
    (8192 < (List.replicate 8193 (0 : Byte)).length ∧ ready.sessionOf { ep with port := 10 } = none ∧ ready.sessionOf ep = some ses ∧
      ready.closing = [] ∧ ∀ x ∈ [(0 : Byte), 1], 64 ≤ (taggedBy x).length ∧ (taggedBy x).length ≤ 8192) ∧
    ∃ x : Byte, let b := taggedBy x
      let w := word32 b 4
      let p := Packet.ofBytes ep b
      tag16 ses.key (p.header (w % 256) (w / 256 % 256) ++ p.payload) ≠ p.tag := by
  refine ⟨by decide +kernel, ?_⟩
  by_cases h : tag16 ses.key ((Packet.ofBytes ep (taggedBy 0)).header 0xFF 0 ++ (Packet.ofBytes ep (taggedBy 0)).payload) =
      (Packet.ofBytes ep (taggedBy 0)).tag
  · refine ⟨1, fun h1 => ?_⟩
    have same : (Packet.ofBytes ep (taggedBy 1)).header (word32 (taggedBy 1) 4 % 256) (word32 (taggedBy 1) 4 / 256 % 256) ++
        (Packet.ofBytes ep (taggedBy 1)).payload = (Packet.ofBytes ep (taggedBy 0)).header 0xFF 0 ++ (Packet.ofBytes ep (taggedBy 0)).payload := by
      decide +kernel
    rw [same, h] at h1
    revert h1; decide +kernel
  · refine ⟨0, ?_⟩
    have same : (Packet.ofBytes ep (taggedBy 0)).header (word32 (taggedBy 0) 4 % 256) (word32 (taggedBy 0) 4 / 256 % 256) =
        (Packet.ofBytes ep (taggedBy 0)).header 0xFF 0 := by decide +kernel
    show tag16 _ ((Packet.ofBytes ep (taggedBy 0)).header _ _ ++ _) ≠ _
    rw [same]; exact h

/-! ### Faults, escalation, housekeeping, takeovers -/

def flawed (w : BitVec 144) : Mod := { ready with memErrors := [(4, w)] }

theorem witness_CheckAndScrubRows : ready.badChannels.contains 95 = false ∧ ({ ready with badChannels := [95] } : Mod).badChannels.contains 95 = true ∧
    (regionOf (16 * 4)).scrubbed = true ∧ (regionOf 0xF00000000000).scrubbed = false ∧ decodeWord (ready.errorAt 4) = .clean ∧
    decodeWord ((flawed (flipSymbol 0 0 1)).errorAt 4) = .corrected 0 1 ∧ decodeWord ((flawed (flipSymbol 0 35 15)).errorAt 4) = .corrected 35 15 ∧
    decodeWord ((flawed (flipSymbol (flipSymbol 0 0 1) 1 1)).errorAt 4) = .uncorrectable ∧
    (∀ d ∈ [(0, (1 : Int)), (0, -1)], d.1 = 0 ∧ -1 ≤ d.2 ∧ d.2 ≤ 1) ∧ (1 < (2 : Int) ∧ (-2 : Int) < -1) ∧
    ({ ready with timerDev := [(0, 2)] } : Mod).timerDev = [(0, 2)] := by decide +kernel

theorem witness_FaultEntryRows : (ready.boot.complex 0 = .active ∧ ready.boot.complex (1 - 0) = .standby) ∧
    (doing .nop .ready).running? (.queue 1) ≠ none ∧ ready.nodeAt? 1 1 0 0 = none ∧ ready.workOn (.sweep 0) = [] ∧
    sweeps.workOn (.sweep 0) = [(id1, 1)] := by decide +kernel

def iso (stopped : Bool) (left : List Nat) : Isolation :=
  { engine := .transfer 0, started := 0, stopped := stopped, left := left, innocent := [], guilty := [], cause := none }

def level0 (n unit : Nat) : Escalation := { level := n, unit := unit, started := 0, record := 0 }

def at_ (now : Nat) (es : List Escalation) : Mod := { ready with timer := BitVec.ofNat 64 now, escalations := es }

theorem witness_EscalationRows : ready.workOn (.transfer 0) = [] ∧ busy.workOn (.transfer 0) = [(id1, 1)] ∧
    (busy.isolations.any fun i => i.engine == .transfer 0) = false ∧ (ready.isolations.find? fun i => i.engine == .transfer 0) = none ∧
    (({ busy with isolations := [iso false [1]] } : Mod).isolations.find? fun i => i.engine == .transfer 0) = some (iso false [1]) ∧
    (∀ l ∈ [[1], [1, 2]], (iso true l).stopped = true ∧ (iso true l).left ≠ []) ∧
    (∀ x ∈ [(2, 7), (3, 1), (4, 0)], (at_ (levelBound x.1) [level0 x.1 x.2]).escalations = [level0 x.1 x.2] ∧
      (level0 x.1 x.2).started + levelBound x.1 ≤ (at_ (levelBound x.1) []).now ∧
      (at_ (levelBound x.1 - 1) []).now < (level0 x.1 x.2).started + levelBound x.1) ∧ ready.isolations = [] ∧ ready.escalations = [] ∧
    ((at_ 0 [level0 2 7]).escalations.find? fun e => e.level == 2 && e.unit == 7) = some (level0 2 7) ∧ (level0 2 7).reply = none := by
  decide +kernel

theorem witness_HousekeepingRows : ready.resetting = none ∧ ready.power.cycleReq = false ∧ ready.power.pwrGood = true ∧
    (resets ready).resetting.isSome ∧ (resets ready).boot.modRst = false ∧ State.reset.m.boot.noFirmware = true ∧
    ready.boot.noFirmware = false ∧ ready.trace.dest = none ∧
    (let tr : Trace := { dest := some ep, sid := 0, buffer := [{ time := 0, kind := 1 }] }
     ({ ready with trace := tr } : Mod).session? tr.sid = some ses ∧ (tr.buffer.drop tr.streamed).take (min 254 1) ≠ [] ∧
      (tr.buffer.drop tr.streamed).take (min 254 0) = []) := by decide +kernel

/-- Rib 0 with spare 7, its stakes in service since tick 0, and time to rotate. -/
def rotates (now : Nat) : Mod :=
  { ready with timer := BitVec.ofNat 64 now, ribs := [{ rib := 0, spare := some 7, since := [(0, 0), (1, 0)] }] }

theorem witness_TakeoverRows : ready.rib? 0 = none ∧ ((rotates 0).rib? 0).isSome ∧
    (({ ready with ribs := [{ rib := 0, spare := none }] } : Mod).rib? 0).map (·.spare) = some none ∧
    (let m := rotates 1050000000000
     let r : RibState := { rib := 0, spare := some 7, since := [(0, 0), (1, 0)] }
     m.rib? 0 = some r ∧ m.outOfService.contains 7 = false ∧ m.logicalOf 0 = some 0 ∧
      sortBy (fun (a b : Nat × Nat) => a.2 ≤ b.2) (r.since.filter fun x => (m.logicalOf x.1).isSome) = [(0, 0), (1, 0)] ∧
      (r.since.map (·.2)).foldl Nat.max 0 + 1050000000000 ≤ m.now ∧ (∀ x ∈ m.ribs, x.rib = 0)) ∧
    (({ ready with ribs := [{ rib := 0, spare := some 7, testing := true }] } : Mod).rib? (7 / 8)).map (fun r => (r.testing, r.spare, r.moving)) =
      some (true, some 7, none) ∧
    (ready.boot.complex 0 ≠ .testing ∧ ({ ready.boot with mgmt := (.active, .testing) } : Boot).complex 1 = .testing ∧
      ({ ready.boot with mgmt := (.active, .out) } : Boot).complex 1 = .out ∧ ready.boot.complex 0 = .active) := by decide +kernel

/-- The copies at a time, reloaded at tick 0. -/
theorem witness_TimerReload : ready.timerReload + 65536 ≤ ({ ready with timer := 65536 } : Mod).now ∧
    ({ ready with timer := 65535 } : Mod).now < ready.timerReload + 65536 := by decide +kernel

/-- Any deviation is that of some free value: 1 and 2 ticks, to either side. -/
theorem witness_TimerDeviation : zigzag 0 = 0 ∧ (zigzag 1).natAbs ≤ 1 ∧ (zigzag 2).natAbs ≤ 1 ∧ 1 < (zigzag 3).natAbs ∧ 1 < (zigzag 4).natAbs := by
  decide +kernel

/-- A node of `waleJob` whose shard has the chunks of its tree. -/
theorem witness_ResidueRows : ((waleOf waleJob).nodeAt? 1 1 0 0).map (fun a => decide (a.chunks.headD 0 + 0 ∈ a.chunks)) = some true ∧
    ((doing .nop .ready).running? (.queue 1)).isSome ∧ ready.nodeAt? 1 1 0 0 = none ∧ sweeps.workOn (.sweep 0) = [(id1, 1)] ∧
    ready.workOn (.sweep 0) = [] := by decide +kernel

theorem witness_LevelRows :
    (∀ x ∈ [(2, 7), (3, 1)], ((at_ 0 [level0 x.1 x.2]).escalations.find? fun e => e.level == x.1 && e.unit == x.2) = some (level0 x.1 x.2) ∧
      (level0 x.1 x.2).reply = none) ∧
    ready.outOfService = [] ∧
    (let i : Isolation := iso false [1]
     let m : Mod := { at_ (levelBound 1) [] with isolations := [i] }
     (m.isolations.find? fun i => codeOfEngine i.engine == codeOfEngine (.transfer 0) && !i.stopped && i.started + levelBound 1 ≤ m.now) = some i) ∧
    (let m := at_ (levelBound 2 - 1) [level0 2 7]
     2 ≤ 2 ∧ ∀ e ∈ m.escalations, e.level = 2 → e.unit = 7 → m.now < e.started + levelBound 2) := by decide +kernel

/-- A slot that is the one candidate, and no trial, is chosen. -/
theorem chooses_of (m : Mod) (hs : (m.slotState 0 == 2) = false) : m.chooseSlot (some 0) 3 [0] = (some 0, m) := by
  show (if (m.slotState 0 == 2) = true then _ else (some 0, m)) = (some 0, m)
  rw [if_neg (by simp [hs])]

/-- A Module reset fails where no pair runs, and boots where slot 0 is the one candidate (signatures are opaque). -/
theorem witness_ResetBoots :
    (let r : Mod := { resets ready with boot := { ready.boot with mgmt := (.out, .out) } }
     r.resetting.isSome ∧ r.boot.modRst = false ∧ r.power.cycleReq = false ∧ r.power.pwrGood = true ∧ r.boot.mgmt.1 ≠ .testing ∧
      r.boot.mgmt.2 ≠ .testing ∧ (r.bootRom r.resetFirst).boot.stage = .failed) ∧ ready.boot.mgmt.1 ≠ .testing ∧ ready.pairRuns = true ∧
    ∀ m : Mod, m.pairRuns = true → (m.slotState 0 == 2) = false → m.slotCandidates = [0] → (m.bootRom (some 0)).boot.stage ≠ .failed := by
  refine ⟨by decide +kernel, by decide +kernel, by decide +kernel, fun m h hs hc => ?_⟩
  have key := chooses_of { m with measures := List.replicate 8 (List.replicate 32 0#8) } hs
  rw [← (show ({ m with measures := List.replicate 8 (List.replicate 32 0#8) } : Mod).slotCandidates = [0] from hc)] at key
  have runs : (!({ m with measures := List.replicate 8 (List.replicate 32 0#8) } : Mod).pairRuns) = false := by
    show (!m.pairRuns) = false
    rw [h]; rfl
  unfold Mod.bootRom
  simp only [runs, key, Bool.false_eq_true, if_false]
  exact fun e => BootStage.noConfusion e

def notice0 (sent : Nat) : Notice := { kind := 1, scope := 0, side := 0, noticeId := 1, time := 0, record := 0, jobs := [], sent := sent }

theorem witness_NoticesDue : ([notice0 0, notice0 2].filter fun n => n.sent < 3 && n.time.toNat + 100000 * n.sent ≤ 199999).map (·.sent) = [0] ∧
    ([notice0 2].filter fun n => n.sent < 3 && n.time.toNat + 100000 * n.sent ≤ 200000).length = 1 := by decide +kernel

theorem witness_Complexes : (ready.boot.complex 0 = .active ∧ ready.boot.complex (1 - 0) = .standby) ∧
    (let b := { ready.boot with mgmt := (MgmtPhase.active, MgmtPhase.out) }
     b.complex 0 = .active ∧ b.complex (1 - 0) ≠ .standby ∧ b.complex 1 = .out) ∧ ready.boot.complex 1 = .standby := by decide +kernel

/-! ### Supply, power, boot -/

theorem witness_SupplyRows : State.reset.m.power.inRange = false ∧ ready.power.inRange = true ∧ 46000 ≤ 46000 ∧ 45999 < 46000 ∧
    (State.reset.m.power.pwrEn = false ∧ State.reset.m.power.standby = false) ∧
    (let p : Power := { ready.power with pwrEn := false, pwrGood := false, groups := 0 }
     p.pwrEn = false ∧ p.standby = true) ∧
    (∀ g ∈ [1, 4], let p : Power := { ready.power with pwrGood := false, groups := g - 1 }
      p.pwrEn = true ∧ p.mainEnabled = true ∧ p.pwrGood = false ∧ g = p.groups + 1) ∧ ready.boot.stage ≠ .failed ∧
    (ready.power.pwrEn = true ∧ ready.power.pwrGood = true) := by decide +kernel

/-- All sensors at 0 °C, but one at a value in eighths of a degree. -/
def temps (i : Nat) (v : Int) : List Int := (List.range 110).map fun k => if k = i then v else 0

theorem witness_PowerAndThermalRows : ready.power.pwrGood = true ∧ 46000 ≤ 47999 ∧ (temps 0 760).length = 110 ∧ ((temps 0 760).take 109).length ≠ 110 ∧
    (sensorPoints 0 = some (760, 736, 880) ∧ (temps 0 760)[0]? = some 760 ∧ (temps 0 880)[0]? = some 880) ∧ ready.power.holding = none ∧
    24 ≤ 24 ∧ 23 < 24 ∧
    (let m := { ready with power := { ready.power with holding := some (true, 3) } }
     m.power.holding = some (true, 3)) ∧
    (ready.power.released = true ∧ ready.power.throttling = false ∧
      ({ ready.power with sensors := temps 0 0 } : Power).sensors ≠ []) ∧
    ({ ready.power with released := false } : Power).released = false ∧ ready.power.belowSince = none ∧
    ({ ready.power with belowSince := some 0 } : Power).belowSince = some 0 := by decide +kernel

theorem witness_BootRows : 9 < 10 ∧ 10 ≤ 10 ∧ ready.mem.wf ∧ ready.power.pwrGood = true ∧ ready.boot.stage = .ready ∧ ready.boot.modRst = false ∧
    (∀ st ∈ [BootStage.powerGood, .resetting, .bootRom, .memoryTraining, .bist, .linkTraining],
      let m := { ready with boot := { ready.boot with stage := st, modRst := true } }
      m.boot.stage = st ∧ m.boot.modRst = true ∧ m.power.pwrGood = true) ∧ ready.boot.trainedOnce = false ∧
    ({ ready.boot with trainedOnce := true } : Boot).trainedOnce = true ∧ (bootMap [3]).getD 3 none = some 4 := by decide +kernel

theorem witness_Rails : ready.power.railUp 0 = true ∧ (∃ r < 24, ({ ready.power with groups := 0 } : Power).railUp r = false) ∧
    ready.power.holding = none ∧ 46000 ≤ 47999 := by decide +kernel

theorem witness_BootTraining : (let m := { ready with boot := { ready.boot with stage := .memoryTraining, trainedOnce := false } }
     m.boot.stage = .memoryTraining ∧ m.boot.trainedOnce = false ∧ m.mem.wf) ∧
    (bootMap []).getD 223 none = some 254 ∧ (bootMap [3, 4]).getD 6 none = none ∧ (bootMap [256].eraseDups).getD 0 none = some 0 := by decide +kernel

/-! ### Worked values of the spec -/

/-- R228's example: package 2, channel 10, unit 776. -/
theorem test_lpddrPlace : lpddrPlace 0x010001234500 = (0, 2, 10, 776) := by decide +kernel

/-- R50's example: bytes 8 to 11 hold JOB 0x2A7, INC 5 and QUEUE 9. -/
theorem test_header : ((matmul50.toBytes 0x30 0x00).drop 8).take 4 = [0xA7, 0x52, 0x90, 0x00] := by decide +kernel

/-- R565's example: lane L3 of W6 at position 30, column 11, sent on A and B and received on D and E. -/
theorem test_pins : weavePosition 6 3 = 30 ∧ pinColumn 30 = 11 ∧ pinRows 30 = (('A', 'B'), ('D', 'E')) := by decide +kernel

/-- The operation table gives no bits to any row, so no word spells a command. -/
theorem test_decodeTableWord : decodeTableWord 8 0x30 = none := by decide

theorem test_withFetchWord : State.reset.withFetchWord 8 0x30 = State.reset := by rfl

/-! ### Ill-formed commands that WellFormed refuses -/

theorem test_wf_packet : (Instr.nop { matmul50 with tag := [0] }).wf = false ∧ (Instr.nop matmul50).wf = true := by decide +kernel

theorem test_wf_port : (Instr.mark 16 0 0).wf = false ∧ (Instr.mark 15 0 0).wf = true := by decide

theorem test_wf_array : (Instr.reloadDone 1024).wf = false ∧ (Instr.reloadDone 1023).wf = true := by decide

theorem test_wf_stake : (Instr.converterMismatch 256).wf = false ∧ (Instr.preemptRequest 256).wf = false ∧
    (Instr.selfTestDone 256 true).wf = false ∧ (Instr.converterMismatch 255).wf = true := by decide

theorem test_wf_engine : (Instr.progressWatchdog (.sequencer 256)).wf = false ∧ (Instr.progressWatchdog (.slew 4)).wf = false ∧
    (Instr.progressWatchdog (.sweep 24)).wf = false ∧ (Instr.progressWatchdog (.sweep 23)).wf = true := by decide

theorem test_wf_mailbox : (Instr.registerWrite (.side 4) 0 0).wf = false ∧ (Instr.registerWrite (.small 256) 0 0).wf = false ∧
    (Instr.registerWrite .sideband 0 0).wf = true ∧ (Instr.sideMailboxRequest 4 []).wf = false ∧
    (Instr.sideMailboxRequest 3 (List.replicate 257 0)).wf = false ∧ (Instr.smallMailboxSend 0 1 32 (List.replicate 64 0)).wf = false ∧
    (Instr.smallMailboxSend 0 1 31 (List.replicate 63 0)).wf = false ∧ (Instr.smallDoorbellClear 0 32).wf = false := by decide +kernel

theorem test_wf_units : (Instr.clockLockLoss (.aclk 4)).wf = false ∧ (Instr.clockLockLoss (.mclk 2)).wf = false ∧
    (Instr.clockLockLoss .aoclk).wf = true ∧ (Instr.lockstepMismatch (.side 4)).wf = false ∧ (Instr.lockstepMismatch (.mgmt 2)).wf = false ∧
    (Instr.dupStateMismatch (.stake 256)).wf = false ∧ (Instr.dupStateMismatch (.sideUnit 4)).wf = false ∧
    (Instr.dupStateMismatch (.router 2)).wf = false ∧ (Instr.laneTest 96 false).wf = false ∧ (Instr.firmwareWatchdog 2).wf = false ∧
    (Instr.rotatingTakeover 32).wf = false ∧ (Instr.railGroupInRegulation 6).wf = false ∧ (Instr.railFault 24).wf = false ∧
    (Instr.sweepPage 24).wf = false := by decide

theorem test_wf_lengths : (Instr.trayAttest 0 (List.replicate 31 0)).wf = false ∧ (Instr.trayAttest 0 (List.replicate 32 0)).wf = true ∧
    (Instr.linkTrainingDone (List.replicate 15 ⟨[], 0, 0⟩)).wf = false ∧
    (Instr.linkTrainingDone (List.replicate 16 ⟨[], 0, 0⟩)).wf = true := by decide +kernel

end Sys2Proof.Tests
end

section
/-!
PROOFS. The order of the checks on a packet (R54): which refusal `Mod.checkPacket` answers at each of checks 5 to 8, given that the
checks before it passed, and the two forms of the control-lane rule (R51). `Mod.checkPacket` is opened by `delta`: lemmas that
elaborate side by side would otherwise all wait for its one generated equation, each holding a thread.
-/

namespace Sys2Proof.Machine

/-! ### The control-lane rule (R51) -/

section LaneRule
variable {m : Mod} {op : Op} {p : Packet}

/-- R51: a control-lane command carries CTRL and QUEUE = 0. -/
theorem Mod.laneRule_of_control (hc : op.control = true) : m.laneRule op p = true ↔ p.flag 14 = true ∧ p.queue = 0 := by
  rw [show m.laneRule op p = (p.flag 14 && p.queue == 0) from if_pos hc]
  simp

/-- R51: any other command clears CTRL, names a job, and travels on a queue that the plan of a loaded job owns. -/
theorem Mod.laneRule_of_queued (hc : op.control = false) :
    m.laneRule op p = true ↔
      p.flag 14 = false ∧ p.job ≠ 0 ∧ ∀ j, m.job? p.job.toNat = some j → j.plan.queueIds.contains p.queue.toNat = true := by
  cases hj : m.job? p.job.toNat <;> simp [Mod.laneRule, hc, hj, and_assoc]

end LaneRule

/-! ### The first check that fails answers (R54) -/

section FirstFailure
variable {m : Mod} {op : Op} {p : Packet} {ss : Session}

theorem Mod.checkPacket_of_headerReserved {o : Nat} (ho : headerReserved (some op) p = some o) :
    m.checkPacket op p ss = some (badAt o) := by
  delta Mod.checkPacket
  simp only [ho]

variable (hh : headerReserved (some op) p = none)
include hh

theorem Mod.checkPacket_of_payloadReserved {o : Nat} (ho : payloadReserved op p = some o) :
    m.checkPacket op p ss = some (badAt o) := by
  delta Mod.checkPacket
  simp only [hh, ho]

variable (hp : payloadReserved op p = none)
include hp

theorem Mod.checkPacket_of_not_laneRule (hl : ¬ m.laneRule op p = true) : m.checkPacket op p ss = some (badAt 0x04) := by
  delta Mod.checkPacket
  simp [hh, hp, hl]

variable (hl : m.laneRule op p = true)
include hl

theorem Mod.checkPacket_of_not_plenOk (hn : ¬ plenOk op p = true) : m.checkPacket op p ss = some (badAt 0x14) := by
  delta Mod.checkPacket
  simp [hh, hp, hl, hn]

theorem Mod.checkPacket_of_long_timeout (hn : plenOk op p = true) (ht : 60000000 < p.timeout.toNat) :
    m.checkPacket op p ss = some (badAt 0x10) := by
  delta Mod.checkPacket
  simp [hh, hp, hl, hn, ht]

end FirstFailure

/-- A PLEN other than the datagram's length less 64 fails check 7. -/
theorem not_plenOk_of_plen_ne {op : Op} {p : Packet} (h : p.plen.toNat ≠ p.payload.length) : ¬ plenOk op p = true := by
  simp [plenOk, h]

/-- Settles O13: the clauses follow the checks of R54 in order; each lane clause breaks the form of R51 for its kind of command. -/
theorem checkOrder : Obligations.CheckOrder := by
  intro op p ss m
  refine ⟨fun o ho => Mod.checkPacket_of_headerReserved ho, fun hh o ho => Mod.checkPacket_of_payloadReserved hh ho,
    fun hh hp => ⟨?ctrlLane, ?ctrlOnQueue, ?foreignQueue, ?plen, ?timeout⟩⟩
  case ctrlLane =>
    intro hc hbad
    refine Mod.checkPacket_of_not_laneRule hh hp fun hl => ?_
    obtain ⟨hflag, hqueue⟩ := (Mod.laneRule_of_control hc).1 hl
    simp [hflag, hqueue] at hbad
  case ctrlOnQueue =>
    intro hc hflag
    refine Mod.checkPacket_of_not_laneRule hh hp fun hl => ?_
    obtain ⟨hclear, -, -⟩ := (Mod.laneRule_of_queued hc).1 hl
    simp [hflag] at hclear
  case foreignQueue =>
    intro j hc hj hqueue
    refine Mod.checkPacket_of_not_laneRule hh hp fun hl => ?_
    obtain ⟨-, -, howned⟩ := (Mod.laneRule_of_queued hc).1 hl
    exact absurd (howned j hj) (Bool.eq_false_iff.mp hqueue)
  case plen => exact fun hl hne => Mod.checkPacket_of_not_plenOk hh hp hl (not_plenOk_of_plen_ne hne)
  case timeout => exact fun hl hn ht => Mod.checkPacket_of_long_timeout hh hp hl hn ht

end Sys2Proof.Machine
end

section
/-!
PROOFS. The architecture family: the idle step, the values at reset, lane tests, the patrol scrub and the timer copies, takeovers, and
the boot. Most of these rows write records, count, trace and send, and a statement about them asks what that leaves alone:
`Mod.standing` gathers it in one record, and one lemma per operation says that it stands.
-/

namespace Sys2Proof.Machine

/-! ### What records, counters and traffic leave standing -/

/-- The part of the module that recording, counting, tracing and sending leave alone. -/
structure Standing where
  timer : Tick
  boot : Boot
  mem : Memory
  jobs : List Job
  ties : List Tie
  policy : Option Policy
  stakeMap : List (Option Nat)
  outOfService : List Nat

def Mod.standing (m : Mod) : Standing :=
  { timer := m.timer, boot := m.boot, mem := m.mem, jobs := m.jobs, ties := m.ties
    policy := m.policy, stakeMap := m.stakeMap, outOfService := m.outOfService }

section Fields
variable {m : Mod} {x : Standing} (h : m.standing = x)
include h

theorem Mod.timer_of_standing : m.timer = x.timer := congrArg Standing.timer h
theorem Mod.boot_of_standing : m.boot = x.boot := congrArg Standing.boot h
theorem Mod.mem_of_standing : m.mem = x.mem := congrArg Standing.mem h
theorem Mod.jobs_of_standing : m.jobs = x.jobs := congrArg Standing.jobs h
theorem Mod.ties_of_standing : m.ties = x.ties := congrArg Standing.ties h
theorem Mod.policy_of_standing : m.policy = x.policy := congrArg Standing.policy h
theorem Mod.stakeMap_of_standing : m.stakeMap = x.stakeMap := congrArg Standing.stakeMap h
theorem Mod.outOfService_of_standing : m.outOfService = x.outOfService := congrArg Standing.outOfService h

end Fields

/-- What every step of a fold leaves standing, the fold does. -/
theorem foldl_standing {α : Type} {f : Mod → α → Mod} (h : ∀ m x, (f m x).standing = m.standing) (l : List α) (m : Mod) :
    (l.foldl f m).standing = m.standing := by
  induction l generalizing m with
  | nil => rfl
  | cons x l ih => rw [List.foldl_cons, ih, h]

theorem ite_standing {c : Prop} [Decidable c] {a b : Mod} {x : Standing} (ha : a.standing = x) (hb : b.standing = x) :
    (if c then a else b).standing = x := by
  split <;> assumption

section Reports
variable (m : Mod)

@[simp] theorem Mod.count_standing (k : Ctr) (n : Nat) : (m.count k n).standing = m.standing := rfl

@[simp] theorem Mod.raiseIbi_standing (b : Nat) : (m.raiseIbi b).standing = m.standing := ite_standing rfl rfl

@[simp] theorem Mod.raiseCause_standing (bit : Nat) : (m.raiseCause bit).standing = m.standing :=
  ite_standing (Mod.raiseIbi_standing _ 2) rfl

@[simp] theorem Mod.trace_standing (r : TraceRec) : (m.trace_ r).standing = m.standing :=
  ite_standing rfl (ite_standing rfl (ite_standing rfl (ite_standing rfl rfl)))

/-- A record changes the log and what reports it, and nothing else. -/
@[simp] theorem Mod.addLog_standing (r : LogRec) : (m.addLog r).standing = m.standing := by
  unfold Mod.addLog
  have htrace (x : Mod) (q : TraceRec) (b : Bytes) :
      (if r.cls = 0x40 then (x.trace_ q).extend 6 b else x.trace_ q).standing = x.standing :=
    ite_standing (Mod.trace_standing x q) (Mod.trace_standing x q)
  exact ite_standing rfl (ite_standing ((Mod.raiseCause_standing _ 0).trans (htrace _ _ _)) (htrace _ _ _))

@[simp] theorem Mod.addOpen_standing (r : LogRec) : (m.addOpen r).standing = m.standing := Mod.addLog_standing _ _

end Reports

/-- A command answers what its function of the module gives, in whatever form that is written. -/
theorem becomes_of_eq {i : Instr} {s : State} {m m' : Mod} (h : m' = m) (hb : becomes i s m') : becomes i s m := h ▸ hb

/-! ### The idle step (R35) -/

theorem Mod.leaveAtomic_standing (m : Mod) (port : Nat) (h : HeldAtomic) : (m.leaveAtomic port h).standing = m.standing :=
  ite_standing rfl rfl

theorem Mod.drainPort_standing (m : Mod) (port : Nat) : (m.drainPort port).standing = m.standing :=
  foldl_standing (f := fun m h => m.leaveAtomic port h) (fun m h => m.leaveAtomic_standing port h) _ m

theorem Mod.drainPorts_standing (m : Mod) : m.drainPorts.standing = m.standing :=
  foldl_standing Mod.drainPort_standing _ m

theorem Mod.endSession_standing (m : Mod) (sid : Nat) : (m.endSession sid).standing = m.standing := rfl

theorem Mod.closeSessions_standing (m : Mod) : m.closeSessions.standing = m.standing :=
  foldl_standing Mod.endSession_standing _ m

/-- R35, R36: a tick advances the timer when it runs, and nothing else that stands. -/
theorem Mod.tick_standing (m : Mod) :
    m.tick.standing = { m.standing with timer := if m.timerOn then m.timer + 1 else m.timer } := by
  unfold Mod.tick
  dsimp only
  rw [Mod.closeSessions_standing, Mod.drainPorts_standing]
  split <;> rfl

/-- Log 1: with nothing waiting, the step is a tick. -/
theorem step_of_idle {s : State} (h : s.pending = []) : step s = .next { s with m := s.m.tick } := by
  obtain ⟨m, pending⟩ := s
  subst h
  rfl

/-- Settles O3: with nothing waiting, the step is `Mod.tick`. -/
theorem idleStepTicks : Obligations.IdleStepTicks := by
  intro s hs
  have ht := s.m.tick_standing
  exact ⟨_, step_of_idle hs, hs, Mod.timer_of_standing ht, Mod.mem_of_standing ht, Mod.jobs_of_standing ht,
    Mod.ties_of_standing ht⟩

/-! ### The values at reset -/

/-- The 16 Weave ports after reset are DOWN. -/
theorem reset_ports_down : ∀ p ∈ State.reset.m.ports, p.state = 0 := by
  intro p hp
  obtain ⟨-, rfl⟩ := List.mem_replicate.mp (show p ∈ List.replicate 16 ({} : Port) from hp)
  rfl

/-- Settles O4: each value is the default of its field. -/
theorem resetValues : Obligations.ResetValues :=
  ⟨rfl, rfl, rfl, rfl, rfl, rfl, rfl, rfl, rfl, rfl, reset_ports_down, rfl, rfl, rfl⟩

/-! ### Lane tests and the patrol scrub (R238, R239, R242, R443, R444) -/

section LaneTest
variable {m : Mod} {ch : Nat}

/-- A test of a channel out of service changes nothing. -/
theorem Mod.laneTested_of_bad (h : m.badChannels.contains ch = true) (mismatch : Bool) : m.laneTested ch mismatch = m := by
  cases mismatch <;> exact if_pos h

theorem Mod.laneTested_clean (h : m.badChannels.contains ch = false) :
    m.laneTested ch false = ({ m with
      laneTestAt := (ch, m.now) :: m.laneTestAt.filter fun x => x.1 != ch
      channelReads := m.channelReads.filter fun r => r.1 != ch } : Mod).normLane ch := by
  simp only [Mod.laneTested, h, Bool.false_eq_true, if_false]

theorem Mod.laneTested_mismatch (h : m.badChannels.contains ch = false) :
    m.laneTested ch true = (m.laneFault ch).normLane ch := by
  simp only [Mod.laneTested, h, Bool.false_eq_true, if_false, if_true]

end LaneTest

section PatrolScrub
variable {m : Mod} {g : Nat}

theorem Mod.patrolScrub_outside (h : (regionOf (16 * g)).scrubbed = false) : m.patrolScrub g = m := by
  simp [Mod.patrolScrub, h]

variable (h : (regionOf (16 * g)).scrubbed = true)
include h

theorem Mod.patrolScrub_clean (hd : decodeWord (m.errorAt g) = .clean) : m.patrolScrub g = m := by
  simp [Mod.patrolScrub, h, hd]

theorem Mod.patrolScrub_uncorrectable (hd : decodeWord (m.errorAt g) = .uncorrectable) :
    m.patrolScrub g = (m.logRead (16 * g) none none).moveRow (16 * g) := by
  simp [Mod.patrolScrub, h, hd]

theorem Mod.patrolScrub_corrected {i e : Nat} (hd : decodeWord (m.errorAt g) = .corrected i e) :
    m.patrolScrub g =
      (((m.setError g (flipSymbol (m.errorAt g) i e)).countOwner (16 * g) .SCRUB_CORRECTED).hitRow (16 * g)).hitSram (16 * g) := by
  simp [Mod.patrolScrub, Mod.scrubWords, h, hd]

end PatrolScrub

/-! ### The timer copies (R37, R441) -/

theorem Mod.raiseIbi_log (m : Mod) (b : Nat) : (m.raiseIbi b).log = m.log := by
  unfold Mod.raiseIbi; split <;> rfl

theorem Mod.raiseCause_log (m : Mod) (bit : Nat) : (m.raiseCause bit).log = m.log := by
  unfold Mod.raiseCause Mod.setAlert
  dsimp only
  split
  · exact Mod.raiseIbi_log _ 2
  · rfl

theorem Mod.trace_log (m : Mod) (r : TraceRec) : (m.trace_ r).log = m.log := by
  unfold Mod.trace_
  dsimp only
  repeat' split
  all_goals rfl

/-- R473, R475: a detected fault is not merged: a record with its class, outcome, unit and place stands in the log. -/
theorem Mod.addLog_mem_log (m : Mod) {r : LogRec} (h : 2 ≤ r.outcome) :
    ∃ q ∈ (m.addLog r).log, q.cls = r.cls ∧ q.outcome = r.outcome ∧ q.unit = r.unit ∧ q.sub = r.sub := by
  unfold Mod.addLog
  dsimp only
  have hextend (c : Prop) [Decidable c] (x : Mod) (b : Bytes) : (if c then x.extend 6 b else x).log = x.log := by
    split <;> rfl
  rw [if_neg (by simp [show ¬ r.outcome ≤ 1 by omega]), if_pos h, Mod.raiseCause_log, hextend, Mod.trace_log]
  exact ⟨_, List.mem_append_right (lastN 3071 m.log) (List.mem_singleton.mpr rfl), rfl, rfl, rfl, rfl⟩

theorem Mod.reloadCopies_due {m : Mod} (h : m.timerReload + 65536 ≤ m.now) :
    m.reloadCopies = { m with timerDev := [], timerReload := m.now } := if_neg (Nat.not_lt.mpr h)

theorem Mod.reloadCopies_early {m : Mod} (h : m.now < m.timerReload + 65536) : m.reloadCopies = m := if_pos h

section Compare
variable {m : Mod} {copy : Nat}

/-- The module once a copy's deviation has been read: the free value that the comparison found. -/
def Mod.compared (m : Mod) (copy : Nat) : Mod :=
  { m.freeNat.2 with timerDev := (copy, zigzag m.freeNat.1) :: m.timerDev.filter fun d => d.1 != copy }

theorem Mod.deviation_compared : (m.compared copy).deviation copy = zigzag m.freeNat.1 := by
  simp [Mod.deviation, Mod.compared]

/-- R37: a copy within a tick of the master goes on. -/
theorem Mod.compareCopy_near (h : (zigzag m.freeNat.1).natAbs ≤ 1) : m.compareCopy copy = m.compared copy :=
  if_pos (c := ((m.compared copy).deviation copy).natAbs ≤ 1) (by rwa [Mod.deviation_compared])

/-- R37, R441: a copy that is off by more is a recorded fault and is reloaded. -/
theorem Mod.compareCopy_far (h : 1 < (zigzag m.freeNat.1).natAbs) :
    m.compareCopy copy =
      { (m.compared copy).addOpen { time := 0, record := 0, cls := 0x13, outcome := 2, unit := ⟨14, 0⟩, sub := copy } with
        timerDev := (m.compared copy).timerDev.filter fun d => d.1 != copy } :=
  if_neg (c := ((m.compared copy).deviation copy).natAbs ≤ 1) (by rwa [Mod.deviation_compared, Nat.not_le])

/-- A reload takes the copy's deviation out again. -/
theorem Mod.compared_timerDev_filter :
    (m.compared copy).timerDev.filter (fun d => d.1 != copy) = m.timerDev.filter fun d => d.1 != copy := by
  simp [Mod.compared]

end Compare

/-- Settles O53: clause by clause, from the equations of `Mod.laneTested`, `Mod.patrolScrub`, `Mod.reloadCopies` and
`Mod.compareCopy`. -/
theorem checkAndScrubRows : Obligations.CheckAndScrubRows := by
  refine ⟨fun s ch g => ⟨fun mismatch hbad => ?outOfService, fun hin => ⟨?clean, ?mismatch⟩, fun hr => ?outside,
    fun hr => ⟨fun hd => ?cleanWord, fun hd => ?lostWord, fun i e hd => ?correctedWord⟩⟩,
    fun s copy => ⟨fun hdue => ?reload, fun hearly => ?early, fun hoff => ?near, fun hoff => ?far⟩⟩
  case outOfService => exact becomes_of_eq (Mod.laneTested_of_bad hbad mismatch) rfl
  case clean => exact becomes_of_eq (Mod.laneTested_clean hin) rfl
  case mismatch => exact becomes_of_eq (Mod.laneTested_mismatch hin) rfl
  case outside => exact becomes_of_eq (Mod.patrolScrub_outside hr) rfl
  case cleanWord => exact becomes_of_eq (Mod.patrolScrub_clean hr hd) rfl
  case lostWord => exact becomes_of_eq (Mod.patrolScrub_uncorrectable hr hd) rfl
  case correctedWord => exact becomes_of_eq (Mod.patrolScrub_corrected hr hd) rfl
  case reload => exact becomes_of_eq (Mod.reloadCopies_due hdue) rfl
  case early => exact becomes_of_eq (Mod.reloadCopies_early hearly) rfl
  case near => exact becomes_of_eq (Mod.compareCopy_near hoff) rfl
  case far =>
    refine next_of_lift (f := fun m => m.compareCopy copy) rfl ?_
    rw [Mod.compareCopy_far hoff]
    exact ⟨Mod.compared_timerDev_filter, Mod.timer_of_standing (Mod.addOpen_standing _ _), Mod.addLog_mem_log _ (Nat.le_refl 2)⟩


/-! ### Takeovers of stakes (R40, R464–R469) -/

section Stakes
variable {m : Mod} {rib : Nat}

theorem Mod.rotate_of_no_rib (h : m.rib? rib = none) : m.rotate rib = m := by
  simp only [Mod.rotate, h]

theorem Mod.moveDone_of_no_rib (h : m.rib? rib = none) : m.moveDone rib = m := by
  simp only [Mod.moveDone, h]

theorem Mod.selfTested_of_no_rib {phys : Nat} (h : m.rib? (phys / 8) = none) (pass : Bool) : m.selfTested phys pass = m := by
  simp only [Mod.selfTested, h]

variable {r : RibState}

theorem Mod.moveDone_testing (h : m.rib? rib = some r) (ht : r.testing = true) : m.moveDone rib = m := by
  simp only [Mod.moveDone, h, ht, if_true]

theorem Mod.moveDone_untested (h : m.rib? rib = some r) (ht : r.testing = false) : m.moveDone rib = m.finishMove rib := by
  simp only [Mod.moveDone, h, ht, Bool.false_eq_true, if_false]

theorem Mod.rotate_of_no_spare (h : m.rib? rib = some r) (hs : r.spare = none) : m.rotate rib = m := by
  simp only [Mod.rotate, h, hs]
  split
  · contradiction
  · rfl

/-- R466: the stake that has served longest moves to a healthy spare when the rib is due and the other ribs of its Side are at
rest for ten minutes. -/
theorem Mod.rotate_moves {sp p t0 l : Nat} {rest : List (Nat × Nat)} (h : m.rib? rib = some r) (hs : r.spare = some sp)
    (ht : r.testing = false) (hm : r.moving = none) (ho : m.outOfService.contains sp = false)
    (hold : sortBy (fun (a b : Nat × Nat) => a.2 ≤ b.2) (r.since.filter fun x => (m.logicalOf x.1).isSome) = (p, t0) :: rest)
    (hl : m.logicalOf p = some l) (hdue : (r.since.map (·.2)).foldl Nat.max 0 + 1050000000000 ≤ m.now)
    (hclear : ∀ x ∈ m.ribs, x.rib = rib ∨ x.rib / 8 ≠ rib / 8 ∨
      (x.moving = none ∧ (x.since.map (·.2)).foldl Nat.max 0 + 60000000000 ≤ m.now)) :
    m.rotate rib = m.beginMove l sp := by
  have hall : (m.ribs.all fun x => x.rib == rib || x.rib / 8 != rib / 8 ||
      (x.moving.isNone && (x.since.map (·.2)).foldl Nat.max 0 + 60000000000 ≤ m.now)) = true := by
    simpa [List.all_eq_true, or_assoc] using hclear
  simp only [Mod.rotate, h, hold, hs, hl]
  simp only [hall, hdue, ht, hm, ho, decide_true, Option.isNone_none, Bool.not_false, Bool.and_self, if_true]

end Stakes

section SelfTest
variable {m : Mod} {phys : Nat} {r : RibState} (h : m.rib? (phys / 8) = some r)
include h

theorem Mod.selfTested_untested (ht : r.testing = false) (pass : Bool) : m.selfTested phys pass = m := by
  simp [Mod.selfTested, h, ht]

variable (ht : r.testing = true) (hs : r.spare = some phys) (hm : r.moving = none)
include ht hs hm

/-- R466: a spare at rest that passes its test stays the spare. -/
theorem Mod.selfTested_passes :
    m.selfTested phys true =
      ((((m.count .SELF_TESTS).updRib (phys / 8) fun x => { x with testing := false }).repairSram
        fun x => x == phys).endStakeBist phys true 0) := by
  simp [Mod.selfTested, h, ht, hs, hm]

/-- R464, R469: a spare at rest that fails it is recorded and taken out of service. -/
theorem Mod.selfTested_fails :
    m.selfTested phys false =
      (((((m.count .SELF_TESTS).updRib (phys / 8) fun x => { x with testing := false }).count .SELF_TEST_FAILS).addOpen
        { time := 0, record := 0, cls := 0x30, outcome := 6, unit := ⟨1, phys⟩ }).takeOut phys).endStakeBist phys false m.record := by
  simp [Mod.selfTested, h, ht, hs, hm]

end SelfTest

/-! ### Takeovers of management pairs (R455) -/

theorem Mod.addOpen_boot (m : Mod) (r : LogRec) : (m.addOpen r).boot = m.boot := Mod.boot_of_standing (m.addOpen_standing r)

theorem Mod.raiseCause_alertCause (m : Mod) (bit : Nat) :
    (m.raiseCause bit).alertCause = m.alertCause ||| BitVec.ofNat 8 (2 ^ bit) := by
  unfold Mod.raiseCause Mod.setAlert Mod.raiseIbi
  dsimp only
  repeat' split
  all_goals rfl

section Pairs
variable {m : Mod} {border : Nat}

theorem Mod.mgmtTested_untested (h : m.boot.complex border ≠ .testing) (pass : Bool) : m.mgmtTested border pass = m := by
  simp [Mod.mgmtTested, h]

theorem Mod.mgmtTested_passes (h : m.boot.complex border = .testing) :
    m.mgmtTested border true = { m with boot := m.boot.setComplex border .standby } := by
  simp [Mod.mgmtTested, h]

/-- A pair that fails its test is out, and raises its alert cause. -/
theorem Mod.mgmtTested_fails (h : m.boot.complex border = .testing) :
    (m.mgmtTested border false).boot = m.boot.setComplex border .out ∧
      (m.mgmtTested border false).alertCause.getLsbD 3 = true := by
  have heq : m.mgmtTested border false =
      let x := m.addOpen { time := 0, record := 0, cls := 0x30, outcome := 6, unit := ⟨10, border⟩ }
      ({ x with boot := x.boot.setComplex border .out } : Mod).raiseCause 3 := by
    simp [Mod.mgmtTested, h]
  rw [heq]
  refine ⟨(Mod.boot_of_standing (Mod.raiseCause_standing _ 3)).trans ?_, ?_⟩
  · exact congrArg (Boot.setComplex · border .out) (Mod.addOpen_boot m _)
  · simp [Mod.raiseCause_alertCause]

variable {cls : Nat}

/-- R455: the standby takes over from an active pair that fails. -/
theorem Mod.mgmtFails_hands_over (h : m.boot.complex border = .active) (ho : m.boot.complex (1 - border) = .standby) :
    m.mgmtFails border cls =
      (m.addOpen { time := 0, record := 0, cls := cls, outcome := 7, unit := ⟨10, border⟩ }).takeover border m.record none := by
  simp [Mod.mgmtFails, h, Mod.addOpen_boot, ho]

/-- R455: without a standby, the module resets. -/
theorem Mod.mgmtFails_resets (h : m.boot.complex border = .active) (ho : m.boot.complex (1 - border) ≠ .standby) :
    m.mgmtFails border cls =
      (m.addOpen { time := 0, record := 0, cls := cls, outcome := 7, unit := ⟨10, border⟩ }).startLevel 4 0 none := by
  simp [Mod.mgmtFails, h, Mod.addOpen_boot, ho]

/-- A standby pair that fails leaves for its self-test. -/
theorem Mod.mgmtFails_standby (h : m.boot.complex border = .standby) :
    m.mgmtFails border cls =
      let x := m.addOpen { time := 0, record := 0, cls := cls, outcome := 2, unit := ⟨10, border⟩ }
      { x with boot := x.boot.setComplex border .testing } := by
  simp only [Mod.mgmtFails, h]

theorem Mod.mgmtFails_out (h : m.boot.complex border = .out) : m.mgmtFails border cls = m := by
  simp only [Mod.mgmtFails, h]

end Pairs

/-- Settles O57: clause by clause, from the equations of `Mod.rotate`, `Mod.moveDone`, `Mod.selfTested`, `Mod.mgmtTested` and
`Mod.mgmtFails`. -/
theorem takeoverRows : Obligations.TakeoverRows := by
  intro s rib phys pass
  refine ⟨fun hr => ⟨?noRib, ?noMove⟩, fun r hr => ⟨fun hs => ?noSpare, fun sp p t0 rest l hs ht hm ho hold hl hdue hclear => ?rotates,
    fun ht => ?moveTesting, fun ht => ?moveEnds⟩, fun hr => ?noTestRib, fun r hr => ⟨fun ht => ?noTest, fun ht hs hm => ⟨?passes, ?fails⟩⟩,
    fun hc => ?pairUntested, fun hc => ⟨?pairPasses, ?pairFails⟩, fun hc ho => ?handsOver, fun hc ho => ?resets, fun hc => ?standby,
    fun hc => ?pairOut⟩
  case noRib => exact becomes_of_eq (Mod.rotate_of_no_rib hr) rfl
  case noMove => exact becomes_of_eq (Mod.moveDone_of_no_rib hr) rfl
  case noSpare => exact becomes_of_eq (Mod.rotate_of_no_spare hr hs) rfl
  case rotates => exact becomes_of_eq (Mod.rotate_moves hr hs ht hm ho hold hl hdue hclear) rfl
  case moveTesting => exact becomes_of_eq (Mod.moveDone_testing hr ht) rfl
  case moveEnds => exact becomes_of_eq (Mod.moveDone_untested hr ht) rfl
  case noTestRib => exact becomes_of_eq (Mod.selfTested_of_no_rib hr pass) rfl
  case noTest => exact becomes_of_eq (Mod.selfTested_untested hr ht pass) rfl
  case passes => exact becomes_of_eq (Mod.selfTested_passes hr ht hs hm) rfl
  case fails => exact becomes_of_eq (Mod.selfTested_fails hr ht hs hm) rfl
  case pairUntested => exact becomes_of_eq (Mod.mgmtTested_untested hc pass) rfl
  case pairPasses => exact becomes_of_eq (Mod.mgmtTested_passes hc) rfl
  case pairFails => exact next_of_lift (f := fun m => m.mgmtTested rib false) rfl (Mod.mgmtTested_fails hc)
  case handsOver => exact becomes_of_eq (Mod.mgmtFails_hands_over (m := s.m.count .HANGS) hc ho) rfl
  case resets => exact becomes_of_eq (Mod.mgmtFails_resets (m := s.m.count .HANGS) hc ho) rfl
  case standby => exact becomes_of_eq (Mod.mgmtFails_standby (m := s.m.count .HANGS) hc) rfl
  case pairOut => exact becomes_of_eq (Mod.mgmtFails_out (m := s.m.count .HANGS) hc) rfl


/-! ### MOD_RST_N (R484, R486) -/

section Rst
variable {m : Mod} {micros : Nat}

theorem Mod.rstAsserted_ignored (h : micros < 10 ∨ m.power.pwrGood = false) : m.rstAsserted micros = m :=
  if_pos (by simpa using h)

theorem Mod.rstReleased_ignored {wakeLow ok0 ok1 : Bool} (h : m.boot.modRst = false ∨ m.power.pwrGood = false) :
    m.rstReleased wakeLow ok0 ok1 = m :=
  if_pos (by simpa using h)

section Asserted
variable (hm : 10 ≤ micros) (hp : m.power.pwrGood = true)
include hm hp

/-- Before the boot has begun, an assertion only holds it. -/
theorem Mod.rstAsserted_powerGood (h : m.boot.stage = .powerGood) :
    m.rstAsserted micros = { m with boot := { m.boot with modRst := true } } := by
  simp [Mod.rstAsserted, Nat.not_lt.mpr hm, hp, h]

/-- R486: from READY on, an assertion is a Module reset. -/
theorem Mod.rstAsserted_ready (h : m.boot.stage = .ready ∨ m.boot.stage = .resetting) :
    m.rstAsserted micros = ({ m with boot := { m.boot with modRst := true } } : Mod).startLevel 4 0 none := by
  rcases h with h | h <;> simp [Mod.rstAsserted, Nat.not_lt.mpr hm, hp, h]

/-- R486: before READY, an assertion restarts the boot at the boot ROM. -/
theorem Mod.rstAsserted_restarts (h : m.boot.stage ∈ [.bootRom, .memoryTraining, .bist, .linkTraining]) :
    m.rstAsserted micros = { m with boot := { m.boot with modRst := true, stage := .bootRom, noFirmware := true } } := by
  simp only [List.mem_cons, List.not_mem_nil, or_false] at h
  rcases h with h | h | h | h <;> simp [Mod.rstAsserted, Nat.not_lt.mpr hm, hp, h]

end Asserted

section Released
variable {wakeLow ok0 ok1 : Bool} (hr : m.boot.modRst = true) (hp : m.power.pwrGood = true)
include hr hp

/-- R484: the release tests the pairs and runs the boot ROM. -/
theorem Mod.rstReleased_boots (h : m.boot.stage = .powerGood ∨ m.boot.stage = .bootRom) :
    m.rstReleased wakeLow ok0 ok1 =
      (({ m with boot := { m.boot with modRst := false, wakeLow := wakeLow } } : Mod).testPairs ok0 ok1).bootRom none := by
  rcases h with h | h <;> simp [Mod.rstReleased, hr, hp, h]

/-- During a Module reset the release tests the pairs. -/
theorem Mod.rstReleased_resetting (h : m.boot.stage = .resetting) :
    m.rstReleased wakeLow ok0 ok1 =
      ({ m with boot := { m.boot with modRst := false, wakeLow := wakeLow } } : Mod).testPairs ok0 ok1 := by
  simp [Mod.rstReleased, hr, hp, h]

end Released
end Rst

/-! ### Memory training (R240, R243) -/

/-- What is kept of a memory reads as before. -/
theorem Memory.get_filter {m : Memory} (h : m.wf) {p : Host.Cell → Bool} {a : Nat} (hp : ∀ b, p (a, b) = true) :
    Memory.get (m.filter p) a = m.get a := by
  induction m with
  | nil => rfl
  | cons c m ih =>
    obtain ⟨x, b⟩ := c
    obtain ⟨hab, -, hm⟩ := Memory.wf_cons.mp h
    have ih := ih hm
    rw [List.filter_cons]
    split
    · simp only [Memory.get, ih]
    · next hdrop =>
      have hne : x ≠ a := by rintro rfl; exact hdrop (hp b)
      rw [ih]
      simp only [Memory.get, if_neg hne]
      split
      · next hlt => exact Memory.get_above hab hlt.le
      · rfl

section Training
variable (m : Mod)

@[simp] theorem Mod.sparesGone_standing (r : Nat × Nat) : (m.sparesGone r).standing = m.standing := by
  unfold Mod.sparesGone
  exact ite_standing ((Mod.raiseCause_standing _ _).trans (Mod.addLog_standing _ _)) rfl

theorem Mod.laneFails_standing (pc lane : Nat) : (m.laneFails pc lane).standing = m.standing := by
  unfold Mod.laneFails
  exact ite_standing rfl (ite_standing ((Mod.raiseCause_standing _ _).trans (Mod.addLog_standing _ _)) rfl)

theorem Mod.repairRows_standing : m.repairRows.standing = m.standing := by
  unfold Mod.repairRows
  refine foldl_standing (fun m r => ?_) _ m
  exact ite_standing rfl (ite_standing (Mod.sparesGone_standing _ r) rfl)

theorem Mod.trainMemory_standing (lanes : List (Nat × Nat)) : (m.trainMemory lanes).standing = m.standing :=
  (Mod.repairRows_standing _).trans (foldl_standing (fun m (x : Nat × Nat) => m.laneFails_standing x.1 x.2) _ m)

/-- R240: after training the boot goes on to BIST, and the first training leaves +0 in the tiers. -/
theorem Mod.memoryTrained_standing {m : Mod} (h : m.boot.stage = .memoryTraining) (lanes : List (Nat × Nat)) :
    (m.memoryTrained lanes).standing = { m.standing with
      boot := { m.boot with stage := .bist, trainedOnce := true }
      mem := if m.boot.trainedOnce then m.mem else m.mem.filter fun c => !(regionOf c.1).dram } := by
  have ht := m.trainMemory_standing lanes
  have hb : (m.trainMemory lanes).boot = m.boot := Mod.boot_of_standing ht
  unfold Mod.memoryTrained
  rw [if_neg (by simp [h])]
  dsimp only
  rw [hb]
  generalize m.trainMemory lanes = t at ht
  cases m.boot.trainedOnce
  · exact congrArg (fun x : Standing => { x with
      boot := { x.boot with stage := .bist, trainedOnce := true }, mem := x.mem.filter fun c => !(regionOf c.1).dram }) ht
  · exact congrArg (fun x : Standing => { x with boot := { x.boot with stage := .bist, trainedOnce := true } }) ht

/-- The memory after the first training holds no cell of a tier. -/
theorem not_dram_of_mem_filter {mem : Memory} {c : Host.Cell} (h : c ∈ mem.filter fun c => !(regionOf c.1).dram) :
    (regionOf c.1).dram = false := by
  simpa using (List.mem_filter.mp h).2

/-- Training leaves the memories outside the tiers as they read. -/
theorem Mod.memoryTrained_get {m : Mod} (h : m.boot.stage = .memoryTraining) (lanes : List (Nat × Nat)) (hwf : m.mem.wf) {a : Nat}
    (ha : (regionOf a).dram = false) : (m.memoryTrained lanes).mem.get a = m.mem.get a := by
  rw [Mod.mem_of_standing (Mod.memoryTrained_standing h lanes)]
  dsimp only
  split
  · rfl
  · exact Memory.get_filter hwf fun _ => by simp [ha]

end Training

/-! ### The map of stakes (R38) -/

/-- An entry of a table of rows of seven. -/
theorem getElem?_flatMap_sevens {α : Type} (f : Nat → Nat → α) (n l : Nat) :
    ((List.range n).flatMap fun g => (List.range 7).map (f g))[l]? = if l < 7 * n then some (f (l / 7) (l % 7)) else none := by
  induction n with
  | zero => simp
  | succ n ih =>
    have hlen : ((List.range n).flatMap fun g => (List.range 7).map (f g)).length = 7 * n := by
      simp [List.length_flatMap, Nat.mul_comm]
    rw [List.range_succ (n := n), List.flatMap_append, List.getElem?_append, hlen, ih, List.flatMap_singleton, List.getElem?_map]
    by_cases hlt : l < 7 * n
    · rw [if_pos hlt, if_pos hlt, if_pos (by omega)]
    · rw [if_neg hlt]
      by_cases hrow : l < 7 * (n + 1)
      · obtain ⟨hdiv, hmod⟩ : l / 7 = n ∧ l % 7 = l - 7 * n := by omega
        rw [if_pos hrow, List.getElem?_range (by omega), hdiv, hmod]
        rfl
      · rw [if_neg hrow, List.getElem?_eq_none (by simp; omega)]
        rfl

/-- A logical stake stands at a serving slot of its rib, when there is one left for it. -/
theorem bootMap_getD (failed : List Nat) (l : Nat) :
    (bootMap failed).getD l none =
      if l < 224 then ((servingSlots failed (l / 7))[l % 7]?).map fun s => 8 * (l / 7) + s else none := by
  rw [List.getD_eq_getElem?_getD, bootMap, getElem?_flatMap_sevens]
  split <;> rfl

/-- A rib without failed stakes serves from its first seven slots. -/
theorem servingSlots_nil (g : Nat) : servingSlots [] g = List.range 7 := rfl

theorem bootMap_nil {l : Nat} (h : l < 224) : (bootMap []).getD l none = some (8 * (l / 7) + l % 7) := by
  rw [bootMap_getD, if_pos h, servingSlots_nil, List.getElem?_range (Nat.mod_lt l (by decide))]
  rfl

/-- The map names no failed stake, and keeps each number in its rib. -/
theorem bootMap_serves {failed : List Nat} {l p : Nat} (h : (bootMap failed).getD l none = some p) : p ∉ failed ∧ p / 8 = l / 7 := by
  rw [bootMap_getD] at h
  split at h
  · obtain ⟨s, hs, rfl⟩ := Option.map_eq_some_iff.mp h
    obtain ⟨hslot, hserves⟩ := List.mem_filter.mp (List.mem_of_getElem? hs)
    have hlt := List.mem_range.mp hslot
    simp only [Bool.and_eq_true, Bool.not_eq_true', List.contains_eq_mem, decide_eq_false_iff_not] at hserves
    exact ⟨hserves.1, by omega⟩
  · cases h

/-! ### The boot BIST (R38, R39, R484) -/

section Bist
variable (m : Mod)

theorem Mod.scrubWords_standing (gs : List Nat) : (m.scrubWords gs).standing = m.standing := by
  refine foldl_standing (fun m g => ?_) gs m
  split <;> rfl

theorem Mod.repairSram_standing (p : Nat → Bool) : (m.repairSram p).standing = m.standing := by
  refine foldl_standing (fun m r => ite_standing rfl (ite_standing rfl ?_)) _ m
  rw [Mod.count_standing, Mod.addOpen_standing]
  exact Mod.scrubWords_standing m _

/-- The module once the map of the boot BIST stands, its failures are recorded and its repairs are in. -/
def Mod.mapped (m : Mod) (failed : List Nat) : Mod :=
  let m := { m with stakeMap := bootMap failed, ribs := bootRibs failed m.now, outOfService := failed, arrays := [] }
  let m := failed.foldl (fun m p =>
    ((m.addOpen { time := 0, record := 0, cls := 0x30, outcome := 6, unit := ⟨1, p⟩ }).count .SELF_TEST_FAILS).count .STAKES_OUT) m
  let m := (bootMap failed).zipIdx.foldl (fun m (x, l) =>
    if x.isNone then
      m.addLog { time := 0, record := 0, cls := 0x32, outcome := 6, unit := ⟨2, l / 7⟩, logical := l, info0 := l }
    else m) (m.count .SELF_TESTS 256)
  m.repairSram fun _ => true

theorem Mod.mapped_standing (failed : List Nat) :
    (m.mapped failed).standing = { m.standing with stakeMap := bootMap failed, outOfService := failed } := by
  unfold Mod.mapped
  dsimp only
  rw [Mod.repairSram_standing, foldl_standing, Mod.count_standing, foldl_standing]
  · rfl
  · intro m p
    rw [Mod.count_standing, Mod.count_standing, Mod.addOpen_standing]
  · exact fun m x => ite_standing (Mod.addLog_standing _ _) rfl

variable {m}

theorem Mod.bootTested_eq (h : m.boot.stage = .bist) (stakes : List Nat) :
    m.bootTested stakes =
      let t := m.mapped (stakes.filter (· < 256)).eraseDups
      let t := if m.bootLevel = 2 then t.fillWhere fun r => r.dram || r.sram else if m.bootLevel = 1 then t.fillWhere Region.sram else t
      { t with boot := { t.boot with stage := .linkTraining, bistOnce := none } } :=
  if_neg (by simp [h])

/-- The fill of the tested memories changes the memory only. -/
theorem Mod.bootTested_standing (h : m.boot.stage = .bist) (stakes : List Nat) :
    (m.bootTested stakes).standing = { m.standing with
      boot := { m.boot with stage := .linkTraining, bistOnce := none }
      mem := (m.bootTested stakes).mem
      stakeMap := bootMap (stakes.filter (· < 256)).eraseDups
      outOfService := (stakes.filter (· < 256)).eraseDups } := by
  have ht := m.mapped_standing (stakes.filter (· < 256)).eraseDups
  rw [Mod.bootTested_eq h]
  generalize (stakes.filter (· < 256)).eraseDups = failed at *
  generalize m.mapped failed = t at *
  dsimp only
  have hkeep (mem : Memory) := congrArg (fun x : Standing => { x with
    boot := { x.boot with stage := .linkTraining, bistOnce := none }, mem := mem }) ht
  split
  · exact hkeep _
  · split <;> exact hkeep _

end Bist

/-! ### Link training (R399, R435, R490) -/

section Links
variable (m : Mod)

theorem Mod.logLink_standing (cls outcome i lane : Nat) : (m.logLink cls outcome i lane).standing = m.standing :=
  Mod.addLog_standing m _

theorem Mod.spareIn_standing (u : UnitRef) (sub : Nat) : (m.spareIn u sub).standing = m.standing := Mod.addOpen_standing m _

theorem Mod.narrow_standing (i lane : Nat) : (m.narrow i lane).standing = m.standing :=
  ite_standing (Mod.logLink_standing _ _ _ _ _) ((Mod.raiseCause_standing _ _).trans (Mod.logLink_standing _ _ _ _ _))

theorem Mod.trainPort_standing (i : Nat) (t : PortTrain) : (m.trainPort i t).standing = m.standing :=
  ite_standing rfl (ite_standing rfl (ite_standing (Mod.spareIn_standing _ _ _) (Mod.narrow_standing _ _ _)))

/-- R436: the roster in use says of the boot only whether the module is quarantined. -/
theorem Mod.useRoster_standing (epoch : Nat) (rs : List RosterRec) :
    ∃ q, (m.useRoster epoch rs).standing = { m.standing with boot := { m.boot with quarantined := q } } := by
  unfold Mod.useRoster
  split
  · next r _ => exact ⟨r.state == 3, rfl⟩
  · exact ⟨m.boot.quarantined, rfl⟩

/-- R490: Pholer's policy says of the boot whether the module is unclaimed and, by its roster, whether it is quarantined. -/
theorem Mod.policyUp_standing :
    ∃ q, m.policyUp.standing = { m.standing with boot := { m.boot with unclaimed := m.policy.isNone, quarantined := q } } := by
  unfold Mod.policyUp
  split
  · next hp =>
    rw [show m.policy.isNone = true by rw [hp]; rfl]
    exact ⟨m.boot.quarantined, rfl⟩
  · next p hp =>
    rw [show m.policy.isNone = false by rw [hp]; rfl]
    dsimp only
    split <;> exact Mod.useRoster_standing _ _ _

theorem Mod.takeRole_standing : m.takeRole.standing = m.standing :=
  ite_standing rfl (ite_standing ((Mod.raiseCause_standing _ _).trans (Mod.addOpen_standing _ _)) rfl)

theorem Mod.confirmSlot_standing : m.confirmSlot.standing = m.standing := rfl

theorem Mod.challenge_standing (x : Nat) : (m.challenge x).standing = m.standing := rfl

theorem Mod.challengeAll_standing : m.challengeAll.standing = m.standing :=
  ite_standing rfl (foldl_standing Mod.challenge_standing _ m)

/-- R490: link training ends in READY, claimed when a policy is installed. -/
theorem Mod.linksTrained_standing {m : Mod} (h : m.boot.stage = .linkTraining) (ts : List PortTrain) :
    ∃ q, (m.linksTrained ts).standing = { m.standing with
      boot := { m.boot with stage := .ready, woken := [], unclaimed := m.policy.isNone, quarantined := q } } := by
  have ht : ((ts.take 16).zipIdx.foldl (fun m (t, i) => m.trainPort i t) m).standing = m.standing :=
    foldl_standing (fun m (x : PortTrain × Nat) => m.trainPort_standing x.2 x.1) _ m
  unfold Mod.linksTrained
  rw [if_neg (by simp [h])]
  dsimp only
  rw [Mod.challengeAll_standing]
  generalize List.foldl _ m _ = t at ht ⊢
  generalize hu : ({ t with eth := t.eth.map fun (p : EthPort) => { p with up := true } } : Mod) = u
  have hut : u.standing = m.standing := by rw [← hu]; exact ht
  obtain ⟨q, hpol⟩ := u.policyUp_standing
  have hup := (Mod.confirmSlot_standing _).trans ((Mod.takeRole_standing _).trans hpol)
  refine ⟨q, (congrArg (fun x : Standing => { x with boot := { x.boot with stage := .ready, woken := [] } }) hup).trans ?_⟩
  exact congrArg (fun x : Standing => { x with boot := { x.boot with
    stage := .ready, woken := [], unclaimed := x.policy.isNone, quarantined := q } }) hut

theorem Mod.memoryTrained_elsewhere {m : Mod} (h : m.boot.stage ≠ .memoryTraining) (lanes : List (Nat × Nat)) :
    m.memoryTrained lanes = m := if_pos (by simpa using h)

theorem Mod.bootTested_elsewhere {m : Mod} (h : m.boot.stage ≠ .bist) (stakes : List Nat) : m.bootTested stakes = m :=
  if_pos (by simpa using h)

theorem Mod.linksTrained_elsewhere {m : Mod} (h : m.boot.stage ≠ .linkTraining) (ts : List PortTrain) : m.linksTrained ts = m :=
  if_pos (by simpa using h)

end Links

/-- Settles O60: clause by clause. MOD_RST_N has an equation for each stage; for the three ends of training and test,
what they leave standing says the rest. -/
theorem bootRows : Obligations.BootRows := by
  intro s micros wakeLow ok0 ok1 lanes failed ports
  refine ⟨fun hi => ?assertIgnored, fun hm hp => ⟨fun h => ?assertBefore, fun h => ?assertReady, fun h => ?assertRestarts⟩,
    fun hi => ?releaseIgnored, fun hr hp => ⟨fun h => ?releaseBoots, fun h => ?releaseResetting⟩, rfl,
    fun h => ?noTraining, fun h => ?training, fun h => ?noBist, fun h => ?bist, fun l hl => bootMap_nil hl,
    fun l p h => bootMap_serves h, fun h => ?noLinks, fun h => ?links⟩
  case assertIgnored => exact becomes_of_eq (Mod.rstAsserted_ignored hi) rfl
  case assertBefore => exact becomes_of_eq (Mod.rstAsserted_powerGood hm hp h) rfl
  case assertReady => exact becomes_of_eq (Mod.rstAsserted_ready hm hp h) rfl
  case assertRestarts => exact becomes_of_eq (Mod.rstAsserted_restarts hm hp h) rfl
  case releaseIgnored => exact becomes_of_eq (Mod.rstReleased_ignored hi) rfl
  case releaseBoots => exact becomes_of_eq (Mod.rstReleased_boots hr hp h) rfl
  case releaseResetting => exact becomes_of_eq (Mod.rstReleased_resetting hr hp h) rfl
  case noTraining => exact becomes_of_eq (Mod.memoryTrained_elsewhere h lanes) rfl
  case noBist => exact becomes_of_eq (Mod.bootTested_elsewhere h failed) rfl
  case noLinks => exact becomes_of_eq (Mod.linksTrained_elsewhere h ports) rfl
  case training =>
    refine next_of_lift (f := fun m => m.memoryTrained lanes) rfl ?_
    have ht := Mod.memoryTrained_standing h lanes
    have hboot := Mod.boot_of_standing ht
    have hmem := Mod.mem_of_standing ht
    refine ⟨congrArg Boot.stage hboot, congrArg Boot.trainedOnce hboot, fun hOnce => hmem.trans (if_pos hOnce), fun hOnce c hc => ?_,
      fun hwf a ha => Mod.memoryTrained_get h lanes hwf ha⟩
    exact not_dram_of_mem_filter ((hmem.trans (if_neg (by simp [hOnce]))) ▸ hc)
  case bist =>
    refine next_of_lift (f := fun m => m.bootTested failed) rfl ?_
    have ht := Mod.bootTested_standing h failed
    have hboot := Mod.boot_of_standing ht
    exact ⟨congrArg Boot.stage hboot, Mod.stakeMap_of_standing ht, Mod.outOfService_of_standing ht, congrArg Boot.bistOnce hboot⟩
  case links =>
    refine next_of_lift (f := fun m => m.linksTrained ports) rfl ?_
    obtain ⟨q, ht⟩ := Mod.linksTrained_standing h ports
    have hboot := Mod.boot_of_standing ht
    exact ⟨congrArg Boot.stage hboot, congrArg Boot.unclaimed hboot, Mod.policy_of_standing ht, Mod.jobs_of_standing ht,
      Mod.mem_of_standing ht⟩

end Sys2Proof.Machine
end

section
/-!
PROOFS. A command packet as bytes (R7, R47, R50): little-endian fields read back, word by word, and so does the packet.
-/

namespace Sys2Proof.Machine

theorem leBytes_length (k n : Nat) : (leBytes k n).length = k := by
  induction k generalizing n with
  | zero => rfl
  | succ k ih => simp [leBytes, ih]

/-- R7: little-endian bytes hold the number that they were made of, as far as they reach. -/
theorem leNat_leBytes (k n : Nat) : leNat (leBytes k n) = n % 256 ^ k := by
  induction k generalizing n with
  | zero => simp [leBytes, leNat, Nat.mod_one]
  | succ k ih => rw [leBytes, leNat, ih, BitVec.toNat_ofNat, Nat.pow_succ' (n := k), Nat.mod_mul]

/-- The bytes of a field that stands at the front. -/
theorem leNat_take_leBytes (k n : Nat) (c : Bytes) : leNat ((leBytes k n ++ c).take k) = n % 256 ^ k := by
  rw [List.take_left' (leBytes_length k n), leNat_leBytes]

@[simp] theorem word32_front (n : Nat) (c : Bytes) : word32 (leBytes 4 n ++ c) 0 = n % 2 ^ 32 := leNat_take_leBytes 4 n c

@[simp] theorem drop_behind_word (n off : Nat) (c : Bytes) : (leBytes 4 n ++ c).drop (off + 4) = c.drop off := by
  rw [Nat.add_comm, ← List.drop_drop, List.drop_left' (leBytes_length 4 n)]

@[simp] theorem word32_behind (n off : Nat) (c : Bytes) : word32 (leBytes 4 n ++ c) (off + 4) = word32 c off := by
  simp [word32]

end Sys2Proof.Machine

namespace Sys2Proof

open Sys2Proof.Machine

/-- R47: a datagram is its ten header words, the handle, the tag and the payload, one behind the other. -/
theorem Packet.toBytes_eq (p : Packet) (major variant : Nat) :
    p.toBytes major variant =
      leBytes 4 (p.magic.toNat + p.version.toNat * 2 ^ 16 + p.hlen.toNat * 2 ^ 24) ++
      (leBytes 4 (major % 256 + variant % 256 * 256 + (if p.quiet then 65536 else 0) + p.flags.toNat * 2 ^ 17) ++
      (leBytes 4 (p.job.toNat + p.inc.toNat * 2 ^ 12 + p.queue.toNat * 2 ^ 20 + p.resv.toNat * 2 ^ 26) ++
      (leBytes 4 p.seq.toNat ++ (leBytes 4 p.timeout.toNat ++ (leBytes 4 p.plen.toNat ++
      (leBytes 4 p.wait0.toNat ++ (leBytes 4 p.wait1.toNat ++ (leBytes 4 p.sig0.toNat ++
      (leBytes 4 p.sig1.toNat ++ (leBytes 8 p.handle.toNat ++ (p.tag ++ p.payload))))))))))) := by
  unfold Packet.toBytes Packet.header
  rw [List.take_left' (by simp [leBytes_length])]
  simp only [List.append_assoc]

theorem ofNat_eq_of_toNat {w n : Nat} {x : BitVec w} (h : n % 2 ^ w = x.toNat) : BitVec.ofNat w n = x :=
  BitVec.eq_of_toNat_eq (by rw [BitVec.toNat_ofNat, h])

theorem ofNat_toNat_mod {w : Nat} (x : BitVec w) : BitVec.ofNat w (x.toNat % 2 ^ w) = x :=
  ofNat_eq_of_toNat (by rw [Nat.mod_mod, Nat.mod_eq_of_lt x.isLt])

section Fields
variable (p : Packet) (major variant : Nat)

@[simp] theorem Packet.word0_toBytes :
    word32 (p.toBytes major variant) 0 = p.magic.toNat + p.version.toNat * 2 ^ 16 + p.hlen.toNat * 2 ^ 24 := by
  have h1 := p.magic.isLt
  have h2 := p.version.isLt
  have h3 := p.hlen.isLt
  rw [Packet.toBytes_eq, word32_front]
  omega

@[simp] theorem Packet.word1_toBytes (hm : major < 256) (hv : variant < 256) :
    word32 (p.toBytes major variant) 4 = major + variant * 256 + (if p.quiet then 65536 else 0) + p.flags.toNat * 2 ^ 17 := by
  have h1 := p.flags.isLt
  rw [Packet.toBytes_eq, word32_behind _ 0, word32_front]
  split <;> omega

theorem Packet.word2_toBytes :
    word32 (p.toBytes major variant) 8 = p.job.toNat + p.inc.toNat * 2 ^ 12 + p.queue.toNat * 2 ^ 20 + p.resv.toNat * 2 ^ 26 := by
  have h1 := p.job.isLt
  have h2 := p.inc.isLt
  have h3 := p.queue.isLt
  have h4 := p.resv.isLt
  rw [Packet.toBytes_eq, word32_behind _ 4, word32_behind _ 0, word32_front]
  omega

/-- R47: the tag and the payload stand behind the header. -/
theorem Packet.drop_handle_toBytes : (p.toBytes major variant).drop 40 = leBytes 8 p.handle.toNat ++ (p.tag ++ p.payload) := by
  simp [Packet.toBytes_eq]

theorem Packet.drop_tag_toBytes : (p.toBytes major variant).drop 48 = p.tag ++ p.payload := by
  rw [show 48 = 40 + 8 from rfl, ← List.drop_drop, Packet.drop_handle_toBytes, List.drop_left' (leBytes_length 8 _)]

theorem Packet.drop_payload_toBytes (ht : p.tag.length = 16) : (p.toBytes major variant).drop 64 = p.payload := by
  rw [show 64 = 48 + 16 from rfl, ← List.drop_drop, Packet.drop_tag_toBytes, List.drop_left' ht]

theorem Packet.length_toBytes (ht : p.tag.length = 16) : (p.toBytes major variant).length = 64 + p.payload.length := by
  simp [Packet.toBytes_eq, leBytes_length, ht]
  omega

/-- R47: a datagram reads back as the packet that it was made of. -/
theorem Packet.ofBytes_toBytes (ht : p.tag.length = 16) (hm : major < 256) (hv : variant < 256) :
    Packet.ofBytes p.src (p.toBytes major variant) = p := by
  have hmagic := p.magic.isLt
  have hversion := p.version.isLt
  have hhlen := p.hlen.isLt
  have hflags := p.flags.isLt
  have hjob := p.job.isLt
  have hinc := p.inc.isLt
  have hqueue := p.queue.isLt
  have hresv := p.resv.isLt
  unfold Packet.ofBytes
  simp only [Packet.word0_toBytes, Packet.word1_toBytes p major variant hm hv, Packet.word2_toBytes, Packet.drop_handle_toBytes,
    Packet.drop_tag_toBytes, Packet.drop_payload_toBytes p major variant ht, List.take_left' ht, leNat_take_leBytes]
  have hquiet : decide ((major + variant * 256 + (if p.quiet then 65536 else 0) + p.flags.toNat * 2 ^ 17) / 65536 % 2 = 1) = p.quiet := by
    cases p.quiet <;> simp <;> omega
  rw [hquiet]
  have hquiet' : (if p.quiet = true then 65536 else 0) ≤ 65536 := by split <;> omega
  have hword (off : Nat) (x : BitVec 32) (h : word32 (p.toBytes major variant) off = x.toNat % 2 ^ 32) :
      BitVec.ofNat 32 (word32 (p.toBytes major variant) off) = x := by rw [h, ofNat_toNat_mod]
  rw [hword 12 p.seq (by simp [Packet.toBytes_eq]), hword 16 p.timeout (by simp [Packet.toBytes_eq]), hword 20 p.plen (by simp [Packet.toBytes_eq]),
    hword 24 p.wait0 (by simp [Packet.toBytes_eq]), hword 28 p.wait1 (by simp [Packet.toBytes_eq]), hword 32 p.sig0 (by simp [Packet.toBytes_eq]),
    hword 36 p.sig1 (by simp [Packet.toBytes_eq]),
    show BitVec.ofNat 64 (p.handle.toNat % 256 ^ 8) = p.handle from ofNat_toNat_mod p.handle]
  congr 1 <;> refine ofNat_eq_of_toNat ?_ <;> omega
theorem Packet.take_toBytes : (p.toBytes major variant).take 40 = (p.header major variant).take 40 := by
  have hl : 40 ≤ ((p.header major variant).take 48).length := by simp [Packet.header, leBytes_length]
  rw [Packet.toBytes, List.append_assoc, List.take_append_of_le_length hl, List.take_take, Nat.min_eq_left (by decide)]

end Fields

/-- Settles O7: the round trip of the fields, and the worked example of R50 by evaluation of its header. -/
theorem packetRoundTrip : Obligations.PacketRoundTrip := by
  refine ⟨fun p major variant ht hm hv => ⟨p.ofBytes_toBytes major variant ht hm hv, ?major, ?variant, p.length_toBytes major variant ht⟩,
    fun src tag payload => ?example_⟩
  case major =>
    rw [p.word1_toBytes major variant hm hv]
    split <;> omega
  case variant =>
    rw [p.word1_toBytes major variant hm hv]
    split <;> omega
  case example_ =>
    rw [Packet.take_toBytes]
    simp only [Packet.header, Bool.false_eq_true, if_false]
    decide

end Sys2Proof
end

section
/-!
PROOFS. A command packet arrives: the checks 1 to 4 of R54, and the start of a command that passes them all (R49, R52).
-/

namespace Sys2Proof.Machine

/-! ### A packet of an opcode arrives -/

/-- The command by which a packet of an operation arrives runs the reception of packets on that operation. -/
theorem exec_instr (op : Op) (p : Packet) (s : State) : exec (op.instr p) s = lift (fun m => m.receive op p) s := by
  cases op <;> rfl

theorem becomes_of_receive {op : Op} {p : Packet} {s : State} {m : Mod} (h : s.m.receive op p = m) : becomes (op.instr p) s m :=
  becomes_of_lift (f := fun m => m.receive op p) (exec_instr op p s) h

/-! ### Checks 1 to 3 of R54 -/

/-- A session that no policy change closes takes its endpoint's packets. -/
theorem Mod.openSession_of_sessionOf {m : Mod} {ep : Endpoint} {ss : Session} (hs : m.sessionOf ep = some ss) (hc : m.closing = []) :
    (m.sessionOf ep).filter (fun ss => !m.closing.contains ss.sid) = some ss := by
  simp [hs, hc, Option.filter_some]

section Reception
variable {m : Mod} {op : Option Op} {major variant : Nat} {p : Packet}

/-- R462: a module that resets or is not READY discards and counts a packet. -/
theorem Mod.receiveAs_closed (h : m.resetting.isSome ∨ m.boot.stage ≠ .ready) :
    m.receiveAs op major variant p = m.count .discardedReset := if_pos h

variable (hreset : m.resetting = none) (hready : m.boot.stage = .ready)
include hreset hready

theorem Mod.receiveAs_long (h : 8128 < p.payload.length) : m.receiveAs op major variant p = m.count .discardedLong := by
  simp [Mod.receiveAs, hreset, hready, show 8192 < 64 + p.payload.length by omega]

variable (hlen : p.payload.length ≤ 8128)
include hlen

theorem Mod.receiveAs_noSession (h : m.sessionOf p.src = none) :
    m.receiveAs op major variant p = m.count .discardedNoSession := by
  simp [Mod.receiveAs, hreset, hready, show ¬ 8192 < 64 + p.payload.length by omega, h]

variable {ss : Session} (hs : m.sessionOf p.src = some ss) (hc : m.closing = [])
include hs hc

/-- R46: a tag that does not verify counts in the session. -/
theorem Mod.receiveAs_unverified (h : tag16 ss.key (p.header major variant ++ p.payload) ≠ p.tag) :
    m.receiveAs op major variant p =
      (m.updSession ss.sid fun x => { x with inPkts := x.inPkts + 1 }).updSession ss.sid fun x =>
        { x with integrityFails := x.integrityFails + 1 } := by
  have hopen : ¬ (m.resetting.isSome ∨ m.boot.stage ≠ .ready) := by simp [hreset, hready]
  unfold Mod.receiveAs
  rw [if_neg hopen, if_neg (show ¬ 8192 < 64 + p.payload.length by omega), Mod.openSession_of_sessionOf hs hc]
  exact if_pos h

end Reception

/-- The module once a session has counted a packet. -/
def Mod.heard (m : Mod) (ss : Session) : Mod := m.updSession ss.sid fun x => { x with inPkts := x.inPkts + 1 }

/-- R54: a packet that checks 1 to 3 let pass comes to its sequence number. -/
theorem Mod.receive_of_hears {m : Mod} {op : Op} {p : Packet} {ss : Session} (h : m.hears op p ss) :
    m.receive op p = ((m.heard ss).sequence (laneOf p ss.sid) p ss (.cmd (cmdOf op p ss m.now)) fun d =>
      (cmdOf op p ss m.now).reply m.timer .badPacket d {} []).closeSessions := by
  obtain ⟨hreset, hready, hlen, hs, -, hc, htag, hmagic, hversion, hhlen, hop⟩ := h
  have htag' : ¬ (tag16 ss.key (p.header op.major op.variant ++ p.payload) ≠ p.tag) := not_not.mpr htag
  have hheader : ¬ (p.magic ≠ 0x5153 ∨ p.version ≠ 1 ∨ p.hlen ≠ 4) := by simp [hmagic, hversion, hhlen]
  have hlong : ¬ 8192 < 64 + p.payload.length := by omega
  have hopen : ¬ (m.resetting.isSome ∨ m.boot.stage ≠ .ready) := by simp [hreset, hready]
  unfold Mod.receive Mod.receiveAs
  rw [if_neg hopen, if_neg hlong, Mod.openSession_of_sessionOf hs hc]
  dsimp only
  rw [if_neg htag', if_neg hheader, hop]
  rfl

/-- Settles O11: what the first two checks of `Mod.receiveAs` answer. -/
theorem unverifiedPacketDiscarded : Obligations.UnverifiedPacketDiscarded := by
  intro op p s hreset hready
  refine ⟨fun hlong => ?long, fun hlen hnone => ?noSession, fun ss hlen hs hc htag => ?unverified⟩
  case long => exact becomes_of_receive (congrArg Mod.closeSessions (Mod.receiveAs_long hreset hready hlong))
  case noSession => exact becomes_of_receive (congrArg Mod.closeSessions (Mod.receiveAs_noSession hreset hready hlen hnone))
  case unverified => exact becomes_of_receive (congrArg Mod.closeSessions (Mod.receiveAs_unverified hreset hready hlen hs hc htag))

/-! ### Check 4: the sequence number (R53) -/

section Sequence
variable {m : Mod} {l : Lane} {p : Packet} {ss : Session} {a : Arrived} {bad : Nat → Reply} {ls : LaneState} (hl : m.lane? l = some ls)
include hl

theorem Mod.sequence_expected (h : ls.expected = p.seq) :
    m.sequence l p ss a bad = ((m.updLane l fun x => { x with expected := x.expected + 1 }).takeUp l a).catchUp 65 l := by
  simp [Mod.sequence, hl, h]

/-- From 1 to 64 ahead of the expected number, what arrives is held. -/
theorem Mod.sequence_ahead (h1 : 1 ≤ (p.seq - ls.expected).toNat) (h64 : (p.seq - ls.expected).toNat ≤ 64) :
    m.sequence l p ss a bad = m.updLane l fun x => x.hold m.now p.seq.toNat a := by
  simp only [Mod.sequence, hl, if_neg (show ¬ (p.seq - ls.expected).toNat = 0 by omega), if_pos h64]

theorem Mod.sequence_farAhead (h65 : 65 ≤ (p.seq - ls.expected).toNat) (h31 : (p.seq - ls.expected).toNat < 2 ^ 31) :
    m.sequence l p ss a bad = m.sendReply ss.sid false (bad ls.expected.toNat) := by
  simp only [Mod.sequence, hl, if_neg (show ¬ (p.seq - ls.expected).toNat = 0 by omega),
    if_neg (show ¬ (p.seq - ls.expected).toNat ≤ 64 by omega), if_pos h31]

variable (h31 : 2 ^ 31 ≤ (p.seq - ls.expected).toNat)
include h31

/-- A number behind the expected one is looked up among the stored replies, and then among the commands not yet completed. -/
theorem Mod.sequence_behind :
    m.sequence l p ss a bad =
      match ls.replies.find? fun r => r.1 == p.seq.toNat with
      | some r => m.sendReply ss.sid p.quiet { r.2 with dup := true, dst := p.src }
      | none =>
        if (ls.accepted.any fun c => c.pkt.seq.toNat == p.seq.toNat) ||
          (ls.current.map fun r => r.cmd.pkt.seq.toNat == p.seq.toNat).getD false then m
        else m.count .discardedSeq := by
  simp only [Mod.sequence, hl, if_neg (show ¬ (p.seq - ls.expected).toNat = 0 by omega),
    if_neg (show ¬ (p.seq - ls.expected).toNat ≤ 64 by omega), if_neg (show ¬ (p.seq - ls.expected).toNat < 2 ^ 31 by omega)] <;> rfl

theorem Mod.sequence_answered {r : Nat × Reply} (hr : (ls.replies.find? fun x => x.1 == p.seq.toNat) = some r) :
    m.sequence l p ss a bad = m.sendReply ss.sid p.quiet { r.2 with dup := true, dst := p.src } := by
  rw [Mod.sequence_behind hl h31, hr]

variable (hnone : (ls.replies.find? fun x => x.1 == p.seq.toNat) = none)
include hnone

theorem Mod.sequence_notCompleted {c : Cmd} (hc : c ∈ ls.accepted) (hseq : c.pkt.seq = p.seq) : m.sequence l p ss a bad = m := by
  have hany : (ls.accepted.any fun c => c.pkt.seq.toNat == p.seq.toNat) = true := List.any_eq_true.mpr ⟨c, hc, by simp [hseq]⟩
  rw [Mod.sequence_behind hl h31, hnone]
  simp [hany]

theorem Mod.sequence_old (ha : ls.accepted = []) (hcur : ls.current = none) : m.sequence l p ss a bad = m.count .discardedSeq := by
  rw [Mod.sequence_behind hl h31, hnone]
  simp [ha, hcur]

end Sequence

/-! ### Checks 5 to 13 (R54) -/

/-- What a packet that passes the checks 5 to 13 has passed. -/
theorem Mod.checkPacket_eq_none {m : Mod} {op : Op} {p : Packet} {ss : Session} (h : m.checkPacket op p ss = none) :
    m.laneRule op p = true ∧ m.jobCheck op p = none ∧ m.stateCheck op p = none := by
  delta Mod.checkPacket at h
  split at h
  · simp at h
  split at h
  · simp at h
  cases hl : m.laneRule op p
  · simp [hl] at h
  simp only [hl, Bool.not_true, Bool.false_eq_true, if_false] at h
  split at h
  · simp at h
  split at h
  · simp at h
  split at h
  · simp at h
  split at h
  · simp at h
  split at h
  · simp at h
  split at h
  · simp at h
  exact ⟨rfl, ‹_›, ‹_›⟩

section Statuses
variable {m : Mod} {op : Op} {p : Packet} {ss : Session} {r : Status × Option Nat}

theorem Mod.authCheck_status (h : m.authCheck op p ss = some r) : r.1 = .refusedAuth := by
  unfold Mod.authCheck at h
  split at h
  · cases h
  · dsimp only at h
    split at h <;> cases h
    rfl

theorem Mod.jobCheck_status (h : m.jobCheck op p = some r) : r.1 = .staleIncarnation := by
  unfold Mod.jobCheck at h
  split at h
  · cases h
  · split at h
    · cases h; rfl
    · split at h <;> cases h
      rfl

theorem Mod.stateCheck_status (h : m.stateCheck op p = some r) : r.1 = .refusedFit := by
  unfold Mod.stateCheck at h
  grind

/-- No check answers OK: each has a refusal of its own. -/
theorem Mod.checkPacket_status_ne_ok (h : m.checkPacket op p ss = some r) : r.1 ≠ .ok := by
  delta Mod.checkPacket at h
  have hbad (o : Nat) (h : some (badAt o) = some r) : r.1 ≠ .ok := by
    cases h
    simp [badAt]
  split at h
  · exact hbad _ h
  split at h
  · exact hbad _ h
  split at h
  · exact hbad _ h
  split at h
  · exact hbad _ h
  split at h
  · exact hbad _ h
  split at h
  · exact hbad _ h
  split at h
  · rename_i q hq
    simp [← Option.some.inj h, Mod.authCheck_status hq]
  split at h
  · rename_i q hq
    simp [← Option.some.inj h, Mod.jobCheck_status hq]
  split at h
  · rename_i q hq
    simp [← Option.some.inj h, Mod.stateCheck_status hq]
  obtain ⟨d, -, rfl⟩ := Option.map_eq_some_iff.mp h
  simp

end Statuses

/-! ### A command comes to the head of its lane and starts (R49, R52) -/

section Start
variable {m : Mod} {l : Lane} {c : Cmd} {rest : List Cmd} {ls : LaneState}

theorem Mod.lane_updLane_of (f : LaneState → LaneState) (hl : m.lane? l = some ls) (hf : ∀ x, (f x).lane = x.lane) :
    (m.updLane l f).lane? l = some (f ls) := by
  rw [Mod.lane_updLane m l f hf, hl]; rfl

/-- An accepted command without wait ties comes to the head of its idle lane and is to start at once. -/
theorem Mod.reach_unwaited (hl : m.lane? l = some ls) (hcur : ls.current = none) (ha : ls.accepted = c :: rest)
    (hw : c.waits = []) :
    m.reach l = (m.updLane l fun x =>
      { x with accepted := rest, current := some { cmd := c, headAt := m.now, work := .ready } }).begin l := by
  simp [Mod.reach, hl, hcur, ha, hw]

variable {run : Running} (hr : m.running? l = some run) (hwork : run.work = .ready) (hreset : m.resetting = none)
include hr hwork hreset

theorem Mod.begin_control {sid : Nat} (hlane : l = .control sid) :
    m.begin l = (m.markStarted l run).startOnControl (run.cmd.id l) run.cmd := by
  subst hlane
  simp [Mod.begin, hr, hwork, hreset]

theorem Mod.begin_queue {q : Nat} {j : Job} (hlane : l = .queue q) (hj : m.job? run.cmd.job = some j) (hs : m.stakesBusy j q = false) :
    m.begin l = (m.markStarted l run).startQueued (run.cmd.id l) run.cmd j := by
  subst hlane
  simp [Mod.begin, hr, hwork, hreset, hj, hs]

end Start

theorem Mod.markStarted_jobs (m : Mod) (l : Lane) (r : Running) : (m.markStarted l r).jobs = m.jobs := by
  unfold Mod.markStarted
  split
  · rfl
  · exact Mod.jobs_of_standing (Mod.trace_standing _ _)

/-- Log 88: the checks of a control-lane command's job, made again when it starts, pass when those of its packet have passed. -/
theorem Mod.startOnControl_of_checked {m m0 : Mod} {id : CmdId} {c : Cmd} (hjobs : m.jobs = m0.jobs)
    (hj : m0.jobCheck c.op c.pkt = none) (hs : m0.stateCheck c.op c.pkt = none) : m.startOnControl id c = m.startControl id c := by
  unfold Mod.startOnControl
  split
  · rfl
  · rename_i hop
    have hload : c.op ≠ .planLoad := by rintro h; simp [h] at hop
    have hof : Op.ofJob c.op = true := by cases h : Op.ofJob c.op <;> simp [h] at hop ⊢
    have hjob : ¬ c.pkt.job = 0#12 := by rintro h; simp [Mod.stateCheck, hof, h] at hs
    have hget : m.job? c.job = m0.job? c.pkt.job.toNat := by simp only [Mod.job?, hjobs, Cmd.job]
    rw [hget]
    cases h : m0.job? c.pkt.job.toNat with
    | none => simp [Mod.jobCheck, hload, hjob, h] at hj
    | some j =>
      have hinc : j.plan.inc = c.pkt.inc.toNat := by
        simpa [Mod.jobCheck, hload, hjob, h] using hj
      have hphase : j.phase.accepts c.op = true := by
        simpa [Mod.stateCheck, hof, hload, hjob, h] using hs
      simp [hinc, hphase]

/-- The module once a command is accepted on a lane. -/
def Mod.accepted (m : Mod) (l : Lane) (c : Cmd) : Mod := m.updLane l fun x => { x with accepted := x.accepted ++ [c] }

section TakeUp
variable {m : Mod} {c : Cmd} {ss : Session} (hs : m.session? c.sid = some ss) (l : Lane)
include hs

theorem Mod.takeUp_accepted (h : m.checkPacket c.op c.pkt ss = none) : m.takeUp l (.cmd c) = (m.accepted l c).reach l := by
  simp only [Mod.takeUp, hs, h]
  rfl

theorem Mod.takeUp_refused {st : Status} {d : Nat} (h : m.checkPacket c.op c.pkt ss = some (st, some d)) :
    m.takeUp l (.cmd c) = (m.countStale st).refuseCmd l c.sid c.pkt.quiet (c.reply m.timer st d {} []) := by
  simp only [Mod.takeUp, hs, h]

end TakeUp

/-- The module once a session has counted a packet in sequence, whose lane expects the next number. -/
def Mod.numbered (m : Mod) (p : Packet) (ss : Session) : Mod :=
  (m.heard ss).updLane (laneOf p ss.sid) fun x => { x with expected := x.expected + 1 }

theorem Mod.numbered_session {m : Mod} {p : Packet} {ss : Session} (hs : m.session? ss.sid = some ss) :
    (m.numbered p ss).session? ss.sid = some { ss with inPkts := ss.inPkts + 1 } :=
  Mod.session_updSession m ss.sid (fun x => { x with inPkts := x.inPkts + 1 }) (fun _ => rfl) ss hs

theorem Mod.numbered_checkPacket (m : Mod) (op : Op) (p : Packet) (ss : Session) :
    (m.numbered p ss).checkPacket op p { ss with inPkts := ss.inPkts + 1 } = m.checkPacket op p ss :=
  Mod.checkPacket_upd m ss.sid _ _ _ op p ss _

/-- R53: a packet in sequence goes on to the checks 5 to 13, and then its lane takes what it held back. -/
theorem Mod.receive_numbered {m : Mod} {op : Op} {p : Packet} {ss : Session} {ls : LaneState} (h : m.hears op p ss)
    (hl : m.lane? (laneOf p ss.sid) = some ls) (hexp : ls.expected = p.seq) :
    m.receive op p =
      ((m.numbered p ss).takeUp (laneOf p ss.sid) (.cmd (cmdOf op p ss m.now))).after p ss := by
  have hl' : (m.heard ss).lane? (laneOf p ss.sid) = some ls := hl
  rw [Mod.receive_of_hears h, Mod.sequence_expected hl' hexp]
  rfl

/-- The head of an idle lane is reached by way of its numbering and its accepted commands. -/
theorem Mod.atHead_eq (m : Mod) (op : Op) (p : Packet) (ss : Session) :
    m.atHead op p ss = ((m.numbered p ss).accepted (laneOf p ss.sid) (cmdOf op p ss m.now)).updLane (laneOf p ss.sid) fun x =>
      { x with accepted := [], current := some { cmd := cmdOf op p ss m.now, headAt := m.now, work := .ready } } := by
  unfold Mod.accepted Mod.numbered Mod.heard Mod.atHead
  rw [Mod.updLane_updLane, Mod.updLane_updLane]
  · intro _; rfl
  · intro _; rfl

theorem Mod.atHead_jobs (m : Mod) (op : Op) (p : Packet) (ss : Session) : (m.atHead op p ss).jobs = m.jobs := by
  simp [Mod.atHead]

section Accepted
variable {m : Mod} {op : Op} {p : Packet} {ss : Session} {ls : LaneState} (h : m.accepts op p ss ls)
include h

/-- R54, R52: an accepted packet's command stands at the head of its lane, and starts. -/
theorem Mod.receive_of_accepts : m.receive op p = ((m.atHead op p ss).begin (laneOf p ss.sid)).after p ss := by
  obtain ⟨hh, hl, hexp, hcur, hacc, -, -, hw0, hw1, hcheck⟩ := h
  have hses : m.session? ss.sid = some ss := by
    obtain ⟨-, -, -, -, h, -⟩ := hh
    exact h
  have hwaits : (cmdOf op p ss m.now).waits = [] := by simp [Cmd.waits, cmdOf, hw0, hw1]
  have hn : (m.numbered p ss).lane? (laneOf p ss.sid) = some { ls with expected := ls.expected + 1 } :=
    Mod.lane_updLane_of (m := m.heard ss) (fun x => { x with expected := x.expected + 1 }) hl fun _ => rfl
  have htaken : (m.numbered p ss).takeUp (laneOf p ss.sid) (.cmd (cmdOf op p ss m.now)) =
      ((m.numbered p ss).accepted (laneOf p ss.sid) (cmdOf op p ss m.now)).reach (laneOf p ss.sid) :=
    Mod.takeUp_accepted (Mod.numbered_session hses) _ ((m.numbered_checkPacket op p ss).trans hcheck)
  have ha : ((m.numbered p ss).accepted (laneOf p ss.sid) (cmdOf op p ss m.now)).lane? (laneOf p ss.sid) =
      some { ls with expected := ls.expected + 1, accepted := ls.accepted ++ [cmdOf op p ss m.now] } :=
    Mod.lane_updLane_of (fun x => { x with accepted := x.accepted ++ [cmdOf op p ss m.now] }) hn fun _ => rfl
  rw [Mod.receive_numbered hh hl hexp, htaken, Mod.reach_unwaited (rest := []) ha hcur (by rw [hacc]; rfl) hwaits, m.atHead_eq]
  rfl

/-- What stands at the head of the lane then. -/
theorem Mod.running_atHead :
    (m.atHead op p ss).running? (laneOf p ss.sid) = some { cmd := cmdOf op p ss m.now, headAt := m.now, work := .ready } := by
  obtain ⟨-, hl, -⟩ := h
  unfold Mod.running? Mod.atHead
  rw [Mod.lane_updLane_of (m := m.updSession ss.sid _) _ hl]
  · rfl
  · intro _; rfl

end Accepted

/-- Settles O8: the packet's command stands at the head of its queue's lane, where `Mod.begin` starts it. -/
theorem queueCommandStarts : Obligations.QueueCommandStarts := by
  intro op p ss ls s j hop h hj hbusy
  have hrun := Mod.running_atHead h
  have hreceive := Mod.receive_of_accepts h
  obtain ⟨⟨hreset, -⟩, -, -, -, -, -, -, -, -, hcheck⟩ := h
  obtain ⟨hrule, -, -⟩ := Mod.checkPacket_eq_none hcheck
  obtain ⟨hflag, -, -⟩ := (Mod.laneRule_of_queued hop).1 hrule
  have hlane : laneOf p ss.sid = .queue p.queue.toNat := by simp [laneOf, hflag]
  refine becomes_of_receive (hreceive.trans ?_)
  rw [Mod.begin_queue hrun rfl hreset hlane hj hbusy]
  rfl

/-- Settles O9: likewise on the control lane, where the checks of its job pass again. -/
theorem controlCommandStarts : Obligations.ControlCommandStarts := by
  intro op p ss ls s hop h
  have hrun := Mod.running_atHead h
  have hreceive := Mod.receive_of_accepts h
  obtain ⟨⟨hreset, -⟩, -, -, -, -, -, -, -, -, hcheck⟩ := h
  obtain ⟨hrule, hjob, hstate⟩ := Mod.checkPacket_eq_none hcheck
  obtain ⟨hflag, -⟩ := (Mod.laneRule_of_control hop).1 hrule
  have hlane : laneOf p ss.sid = .control ss.sid := by simp [laneOf, hflag]
  refine becomes_of_receive (hreceive.trans ?_)
  rw [Mod.begin_control hrun rfl hreset hlane, Mod.startOnControl_of_checked (m0 := s.m) (c := cmdOf op p ss s.m.now) ((Mod.markStarted_jobs _ _ _).trans (s.m.atHead_jobs op p ss)) hjob hstate]
  rfl

end Sys2Proof.Machine
end

section
/-!
PROOFS. The sequence numbers (R53), a command that a check refuses (R59), and the reply of one that completes (R52, R56).
-/

namespace Sys2Proof.Machine

/-! ### What follows a packet that leaves nothing to catch up (R53, R502) -/

theorem Mod.catchUp_empty {m : Mod} {l : Lane} {ls : LaneState} (hl : m.lane? l = some ls) (hh : ls.held = []) (hb : ls.badHeld = [])
    (n : Nat) : m.catchUp n l = m := by
  cases n with
  | zero => rfl
  | succ n => simp [Mod.catchUp, hl, hh, hb]

/-- A lane of a queue, or of a session that goes on, is not dropped. -/
theorem Mod.dropLanes_lane {m : Mod} {l : Lane} {ls : LaneState} (hl : m.lane? l = some ls)
    (hs : ∀ sid, l = .control sid → (m.session? sid).isSome) : m.dropLanes.lane? l = some ls := by
  have hlane : ls.lane = l := by simpa using List.find?_some hl
  unfold Mod.lane? at hl ⊢
  rw [show m.dropLanes.lanes = m.lanes.filter _ from rfl, List.find?_filter, ← hl]
  refine List.find?_congr fun x hx => ?_
  by_cases hxl : x.lane = l
  · cases l with
    | control sid => simp [hxl, hs sid rfl]
    | queue q => simp [hxl]
  · simp [hxl]

theorem Mod.closeSessions_of_none {m : Mod} (h : m.closing = []) : m.closeSessions = m.dropLanes := by
  unfold Mod.closeSessions
  rw [h]
  rfl

/-! ### A refused command (R59) -/

/-- The part of the module that a refused command leaves alone (R59). -/
structure Untouched where
  jobs : List Job
  ties : List Tie
  mem : Memory
  tierC : Memory
  pools : List PoolCell
  arrays : List ArrayState
  log : List LogRec
  policy : Option Policy
  boot : Boot
  power : Power
  timer : Tick
  registry : List Registered
  escalations : List Escalation
  closing : List Nat

def Mod.untouched (m : Mod) : Untouched :=
  { jobs := m.jobs, ties := m.ties, mem := m.mem, tierC := m.tierC, pools := m.pools, arrays := m.arrays, log := m.log
    policy := m.policy, boot := m.boot, power := m.power, timer := m.timer, registry := m.registry
    escalations := m.escalations, closing := m.closing }

theorem Mod.countStale_or (m : Mod) (st : Status) : m.countStale st = m.count .staleTraffic ∨ m.countStale st = m := by
  unfold Mod.countStale
  split
  · exact .inl rfl
  · exact .inr rfl

theorem Mod.sendReply_sent {m : Mod} {sid : Nat} {ss : Session} {quiet : Bool} {r : Reply} (hs : m.session? sid = some ss)
    (hst : r.status ≠ .ok) :
    m.sendReply sid quiet r = (m.emit (.reply (r.signed ss.key))).updSession sid fun s => { s with outPkts := s.outPkts + 1 } := by
  simp [Mod.sendReply, hs, hst]

theorem mem_lastN_concat {α : Type} (l : List α) (x : α) : x ∈ lastN 256 (l ++ [x]) := by
  unfold lastN
  rw [List.drop_append_of_le_length (by simp)]
  simp

section Refuse
variable {m : Mod} {l : Lane} {sid : Nat} {ss : Session} {quiet : Bool} {r : Reply}

theorem Mod.refuseCmd_sent (hs : m.session? sid = some ss) (hst : r.status ≠ .ok) (ht : r.doneTime = m.timer) :
    m.refuseCmd l sid quiet r =
      ((m.storeReply l r).emit (.reply (r.signed ss.key))).updSession sid fun s => { s with outPkts := s.outPkts + 1 } := by
  have hr : { r with doneTime := m.timer } = r := by rw [← ht]
  unfold Mod.refuseCmd
  rw [hr]
  exact Mod.sendReply_sent (m := m.storeReply l r) hs hst

variable (hs : m.session? sid = some ss) (hst : r.status ≠ .ok) (ht : r.doneTime = m.timer)
include hs hst ht

theorem Mod.refuseCmd_out : (m.refuseCmd l sid quiet r).out = .reply (r.signed ss.key) :: m.out := by
  rw [Mod.refuseCmd_sent hs hst ht]; rfl

theorem Mod.refuseCmd_untouched : (m.refuseCmd l sid quiet r).untouched = m.untouched := by
  rw [Mod.refuseCmd_sent hs hst ht]; rfl

theorem Mod.refuseCmd_session : ((m.refuseCmd l sid quiet r).session? sid).isSome := by
  rw [Mod.refuseCmd_sent hs hst ht, Mod.session_updSession (ss := ss)]
  · rfl
  · intro _; rfl
  · exact hs

theorem Mod.refuseCmd_lane {ls : LaneState} (hl : m.lane? l = some ls) :
    (m.refuseCmd l sid quiet r).lane? l = some { ls with replies := lastN 256 (ls.replies ++ [(r.seq, r)]) } := by
  rw [Mod.refuseCmd_sent hs hst ht]
  exact Mod.lane_updLane_of (fun s => { s with replies := lastN 256 (s.replies ++ [(r.seq, r)]) }) hl fun _ => rfl

end Refuse

section Refusal
variable {m : Mod} {op : Op} {p : Packet} {ss : Session} {ls : LaneState} {st : Status} {d : Nat}

theorem Mod.dropLanes_untouched (m : Mod) : m.dropLanes.untouched = m.untouched := rfl
theorem Mod.numbered_untouched (m : Mod) (p : Packet) (ss : Session) : (m.numbered p ss).untouched = m.untouched := rfl

theorem Mod.countStale_untouched (m : Mod) (st : Status) : (m.countStale st).untouched = m.untouched := by
  obtain h | h := m.countStale_or st <;> rw [h]
  rfl

theorem Mod.countStale_lanes (m : Mod) (st : Status) : (m.countStale st).lanes = m.lanes := by
  obtain h | h := m.countStale_or st <;> rw [h]
  rfl

theorem Mod.countStale_sessions (m : Mod) (st : Status) : (m.countStale st).sessions = m.sessions := by
  obtain h | h := m.countStale_or st <;> rw [h]
  rfl

theorem Mod.countStale_out (m : Mod) (st : Status) : (m.countStale st).out = m.out := by
  obtain h | h := m.countStale_or st <;> rw [h]
  rfl

/-- R59: a packet in sequence that a check refuses takes its number, and has its reply stored and sent. -/
theorem Mod.receive_refused (hh : m.hears op p ss) (hl : m.lane? (laneOf p ss.sid) = some ls) (hexp : ls.expected = p.seq)
    (hheld : ls.held = []) (hbad : ls.badHeld = []) (hcheck : m.checkPacket op p ss = some (st, some d)) :
    let r := (cmdOf op p ss m.now).reply m.timer st d {} []
    (m.receive op p).out = .reply (r.signed ss.key) :: m.out ∧
      (m.receive op p).lane? (laneOf p ss.sid) =
        some { ls with expected := ls.expected + 1, replies := lastN 256 (ls.replies ++ [(p.seq.toNat, r)]) } ∧
      (m.receive op p).untouched = m.untouched := by
  intro r
  have hst : r.status ≠ .ok := Mod.checkPacket_status_ne_ok hcheck
  have hs : m.session? ss.sid = some ss := by
    obtain ⟨-, -, -, -, h, -⟩ := hh
    exact h
  have hclosing : m.closing = [] := by
    obtain ⟨-, -, -, -, -, h, -⟩ := hh
    exact h
  obtain ⟨m0, hm0⟩ : ∃ m0, m0 = (m.numbered p ss).countStale st := ⟨_, rfl⟩
  have hun0 : m0.untouched = m.untouched := by rw [hm0, Mod.countStale_untouched, Mod.numbered_untouched]
  have hs0 : m0.session? ss.sid = some { ss with inPkts := ss.inPkts + 1 } := by
    rw [hm0, Mod.session?, Mod.countStale_sessions]
    exact Mod.numbered_session hs
  have hl0 : m0.lane? (laneOf p ss.sid) = some { ls with expected := ls.expected + 1 } := by
    rw [hm0, Mod.lane?, Mod.countStale_lanes]
    exact Mod.lane_updLane_of (m := m.heard ss) (fun x => { x with expected := x.expected + 1 }) hl fun _ => rfl
  have ht0 : r.doneTime = m0.timer := (congrArg Untouched.timer hun0).symm
  have hlane := Mod.refuseCmd_lane (quiet := p.quiet) hs0 hst ht0 hl0
  have htaken : (m.numbered p ss).takeUp (laneOf p ss.sid) (.cmd (cmdOf op p ss m.now)) =
      m0.refuseCmd (laneOf p ss.sid) ss.sid p.quiet r := by
    have h := Mod.takeUp_refused (c := cmdOf op p ss m.now) (Mod.numbered_session hs) (laneOf p ss.sid)
      ((m.numbered_checkPacket op p ss).trans hcheck)
    rw [← hm0] at h
    exact h
  have hreceive : m.receive op p = (m0.refuseCmd (laneOf p ss.sid) ss.sid p.quiet r).dropLanes := by
    rw [Mod.receive_numbered hh hl hexp, htaken]
    have hclosed : (m0.refuseCmd (laneOf p ss.sid) ss.sid p.quiet r).closing = [] :=
      (congrArg Untouched.closing ((Mod.refuseCmd_untouched hs0 hst ht0).trans hun0)).trans hclosing
    unfold Mod.after
    rw [Mod.catchUp_empty hlane hheld hbad 65, Mod.closeSessions_of_none hclosed]
  rw [hreceive]
  refine ⟨?_, Mod.dropLanes_lane hlane fun sid hsid => ?_, ?_⟩
  · refine (Mod.refuseCmd_out hs0 hst ht0).trans ?_
    rw [hm0, Mod.countStale_out]
    rfl
  · obtain rfl : sid = ss.sid := by
      unfold laneOf at hsid
      split at hsid <;> cases hsid
      rfl
    exact Mod.refuseCmd_session hs0 hst ht0
  · exact (Mod.refuseCmd_untouched hs0 hst ht0).trans hun0

end Refusal
theorem becomes_of_hears {op : Op} {p : Packet} {ss : Session} {s : State} {m : Mod} (h : s.m.hears op p ss)
    (hm : ((s.m.heard ss).sequence (laneOf p ss.sid) p ss (.cmd (cmdOf op p ss s.m.now)) fun d =>
      (cmdOf op p ss s.m.now).reply s.m.timer .badPacket d {} []) = m) : becomes (op.instr p) s m.closeSessions :=
  becomes_of_receive ((Mod.receive_of_hears h).trans (congrArg Mod.closeSessions hm))

/-- Settles O12: the cases of the distance to the expected number (R53), and a refusal in sequence (R59). -/
theorem sequenceNumbers : Obligations.SequenceNumbers := by
  refine ⟨fun op p ss ls s hh hl => ?outOfSequence, fun op p ss ls s st d hh hl hexp hheld hbad hcheck => ?refused⟩
  case outOfSequence =>
    have hl' : (s.m.heard ss).lane? (laneOf p ss.sid) = some ls := hl
    refine ⟨fun h1 h64 => ?ahead, fun h65 h31 => ?farAhead, fun h31 r hr => ?answered, fun h31 hnone c hc hseq => ?notCompleted,
      fun h31 hnone ha hcur => ?old⟩
    case ahead => exact becomes_of_hears hh (Mod.sequence_ahead hl' h1 h64)
    case farAhead => exact becomes_of_hears hh (Mod.sequence_farAhead hl' h65 h31)
    case answered => exact becomes_of_hears hh (Mod.sequence_answered hl' h31 hr)
    case notCompleted => exact becomes_of_hears hh (Mod.sequence_notCompleted hl' h31 hnone hc hseq)
    case old => exact becomes_of_hears hh (Mod.sequence_old hl' h31 hnone ha hcur)
  case refused =>
    obtain ⟨hout, hlane, hun⟩ := Mod.receive_refused hh hl hexp hheld hbad hcheck
    refine next_of_lift (f := fun m => m.receive op p) (exec_instr op p s) ⟨hout, ⟨_, hlane, ?_, rfl, rfl, ?_⟩, rfl, ?_⟩
    · rw [hexp]
    · dsimp only
      exact mem_lastN_concat ls.replies _
    · exact ⟨congrArg Untouched.jobs hun, congrArg Untouched.ties hun, congrArg Untouched.mem hun, congrArg Untouched.tierC hun,
        congrArg Untouched.pools hun, congrArg Untouched.arrays hun, congrArg Untouched.log hun, congrArg Untouched.policy hun,
        congrArg Untouched.boot hun, congrArg Untouched.power hun, congrArg Untouched.timer hun, congrArg Untouched.registry hun,
        congrArg Untouched.escalations hun⟩

/-! ### Completion (R52, R56, R58) -/

theorem getLast_lastN_concat {α : Type} (l : List α) (x : α) : (lastN 256 (l ++ [x])).getLast? = some x := by
  unfold lastN
  rw [List.drop_append_of_le_length (by simp)]
  simp

/-- Settles O21: what `Mod.complete_spec` says of the lane and of what leaves the module. -/
theorem completionReplies : Obligations.CompletionReplies := by
  intro m id st d pl r ls hr hl ss hs
  obtain ⟨hlane, hout, -⟩ := Mod.complete_spec m id st d pl r ls hr hl
  refine ⟨_, r.cmd.reply m.timer st d r.sum pl, hlane, rfl, rfl, rfl, ?_, rfl, rfl, rfl, rfl, rfl, rfl, fun hq => hout ss hs ?_⟩
  · dsimp only
    rw [getLast_lastN_concat]
  · obtain hq | hq := hq <;> simp [hq]

end Sys2Proof.Machine
end

section
/-!
PROOFS. PLAN_LOAD (R62, R67-R70, R494, R527).
-/

namespace Sys2Proof.Machine

/-- What no step of a fold changes, the fold does not change. -/
theorem foldl_field {α β : Type} {f : Mod → α → Mod} {g : Mod → β} (h : ∀ m x, g (f m x) = g m) (l : List α) (m : Mod) :
    g (l.foldl f m) = g m := by
  induction l generalizing m with
  | nil => rfl
  | cons x l ih => rw [List.foldl_cons, ih, h]

/-! ### PLAN_LOAD (R62, R67–R70) -/

section PlanLoad
variable {m : Mod} {id : CmdId} {c : Cmd}

theorem Mod.startPlanLoad_loaded {j : Job} (hj : m.job? c.job = some j) :
    m.startPlanLoad id c = (if j.waleBusy then m.complete id .busyReducing j.waleOps
      else m.complete id .refusedFit (refuseFit .jobLoaded 0).2) := by
  simp only [Mod.startPlanLoad, hj]
  rfl

variable {ss : Session} (hj : m.job? c.job = none) (hs : m.session? c.sid = some ss)
include hj hs

/-- R499: a plan whose key the policy does not list is refused. -/
theorem Mod.startPlanLoad_unlisted
    (h : ((planOf (ss.staging.read (c.pkt.u 0 8) (c.pkt.u 8 4))).hasSection 1 &&
      !((m.policy.map (·.planKeys)).getD []).contains (planOf (ss.staging.read (c.pkt.u 0 8) (c.pkt.u 8 4))).ownerKey) = true) :
    ∃ d, m.startPlanLoad id c = { m with free := m.free + 1 }.complete id .refusedAuth d := by
  simp only [Mod.startPlanLoad, hj, hs, Option.map_some, Option.getD_some, if_pos h]
  exact ⟨_, rfl⟩

theorem Mod.startPlanLoad_checked
    (h : ((planOf (ss.staging.read (c.pkt.u 0 8) (c.pkt.u 8 4))).hasSection 1 &&
      !((m.policy.map (·.planKeys)).getD []).contains (planOf (ss.staging.read (c.pkt.u 0 8) (c.pkt.u 8 4))).ownerKey) = false) :
    m.startPlanLoad id c =
      match fitChecks m (planOf (ss.staging.read (c.pkt.u 0 8) (c.pkt.u 8 4))) (ss.staging.read (c.pkt.u 0 8) (c.pkt.u 8 4)) c.job
        c.pkt.inc.toNat (c.pkt.u 8 4) with
      | .error u => m.complete id .refusedFit (fitDetail u.res u.index u.short)
      | .ok pl => (m.installPlan (planOf (ss.staging.read (c.pkt.u 0 8) (c.pkt.u 8 4))) pl c.sid).complete id .ok 0
          (planOf (ss.staging.read (c.pkt.u 0 8) (c.pkt.u 8 4))).loadReply := by
  simp only [Mod.startPlanLoad, hj, hs, Option.map_some, Option.getD_some, h, Bool.false_eq_true, if_false] <;> rfl

end PlanLoad

section Install
variable (m : Mod) (p : Plan) (pl : Placed) (sid : Nat)

/-- The memory that a plan takes is filled with +0 first; that touches neither jobs nor ties nor lanes. -/
theorem Mod.installPlan_jobs : (m.installPlan p pl sid).jobs = m.jobs.concat (m.newJob p pl sid) :=
  congrArg (List.concat · (m.newJob p pl sid))
    (foldl_field (g := Mod.jobs) (f := fun m (e : Nat × Nat) => m.zeroFill e.1 e.2) (fun m e => Mod.zeroFill_jobs m e.1 e.2) _ m)

theorem Mod.installPlan_ties :
    (m.installPlan p pl sid).ties = m.ties.filter (fun t => t.job != p.job) ++ p.ties.map fun t =>
      ({ ref := t.ref, job := p.job, inc := p.inc, level := t.level, value := t.value } : Tie) :=
  congrArg (fun ts : List Tie => ts.filter (fun t => t.job != p.job) ++ _)
    (foldl_field (g := Mod.ties) (f := fun m (e : Nat × Nat) => m.zeroFill e.1 e.2) (fun m e => Mod.zeroFill_ties m e.1 e.2) _ m)

theorem find_fresh_lane {qs : List Nat} {q : Nat} (h : q ∈ qs) (ls : List LaneState) :
    ((ls.filter fun l => !((qs.map fun q => ({ lane := .queue q } : LaneState)).any fun x => x.lane == l.lane)) ++
      qs.map fun q => ({ lane := .queue q } : LaneState)).find? (fun l => l.lane == .queue q) = some { lane := .queue q } := by
  have hothers : ((ls.filter fun l => !((qs.map fun q => ({ lane := .queue q } : LaneState)).any fun x => x.lane == l.lane)).find?
      fun l => l.lane == .queue q) = none := by
    rw [List.find?_eq_none]
    intro l hl hlane
    rw [List.mem_filter] at hl
    have hlq : l.lane = .queue q := by simpa using hlane
    have hnot := hl.2
    simp only [List.any_map, hlq] at hnot
    simp at hnot
    exact hnot q h rfl
  rw [List.find?_append, hothers, Option.none_or, List.find?_map]
  cases hf : qs.find? ((fun l : LaneState => l.lane == .queue q) ∘ fun q => { lane := .queue q }) with
  | none => exact absurd (List.find?_eq_none.mp hf q h) (by simp)
  | some x =>
    obtain rfl : x = q := by simpa using List.find?_some hf
    rfl

/-- R70: the queues of a loaded plan expect number 0. -/
theorem Mod.installPlan_lane {q : Nat} (h : q ∈ p.queueIds) :
    (m.installPlan p pl sid).lane? (.queue q) = some { lane := .queue q } := find_fresh_lane h _

end Install

/-- Settles O34: PLAN_LOAD by whether the job is loaded, its key listed and its demand met. -/
theorem planLoadOutcome : Obligations.PlanLoadOutcome := by
  intro m id c
  refine ⟨fun j hj => Mod.startPlanLoad_loaded hj, fun hj ss hs => ⟨fun hsec hkey => ?unlisted, fun hlisted => ?checked⟩,
    fun p pl sid => ⟨m.installPlan_jobs p pl sid, rfl, rfl, m.installPlan_ties p pl sid, fun q hq => ?queue⟩⟩
  case unlisted => exact Mod.startPlanLoad_unlisted hj hs (by rw [hsec, hkey]; rfl)
  case checked =>
    refine Mod.startPlanLoad_checked hj hs ?_
    obtain h | h := hlisted <;> rw [h] <;> simp
  case queue => exact ⟨_, m.installPlan_lane p pl sid hq, rfl, rfl, rfl, rfl⟩

end Sys2Proof.Machine
end

section
/-!
PROOFS. The other commands of the Jobs group (R63, R64, R70-R74). A released job is gone with its ties, whatever the steward then
grants (R431): `Mod.Lacks` says so, and each operation behind it keeps it.
-/

namespace Sys2Proof.Machine

/-! ### What a released job leaves (R73) -/

theorem Tie.add_job (t : Tie) (a : Int) : (t.add a).1.job = t.job := by
  unfold Tie.add
  dsimp only
  repeat' split
  all_goals rfl

theorem Tie.serve_job (t : Tie) : t.serve.1.job = t.job := by
  unfold Tie.serve
  split <;> rfl

theorem Mod.sendReply_standing (m : Mod) (sid : Nat) (q : Bool) (r : Reply) : (m.sendReply sid q r).standing = m.standing := by
  unfold Mod.sendReply
  repeat' split
  all_goals rfl

theorem Mod.letGo_standing (m : Mod) : m.letGo.standing = m.standing := by
  unfold Mod.letGo
  split
  · rfl
  · simp only [emitAll_eq]
    rfl

/-- What the end of a command leaves in its job (R315, R573). -/
def Job.ended (j : Job) (id : CmdId) (st : Status) (sum : Summary) : Job :=
  { j with
    local_ := j.local_.after st sum
    counters := ((((j.counters.bump .NONFINITE sum.nonfinite).bump .UNDERFLOW sum.underflow).bump
      .CORRECTED sum.corrected).bump .SATURATED sum.saturated)
    copyReads := j.copyReads.filter fun p => p.2 != id }

/-- Neither a job with the number nor a tie of such a job is in the module. -/
structure Mod.Lacks (m : Mod) (job : Nat) : Prop where
  jobs : ∀ j ∈ m.jobs, j.plan.job ≠ job
  ties : ∀ t ∈ m.ties, t.job ≠ job

namespace Mod.Lacks
variable {m : Mod} {job : Nat} (h : m.Lacks job)

theorem job_none (h : m.Lacks job) : m.job? job = none := by
  unfold Mod.job?
  rw [List.find?_eq_none]
  intro j hj
  simpa using h.jobs j hj

include h

theorem of_eq {t : Mod} (hj : t.jobs = m.jobs) (ht : t.ties = m.ties) : t.Lacks job := ⟨hj ▸ h.jobs, ht ▸ h.ties⟩

theorem of_standing {t : Mod} (ht : t.standing = m.standing) : t.Lacks job :=
  h.of_eq (Mod.jobs_of_standing ht) (Mod.ties_of_standing ht)

/-- Changes of a job that keep its number. -/
theorem updJob (id : Nat) {f : Job → Job} (hf : ∀ j, (f j).plan.job = j.plan.job) : (m.updJob id f).Lacks job := by
  refine ⟨fun j hj => ?_, h.ties⟩
  obtain ⟨j0, hj0, rfl⟩ := List.mem_map.mp hj
  split
  · rw [hf]; exact h.jobs j0 hj0
  · exact h.jobs j0 hj0

theorem countJob (id : Nat) (k : Ctr) (n : Nat) : (m.countJob id k n).Lacks job := by
  unfold Mod.countJob
  split
  · exact h
  · exact h.updJob id fun _ => rfl

theorem setTie {t : Tie} (ht : t.job ≠ job) : (m.setTie t).Lacks job := by
  refine ⟨h.jobs, fun o ho => ?_⟩
  obtain ⟨o0, ho0, rfl⟩ := List.mem_map.mp ho
  split
  · exact ht
  · exact h.ties o0 ho0

theorem tie_job {ref : Nat} {t : Tie} (ht : m.tie? ref = some t) : t.job ≠ job := h.ties t (List.mem_of_find?_eq_some ht)

theorem addTie (ref : Nat) (a : Int) : (m.addTie ref a).1.Lacks job := by
  unfold Mod.addTie
  split
  · exact h
  · rename_i t ht
    have htj := h.tie_job ht
    split
    · exact h.countJob t.job .TIE_SIGNALS_DISCARDED 1
    · exact (h.countJob t.job .TIE_SATURATIONS _).setTie (by rw [Tie.add_job]; exact htj)

theorem release (ref : Nat) (w : Waiter) (v : Nat) : (m.release ref w v).1.Lacks job := by
  unfold Mod.release
  repeat' split
  all_goals exact h.of_eq rfl rfl

theorem releaseAll (ref : Nat) (ws : List (Waiter × Nat)) : (m.releaseAll ref ws).1.Lacks job := by
  induction ws generalizing m with
  | nil => exact h
  | cons w ws ih => exact ih (h.release ref w.1 w.2)

theorem serveTie (ref : Nat) : (m.serveTie ref).1.Lacks job := by
  unfold Mod.serveTie
  split
  · exact h
  · rename_i t ht
    have htj : t.serve.1.job ≠ job := t.serve_job.symm ▸ h.tie_job ht
    exact (h.setTie htj).releaseAll ref t.serve.2

theorem dropWaiters (id : CmdId) : (m.dropWaiters id).1.Lacks job := by
  refine ⟨h.jobs, fun t ht => ?_⟩
  obtain ⟨t0, ht0, rfl⟩ := List.mem_map.mp ht
  exact h.ties t0 ht0

theorem finish (id : CmdId) (st : Status) (d : Nat) (p : Bytes) : (m.finish id st d p).1.Lacks job := by
  unfold Mod.finish
  split
  · exact h
  · rename_i r _
    let rep := r.cmd.reply m.timer st d r.sum p
    have hreplied : ((((m.updLane id.lane fun s => { s with current := none }).storeReply id.lane rep)).sendReply r.cmd.sid
        r.cmd.pkt.quiet rep).Lacks job := h.of_standing (Mod.sendReply_standing _ _ _ _)
    refine (of_standing ?_ (Mod.letGo_standing _)).dropWaiters id
    refine of_standing ?_ (Mod.trace_standing _ _)
    exact of_eq (hreplied.updJob r.cmd.job (f := fun j => j.ended id st r.sum) fun _ => rfl) rfl rfl

theorem settleFuel (n : Nat) (ts : List Todo) : (m.settleFuel n ts).Lacks job := by
  induction n generalizing m ts with
  | zero => exact h
  | succ n ih =>
    cases ts with
    | nil => exact h
    | cons t ts =>
      unfold Mod.settleFuel
      cases t with
      | add ref a => exact ih (h.addTie ref a) _
      | serve ref => exact ih (h.serveTie ref) _
      | done id st d p => exact ih (h.finish id st d p) _

theorem complete (id : CmdId) (st : Status) (d : Nat) (p : Bytes) : (m.complete id st d p).Lacks job := h.settleFuel _ _

theorem setOwner (region : Nat) (owner : Option (Nat × Nat)) (stale : Bool) : (m.setOwner region owner stale).Lacks job := by
  unfold Mod.setOwner
  dsimp only
  split <;> exact h.of_eq rfl rfl

theorem stewardAnswered (id : CmdId) (stale full : Bool) : (m.stewardAnswered id stale full).Lacks job := by
  unfold Mod.stewardAnswered
  split
  · exact h
  split
  · split
    · exact h.of_eq rfl rfl
    · dsimp only
      split
      · exact complete (h.updJob _ (by intro _; rfl)) _ _ _ _
      · exact complete (h.updJob _ (by intro _; rfl)) _ _ _ _
  · exact h

theorem grantNext (region : Nat) : (m.grantNext region).Lacks job := by
  unfold Mod.grantNext
  split
  · exact h
  · rename_i w _
    unfold Mod.grantRegion Mod.answerOwner
    have hset := setOwner (m := { m with ownWaits := m.ownWaits.erase w }) (h.of_eq rfl rfl) w.region (some (w.owner, w.job)) false
    dsimp only
    split
    · exact hset.stewardAnswered _ _ _
    · exact hset.of_eq rfl rfl

/-- R431: what the steward does when an owner ends brings no job and no tie. -/
theorem clearOwner (owner : Nat) (j : Option Nat) (stale : Bool) : (m.clearOwner owner j stale).Lacks job := by
  have hfold (l : List OwnEntry) (m : Mod) (h : m.Lacks job) :
      (l.foldl (fun m e => (m.setOwner e.region none stale).grantNext e.region) m).Lacks job := by
    induction l generalizing m with
    | nil => exact h
    | cons e l ih => exact ih _ ((h.setOwner e.region none stale).grantNext e.region)
  exact hfold _ _ (h.of_eq rfl rfl)

end Mod.Lacks

/-- R73: a job that is unloaded is gone, and so are its ties. -/
theorem Mod.unload_lacks (m : Mod) (j : Job) : (m.unload j).Lacks j.plan.job := by
  have hleft (x : Mod) (hj : ∀ o ∈ x.jobs, o.plan.job ≠ j.plan.job) (ht : ∀ t ∈ x.ties, t.job ≠ j.plan.job) :
      (if x.isSteward then x.clearOwner x.modAddr (some j.plan.job) false else x).Lacks j.plan.job := by
    have h : x.Lacks j.plan.job := ⟨hj, ht⟩
    split
    · exact h.clearOwner _ _ _
    · exact h
  unfold Mod.unload
  extract_lets
  refine hleft _ (fun o ho => ?_) (fun t ht => ?_)
  · simpa using (List.mem_filter.mp ho).2
  · simpa using (List.mem_filter.mp ht).2

/-! ### The commands of the Jobs group when they start (R64, R70–R74) -/

section JobsGroup
variable {m : Mod} {id : CmdId} {c : Cmd} {j : Job} (hj : m.job? c.job = some j)
include hj

/-- R70: a job that was only loaded starts with its declared ties. -/
theorem Mod.startPlanStart_loaded (hpeers : j.plan.trayPeers = []) (hphase : j.phase = .loaded) :
    m.startPlanStart id c =
      (((((m.applyPools c.job).updJob c.job fun j => { j with phase := .running }).answerHolds c.job).replayWale c.job).pokeVerdict
        c.job).complete id .ok 0 := by
  have hloaded : (JobPhase.loaded == JobPhase.quiesced) = false := rfl
  simp only [Mod.startPlanStart, hj, hpeers, hphase, hloaded, Bool.false_eq_true, if_false, List.foldl_nil]

theorem Mod.startQuiesce_eq :
    m.startQuiesce id c = (m.updJob c.job fun j => { j with phase := .quiescing }).setWork id.lane (.drain j.deadlines) := by
  simp only [Mod.startQuiesce, hj]

theorem Mod.startUnload_unbound (hn : (m.jobs.countP fun o => o.plan.cls == 2 && o.bound == c.job) = 0) :
    m.startUnload id c = (m.unload j).complete id .ok 0 := by
  simp only [Mod.startUnload, hj, hn, ne_eq, not_true, if_false]

theorem Mod.startUnload_bound {n : Nat} (hn : (m.jobs.countP fun o => o.plan.cls == 2 && o.bound == c.job) = n) (h0 : n ≠ 0) :
    m.startUnload id c = m.complete id .refusedFit (refuseFit .fillerBound n).2 := by
  simp only [Mod.startUnload, hj, hn, if_pos h0]
  rfl

end JobsGroup

/-- Settles O35: the Jobs commands by their guards, and the operations of each phase from `JobPhase.accepts`. -/
theorem jobCommands : Obligations.JobCommands := by
  refine ⟨fun m id c j hj => ?commands, fun op => ?phases⟩
  case commands =>
    have hjob : j.plan.job = c.job := by simpa using List.find?_some hj
    have hgone : (m.unload j).Lacks c.job := hjob ▸ m.unload_lacks j
    exact ⟨Mod.startPlanStart_loaded hj, Mod.startQuiesce_eq hj, Mod.startUnload_unbound hj, fun n hn h0 => Mod.startUnload_bound hj hn h0,
      hgone.job_none, hgone.ties, rfl, rfl⟩
  case phases =>
    refine ⟨rfl, ?_, ?_, ?_, ?_⟩
    all_goals simp [JobPhase.accepts, or_assoc]
end Sys2Proof.Machine
end

section
/-!
PROOFS. Messages of the exchange that are turned away (R62, R286, R353), and the wale packets (R291-R316).
-/

namespace Sys2Proof.Machine

/-! ### Exchange messages that do nothing (R62, R286, R353) -/

section Stray
variable {m : Mod} {x : ExMsg} {f : Mod → Job → ExchangeDecl → Nat → Mod}

theorem Mod.exchangeMsg_of_noJob (h : m.job? x.job = none) : m.exchangeMsg x f = m.count .staleTraffic := by
  simp [Mod.exchangeMsg, Mod.exTarget, h]

variable {j : Job} (hj : m.job? x.job = some j)
include hj

theorem Mod.exchangeMsg_of_resetting (h : m.resettingFor x.job = true) :
    m.exchangeMsg x f = m.turnAway (.exchange x.source x) := by
  simp [Mod.exchangeMsg, Mod.exTarget, hj, h]

theorem Mod.exchangeMsg_of_inc_ne (h : m.resettingFor x.job = false) (hinc : j.plan.inc ≠ x.inc) :
    m.exchangeMsg x f = m.count .staleTraffic := by
  simp [Mod.exchangeMsg, Mod.exTarget, hj, h, hinc]

end Stray

/-- Every kind of exchange message goes by way of its target. -/
theorem exec_exchangeMsg (x : ExMsg) (s : State) :
    ∀ i ∈ [Instr.counts x, .parcel x, .accept x, .hold x, .pull x, .result x, .tags x, .keep x, .grad x, .dgrad x, .spoil x],
      ∃ f, exec i s = lift (fun m => m.exchangeMsg x f) s := by
  simp only [List.forall_mem_cons, List.not_mem_nil, false_imp_iff, implies_true, and_true]
  exact ⟨⟨_, rfl⟩, ⟨_, rfl⟩, ⟨_, rfl⟩, ⟨_, rfl⟩, ⟨_, rfl⟩, ⟨_, rfl⟩, ⟨_, rfl⟩, ⟨_, rfl⟩, ⟨_, rfl⟩, ⟨_, rfl⟩, ⟨_, rfl⟩⟩

/-- Settles O39: each kind of message meets `Mod.exTarget` first, which turns it away. -/
theorem strayExchangeMessages : Obligations.StrayExchangeMessages := by
  intro s x i hi
  obtain ⟨f, hf⟩ := exec_exchangeMsg x s i hi
  exact ⟨fun h => becomes_of_lift hf (Mod.exchangeMsg_of_noJob h), fun j hj h => becomes_of_lift hf (Mod.exchangeMsg_of_resetting hj h),
    fun j hj h hinc => becomes_of_lift hf (Mod.exchangeMsg_of_inc_ne hj h hinc)⟩

/-! ### A wale packet reaches its job (R62, R64, R353) -/

section Entry
variable {m t : Mod} {kind : WaleKind} {x : WaleMsg} {j : Job}

theorem Mod.onWale_resetting (h : m.resettingFor x.job = true) : m.onWale kind x = m.turnAway (.wale x.source kind x) := if_pos h

theorem Mod.onWale_stale (h : m.resettingFor x.job = false) (hj : m.current? x.job x.inc = none) :
    m.onWale kind x = (m.count .staleTraffic).countJob x.job .WALE_STALE := by
  simp [Mod.onWale, h, hj]

theorem Mod.onWale_loaded (h : m.resettingFor x.job = false) (hj : m.current? x.job x.inc = some j) (hp : j.phase = .loaded) :
    m.onWale kind x = m.holdWale x.job kind x := by
  simp [Mod.onWale, h, hj, hp]

variable (h : m.takesWale kind x j)
include h

theorem Mod.onWale_taken :
    m.onWale kind x = (if (m.takeWale j kind x).2 then (m.takeWale j kind x).1
      else (m.takeWale j kind x).1.holdWale x.job kind x).replayWale x.job := by
  obtain ⟨hr, hj, hp, hroll⟩ := h
  have hwindow : (j.rollbackUntil.isSome && waleStepped kind && j.waleStep x.step == j.step.toNat) = false := by
    obtain h | h | h := hroll <;> simp [h]
  simp [Mod.onWale, hr, hj, hp, hwindow]

theorem Mod.onWale_took (ht : m.takeWale j kind x = (t, true)) : m.onWale kind x = t.replayWale x.job := by
  rw [Mod.onWale_taken h, ht]
  rfl

theorem Mod.onWale_notTook (ht : m.takeWale j kind x = (t, false)) :
    m.onWale kind x = (t.holdWale x.job kind x).replayWale x.job := by
  rw [Mod.onWale_taken h, ht]
  rfl

end Entry

/-! ### What each kind of packet does when it is taken (R291–R316) -/

/-- A node whose deadline has not passed takes an input as it is (R305). -/
theorem Mod.passNode_early {m : Mod} {job bucket step shard : Nat}
    (h : ∀ a d, m.nodeAt? job bucket step shard = some a → a.n.deadline = some d → m.now ≤ d) :
    m.passNode job bucket step shard = m := by
  unfold Mod.passNode
  split
  · rename_i a ha
    cases hd : a.n.deadline with
    | none => rfl
    | some d => simp [Nat.not_lt.mpr (h a d ha hd)]
  · rfl

section Bucket
variable {m : Mod} {x : WaleMsg} {j : Job} {b : BucketDecl} (hb : j.plan.bucket? x.bucket = some b)
include hb

/-- R293: a child's chunk is its node's input. -/
theorem Mod.onChunk_child {e r : Nat} (hstep : j.step.toNat ≤ j.waleStep x.step + 16)
    (hchild : (((⟨(j.plan.group b.group).length, x.shard⟩ : Tree).children (j.plan.posIn b.group)).find? fun c =>
      j.plan.rankOf b.group c.2 == x.source) = some (e, r))
    (hearly : ∀ a d, ((m.ackWale j x).ensureNode j.plan.job b.id (j.waleStep x.step) x.shard).nodeAt? j.plan.job b.id (j.waleStep x.step)
      x.shard = some a → a.n.deadline = some d →
      ((m.ackWale j x).ensureNode j.plan.job b.id (j.waleStep x.step) x.shard).now ≤ d) :
    m.onChunk j x = (((m.ackWale j x).ensureNode j.plan.job b.id (j.waleStep x.step) x.shard).giveInput j.plan.job b.id
      (j.waleStep x.step) x.shard
      { edge := e, chunk := (b.shard (j.plan.group b.group).length x.shard).1 + x.chunk
        values := decodeChunk x.vfmt (b.chunkElems ((b.shard (j.plan.group b.group).length x.shard).1 + x.chunk)) x.body
        contrib := x.contrib, missing := x.missing, scales := bodyCodes x.vfmt x.body }).endReduces j.plan.job b.id
      (j.waleStep x.step) := by
  simp only [Mod.onChunk, hb, if_neg (Nat.not_lt.mpr hstep), hchild, Mod.passNode_early hearly]

/-- R297: the parent's acknowledgement ends its chunk. -/
theorem Mod.onAck_parent (h0 : x.bucket ≠ 0)
    (hp : (((⟨(j.plan.group b.group).length, x.shard⟩ : Tree).parent (j.plan.posIn b.group)).map (j.plan.rankOf b.group)) = some x.source) :
    m.onAck j x = (m.updNode j.plan.job b.id (j.waleStep x.step) x.shard fun nd =>
      { nd with
        formed := nd.formed.map (fun f => if f.chunk == (b.shard (j.plan.group b.group).length x.shard).1 + x.chunk then { f with acked := true } else f)
        inputs := nd.inputs.filter fun i => i.chunk != (b.shard (j.plan.group b.group).length x.shard).1 + x.chunk || i.contrib == 0 }).endReduces
      j.plan.job b.id (j.waleStep x.step) := by
  simp only [Mod.onAck, if_neg h0, hb, hp, beq_self_eq_true, if_true]

/-- R311: another rank's acknowledgement is of a gathered chunk. -/
theorem Mod.onAck_gathered (h0 : x.bucket ≠ 0)
    (hp : (((⟨(j.plan.group b.group).length, x.shard⟩ : Tree).parent (j.plan.posIn b.group)).map (j.plan.rankOf b.group)) ≠ some x.source) :
    m.onAck j x = (m.updGather j.plan.job b.id (j.waleStep x.step) fun g =>
      { g with unacked := g.unacked.erase (x.shard, (b.shard (j.plan.group b.group).length x.shard).1 + x.chunk, x.source) }).endGathers
      j.plan.job := by
  simp only [Mod.onAck, if_neg h0, hb, beq_iff_eq, if_neg hp]

/-- R311: a chunk of a shard that is not stored yet is acknowledged, stored and sent on. -/
theorem Mod.onGather_fresh (h0 : x.bucket ≠ 0) {j' : Job} {g : GatherState}
    (hj : (m.ensureGather j.plan.job b.id (j.waleStep x.step)).job? j.plan.job = some j') (hg : j'.gather? b.id (j.waleStep x.step) = some g)
    (hc : g.stored.contains (x.shard, (b.shard (j.plan.group b.group).length x.shard).1 + x.chunk) = false) :
    m.onGather j x = (((((m.ensureGather j.plan.job b.id (j.waleStep x.step)).ackWale j x).takeGather j b (j.waleStep x.step) x.shard
      ((b.shard (j.plan.group b.group).length x.shard).1 + x.chunk) x.vfmt x.body).endGathers j.plan.job), true) := by
  simp only [Mod.onGather, if_neg h0, hb, hj, Option.bind_some, hg, hc, Bool.false_eq_true, if_false]

/-- R299: the parent's SCALES are stored for the next step and sent on to the children. -/
theorem Mod.onScales_bucket {t u : Mod}
    (ht : t = (m.storeScales j.plan.job b.id (j.waleStep x.step + 1) x.shard (x.body.map BitVec.toNat)).ensureNode j.plan.job b.id
      (j.waleStep x.step) x.shard)
    (hsome : ∀ a, t.nodeAt? j.plan.job b.id (j.waleStep x.step) x.shard = some a → u = t.sendScales a (x.body.map BitVec.toNat))
    (hnone : t.nodeAt? j.plan.job b.id (j.waleStep x.step) x.shard = none → u = t) :
    m.onScales j x = (((u.formNode j.plan.job b.id (j.waleStep x.step + 1) x.shard false).endReduces j.plan.job b.id
      (j.waleStep x.step + 1)).pokeScales j.plan.job) := by
  simp only [Mod.onScales, hb, ← ht]
  cases hn : t.nodeAt? j.plan.job b.id (j.waleStep x.step) x.shard with
  | none => rw [hnone hn]
  | some a => rw [hsome a hn]

end Bucket

theorem Mod.onNormUp_child {m : Mod} {x : WaleMsg} {j : Job} {e r : Nat}
    (h : ((j.plan.normTree.children j.plan.rank).find? fun c => c.2 == x.source) = some (e, r)) :
    m.onNormUp j x = m.giveNorm j (j.waleStep x.step) e x.vec (vDegraded x.word) (vSpoiled x.word) (vNonfinite x.word) (vSpoiler x.word) := by
  simp only [Mod.onNormUp, h]

/-- Whether a SEND still waits for the CLEAR of its peer (R314). -/
def Running.waitsClear (r : Running) : Bool :=
  match r.work with
  | .stream _ _ _ _ clear _ => !clear
  | _ => false

/-- Whether a RECV runs that lacks a chunk (R314). -/
def Running.lacksChunk (n : Nat) (r : Running) : Bool :=
  match r.work with
  | .stream _ _ _ true _ chunks => !chunks.contains n
  | _ => false

section Streams
variable {m t : Mod} {x : WaleMsg} {j : Job} {id : CmdId} {r : Running}

/-- A CLEAR that no SEND waits for is kept (R314). -/
theorem Mod.onClear_kept (ht : t = m.updJob j.plan.job fun j => { j with clears := j.clears.concat (x.source, x.step, x.count) })
    (h : ((t.streams j.plan.job .send x.source x.step).find? fun s => s.2.waitsClear) = none) : m.onClear j x = t := by
  subst ht
  unfold Mod.onClear
  dsimp only
  split
  · rename_i h'
    cases h'.symm.trans h
  · rfl

/-- A CLEAR lets the oldest SEND that waits for it go on (R314). -/
theorem Mod.onClear_goesOn (ht : t = m.updJob j.plan.job fun j => { j with clears := j.clears.concat (x.source, x.step, x.count) })
    (h : ((t.streams j.plan.job .send x.source x.step).find? fun s => s.2.waitsClear) = some (id, r)) : m.onClear j x = t.pokeSend id := by
  subst ht
  unfold Mod.onClear
  dsimp only
  split
  · rename_i h'
    cases h'.symm.trans h
    rfl
  · rename_i h'
    cases h'.symm.trans h

/-- A chunk that no RECV takes is not taken (R314, log 57). -/
theorem Mod.onSendData_untaken (h : ((m.streams j.plan.job .recv x.source x.step).find? fun s => s.2.lacksChunk x.chunk) = none) :
    m.onSendData j x = (m, false) := by
  unfold Mod.onSendData
  split
  · rfl
  · rename_i h'
    cases h'.symm.trans h

/-- R314: the chunk is checked and written into the RECV that lacks it, and is acknowledged. -/
def Mod.landChunk (m : Mod) (j : Job) (x : WaleMsg) (id : CmdId) (r : Running) (d : Data) (peer tag : Nat) (got : List (Nat × Byte))
    (chunks : List Nat) : Mod :=
  let rd := m.reader d.j got
  let q := d.chunkPut (d.v 0x10) rd r.cut x.chunk x.vfmt x.body
  let k := m.checkAccess (some r.cmd) q.1.reads (q.1.writes.map (·.1))
  let t := k.1.updSum id.lane fun s => { s.counts q.1.counts with corrected := s.corrected + k.2.1 }
  match k.2.2 with
  | some n => t.complete id .faultDetected n
  | none => ((((t.land d.j id rd q.1.writes).updRunning id.lane fun r => { r with cut := q.2 }).setWork id.lane
      (.stream peer tag (q.1.writes ++ got) true true (chunks.concat x.chunk))).ackWale j x).endRecv id

section Taken
variable {r' : Running} {d : Data} {peer tag : Nat} {got : List (Nat × Byte)} {clear : Bool} {chunks : List Nat}
  (h : ((m.streams j.plan.job .recv x.source x.step).find? fun s => s.2.lacksChunk x.chunk) = some (id, r))
  (hd : m.dataAt? id = some (r', d)) (hw : r.work = .stream peer tag got true clear chunks)
include h hd hw

/-- R314: element counts that differ end the RECV with BOUNDS. -/
theorem Mod.onSendData_bounds (hv : x.count ≠ (d.v 0x10).d.volume) : m.onSendData j x = (m.complete id .bounds x.count, true) := by
  unfold Mod.onSendData
  split
  · rename_i h'
    cases h'.symm.trans h
  · rename_i h'
    cases h'.symm.trans h
    simp only [hd, hw, if_pos hv]

theorem Mod.onSendData_lands (hv : x.count = (d.v 0x10).d.volume) :
    m.onSendData j x = (m.landChunk j x id r d peer tag got chunks, true) := by
  unfold Mod.onSendData
  split
  · rename_i h'
    cases h'.symm.trans h
  · rename_i h'
    cases h'.symm.trans h
    simp only [hd, hw, if_neg (not_not.mpr hv), Mod.landChunk]
    generalize m.checkAccess _ _ _ = k
    obtain ⟨t, corrected, bad⟩ := k
    cases bad <;> rfl

end Taken
end Streams

/-- Every kind of wale packet but the verdict goes by way of the packet's job. -/
theorem exec_onWale (x : WaleMsg) (s : State) :
    ∀ p ∈ [(Instr.chunk x, WaleKind.chunk), (.ack x, .ack), (.scales x, .scales), (.gatherChunk x, .gather),
        (.normUp x, .normUp), (.clear x, .clear), (.sendData x, .sendData)],
      exec p.1 s = lift (fun m => m.onWale p.2 x) s := by
  simp only [List.forall_mem_cons, List.not_mem_nil, false_imp_iff, implies_true, and_true]
  exact ⟨rfl, rfl, rfl, rfl, rfl, rfl, rfl⟩

/-- A packet that is taken leaves what its taking left, with what the job held looked at again. -/
theorem becomes_of_took {s : State} {x : WaleMsg} {j : Job} {t : Mod} {i : Instr} {kind : WaleKind} (hi : exec i s = lift (fun m => m.onWale kind x) s) (h : s.m.takesWale kind x j)
    (ht : s.m.takeWale j kind x = (t, true)) : becomes i s (t.replayWale x.job) :=
  becomes_of_lift hi (Mod.onWale_took h ht)

/-- Settles O42: the packet's job turns it away, holds it or takes it (`Mod.onWale_…`), and each kind has a lemma for its taking. -/
theorem walePacketRows : Obligations.WalePacketRows := by
  intro s x
  refine ⟨fun p hp => ?_, fun j b hb => ?_, fun j e r h hc => ?_, fun j h => ?_, fun j h => ?_⟩
  · have hi := exec_onWale x s p hp
    exact ⟨fun h => becomes_of_lift hi (Mod.onWale_resetting h), fun h hj => becomes_of_lift hi (Mod.onWale_stale h hj),
      fun j h hj hl => becomes_of_lift hi (Mod.onWale_loaded h hj hl), fun j h => becomes_of_lift hi (Mod.onWale_taken h)⟩
  · refine ⟨fun e r h hstep hc hearly => ?_, fun h h0 => ⟨fun hp => ?_, fun hp => ?_⟩, fun h => ?_, fun h h0 j' g hj hg hc => ?_⟩
    · exact becomes_of_took rfl h (congrArg (·, true) (Mod.onChunk_child hb hstep hc hearly))
    · exact becomes_of_took rfl h (congrArg (·, true) (Mod.onAck_parent hb h0 hp))
    · exact becomes_of_took rfl h (congrArg (·, true) (Mod.onAck_gathered hb h0 hp))
    · exact becomes_of_took rfl h (congrArg (·, true) (Mod.onScales_bucket hb rfl (fun a ha => by simp only [ha]) (fun hn => by simp only [hn])))
    · exact becomes_of_took rfl h (Mod.onGather_fresh hb h0 hj hg hc)
  · exact becomes_of_took rfl h (congrArg (·, true) (Mod.onNormUp_child hc))
  · exact ⟨fun hn => becomes_of_took rfl h (congrArg (·, true) (Mod.onClear_kept rfl hn)),
      fun id r hr => becomes_of_took rfl h (congrArg (·, true) (Mod.onClear_goesOn rfl hr))⟩
  · refine ⟨fun hn => becomes_of_lift (f := fun m => m.onWale .sendData x) rfl (Mod.onWale_notTook h (Mod.onSendData_untaken hn)), fun id r r' d peer tag got clear chunks hf hd hw =>
      ⟨fun hv => becomes_of_took rfl h (Mod.onSendData_bounds hf hd hw hv), fun hv => ?_⟩⟩
    exact becomes_of_took rfl h (Mod.onSendData_lands hf hd hw hv)

end Sys2Proof.Machine
end

section
/-!
PROOFS. The handshake of a session (R45, R496, R497) and the attestation of a joining module (R505, R506).
-/

namespace Sys2Proof.Machine

/-! ### INIT (R496) -/

section Initiate
variable {m : Mod} {src : Endpoint} {point chain nonce : Bytes}

theorem Mod.initiate_notReady (h : m.boot.stage ≠ .ready) : m.initiate src point chain nonce = m := by
  simp [Mod.initiate, h]

theorem Mod.initiate_tooMany (h : m.boot.stage = .ready) (hc : chain.length ≤ 6144) (hn : 16 ≤ m.recentInits src.addr) :
    m.initiate src point chain nonce = m.count .HANDSHAKES_REFUSED := by
  simp [Mod.initiate, h, Nat.not_lt.mpr hc, hn]

/-- The module with an INIT of an address among those it has answered. -/
def Mod.heardInit (m : Mod) (a : BitVec 128) : Mod :=
  { m with initTimes := (a, m.now) :: m.initTimes.filter fun t => m.now < t.2 + 100000000 }

/-- The answer to an INIT that opens no handshake. -/
def Mod.refuseInit (m : Mod) (src : Endpoint) (result : Nat) : Mod :=
  (m.emit (.handshake src result [] [] [])).count .HANDSHAKES_REFUSED

/-- The handshake that an INIT opens, with its free numbers. -/
def Mod.handshakeOf (m : Mod) (src : Endpoint) (point chain nonce : Bytes) : Handshake :=
  { ep := src, key := Config.kexKey point chain nonce m.freeNat.1, chain := chain
    confirm := Config.kexConfirmA point chain nonce m.freeNat.1, replyAt := m.now }

/-- The module with a handshake of an endpoint begun and its REPLY sent. -/
def Mod.beginHandshake (m : Mod) (src : Endpoint) (point chain nonce : Bytes) : Mod :=
  let n := m.freeNat.1
  { m.freeNat.2 with
    handshakes := m.handshakeOf src point chain nonce :: m.handshakes.filter fun h => !h.ep.same src }.emit
      (.handshake src 0 (Config.kexPoint n) (Config.kexNonce n) (Config.kexConfirmB point chain nonce n))

/-- The INIT counts: those that the new list leaves out were more than a second ago. -/
theorem Mod.recentInits_heardInit (a : BitVec 128) : (m.heardInit a).recentInits a = m.recentInits a + 1 := by
  have hnow : (m.heardInit a).now = m.now := rfl
  have hin : (m.heardInit a).initTimes = (a, m.now) :: m.initTimes.filter fun t => m.now < t.2 + 100000000 := rfl
  unfold Mod.recentInits
  rw [hnow, hin, List.countP_cons_of_pos (by simp), List.countP_filter]
  congr 1
  exact List.countP_congr fun t _ => by simp

/-- Which answer an INIT gets, in the order of the checks. -/
theorem Mod.initiate_heard (h : m.boot.stage = .ready) (hc : chain.length ≤ 6144) (hn : m.recentInits src.addr < 16) :
    m.initiate src point chain nonce =
      if m.policy.isNone then (m.heardInit src.addr).refuseInit src 3
      else if !m.admits chain then (m.heardInit src.addr).refuseInit src 1
      else if 32 ≤ m.sessions.length then (m.heardInit src.addr).refuseInit src 2
      else (m.heardInit src.addr).beginHandshake src point chain nonce := by
  simp only [Mod.initiate, h, bne_self_eq_false, Nat.not_lt.mpr hc, decide_false, Bool.or_self, Bool.false_eq_true, if_false,
    if_neg (Nat.not_le.mpr hn)]
  rfl

/-- What every answer to an INIT keeps. -/
theorem Mod.initiate_keeps (h : m.boot.stage = .ready) (hc : chain.length ≤ 6144) (hn : m.recentInits src.addr < 16) :
    (m.initiate src point chain nonce).recentInits src.addr = m.recentInits src.addr + 1 ∧
      (m.initiate src point chain nonce).sessions = m.sessions := by
  have hr := m.recentInits_heardInit src.addr
  rw [Mod.initiate_heard h hc hn]
  split
  · exact ⟨hr, rfl⟩
  split
  · exact ⟨hr, rfl⟩
  split <;> exact ⟨hr, rfl⟩

theorem Mod.initiate_unclaimed (h : m.boot.stage = .ready) (hc : chain.length ≤ 6144) (hn : m.recentInits src.addr < 16)
    (hp : m.policy = none) :
    Out.handshake src 3 [] [] [] ∈ (m.initiate src point chain nonce).out ∧
      (m.initiate src point chain nonce).handshakes = m.handshakes := by
  rw [Mod.initiate_heard h hc hn, if_pos (by simp [hp])]
  exact ⟨List.mem_cons_self, rfl⟩

theorem Mod.initiate_claimed (h : m.boot.stage = .ready) (hc : chain.length ≤ 6144) (hn : m.recentInits src.addr < 16)
    (hp : m.policy ≠ none) :
    let t := m.initiate src point chain nonce
    (m.admits chain = false ∧ Out.handshake src 1 [] [] [] ∈ t.out ∧ t.handshakes = m.handshakes) ∨
      (m.admits chain = true ∧
        (32 ≤ m.sessions.length → Out.handshake src 2 [] [] [] ∈ t.out ∧ t.handshakes = m.handshakes) ∧
        (m.sessions.length < 32 → ∃ h ∈ t.handshakes, h.ep = src ∧ h.chain = chain ∧ h.replyAt = m.now)) := by
  rw [Mod.initiate_heard h hc hn, if_neg (by simpa using hp)]
  cases ha : m.admits chain with
  | false => exact .inl ⟨rfl, List.mem_cons_self, rfl⟩
  | true =>
    refine .inr ⟨rfl, fun hs => ?_, fun hs => ?_⟩
    · simp only [Bool.not_true, Bool.false_eq_true, if_false, if_pos hs]
      exact ⟨List.mem_cons_self, rfl⟩
    · simp only [Bool.not_true, Bool.false_eq_true, if_false, if_neg (Nat.not_le.mpr hs)]
      exact ⟨_, List.mem_cons_self, rfl, rfl, rfl⟩

end Initiate

/-! ### FINISH, and the end of a session (R45, R496) -/

section Finish
variable {m : Mod} {src : Endpoint} {confirm : Bytes} {h : Handshake}

/-- The module without the handshakes of an endpoint. -/
def Mod.forget (m : Mod) (src : Endpoint) : Mod := { m with handshakes := m.handshakes.filter fun h => !h.ep.same src }

theorem Mod.finishHandshake_none (hh : (m.handshakes.find? fun h => h.ep.same src) = none) : m.finishHandshake src confirm = m := by
  simp only [Mod.finishHandshake, hh]

variable (hh : (m.handshakes.find? fun h => h.ep.same src) = some h)
include hh

theorem Mod.finishHandshake_fails (hf : confirm ≠ h.confirm ∨ h.replyAt + 100000000 < m.now ∨ m.admits h.chain = false) :
    m.finishHandshake src confirm = m.forget src := by
  have hnow : (m.forget src).now = m.now := rfl
  have had : (m.forget src).admits h.chain = m.admits h.chain := rfl
  simp only [Mod.finishHandshake, hh]
  refine if_pos ?_
  change (_ || decide (h.replyAt + 100000000 < (m.forget src).now) || _ || !(m.forget src).admits h.chain || _) = true
  rw [hnow, had]
  obtain hf | hf | hf := hf <;> simp [hf]

theorem Mod.finishHandshake_opens (hc : confirm = h.confirm) (ht : m.now ≤ h.replyAt + 100000000) (hr : m.boot.stage = .ready)
    (hs : m.sessions.length < 32) :
    m.finishHandshake src confirm = if m.admits h.chain then (m.forget src).openSession h else m.forget src := by
  have hnow : (m.forget src).now = m.now := rfl
  have had : (m.forget src).admits h.chain = m.admits h.chain := rfl
  cases ha : m.admits h.chain with
  | false => exact Mod.finishHandshake_fails hh (.inr (.inr ha))
  | true =>
    simp only [Mod.finishHandshake, hh]
    refine if_neg ?_
    change ¬ ((m.boot.stage != .ready || decide (h.replyAt + 100000000 < (m.forget src).now) || _ || !(m.forget src).admits h.chain ||
      (_ && decide (32 ≤ m.sessions.length))) = true)
    rw [hnow, had]
    simp [hc, hr, ha, Nat.not_lt.mpr ht, Nat.not_le.mpr hs]

end Finish

theorem Mod.mem_handshakeLapses {m : Mod} {src : Endpoint} {h : Handshake} :
    h ∈ (m.handshakeLapses src).handshakes ↔ h ∈ m.handshakes ∧ ¬(h.ep.same src = true ∧ h.replyAt + 100000000 ≤ m.now) := by
  simp only [Mod.handshakeLapses, List.mem_filter, Bool.not_eq_true', Bool.and_eq_false_iff, decide_eq_false_iff_not, not_and]
  refine and_congr_right fun _ => ?_
  cases h.ep.same src <;> simp

theorem Mod.endSession_session_self (m : Mod) (sid : Nat) : (m.endSession sid).session? sid = none := by
  change (m.sessions.filter fun s => s.sid != sid).find? (fun s => s.sid == sid) = none
  simp

theorem Mod.endSession_session_of_ne (m : Mod) {sid k : Nat} (h : k ≠ sid) : (m.endSession sid).session? k = m.session? k := by
  change (m.sessions.filter fun s => s.sid != sid).find? (fun s => s.sid == k) = m.session? k
  rw [List.find?_filter]
  refine congrArg (List.find? · m.sessions) (funext fun s => ?_)
  by_cases hk : s.sid = k <;> simp [hk, h]

section Expiry
variable {m : Mod} {sid : Nat} {ss : Session}

theorem Mod.sessionExpires_none (h : m.session? sid = none) : m.sessionExpires sid = m := by
  simp only [Mod.sessionExpires, h]

theorem Mod.sessionExpires_over (h : m.session? sid = some ss)
    (ho : ss.openedAt + 8640000000000 ≤ m.now ∨ 2 ^ 32 ≤ ss.inPkts ∨ 2 ^ 32 ≤ ss.outPkts) :
    m.sessionExpires sid = m.endSession sid := by
  simp only [Mod.sessionExpires, h]
  exact if_pos (by simpa only [Bool.or_eq_true, decide_eq_true_eq, or_assoc] using ho)

theorem Mod.sessionExpires_early (h : m.session? sid = some ss) (ht : m.now < ss.openedAt + 8640000000000) (hi : ss.inPkts < 2 ^ 32)
    (ho : ss.outPkts < 2 ^ 32) : m.sessionExpires sid = m := by
  simp only [Mod.sessionExpires, h]
  exact if_neg (by simp only [Bool.or_eq_true, decide_eq_true_eq]; omega)

end Expiry

/-! ### Attestation to a steward, and its decision (R494, R495, R505, R506) -/

section Join
variable {m : Mod} {steward x t0 : Nat} {nonce n : Bytes} {r : JoinReport}

theorem Mod.challenged_resetting (h : m.resetting.isSome) : m.challenged steward nonce = m.turnAway (.request steward) := if_pos h

theorem Mod.challenged_notReady (h : m.resetting = none) (hr : m.boot.stage ≠ .ready) : m.challenged steward nonce = m := by
  simp [Mod.challenged, h, hr]

theorem Mod.challenged_ready (h : m.resetting = none) (hr : m.boot.stage = .ready) :
    m.challenged steward nonce = (m.report nonce).2.emit (.attestReport steward (m.report nonce).1) := by
  simp [Mod.challenged, h, hr]

theorem Mod.decideJoin_unchallenged {report : Option JoinReport} (h : (m.joins.find? fun j => j.1 == x) = none) :
    m.decideJoin x report = m := by
  simp only [Mod.decideJoin, h]

variable (h : (m.joins.find? fun j => j.1 == x) = some (x, t0, n))
include h

theorem Mod.decideJoin_member (ht : m.now ≤ t0 + 100000000) (hj : m.joins? x r = true) :
    m.decideJoin x (some r) = m.setRosterState x 2 := by
  simp [Mod.decideJoin, h, Nat.not_lt.mpr ht, hj]

theorem Mod.decideJoin_quarantined (hq : t0 + 100000000 < m.now ∨ m.joins? x r = false) :
    m.decideJoin x (some r) = (m.setRosterState x 3).quarantine x r.digest := by
  simp only [Mod.decideJoin, h]
  exact if_neg (by obtain hq | hq := hq <;> simp [hq])

theorem Mod.decideJoin_waits (ht : m.now ≤ t0 + 100000000) : m.decideJoin x none = m := by
  simp [Mod.decideJoin, h, Nat.not_lt.mpr ht]

theorem Mod.decideJoin_silent (ht : t0 + 100000000 < m.now) :
    m.decideJoin x none = (m.setRosterState x 3).quarantine x (List.replicate 16 0#8) := by
  simp [Mod.decideJoin, h, ht]

end Join

/-! ### Which function of the module each row runs -/

section Rows
variable (s : State)

theorem exec_init (src : Endpoint) (point chain nonce : Bytes) :
    exec (.init src point chain nonce) s = lift (fun m => m.initiate src point chain nonce) s := rfl

theorem exec_finish (src : Endpoint) (confirm : Bytes) :
    exec (.finish src confirm) s = lift (fun m => m.finishHandshake src confirm) s := rfl

theorem exec_handshakeTimeout (src : Endpoint) : exec (.handshakeTimeout src) s = lift (fun m => m.handshakeLapses src) s := rfl

theorem exec_sessionExpiry (sid : Nat) : exec (.sessionExpiry sid) s = lift (fun m => m.sessionExpires sid) s := rfl

theorem exec_trayAttest (steward : Nat) (nonce : Bytes) :
    exec (.trayAttest steward nonce) s = lift (fun m => m.challenged steward nonce) s := rfl

theorem exec_joinDecision (x : Nat) (r : Option JoinReport) :
    exec (.joinDecision x r) s = lift (fun m => m.decideJoin x r) s := rfl

end Rows

/-- Settles O51: each row of the handshake, of a session's end and of a joining module has its lemma above. -/
theorem sessionRows : Obligations.SessionRows := by
  refine ⟨fun s src point chain nonce confirm sid => ⟨?init_notReady, ?init_tooMany, ?init, ?finish_none, ?finish, ?lapse, ?expiry_none,
    ?expiry⟩, fun s steward x nonce r => ⟨?attest_resetting, ?attest_notReady, ?attest, ?join_none, ?join⟩⟩
  case init_notReady => exact fun h => becomes_of_lift (exec_init s ..) (Mod.initiate_notReady h)
  case init_tooMany => exact fun h hc hn => becomes_of_lift (exec_init s ..) (Mod.initiate_tooMany h hc hn)
  case init =>
    intro h hc hn
    obtain ⟨hrecent, hsess⟩ := Mod.initiate_keeps (point := point) (nonce := nonce) h hc hn
    exact next_of_lift (exec_init s ..) ⟨hrecent, Mod.initiate_unclaimed h hc hn, Mod.initiate_claimed h hc hn, hsess⟩
  case finish_none => exact fun hh => becomes_of_lift (exec_finish s ..) (Mod.finishHandshake_none hh)
  case finish =>
    exact fun h hh => ⟨fun hf => becomes_of_lift (exec_finish s ..) (Mod.finishHandshake_fails hh hf),
      fun hc ht hr hn => becomes_of_lift (exec_finish s ..) (Mod.finishHandshake_opens hh hc ht hr hn)⟩
  case lapse => exact next_of_lift (exec_handshakeTimeout s ..) fun _ => Mod.mem_handshakeLapses
  case expiry_none => exact fun hs => becomes_of_lift (exec_sessionExpiry s ..) (Mod.sessionExpires_none hs)
  case expiry =>
    refine fun ss hs => ⟨fun ho => next_of_lift (exec_sessionExpiry s ..) ?_,
      fun ht hi ho => becomes_of_lift (exec_sessionExpiry s ..) (Mod.sessionExpires_early hs ht hi ho)⟩
    simp only [Mod.sessionExpires_over hs ho]
    exact ⟨s.m.endSession_session_self sid, fun k hk => s.m.endSession_session_of_ne hk⟩
  case attest_resetting => exact fun h => becomes_of_lift (exec_trayAttest s ..) (Mod.challenged_resetting h)
  case attest_notReady => exact fun h hr => becomes_of_lift (exec_trayAttest s ..) (Mod.challenged_notReady h hr)
  case attest => exact fun h hr => becomes_of_lift (exec_trayAttest s ..) (Mod.challenged_ready h hr)
  case join_none =>
    exact fun h => ⟨becomes_of_lift (exec_joinDecision s ..) (Mod.decideJoin_unchallenged h),
      becomes_of_lift (exec_joinDecision s ..) (Mod.decideJoin_unchallenged h)⟩
  case join =>
    exact fun t0 n h => ⟨fun ht hj => becomes_of_lift (exec_joinDecision s ..) (Mod.decideJoin_member h ht hj),
      fun hq => becomes_of_lift (exec_joinDecision s ..) (Mod.decideJoin_quarantined h hq),
      fun ht => becomes_of_lift (exec_joinDecision s ..) (Mod.decideJoin_waits h ht),
      fun ht => becomes_of_lift (exec_joinDecision s ..) (Mod.decideJoin_silent h ht)⟩

end Sys2Proof.Machine
end

section
/-!
PROOFS. RDMA (R44, R161, R328) and datagrams at the command port (R47, R54, R462).
-/

namespace Sys2Proof.Machine

/-! ### Changes of a session -/

/-- A change of one session leaves the others. -/
theorem Mod.session_updSession_of_ne (m : Mod) {sid k : Nat} (f : Session → Session) (hf : ∀ x, (f x).sid = x.sid) (h : k ≠ sid) :
    (m.updSession sid f).session? k = m.session? k := by
  unfold Mod.session?
  simp only [Mod.updSession]
  induction m.sessions with
  | nil => rfl
  | cons a l ih =>
    rw [List.map_cons, List.find?_cons, List.find?_cons, ih]
    by_cases ha : a.sid = sid
    · have hk : (sid == k) = false := beq_eq_false_iff_ne.mpr h.symm
      simp [ha, hf, hk]
    · simp [ha]

/-- Two changes of one session are one change. -/
theorem Mod.updSession_updSession (m : Mod) (sid : Nat) (f g : Session → Session) (hf : ∀ x, (f x).sid = x.sid) :
    (m.updSession sid f).updSession sid g = m.updSession sid fun x => g (f x) := by
  simp only [Mod.updSession, List.map_map]
  refine congrArg (fun l => { m with sessions := l }) (List.map_congr_left fun x _ => ?_)
  by_cases hx : x.sid = sid <;> simp [hx, hf]

/-! ### What a WRITE of a region does (R238, R328) -/

/-- What a WRITE of a region writes: the tensor's bytes, and their copy where the job keeps one (R328). -/
def Job.rdmaWrites (j : Job) (t : TensorPlace) (off : Nat) (data : Bytes) : List (Nat × Byte) :=
  (t.span off data.length).zip data ++ match j.copyOf t.decl.id with
    | some b => data.zipIdx.map fun (x, i) => (b + off + i, x)
    | none => []

/-- A WRITE of a region that the job admits: what it writes reaches channels in service, or it is recorded (R238). -/
def Mod.rdmaLand (m : Mod) (src : Endpoint) (ws : List (Nat × Byte)) : Mod :=
  match m.checkWrite none (ws.map (·.1)) with
  | (m, none) => (m.store ws).emit (.rdmaAck src)
  | (m, some _) =>
    let (nak, m) := m.freeBool
    if nak then m.emit (.rdmaAccessNak src) else m

section Land
variable {m : Mod} {src : Endpoint} {ws : List (Nat × Byte)}

theorem Mod.rdmaLand_good (h : ∀ w ∈ ws, (isLocal w.1 && m.badChannel w.1) = false) :
    m.rdmaLand src ws = (m.store ws).emit (.rdmaAck src) := by
  have hnone : (ws.map (·.1)).find? (fun a => isLocal a && m.badChannel a) = none := by
    rw [List.find?_eq_none]
    simpa only [List.forall_mem_map, Bool.not_eq_true] using h
  simp only [Mod.rdmaLand, Mod.checkWrite, hnone]

theorem Mod.rdmaLand_bad {a : Nat} (h : (ws.map (·.1)).find? (fun a => isLocal a && m.badChannel a) = some a) :
    let u := m.logRead a (some 0x08) none
    m.rdmaLand src ws = if u.freeBool.1 then u.freeBool.2.emit (.rdmaAccessNak src) else u.freeBool.2 := by
  simp only [Mod.rdmaLand, Mod.checkWrite, h]

end Land

/-! ### RDMA (R44, R161, R328, R462) -/

section Rdma
variable {m : Mod} {src : Endpoint} {target : RdmaTarget} {off len sid key : Nat} {data : Bytes} {ss : Session}

theorem Mod.rdmaRead_closed (h : m.rdmaClosed = true) : m.rdmaRead src target off len = m.count .discardedReset := if_pos h
theorem Mod.rdmaWrite_closed (h : m.rdmaClosed = true) : m.rdmaWrite src target off data = m.count .discardedReset := if_pos h
theorem Mod.rdmaOther_closed (h : m.rdmaClosed = true) : m.rdmaOther src = m.count .discardedReset := if_pos h

variable (h : m.rdmaClosed = false)
include h

theorem Mod.rdmaOther_open : m.rdmaOther src = m.emit (.rdmaInvalidNak src) := by
  simp only [Mod.rdmaOther, h, Bool.false_eq_true, if_false]

theorem Mod.rdmaRead_noSession (hs : m.session? sid = none) :
    m.rdmaRead src (.staging sid) off len = m.emit (.rdmaAccessNak src) := by
  simp only [Mod.rdmaRead, h, Bool.false_eq_true, if_false, hs]

theorem Mod.rdmaRead_staging (hs : m.session? sid = some ss) (hlen : off + len ≤ 64 * 2 ^ 20) :
    m.rdmaRead src (.staging sid) off len = m.emit (.rdmaData src (ss.staging.read off len)) := by
  simp only [Mod.rdmaRead, h, Bool.false_eq_true, if_false, hs, if_pos hlen]

theorem Mod.rdmaRead_beyondStaging (hs : m.session? sid = some ss) (hlen : 64 * 2 ^ 20 < off + len) :
    m.rdmaRead src (.staging sid) off len = m.emit (.rdmaAccessNak src) := by
  simp only [Mod.rdmaRead, h, Bool.false_eq_true, if_false, hs, if_neg (Nat.not_le.mpr hlen)]

theorem Mod.rdmaWrite_noStaging (hs : m.session? sid = none ∨ 64 * 2 ^ 20 < off + data.length) :
    m.rdmaWrite src (.staging sid) off data = m.emit (.rdmaAccessNak src) := by
  have hno : ¬ ((m.session? sid).isSome ∧ off + data.length ≤ 64 * 2 ^ 20) := by
    obtain hs | hs := hs
    · simp [hs]
    · exact fun hyes => Nat.not_le.mpr hs hyes.2
  simp only [Mod.rdmaWrite, h, Bool.false_eq_true, if_false, if_neg hno]

theorem Mod.rdmaWrite_staging (hs : m.session? sid = some ss) (hlen : off + data.length ≤ 64 * 2 ^ 20) :
    m.rdmaWrite src (.staging sid) off data =
      (m.updSession sid fun x => { x with staging := x.staging.write off data }).emit (.rdmaAck src) := by
  have hyes : (m.session? sid).isSome ∧ off + data.length ≤ 64 * 2 ^ 20 := ⟨by simp [hs], hlen⟩
  simp only [Mod.rdmaWrite, h, Bool.false_eq_true, if_false, if_pos hyes]

theorem Mod.rdmaRead_noRegion (hr : m.rdmaRegion? key = none) :
    m.rdmaRead src (.region key) off len = m.emit (.rdmaAccessNak src) := by
  simp only [Mod.rdmaRead, h, Bool.false_eq_true, if_false, hr]

theorem Mod.rdmaWrite_noRegion (hr : m.rdmaRegion? key = none) :
    m.rdmaWrite src (.region key) off data = m.emit (.rdmaAccessNak src) := by
  simp only [Mod.rdmaWrite, h, Bool.false_eq_true, if_false, hr]

/-! In a region -/

variable {j : Job} {t : TensorPlace} (hr : m.rdmaRegion? key = some (j, t))
include hr

theorem Mod.rdmaRead_beyondRegion (hlen : t.decl.bytes < off + len) :
    m.rdmaRead src (.region key) off len = m.emit (.rdmaAccessNak src) := by
  simp only [Mod.rdmaRead, h, Bool.false_eq_true, if_false, hr, if_pos hlen]

section Within
variable {k : Mod × Nat × Option Nat} (hlen : off + len ≤ t.decl.bytes) (hk : m.checkLocal none (t.span off len) = k)
include hlen hk

theorem Mod.rdmaRead_region (hgood : k.2.2 = none) :
    m.rdmaRead src (.region key) off len = k.1.emit (.rdmaData src ((t.span off len).map k.1.byte)) := by
  obtain ⟨u, c, bad⟩ := k
  subst hgood
  simp only [Mod.rdmaRead, h, Bool.false_eq_true, if_false, hr, if_neg (Nat.not_lt.mpr hlen), hk]

/-- What answers a read of a word that cannot be read is free (log 91). -/
theorem Mod.rdmaRead_unreadable (hbad : k.2.2.isSome) :
    m.rdmaRead src (.region key) off len = if k.1.freeBool.1 then k.1.freeBool.2.emit (.rdmaAccessNak src) else k.1.freeBool.2 := by
  obtain ⟨u, c, bad⟩ := k
  obtain ⟨n, rfl⟩ := Option.isSome_iff_exists.mp hbad
  simp only [Mod.rdmaRead, h, Bool.false_eq_true, if_false, hr, if_neg (Nat.not_lt.mpr hlen), hk]

end Within

theorem Mod.rdmaWrite_mayNot (hno : t.decl.bytes < off + data.length ∨ j.rdmaMayWrite t off data.length = false) :
    m.rdmaWrite src (.region key) off data = m.emit (.rdmaAccessNak src) := by
  have hno' : (decide (t.decl.bytes < off + data.length) || !j.rdmaMayWrite t off data.length) = true := by
    simpa using hno
  simp only [Mod.rdmaWrite, h, Bool.false_eq_true, if_false, hr, if_pos hno']

section May
variable (hlen : off + data.length ≤ t.decl.bytes) (hmay : j.rdmaMayWrite t off data.length = true)
include hlen hmay

theorem Mod.rdmaWrite_lands : m.rdmaWrite src (.region key) off data = m.rdmaLand src (j.rdmaWrites t off data) := by
  have hno : ¬ ((decide (t.decl.bytes < off + data.length) || !j.rdmaMayWrite t off data.length) = true) := by
    simpa [hmay] using hlen
  simp only [Mod.rdmaWrite, h, Bool.false_eq_true, if_false, hr, if_neg hno]
  rfl

/-- R328: a WRITE to channels in service lands, in the tensor and in its copy. -/
theorem Mod.rdmaWrite_region (hgood : ∀ w ∈ j.rdmaWrites t off data, (isLocal w.1 && m.badChannel w.1) = false) :
    m.rdmaWrite src (.region key) off data = (m.store (j.rdmaWrites t off data)).emit (.rdmaAck src) :=
  (Mod.rdmaWrite_lands h hr hlen hmay).trans (Mod.rdmaLand_good hgood)

/-- A channel out of service is recorded, and what answers is free (log 91). -/
theorem Mod.rdmaWrite_badChannel {a : Nat}
    (hbad : ((j.rdmaWrites t off data).map (·.1)).find? (fun a => isLocal a && m.badChannel a) = some a) :
    let u := m.logRead a (some 0x08) none
    m.rdmaWrite src (.region key) off data = if u.freeBool.1 then u.freeBool.2.emit (.rdmaAccessNak src) else u.freeBool.2 :=
  (Mod.rdmaWrite_lands h hr hlen hmay).trans (Mod.rdmaLand_bad hbad)

end May
end Rdma

/-! ### Datagrams at the command port (R47, R54, R462) -/

section Datagram
variable {m : Mod} {src : Endpoint} {b : Bytes} {ss : Session}

theorem Packet.ofBytes_payload_length : (Packet.ofBytes src b).payload.length = b.length - 64 := List.length_drop

theorem Mod.receiveDatagram_short_closed (hb : b.length < 64) (h : m.resetting.isSome ∨ m.boot.stage ≠ .ready) :
    m.receiveDatagram src b = m.count .discardedReset := by
  simp only [Mod.receiveDatagram, if_pos hb, if_pos h]

/-- A datagram of a header or more is read as a packet. -/
theorem Mod.receiveDatagram_packet (hb : 64 ≤ b.length) :
    m.receiveDatagram src b = (m.receiveAs (Op.ofCode (word32 b 4 % 256) (word32 b 4 / 256 % 256)) (word32 b 4 % 256)
      (word32 b 4 / 256 % 256) (Packet.ofBytes src b)).closeSessions := if_neg (Nat.not_lt.mpr hb)

section Short
variable (hb : b.length < 64) (hreset : m.resetting = none) (hready : m.boot.stage = .ready)
include hb hreset hready

theorem Mod.receiveDatagram_short_noSession (hs : m.sessionOf src = none) :
    m.receiveDatagram src b = m.count .discardedNoSession := by
  have hopen : ¬ (m.resetting.isSome ∨ m.boot.stage ≠ .ready) := by simp [hreset, hready]
  simp only [Mod.receiveDatagram, if_pos hb, if_neg hopen, hs, Option.filter_none]

theorem Mod.receiveDatagram_short_session (hs : m.sessionOf src = some ss) (hc : m.closing = []) :
    m.receiveDatagram src b =
      m.updSession ss.sid fun x => { x with inPkts := x.inPkts + 1, integrityFails := x.integrityFails + 1 } := by
  have hopen : ¬ (m.resetting.isSome ∨ m.boot.stage ≠ .ready) := by simp [hreset, hready]
  simp only [Mod.receiveDatagram, if_pos hb, if_neg hopen, Mod.openSession_of_sessionOf hs hc]

end Short

section Long
variable (hb : 64 ≤ b.length)
include hb

theorem Mod.receiveDatagram_closed (h : m.resetting.isSome) : m.receiveDatagram src b = (m.count .discardedReset).closeSessions := by
  rw [Mod.receiveDatagram_packet hb, Mod.receiveAs_closed (.inl h)]

variable (hreset : m.resetting = none) (hready : m.boot.stage = .ready)
include hreset hready

theorem Mod.receiveDatagram_long (hlen : 8192 < b.length) : m.receiveDatagram src b = (m.count .discardedLong).closeSessions := by
  rw [Mod.receiveDatagram_packet hb, Mod.receiveAs_long hreset hready (by rw [Packet.ofBytes_payload_length]; omega)]

variable (hlen : b.length ≤ 8192)
include hlen

theorem Mod.receiveDatagram_noSession (hs : m.sessionOf src = none) :
    m.receiveDatagram src b = (m.count .discardedNoSession).closeSessions := by
  rw [Mod.receiveDatagram_packet hb,
    Mod.receiveAs_noSession hreset hready (by rw [Packet.ofBytes_payload_length]; omega) hs]

theorem Mod.receiveDatagram_unverified (hs : m.sessionOf src = some ss) (hc : m.closing = [])
    (htag : tag16 ss.key ((Packet.ofBytes src b).header (word32 b 4 % 256) (word32 b 4 / 256 % 256) ++ (Packet.ofBytes src b).payload) ≠
      (Packet.ofBytes src b).tag) :
    m.receiveDatagram src b = (m.updSession ss.sid fun x =>
      { x with inPkts := x.inPkts + 1, integrityFails := x.integrityFails + 1 }).closeSessions := by
  rw [Mod.receiveDatagram_packet hb,
    Mod.receiveAs_unverified hreset hready (by rw [Packet.ofBytes_payload_length]; omega) hs hc htag]
  exact congrArg Mod.closeSessions (m.updSession_updSession ss.sid (fun x => { x with inPkts := x.inPkts + 1 })
    (fun x => { x with integrityFails := x.integrityFails + 1 }) fun _ => rfl)

end Long
end Datagram

/-! ### Which function of the module each row runs -/

section Rows
variable (s : State)

theorem exec_rdmaRead (src : Endpoint) (qp : Nat) (target : RdmaTarget) (off len : Nat) :
    exec (.rdmaRead src qp target off len) s = lift (fun m => m.rdmaRead src target off len) s := rfl

theorem exec_rdmaWrite (src : Endpoint) (qp : Nat) (target : RdmaTarget) (off : Nat) (data : Bytes) :
    exec (.rdmaWrite src qp target off data) s = lift (fun m => m.rdmaWrite src target off data) s := rfl

theorem exec_rdmaUnsupported (src : Endpoint) (qp : Nat) :
    exec (.rdmaUnsupported src qp) s = lift (fun m => m.rdmaOther src) s := rfl

theorem exec_commandPacketRefused (src : Endpoint) (b : Bytes) :
    exec (.commandPacketRefused src b) s = lift (fun m => m.receiveDatagram src b) s := rfl

end Rows

/-- Settles O52: each answer to RDMA, and each fate of a datagram, has its lemma above. -/
theorem rdmaAndDatagramRows : Obligations.RdmaAndDatagramRows := by
  refine ⟨fun s src qp off len sid key data tgt => ⟨?closed, fun h => ⟨?other, ?noSession, ?staging, ?noRegion, ?region⟩⟩,
    fun s src b => ⟨?short_noSession, ?short_session, ?short_closed, ?packet_closed, ?long, ?packet_noSession, ?unverified⟩⟩
  case closed =>
    exact fun h => ⟨becomes_of_lift (exec_rdmaRead s ..) (Mod.rdmaRead_closed h),
      becomes_of_lift (exec_rdmaWrite s ..) (Mod.rdmaWrite_closed h), becomes_of_lift (exec_rdmaUnsupported s ..) (Mod.rdmaOther_closed h)⟩
  case other => exact becomes_of_lift (exec_rdmaUnsupported s ..) (Mod.rdmaOther_open h)
  case noSession =>
    exact fun hs => ⟨becomes_of_lift (exec_rdmaRead s ..) (Mod.rdmaRead_noSession h hs),
      becomes_of_lift (exec_rdmaWrite s ..) (Mod.rdmaWrite_noStaging h (.inl hs))⟩
  case staging =>
    refine fun ss hs => ⟨fun hlen => becomes_of_lift (exec_rdmaRead s ..) (Mod.rdmaRead_staging h hs hlen),
      fun hlen => becomes_of_lift (exec_rdmaRead s ..) (Mod.rdmaRead_beyondStaging h hs hlen), fun hlen => ?_,
      fun hlen => becomes_of_lift (exec_rdmaWrite s ..) (Mod.rdmaWrite_noStaging h (.inr hlen))⟩
    refine next_of_lift (exec_rdmaWrite s ..) ?_
    simp only [Mod.rdmaWrite_staging h hs hlen]
    exact ⟨rfl, rfl, Mod.session_updSession s.m sid (fun x => { x with staging := x.staging.write off data }) (fun _ => rfl) ss hs,
      fun k hk => Mod.session_updSession_of_ne s.m (fun x => { x with staging := x.staging.write off data }) (fun _ => rfl) hk⟩
  case noRegion =>
    exact fun hr => ⟨becomes_of_lift (exec_rdmaRead s ..) (Mod.rdmaRead_noRegion h hr),
      becomes_of_lift (exec_rdmaWrite s ..) (Mod.rdmaWrite_noRegion h hr)⟩
  case region =>
    exact fun j t hr => ⟨fun hlen => becomes_of_lift (exec_rdmaRead s ..) (Mod.rdmaRead_beyondRegion h hr hlen),
      fun hlen => ⟨fun hgood => becomes_of_lift (exec_rdmaRead s ..) (Mod.rdmaRead_region h hr hlen rfl hgood),
        fun hbad => becomes_of_lift (exec_rdmaRead s ..) (Mod.rdmaRead_unreadable h hr hlen rfl hbad)⟩,
      fun hno => becomes_of_lift (exec_rdmaWrite s ..) (Mod.rdmaWrite_mayNot h hr hno),
      fun hlen hmay => ⟨fun hgood => becomes_of_lift (exec_rdmaWrite s ..) (Mod.rdmaWrite_region h hr hlen hmay hgood),
        fun a hbad => becomes_of_lift (exec_rdmaWrite s ..) (Mod.rdmaWrite_badChannel h hr hlen hmay hbad)⟩⟩
  case short_noSession =>
    exact fun hb hreset hready hs =>
      becomes_of_lift (exec_commandPacketRefused s ..) (Mod.receiveDatagram_short_noSession hb hreset hready hs)
  case short_session =>
    exact fun ss hb hreset hready hs hc =>
      becomes_of_lift (exec_commandPacketRefused s ..) (Mod.receiveDatagram_short_session hb hreset hready hs hc)
  case short_closed =>
    exact fun hb h => becomes_of_lift (exec_commandPacketRefused s ..) (Mod.receiveDatagram_short_closed hb h)
  case packet_closed => exact fun hb h => becomes_of_lift (exec_commandPacketRefused s ..) (Mod.receiveDatagram_closed hb h)
  case long =>
    exact fun hreset hready hlen =>
      becomes_of_lift (exec_commandPacketRefused s ..) (Mod.receiveDatagram_long (by omega) hreset hready hlen)
  case packet_noSession =>
    exact fun hreset hready hb hlen hs =>
      becomes_of_lift (exec_commandPacketRefused s ..) (Mod.receiveDatagram_noSession hb hreset hready hlen hs)
  case unverified =>
    exact fun ss hreset hready hb hlen hs hc htag =>
      becomes_of_lift (exec_commandPacketRefused s ..) (Mod.receiveDatagram_unverified hb hreset hready hlen hs hc htag)

end Sys2Proof.Machine
end

section
/-!
PROOFS. Rounding to a grid (R99, R100), and conversion into the scalar formats and block element formats (R81, R82, R97, R101).
-/

namespace Sys2Proof.Machine

/-! ### Rounding to a grid (R99, R100)

Where the grid is coarser than the value's last place, one step of it is `k = 2 ^ (q - e)` of the value's units. Then `m / k` is the
grid value below the magnitude `m`, and `m % k` what lies above it. -/

section Round
variable {r : Rnd} {u m : Nat} {e q : Int}

theorem roundMag_of_le (h : q ≤ e) : roundMag r u m e q = m * 2 ^ (e - q).toNat := by
  rw [roundMag, if_pos h, Nat.shiftLeft_eq]

theorem roundMag_self : roundMag r u m q q = m := by simp [roundMag_of_le]

variable (h : e < q)
include h

theorem roundMag_rtz : roundMag .rtz u m e q = m / 2 ^ (q - e).toNat := by
  simp only [roundMag, if_neg (Int.not_le.mpr h), Nat.shiftRight_eq_div_pow]

theorem roundMag_rne : roundMag .rne u m e q =
    let k := 2 ^ (q - e).toNat
    if k < 2 * (m % k) ∨ 2 * (m % k) = k ∧ m / k % 2 = 1 then m / k + 1 else m / k := by
  have hk : 2 ^ (q - e).toNat = 2 * 2 ^ ((q - e).toNat - 1) := by rw [← Nat.pow_succ']; congr 1; omega
  simp only [roundMag, if_neg (Int.not_le.mpr h), Nat.shiftRight_eq_div_pow]
  exact if_congr (by omega) rfl rfl

theorem roundMag_sr : roundMag .sr u m e q =
    let k := 2 ^ (q - e).toNat
    m / k + (if 2 ^ 16 ≤ m % k * 2 ^ 16 / k + u then 1 else 0) := by
  simp only [roundMag, if_neg (Int.not_le.mpr h), Nat.shiftRight_eq_div_pow]
  exact (apply_ite (m / 2 ^ (q - e).toNat + ·) _ 1 0).symm

/-- Every mode takes one of the two grid values around the magnitude. -/
theorem roundMag_bounds : m / 2 ^ (q - e).toNat ≤ roundMag r u m e q ∧ roundMag r u m e q ≤ m / 2 ^ (q - e).toNat + 1 := by
  cases r with
  | rne => rw [roundMag_rne h]; dsimp only; split <;> omega
  | rtz => rw [roundMag_rtz h]; omega
  | sr => rw [roundMag_sr h]; dsimp only; split <;> omega

/-- Under SR a value on the grid never moves (R100). -/
theorem roundMag_sr_of_mod_eq_zero (hm : m % 2 ^ (q - e).toNat = 0) (hu : u < 2 ^ 16) :
    roundMag .sr u m e q * 2 ^ (q - e).toNat = m := by
  rw [roundMag_sr h]
  simp only [hm, Nat.zero_mul, Nat.zero_div, Nat.zero_add, if_neg (Nat.not_le.mpr hu), Nat.add_zero]
  exact Nat.div_mul_cancel (Nat.dvd_of_mod_eq_zero hm)

end Round

/-! ### The nearest grid value (R99) -/

/-- How far the grid value of `n` steps of `k` lies from the magnitude `m`. -/
def gridDist (k m n : Nat) : Nat := if n * k ≤ m then m - n * k else n * k - m

section Grid
variable {k m : Nat}

theorem gridDist_div : gridDist k m (m / k) = m % k := by
  have hm := Nat.div_add_mod' m k
  rw [gridDist, if_pos (by omega)]
  omega

theorem gridDist_div_succ (hk : 0 < k) : gridDist k m (m / k + 1) = k - m % k := by
  have hm := Nat.div_add_mod' m k
  have hr := Nat.mod_lt m hk
  rw [gridDist, Nat.succ_mul, if_neg (by omega)]
  omega

/-- No grid value is nearer than both of the two around the magnitude. -/
theorem min_le_gridDist (n : Nat) : min (m % k) (k - m % k) ≤ gridDist k m n := by
  have hm := Nat.div_add_mod' m k
  rw [gridDist]
  obtain hn | hn := Nat.lt_or_ge (m / k) n |>.symm
  · have hle : n * k ≤ m / k * k := Nat.mul_le_mul_right k hn
    rw [if_pos (by omega)]
    omega
  · have hle : (m / k + 1) * k ≤ n * k := Nat.mul_le_mul_right k hn
    rw [Nat.succ_mul] at hle
    split <;> omega

end Grid

section Nearest
variable {u m : Nat} {e q : Int} (h : e < q)
include h

theorem gridDist_roundMag_rne :
    let k := 2 ^ (q - e).toNat
    gridDist k m (roundMag .rne u m e q) = min (m % k) (k - m % k) := by
  have hk := Nat.two_pow_pos (q - e).toNat
  rw [roundMag_rne h]
  dsimp only
  split
  · rw [gridDist_div_succ hk]; omega
  · rw [gridDist_div]; omega

theorem roundMag_rne_even_of_tie (ht : 2 * gridDist (2 ^ (q - e).toNat) m (roundMag .rne u m e q) = 2 ^ (q - e).toNat) :
    roundMag .rne u m e q % 2 = 0 := by
  rw [gridDist_roundMag_rne h] at ht
  rw [roundMag_rne h]
  dsimp only at ht ⊢
  split <;> omega

theorem roundMag_rtz_mul_le : roundMag .rtz u m e q * 2 ^ (q - e).toNat ≤ m := by
  rw [roundMag_rtz h]
  exact Nat.div_mul_le_self ..

theorem lt_roundMag_rtz_succ_mul : m < (roundMag .rtz u m e q + 1) * 2 ^ (q - e).toNat := by
  rw [roundMag_rtz h]
  exact Nat.lt_mul_of_div_lt (Nat.lt_succ_self _) (Nat.two_pow_pos _)

end Nearest

/-! ### Comparing exact values (R89) -/

section Compare
variable {a b : Nat} {p q : Int}

theorem Val.lt_fin_iff_of_ge (h : q ≤ p) : Val.lt (.fin false a p) (.fin false b q) = true ↔ a * 2 ^ (p - q).toNat < b := by
  simp [Val.lt, Val.cmp, Val.alignedInt, Val.signed, Nat.shiftLeft_eq, Int.min_eq_right h, compare_lt_iff_lt, ← Int.ofNat_lt]

theorem Val.lt_fin_iff_of_le (h : p ≤ q) : Val.lt (.fin false a p) (.fin false b q) = true ↔ a < b * 2 ^ (q - p).toNat := by
  simp [Val.lt, Val.cmp, Val.alignedInt, Val.signed, Nat.shiftLeft_eq, Int.min_eq_left h, compare_lt_iff_lt, ← Int.ofNat_lt]

theorem Val.eq_fin_self (s : Bool) (n : Nat) (q : Int) : (Val.fin s n q).eq (.fin s n q) = true := by
  simp [Val.eq, Val.cmp]

/-- Twice the magnitude at the last place below is the same value. -/
theorem Val.eq_fin_double (s : Bool) (n : Nat) (q : Int) : (Val.fin s n (q + 1)).eq (.fin s (2 * n) q) = true := by
  simp [Val.eq, Val.cmp, Val.alignedInt, Nat.shiftLeft_eq, Nat.mul_comm]

end Compare

/-! ### Codes and their fields (R81) -/

namespace FloatFmt

/-- The code of a sign, an exponent field and a mantissa field. -/
def ofFields (f : FloatFmt) (s : Bool) (x n : Nat) : Nat := (s.toNat * 2 ^ f.ebits + x) * 2 ^ f.mbits + n

/-- The significand that the fields stand for: a field of 0 encodes zero and the subnormals. -/
def significand (f : FloatFmt) (x n : Nat) : Nat := if x = 0 then n else n + 2 ^ f.mbits

/-- The last place of the values with the exponent field `x`. -/
def lastPlace (f : FloatFmt) (x : Nat) : Int := f.emin + (x - 1 : Nat)

@[simp] theorem lastPlace_zero (f : FloatFmt) : f.lastPlace 0 = f.emin := Int.add_zero _

@[simp] theorem lastPlace_succ (f : FloatFmt) (y : Nat) : f.lastPlace (y + 1) = f.emin + y := rfl

@[simp] theorem significand_zero (f : FloatFmt) (n : Nat) : f.significand 0 n = n := rfl

@[simp] theorem significand_succ (f : FloatFmt) (y n : Nat) : f.significand (y + 1) n = n + 2 ^ f.mbits := rfl

/-- The fields of a finite value. -/
structure FiniteFields (f : FloatFmt) (x n : Nat) : Prop where
  man_lt : n < 2 ^ f.mbits
  exp_le : x ≤ f.topField
  man_le_top : x = f.topField → n + 2 ^ f.mbits ≤ f.topMan

/-- What the layouts of Table 3.2 have in common: a mantissa, and at least two exponent bits. -/
structure Layout (f : FloatFmt) : Prop where
  one_le_mbits : 1 ≤ f.mbits
  two_le_ebits : 2 ≤ f.ebits

theorem layout_of_mem {f : FloatFmt} (h : f ∈ [fp32, bf16, fp16, e4m3, e5m2, e3m2, e2m3, e2m1]) : f.Layout := by
  have hall : ∀ g ∈ [fp32, bf16, fp16, e4m3, e5m2, e3m2, e2m3, e2m1], 1 ≤ g.mbits ∧ 2 ≤ g.ebits := by decide
  exact ⟨(hall f h).1, (hall f h).2⟩

theorem topField_lt (f : FloatFmt) : f.topField < 2 ^ f.ebits := by
  have hpow := Nat.two_pow_pos f.ebits
  rw [topField]
  split <;> omega

section Top
variable {f : FloatFmt} (hf : f.Layout)
include hf

theorem Layout.two_le_topField : 2 ≤ f.topField := by
  have hpow : 2 ^ 2 ≤ 2 ^ f.ebits := Nat.pow_le_pow_right (by omega) hf.two_le_ebits
  rw [topField]
  split <;> omega

theorem Layout.topMan_bounds : 2 ^ f.mbits ≤ f.topMan ∧ f.topMan < 2 * 2 ^ f.mbits := by
  have hpow : 2 ^ 1 ≤ 2 ^ f.mbits := Nat.pow_le_pow_right (by omega) hf.one_le_mbits
  rw [topMan, Nat.pow_succ']
  split <;> omega

end Top

section Code
variable {f : FloatFmt} {s : Bool} {x n : Nat}

theorem ofFields_lt (hn : n < 2 ^ f.mbits) (hx : x < 2 ^ f.ebits) : f.ofFields s x n < 2 ^ f.width := by
  have hexp : s.toNat * 2 ^ f.ebits + x < 2 ^ (1 + f.ebits) := by
    have hs : s.toNat * 2 ^ f.ebits ≤ 1 * 2 ^ f.ebits := Nat.mul_le_mul_right _ s.toNat_le
    rw [Nat.pow_add]
    omega
  rw [width, Nat.pow_add]
  exact Nat.lt_of_lt_of_le (Nat.add_lt_add_left hn _) (by rw [← Nat.succ_mul]; exact Nat.mul_le_mul_right _ hexp)

/-- Every code of the format's width is the code of its fields. -/
theorem exists_ofFields {b : Nat} (hb : b < 2 ^ f.width) :
    ∃ s x n, x < 2 ^ f.ebits ∧ n < 2 ^ f.mbits ∧ f.ofFields s x n = b := by
  have hsign : b / 2 ^ f.mbits / 2 ^ f.ebits < 2 := by
    rw [Nat.div_div_eq_div_mul, ← Nat.pow_add]
    refine Nat.div_lt_of_lt_mul ?_
    rwa [← Nat.pow_succ, Nat.add_comm f.mbits, Nat.succ_eq_one_add, ← Nat.add_assoc]
  refine ⟨decide (b / 2 ^ f.mbits / 2 ^ f.ebits = 1), b / 2 ^ f.mbits % 2 ^ f.ebits, b % 2 ^ f.mbits,
    Nat.mod_lt _ (Nat.two_pow_pos _), Nat.mod_lt _ (Nat.two_pow_pos _), ?_⟩
  have htoNat : (decide (b / 2 ^ f.mbits / 2 ^ f.ebits = 1)).toNat = b / 2 ^ f.mbits / 2 ^ f.ebits := by
    obtain h | h := Nat.le_one_iff_eq_zero_or_eq_one.mp (Nat.le_of_lt_succ hsign)
    · simp [h]
    · simp [h]
  rw [ofFields, htoNat, Nat.div_add_mod', Nat.div_add_mod']

theorem ofFields_mod_mbits (hn : n < 2 ^ f.mbits) : f.ofFields s x n % 2 ^ f.mbits = n := by
  rw [ofFields, Nat.mul_comm, Nat.mul_add_mod, Nat.mod_eq_of_lt hn]

theorem ofFields_div_mbits (hn : n < 2 ^ f.mbits) : f.ofFields s x n / 2 ^ f.mbits = s.toNat * 2 ^ f.ebits + x := by
  rw [ofFields, Nat.mul_comm, Nat.mul_add_div (Nat.two_pow_pos _), Nat.div_eq_of_lt hn, Nat.add_zero]

/-- Reading a code gives a special value of its largest exponent field (Table 3.2), or the value of its fields. -/
theorem decode_ofFields (hx : x < 2 ^ f.ebits) (hn : n < 2 ^ f.mbits) : f.decode (f.ofFields s x n) =
    if f.special = .ieee ∧ x = 2 ^ f.ebits - 1 then if n = 0 then .inf s else .nan
    else if f.special = .nanOnly ∧ x = 2 ^ f.ebits - 1 ∧ n = 2 ^ f.mbits - 1 then .nan
    else .fin s (f.significand x n) (f.lastPlace x) := by
  have hexp : f.ofFields s x n / 2 ^ f.mbits % 2 ^ f.ebits = x := by
    rw [ofFields_div_mbits hn, Nat.mul_comm, Nat.mul_add_mod, Nat.mod_eq_of_lt hx]
  have hsign : decide (f.ofFields s x n / 2 ^ (f.mbits + f.ebits) % 2 = 1) = s := by
    rw [Nat.pow_add, ← Nat.div_div_eq_div_mul, ofFields_div_mbits hn, Nat.mul_comm, Nat.mul_add_div (Nat.two_pow_pos _),
      Nat.div_eq_of_lt hx]
    cases s <;> rfl
  have hvalue : (if x = 0 then .fin s n f.emin else .fin s (n + 2 ^ f.mbits) (f.emin + x - 1)) =
      Val.fin s (f.significand x n) (f.lastPlace x) := by
    cases x with
    | zero => simp
    | succ y => rw [if_neg (Nat.succ_ne_zero y), significand_succ, lastPlace_succ]; congr 1; omega
  simp only [decode, ofFields_mod_mbits hn, hexp, hsign, hvalue]

theorem FiniteFields.exp_lt (h : f.FiniteFields x n) : x < 2 ^ f.ebits := Nat.lt_of_le_of_lt h.exp_le f.topField_lt

end Code

section Finite
variable {f : FloatFmt} (hf : f.Layout) {s : Bool} {x n : Nat}
include hf

/-- The fields of a finite value are those that encode neither infinity nor NaN (Table 3.2). -/
theorem finiteFields_iff (hx : x < 2 ^ f.ebits) (hn : n < 2 ^ f.mbits) : f.FiniteFields x n ↔
    ¬ (f.special = .ieee ∧ x = 2 ^ f.ebits - 1) ∧ ¬ (f.special = .nanOnly ∧ x = 2 ^ f.ebits - 1 ∧ n = 2 ^ f.mbits - 1) := by
  have hfields : f.FiniteFields x n ↔ x ≤ f.topField ∧ (x = f.topField → n + 2 ^ f.mbits ≤ f.topMan) :=
    ⟨fun h => ⟨h.exp_le, h.man_le_top⟩, fun h => ⟨hn, h.1, h.2⟩⟩
  have hpow : 2 ^ 2 ≤ 2 ^ f.ebits := Nat.pow_le_pow_right (by omega) hf.two_le_ebits
  rw [hfields, topField, topMan, Nat.pow_succ']
  cases f.special with
  | ieee => simp only [true_and, reduceCtorEq, false_and, not_false_eq_true, and_true]; omega
  | nanOnly => simp only [reduceCtorEq, false_and, not_false_eq_true, true_and, not_and]; omega
  | none => simp only [reduceCtorEq, false_and, not_false_eq_true, and_self, iff_true]; omega

theorem FiniteFields.decode_eq (h : f.FiniteFields x n) :
    f.decode (f.ofFields s x n) = .fin s (f.significand x n) (f.lastPlace x) := by
  obtain ⟨hieee, hnan⟩ := (finiteFields_iff hf h.exp_lt h.man_lt).mp h
  rw [decode_ofFields h.exp_lt h.man_lt, if_neg hieee, if_neg hnan]

theorem finiteFields_of_decode (hx : x < 2 ^ f.ebits) (hn : n < 2 ^ f.mbits)
    (h : (f.decode (f.ofFields s x n)).nonfinite = false) : f.FiniteFields x n := by
  rw [decode_ofFields hx hn] at h
  refine (finiteFields_iff hf hx hn).mpr ⟨fun hieee => ?_, fun hnan => ?_⟩
  · rw [if_pos hieee] at h
    split at h <;> exact Bool.noConfusion h
  · have hspecial : ¬ (f.special = .ieee ∧ x = 2 ^ f.ebits - 1) := by simp [hnan.1]
    rw [if_neg hspecial, if_pos hnan] at h
    exact Bool.noConfusion h

end Finite

/-! ### The grid of a format, with an unbounded exponent (R101) -/

/-- `n × 2^q` lies where rounding to the last place `q` takes a magnitude: a last place above the lowest has a full significand, and a
carry reaches the next power of two. -/
structure OnGrid (f : FloatFmt) (n : Nat) (q : Int) : Prop where
  emin_le : f.emin ≤ q
  le_carry : n ≤ 2 * 2 ^ f.mbits
  full : f.emin < q → 2 ^ f.mbits ≤ n

theorem FiniteFields.onGrid {f : FloatFmt} {x n : Nat} (h : f.FiniteFields x n) : f.OnGrid (f.significand x n) (f.lastPlace x) := by
  have hn := h.man_lt
  cases x with
  | zero => exact ⟨(lastPlace_zero f).ge, by rw [significand_zero]; omega, fun h => absurd h (by simp)⟩
  | succ y => exact ⟨by rw [lastPlace_succ]; omega, by rw [significand_succ]; omega, fun _ => by rw [significand_succ]; omega⟩

/-- A nonzero magnitude, rounded at the last place that the format gives it, lies on the grid. -/
theorem onGrid_roundMag (f : FloatFmt) (r : Rnd) (u : Nat) {m : Nat} (e : Int) (hm : m ≠ 0) :
    f.OnGrid (roundMag r u m e (f.quantum m e)) (f.quantum m e) := by
  have hlow : 2 ^ m.log2 ≤ m := Nat.log2_self_le hm
  have hhigh : m < 2 ^ (m.log2 + 1) := Nat.lt_log2_self
  have hemin : f.emin ≤ f.quantum m e := le_max_left ..
  have hlast : e + m.log2 - f.mbits ≤ f.quantum m e := le_max_right ..
  have hcases : f.emin < f.quantum m e → f.quantum m e = e + m.log2 - f.mbits := by rw [quantum]; omega
  generalize f.quantum m e = q at *
  obtain hq | hq := le_or_gt q e
  · rw [roundMag_of_le hq]
    refine ⟨hemin, Nat.pow_succ' ▸ ?_, fun hlt => ?_⟩
    · calc m * 2 ^ (e - q).toNat ≤ 2 ^ (m.log2 + 1) * 2 ^ (e - q).toNat := Nat.mul_le_mul_right _ hhigh.le
        _ = 2 ^ (m.log2 + 1 + (e - q).toNat) := (Nat.pow_add ..).symm
        _ ≤ 2 ^ (f.mbits + 1) := Nat.pow_le_pow_right (by omega) (by omega)
    · have hq' := hcases hlt
      calc 2 ^ f.mbits = 2 ^ (m.log2 + (e - q).toNat) := by congr 1; omega
        _ = 2 ^ m.log2 * 2 ^ (e - q).toNat := Nat.pow_add ..
        _ ≤ m * 2 ^ (e - q).toNat := Nat.mul_le_mul_right _ hlow
  · obtain ⟨hdown, hup⟩ := roundMag_bounds (r := r) (u := u) (m := m) hq
    refine ⟨hemin, Nat.pow_succ' ▸ hup.trans (Nat.succ_le_of_lt (Nat.div_lt_of_lt_mul ?_)), fun hlt => le_trans ?_ hdown⟩
    · calc m < 2 ^ (m.log2 + 1) := hhigh
        _ ≤ 2 ^ ((q - e).toNat + (f.mbits + 1)) := Nat.pow_le_pow_right (by omega) (by omega)
        _ = 2 ^ (q - e).toNat * 2 ^ (f.mbits + 1) := Nat.pow_add ..
    · have hq' := hcases hlt
      rw [Nat.le_div_iff_mul_le (Nat.two_pow_pos _), ← Nat.pow_add]
      convert hlow using 2
      omega

section Range
variable {f : FloatFmt} (hf : f.Layout) {n : Nat} {q : Int}
include hf

/-- A value on the grid is in range when its last place is below the largest value's, or is that and the significand no larger. -/
theorem OnGrid.inRange_iff (h : f.OnGrid n q) :
    Val.lt f.largest (.fin false n q) = false ↔ q < f.topExp ∨ q = f.topExp ∧ n ≤ f.topMan := by
  obtain ⟨hman, hman'⟩ := hf.topMan_bounds
  have htop := hf.two_le_topField
  have hle := h.le_carry
  rw [← Bool.not_eq_true, largest]
  obtain hq | rfl | hq := Int.lt_trichotomy q f.topExp
  · have hpow : f.topMan * 2 ^ 1 ≤ f.topMan * 2 ^ (f.topExp - q).toNat :=
      Nat.mul_le_mul_left _ (Nat.pow_le_pow_right (by omega) (by omega))
    rw [Val.lt_fin_iff_of_ge hq.le]
    omega
  · rw [Val.lt_fin_iff_of_le le_rfl]
    simp
  · have hfull := h.full (by rw [topExp] at hq; omega)
    have hpow : n * 2 ^ 1 ≤ n * 2 ^ (q - f.topExp).toNat :=
      Nat.mul_le_mul_left _ (Nat.pow_le_pow_right (by omega) (by omega))
    rw [Val.lt_fin_iff_of_le hq.le]
    omega

theorem FiniteFields.inRange {x : Nat} (h : f.FiniteFields x n) :
    Val.lt f.largest (.fin false (f.significand x n) (f.lastPlace x)) = false := by
  have htop := hf.two_le_topField
  rw [h.onGrid.inRange_iff hf, topExp]
  obtain ⟨_, hx, hman⟩ := h
  cases x with
  | zero => rw [lastPlace_zero]; omega
  | succ y => rw [lastPlace_succ, significand_succ]; omega

end Range

/-! ### Writing a code and reading it back -/

section Write
variable {f : FloatFmt} {s : Bool} {x n : Nat}

/-- The sign bit of a code stands above its fields. -/
theorem sign_add (f : FloatFmt) (s : Bool) (x n : Nat) :
    (if s then 2 ^ (f.mbits + f.ebits) else 0) + x * 2 ^ f.mbits + n = f.ofFields s x n := by
  rw [ofFields, Nat.add_mul, Nat.pow_add]
  cases s
  · simp
  · simp [Nat.mul_comm]

theorem FiniteFields.encode_eq (h : f.FiniteFields x n) : f.encodeFinite s (f.significand x n) (f.lastPlace x) = f.ofFields s x n := by
  have hn := h.man_lt
  rw [encodeFinite, ← sign_add]
  cases x with
  | zero => simp [hn]
  | succ y =>
    have hfield : (f.emin + y - f.emin + 1).toNat = y + 1 := by omega
    rw [significand_succ, lastPlace_succ, if_neg (by omega), if_neg (by rw [Nat.pow_succ']; omega), hfield, Nat.add_sub_cancel]

/-- A carry to the next power of two takes the next exponent field. -/
theorem encode_carry (y : Nat) : f.encodeFinite s (2 * 2 ^ f.mbits) (f.lastPlace (y + 1)) = f.ofFields s (y + 1 + 1) 0 := by
  have hpow := Nat.two_pow_pos f.mbits
  have hfield : (f.emin + y - f.emin + 1).toNat = y + 1 := by omega
  rw [encodeFinite, lastPlace_succ, if_neg (by omega), if_pos (Nat.pow_succ' ..).symm, hfield, ← sign_add]
  rfl

theorem FiniteFields.quantum_eq (h : f.FiniteFields x n) (h0 : f.significand x n ≠ 0) :
    f.quantum (f.significand x n) (f.lastPlace x) = f.lastPlace x := by
  have hn := h.man_lt
  rw [quantum]
  cases x with
  | zero =>
    rw [significand_zero] at h0 ⊢
    have hlog : n.log2 < f.mbits := (Nat.log2_lt h0).mpr hn
    rw [lastPlace_zero]
    omega
  | succ y =>
    rw [significand_succ] at h0 ⊢
    have hlog : (n + 2 ^ f.mbits).log2 = f.mbits := (Nat.log2_eq_iff h0).mpr ⟨by omega, by rw [Nat.pow_succ']; omega⟩
    rw [lastPlace_succ]
    omega

/-- A finite value of the format converts to its own code: it lies at its own last place, so no mode moves it. -/
theorem FiniteFields.convert_eq (hf : f.Layout) (h : f.FiniteFields x n) (c : Conv) (u : Nat) :
    f.convert c u (.fin s (f.significand x n) (f.lastPlace x)) = ⟨f.ofFields s x n, false, false⟩ := by
  by_cases h0 : f.significand x n = 0
  · have hcode := h.encode_eq (s := s)
    have hplace : f.lastPlace x = f.emin := by
      have hfull := mt h.onGrid.full (by rw [h0]; exact Nat.not_le.mpr (Nat.two_pow_pos _))
      have hemin := h.onGrid.emin_le
      omega
    rw [h0, hplace] at hcode
    simp [convert, h0, hcode]
  · simp [convert, h0, h.quantum_eq h0, roundMag_self, h.inRange hf, h.encode_eq]

/-- What is written of a value on the grid and in range are the fields of a finite value that equals it. -/
theorem OnGrid.exists_fields (hf : f.Layout) {q : Int} (h : f.OnGrid n q) (hr : Val.lt f.largest (.fin false n q) = false) :
    ∃ x k, f.FiniteFields x k ∧ f.encodeFinite s n q = f.ofFields s x k ∧
      (Val.fin s (f.significand x k) (f.lastPlace x)).eq (.fin s n q) = true := by
  obtain ⟨hman, hman'⟩ := hf.topMan_bounds
  have htop := hf.two_le_topField
  have hle := h.le_carry
  obtain ⟨y, rfl⟩ : ∃ y : Nat, q = f.lastPlace (y + 1) := by
    obtain ⟨y, hy⟩ := Int.le.dest h.emin_le
    exact ⟨y, hy.symm⟩
  rw [h.inRange_iff hf, topExp, lastPlace_succ] at hr
  obtain hsub | hfull := Nat.lt_or_ge n (2 ^ f.mbits)
  case inl =>
    have hlow := mt h.full (Nat.not_le.mpr hsub)
    have hplace : f.lastPlace (y + 1) = f.lastPlace 0 := by
      rw [lastPlace_succ] at hlow ⊢
      rw [lastPlace_zero]
      omega
    have hfields : f.FiniteFields 0 n := ⟨hsub, by omega, by omega⟩
    exact ⟨0, n, hfields, hplace ▸ hfields.encode_eq, hplace ▸ Val.eq_fin_self s n _⟩
  obtain rfl | hlt := hle.eq_or_lt
  case inl =>
    refine ⟨y + 1 + 1, 0, ⟨by omega, by omega, by omega⟩, encode_carry y, ?_⟩
    have hsig : f.significand (y + 1 + 1) 0 = 2 ^ f.mbits := Nat.zero_add _
    have hnext : f.lastPlace (y + 1 + 1) = f.lastPlace (y + 1) + 1 := by rw [lastPlace_succ, lastPlace_succ]; omega
    rw [hsig, hnext]
    exact Val.eq_fin_double ..
  case inr =>
    obtain ⟨k, rfl⟩ := Nat.exists_eq_add_of_le' hfull
    have hfields : f.FiniteFields (y + 1) k := ⟨by omega, by omega, by omega⟩
    exact ⟨y + 1, k, hfields, hfields.encode_eq, Val.eq_fin_self ..⟩

end Write

/-! ### Conversion of a nonzero value (R99, R101) -/

section Convert
variable {f : FloatFmt} (hf : f.Layout) (c : Conv) (u : Nat) (s : Bool) {m : Nat} {e : Int} (hm : m ≠ 0)
include hm

theorem convert_of_inRange (hr : Val.lt f.largest (.fin false (roundMag c.rnd u m e (f.quantum m e)) (f.quantum m e)) = false) :
    f.convert c u (.fin s m e) = ⟨f.encodeFinite s (roundMag c.rnd u m e (f.quantum m e)) (f.quantum m e), false, false⟩ := by
  simp [convert, hm, hr]

include hf

/-- Zero is in range, and its code is the sign bit alone. -/
theorem convert_of_round_eq_zero (h0 : roundMag c.rnd u m e (f.quantum m e) = 0) :
    (f.convert c u (.fin s m e)).code = if s then 2 ^ (f.mbits + f.ebits) else 0 := by
  have hgrid := onGrid_roundMag f c.rnd u e hm
  have hr : Val.lt f.largest (.fin false (roundMag c.rnd u m e (f.quantum m e)) (f.quantum m e)) = false := by
    have hlow := mt hgrid.full (by rw [h0]; exact Nat.not_le.mpr (Nat.two_pow_pos _))
    have htop := hf.two_le_topField
    rw [hgrid.inRange_iff hf, topExp]
    omega
  rw [convert_of_inRange c u s hm hr, h0, encodeFinite, if_pos (Nat.two_pow_pos _), Nat.add_zero]

/-- A conversion in range gives a code of the format whose value is the rounded one, with the source's sign. -/
theorem convert_inRange (hr : Val.lt f.largest (.fin false (roundMag c.rnd u m e (f.quantum m e)) (f.quantum m e)) = false) :
    let t := f.convert c u (.fin s m e)
    t.saturated = false ∧ t.nonfinite = false ∧ t.code < 2 ^ f.width ∧
      (f.decode t.code).eq (.fin s (roundMag c.rnd u m e (f.quantum m e)) (f.quantum m e)) = true ∧
      (f.decode t.code).negative = s := by
  obtain ⟨x, k, hfields, hcode, heq⟩ := (onGrid_roundMag f c.rnd u e hm).exists_fields (s := s) hf hr
  rw [convert_of_inRange c u s hm hr, hcode]
  dsimp only
  rw [hfields.decode_eq hf]
  exact ⟨rfl, rfl, ofFields_lt hfields.man_lt hfields.exp_lt, heq, rfl⟩

end Convert

/-- Every finite code converts back to itself. -/
theorem convert_decode {f : FloatFmt} (hf : f.Layout) (c : Conv) (u : Nat) {b : Nat} (hb : b < 2 ^ f.width)
    (hfin : (f.decode b).nonfinite = false) : f.convert c u (f.decode b) = ⟨b, false, false⟩ := by
  obtain ⟨s, x, n, hx, hn, rfl⟩ := exists_ofFields hb
  have hfields := finiteFields_of_decode hf hx hn hfin
  rw [hfields.decode_eq hf, hfields.convert_eq hf]

end FloatFmt

/-- Settles O28: RNE takes the nearer of the two grid values around the magnitude, RTZ the lower one. -/
theorem roundingModes : Obligations.RoundingModes := by
  refine ⟨fun _ _ _ _ _ h => roundMag_of_le h, fun u m e q h => ⟨fun n => ?nearest, roundMag_rne_even_of_tie h,
    roundMag_rtz_mul_le h, lt_roundMag_rtz_succ_mul h⟩, fun f hf c u m e s hm h0 => ?sign⟩
  case nearest => exact (gridDist_roundMag_rne h).trans_le (min_le_gridDist n)
  case sign => exact FloatFmt.convert_of_round_eq_zero (FloatFmt.layout_of_mem hf) c u s hm h0

/-- Settles O29: a finite code is on its own grid, and what a conversion writes of a value in range are the fields of a finite value. -/
theorem numberFormats : Obligations.NumberFormats := by
  refine ⟨fun u m e q h => ⟨roundMag_sr h, roundMag_sr_of_mod_eq_zero h⟩, fun f hf c u => ?_⟩
  have hlayout := FloatFmt.layout_of_mem hf
  exact ⟨fun b hb hfin _ => FloatFmt.convert_decode hlayout c u hb hfin, rfl,
    fun s m e hm hr => FloatFmt.convert_inRange hlayout c u s hm hr⟩

end Sys2Proof.Machine
end

section
/-!
PROOFS. The rows of a pass on a matrix array (R107–R130): for each row, the module that its function gives where the row's guards hold.
-/

namespace Sys2Proof.Machine

/-! ### Arrays and gangs (R109) -/

section Arrays
variable (m : Mod) {a b : Nat} {w : PassWord}

theorem Mod.array_arr (a : Nat) : (m.array a).arr = a := by
  unfold Mod.array
  cases h : m.arrays.find? fun s => s.arr == a with
  | none => rfl
  | some t => simpa using List.find?_some h

/-- Writing one array leaves the others. -/
theorem Mod.setArray_array_of_ne {t : ArrayState} (h : t.arr ≠ b) : (m.setArray t).array b = m.array b := by
  rw [Mod.array, Mod.setArray, List.find?_cons_of_neg (by simpa using h), List.find?_filter, Mod.array]
  congr 2
  funext s
  by_cases hs : s.arr = b
  · simp [hs, h.symm]
  · simp [hs]

theorem gangOf_single (h : w.gang = 0) : gangOf w a = [a] := by simp [gangOf, gangSize, h, Nat.mod_one]

theorem Mod.onGang_single (h : w.gang = 0) (f : ArrayState → ArrayState) : m.onGang w a f = m.setArray (f (m.array a)) := by
  rw [Mod.onGang, gangOf_single h]
  rfl

end Arrays

/-! ### The end of a reload (R107) -/

/-- The pass of a word streams, and its command has counted the words that the reload corrected (R107, R237). -/
def Mod.startsStreaming (m : Mod) (w : PassWord) (a n : Nat) : Mod :=
  (m.updSum w.id.lane fun y => { y with corrected := y.corrected + n }).onGang w a fun t => { t with word := { t.word with state := 2 } }

/-- Every array of a gang has written its own k-tile (R106, R109). -/
def Mod.writeTiles (m : Mod) (w : PassWord) (a : Nat) (p : Product) (spec : PassSpec) : Mod :=
  (gangOf w a).zipIdx.foldl (fun m b => m.setArray { m.array b.1 with tile := p.tile spec.cols (spec.kSpan b.2).1 (spec.kSpan b.2).2 }) m

section Reload
variable {m m' : Mod} {a n : Nat} {x : Data} (hx : m.passData? (m.array a).toPassRun = some x)
  (hon : m.stoppedAt (.sequencer (a / 4)) = false) (hload : (m.array a).word.state = 1)
include hx hon hload

theorem Mod.reloadDone_tiles {p : Product} {rows : List Nat} (hop : x.c.op ≠ .hadamard) (hp : x.product (m.reader x.j x.got) = p)
    (hrows : x.fedList (m.reader x.j x.got) (m.array a).spec.lo (m.array a).spec.hi = rows)
    (htile : p.tileFail (p.tileKs rows (m.array a).spec.k0 (m.array a).spec.k1) (m.array a).spec.cols = none)
    (hcheck : m.checkLocal (some x.c) (p.colLocs rows (m.array a).spec.cols (m.array a).spec.k0 (m.array a).spec.k1) = (m', n, none)) :
    m.reloadDone a = ((m'.startsStreaming (m.array a).word a n).writeTiles (m.array a).word a p (m.array a).spec).boundary a := by
  have hne : (x.c.op == .hadamard) = false := beq_eq_false_iff_ne.mpr hop
  simp [Mod.reloadDone, hx, hon, hload, hne, hp, hrows, htile, hcheck, Mod.startsStreaming, Mod.writeTiles]

/-- HADAMARD holds no tile, so its reload reads nothing (R134). -/
theorem Mod.reloadDone_hadamard (hop : x.c.op = .hadamard)
    (htile : (x.product (m.reader x.j x.got)).tileFail [] (m.array a).spec.cols = none)
    (hcheck : m.checkLocal (some x.c) [] = (m', n, none)) :
    m.reloadDone a = (m'.startsStreaming (m.array a).word a n).boundary a := by
  simp [Mod.reloadDone, hx, hon, hload, hop, htile, hcheck, Mod.startsStreaming]

end Reload

/-! ### Rows are fed (R112, R113, R121, R126) -/

theorem Mod.mayFeed_of_feeding {m : Mod} {a : Nat} (hhold : m.power.holding = none) (hon : m.stoppedAt (.sequencer (a / 4)) = false)
    (hfeed : (m.array a).feeding = true) : m.mayFeed a = true := by
  simp [Mod.mayFeed, hhold, hon, hfeed]

section Feeding
variable {m : Mod} {a : Nat} {x : Data} (hx : m.passData? (m.array a).toPassRun = some x)
include hx

theorem Mod.rowBlock_ends (hfeed : m.mayFeed a = true) (hleft : x.blockUnits - (m.array a).fedIn < m.leftAt a x) :
    m.rowBlock a = ((m.feedUnits a x (x.blockUnits - (m.array a).fedIn)).onGang (m.array a).word a
      fun t => { t with fedIn := 0 }).boundary a := by
  simp [Mod.rowBlock, hx, hfeed, hleft]

theorem Mod.lastRow_drains (hfeed : m.mayFeed a = true) (hleft : m.leftAt a x ≤ x.blockUnits - (m.array a).fedIn) :
    m.lastRow a = (m.feed a x (m.array a).spec.hi 0).onGang (m.array a).word a fun t => if t.word.state = 2 then
      { t with word := { t.word with state := 3 }, clean := t.clean && t.tile.clean, preempt := false } else t := by
  simp [Mod.lastRow, hx, hfeed, hleft]

variable (hfeed : (m.array a).feeding = true)
include hfeed

theorem Mod.dummyRun_preempts (hpre : (m.array a).preempt = true) : m.dummyRun a = (m.feedSome a x).preemptNow a := by
  simp [Mod.dummyRun, hx, hfeed, hpre]

theorem Mod.dummyRun_ramps (hpre : (m.array a).preempt = false) (hstate : ((m.feedSome a x).array a).word.state = 2) :
    m.dummyRun a = (m.feedSome a x).onGang (m.array a).word a fun t =>
      (({ t with ramp := .down, eighths := 0 }).bump (m.array a).word.job .DUMMY_ROWS 48).bump (m.array a).word.job .RAMPS 1 := by
  simp [Mod.dummyRun, hx, hfeed, hpre, hstate]

end Feeding

/-! ### Drains and their checks (R115, R126) -/

section Checks
variable {m : Mod} {a : Nat} {r : PassRun} {rest : List PassRun}

theorem Mod.checksClean_drained (hd : (m.array a).draining = r :: rest) (hc : r.clean = true) (hr : r.word.state ≠ 4) :
    m.checksClean a = (m.onGang (m.array a).word a fun t => { t with draining := rest }).passDone a r := by
  simp [Mod.checksClean, hd, hc, hr]

/-- The drain of a pre-emption leaves its pass PREEMPTED. -/
theorem Mod.checksClean_preempted (hd : (m.array a).draining = r :: rest) (hc : r.clean = true) (hr : r.word.state = 4) :
    m.checksClean a = m.onGang (m.array a).word a fun t => { t with draining := rest } := by
  simp [Mod.checksClean, hd, hc, hr]

theorem Mod.checksClean_current (hd : (m.array a).draining = []) (hs : (m.array a).word.state = 3) (hc : (m.array a).clean = true) :
    m.checksClean a =
      (m.onGang (m.array a).word a fun t => { t with word := { t.word with state := 6 } }).passDone a (m.array a).toPassRun := by
  simp [Mod.checksClean, hd, hs, hc]

end Checks

/-! ### Ramps and gaps (R121–R123) -/

section Ramps
variable {m : Mod} {a : Nat}

/-- A ramp has at most one dummy row in each of its 64 cycles. -/
theorem Mod.rampRows_le (m : Mod) (s : ArrayState) : (m.rampRows s).1 ≤ 64 := by
  unfold Mod.rampRows
  split
  · exact Nat.zero_le 64
  · exact Nat.le_of_lt_succ (Nat.mod_lt _ (by decide))

theorem Mod.rampDown_gates (hr : (m.array a).ramp = .down) :
    m.rampDown a = (m.rampRows (m.array a)).2.onGang (m.array a).word a fun t =>
      ({ t with ramp := .gated, eighths := 8
                word := if (m.array a).word.state = 5 ∧ m.toReissue (m.array a).word = false then { t.word with state := 0 } else t.word }).bump
        (m.array a).word.job .DUMMY_ROWS (m.rampRows (m.array a)).1 := by
  simp [Mod.rampDown, hr]

theorem Mod.rampDown_idles (hs : (m.array a).word.state = 6) (hd : (m.array a).draining = []) (hr : (m.array a).ramp = .none) :
    m.rampDown a = m.onGang (m.array a).word a fun t =>
      ({ t with ramp := .gated, eighths := 8, word := { t.word with state := 0 } }).bump (m.array a).word.job .RAMPS 1 := by
  simp [Mod.rampDown, hs, hd, hr]

variable (hhold : m.power.holding = none)
include hhold

theorem Mod.rampUp_gated (hs : (m.array a).word.state = 2) (hr : (m.array a).ramp = .gated) (hg : (m.array a).inGap = false) :
    m.rampUp a = m.onGang (m.array a).word a fun t =>
      ({ t with ramp := .none, eighths := 0 }).bump (m.array a).word.job .DUMMY_ROWS 0 := by
  simp [Mod.rampUp, hhold, hs, hr, hg]

theorem Mod.gapEnd_eq (hg : (m.array a).inGap = true) :
    m.gapEnd a = m.freeBool.2.onGang (m.array a).word a fun t =>
      ({ t with inGap := false, gap := 0, ramp := if m.freeBool.1 then .none else .gated
                eighths := if m.freeBool.1 then 0 else 8 }).bump (m.array a).gapJob .LIMITER_CYCLES (m.array a).gap := by
  simp [Mod.gapEnd, hhold, hg]

end Ramps

/-! ### Issue and resumption (R113, R117, R126) -/

theorem Mod.mayRun_of_not_filler {m : Mod} {job stake : Nat} (h : m.filler job = false) : m.mayRun job stake = (true, m) := by
  simp [Mod.mayRun, h]

theorem Mod.passResume_loads {m : Mod} {a : Nat} {r : PassRun} {rest : List PassRun} {x : Data}
    (hsus : (m.array a).suspended = r :: rest) (hx : m.passData? r = some x) (hjob : m.filler r.word.job = false)
    (hserve : m.stakeServes (a / 4) x = true) (hfree : ((gangOf r.word a).all fun b => (m.array b).canTake) = true) :
    m.passResume a = m.onGang r.word a fun t => ({ t with suspended := t.suspended.drop 1 }).load r := by
  simp [Mod.passResume, hsus, hx, hserve, hfree, Mod.mayRun_of_not_filler hjob]

/-- The pass state word of a command's pass that starts a chain of its own, as its issue loads it (Table 4.3). -/
def Data.firstWord (x : Data) (plan : PassPlan) (pass : Nat) (spec : PassSpec) : PassWord :=
  { job := x.c.job, inc := x.c.pkt.inc.toNat, queue := x.c.pkt.queue.toNat, seq := x.c.pkt.seq.toNat, pass := pass
    nextRow := spec.lo - spec.seg * segRows, ktile := spec.ktile, mode := plan.mode, gang := plan.gang
    chainSide := 0, reissued := false, state := 1 }

/-- The first pass of a chain waits for no other (R117). -/
theorem chainReady_of_first {id : CmdId} {t : ArrayState} {spec : PassSpec} {idx : Nat} {re : List Nat} (h : spec.link = 0) :
    chainReady id t spec idx re = true := by simp [chainReady, h]

section Issue
variable {m : Mod} {a : Nat} {id : CmdId} {r : Running} {x : Data} {total issued done i : Nat} {plan : PassPlan} {spec : PassSpec} {w : PassWord}
  (hcmd : m.dataAt? id = some (r, x)) (hwork : r.work = .passes total issued done [])
  (hplan : x.passPlan (m.reader x.j x.got) = plan) (hspec : plan.passes.getD i {} = spec) (hw : x.firstWord plan (r.base + i) spec = w)
  (hnext : nextPass id (m.array a) r plan [] = some (i, false)) (hlink : spec.link = 0) (hlast : spec.last = true)
  (hlead : a % gangSize plan.gang = 0) (hop : x.c.op.isDistance = false) (hserve : m.stakeServes (a / 4) x = true)
  (hjob : m.filler x.c.job = false) (hgap : m.limiterGap x.c.job = 0)
  (hfree : ((gangOf w a).all fun b => (m.array b).canTake) = true)
  (hfed : x.fedBetween (m.reader x.j x.got) spec.lo spec.hi ≠ 0)
include hcmd hwork hplan hspec hw hnext hlink hlast hlead hop hserve hjob hgap hfree hfed

/-- A pass that is a whole chain is loaded by the gang that it leads, where neither R76 nor a limiter gap holds it back (R113, R124). -/
theorem Mod.passIssue_loads :
    m.passIssue a id = ((m.setWork id.lane (.passes total (issued + 1) done [])).updRunning id.lane fun r =>
      { r with took := r.took.concat i }).onGang w a fun t => t.load { word := w, spec := spec } := by
  simp only [Data.firstWord] at hw
  simp only [Mod.passIssue, hcmd, hwork, hplan, hlead, Nat.sub_zero, hnext, hspec, hlink, Nat.zero_mod, hw, hfree, hserve, hop,
    chainReady_of_first hlink, hlast, Mod.mayRun_of_not_filler hjob, hgap, hfed]
  simp

end Issue

/-! ### Pre-emption (R76, R126) -/

/-- What PRIMARY work that becomes ready does to one array of the stake (R76). -/
def Mod.preemptArray (m : Mod) (a : Nat) : Mod :=
  let s := m.array a
  if !m.filler s.word.job || !(s.word.state == 1 || s.word.state == 2) then m
  else
    let m := m.onGang s.word a fun t => { t with preempt := true }
    if s.word.state == 2 && (s.ramp != .none && !s.inGap) then m.preemptNow a else m

theorem Mod.preemptStake_eq (m : Mod) (p : Nat) : m.preemptStake p = (List.range 4).foldl (fun m i => m.preemptArray (4 * p + i)) m := rfl

section Preempt
variable {m : Mod} {a p : Nat}

theorem Mod.preemptArray_of_not_filler (h : m.filler (m.array a).word.job = false) : m.preemptArray a = m := by
  simp [Mod.preemptArray, h]

theorem Mod.preemptArray_of_idle (h : (m.array a).word.state = 0) : m.preemptArray a = m := by simp [Mod.preemptArray, h]

theorem Mod.preemptArray_streaming (hjob : m.filler (m.array a).word.job = true) (hs : (m.array a).word.state = 2)
    (hr : (m.array a).ramp = .none) : m.preemptArray a = m.onGang (m.array a).word a fun t => { t with preempt := true } := by
  simp [Mod.preemptArray, hjob, hs, hr]

/-- Arrays on which nothing is to pre-empt stay as they are. -/
theorem foldl_preemptArray_eq_self {l : List Nat} (h : ∀ i ∈ l, m.preemptArray (4 * p + i) = m) :
    l.foldl (fun m i => m.preemptArray (4 * p + i)) m = m := by
  induction l with
  | nil => rfl
  | cons i l ih =>
    rw [List.foldl_cons, h i List.mem_cons_self]
    exact ih fun j hj => h j (List.mem_cons_of_mem i hj)

theorem Mod.preemptStake_of_no_filler (h : ∀ i, i < 4 → m.filler (m.array (4 * p + i)).word.job = false) : m.preemptStake p = m := by
  rw [Mod.preemptStake_eq]
  exact foldl_preemptArray_eq_self fun i hi => Mod.preemptArray_of_not_filler (h i (List.mem_range.mp hi))

/-- A FILLER's pass that streams on the first array alone is asked to stop at its next boundary. -/
theorem Mod.preemptStake_first (hjob : m.filler (m.array (4 * p)).word.job = true) (hs : (m.array (4 * p)).word.state = 2)
    (hr : (m.array (4 * p)).ramp = .none) (hgang : (m.array (4 * p)).word.gang = 0)
    (hidle : ∀ i, 1 ≤ i → i < 4 → (m.array (4 * p + i)).word.state = 0) :
    m.preemptStake p = m.onGang (m.array (4 * p)).word (4 * p) fun t => { t with preempt := true } := by
  have hfirst := Mod.preemptArray_streaming hjob hs hr
  have hrest : ∀ i ∈ [1, 2, 3], (m.preemptArray (4 * p)).preemptArray (4 * p + i) = m.preemptArray (4 * p) := by
    intro i hi
    have hi' : 1 ≤ i ∧ i < 4 := by simp at hi; omega
    apply Mod.preemptArray_of_idle
    rw [hfirst, Mod.onGang_single m hgang, Mod.setArray_array_of_ne m (by rw [Mod.array_arr]; omega)]
    exact hidle i hi'.1 hi'.2
  rw [Mod.preemptStake_eq, ← hfirst]
  exact foldl_preemptArray_eq_self hrest

end Preempt

/-! ### Check faults (R129) -/

/-- The log record of a check of an array that finds a pass at fault (R129, R441). -/
def Mod.checkRecord (m : Mod) (a : Nat) (w : PassWord) : LogRec :=
  { time := 0, record := 0, cls := 0x01, outcome := 2, unit := ⟨1, a / 4⟩, logical := (m.logicalOf (a / 4)).getD 0xFF, sub := a % 4
    job := w.job, inc := w.inc, queue := w.queue, seq := w.seq, info0 := w.word % 2 ^ 64 }

section Faults
variable {m : Mod} {a : Nat} {r : PassRun}

theorem Mod.arrayCheck_none (h : m.faultyPass a = (none, m)) : m.arrayCheck a = m := by simp only [Mod.arrayCheck, h]

theorem Mod.arrayCheck_first (h : m.faultyPass a = (some r, m)) (hr : r.word.reissued = false) :
    m.arrayCheck a = ((m.addLog (m.checkRecord a r.word)).discardFaulty a r m.record).stakeFault (a / 4) := by
  simp [Mod.arrayCheck, h, hr, Mod.checkRecord]

theorem Mod.arrayCheck_again (h : m.faultyPass a = (some r, m)) (hr : r.word.reissued = true) :
    m.arrayCheck a = ((m.addLog (m.checkRecord a r.word)).discardFaulty a r m.record).takeOut (a / 4) := by
  simp [Mod.arrayCheck, h, hr, Mod.checkRecord]

/-- With nothing else draining, the pass that streams or drains is the one at fault. -/
theorem Mod.faultyPass_current (hd : (m.array a).draining = []) (hs : (m.array a).word.state = 2 ∨ (m.array a).word.state = 3) :
    m.faultyPass a = (some (m.array a).toPassRun, m) := by
  simp [Mod.faultyPass, hd, hs]

end Faults

/-! ### Which function of the module each row runs -/

section Rows
variable (s : State) (a : Nat)

theorem exec_passIssue (id : CmdId) : exec (.passIssue a id) s = lift (fun m => m.passIssue a id) s := rfl
theorem exec_reloadDone : exec (.reloadDone a) s = lift (fun m => m.reloadDone a) s := rfl
theorem exec_rowBlockBoundary : exec (.rowBlockBoundary a) s = lift (fun m => m.rowBlock a) s := rfl
theorem exec_lastRowFed : exec (.lastRowFed a) s = lift (fun m => m.lastRow a) s := rfl
theorem exec_dummyRowRun : exec (.dummyRowRun a) s = lift (fun m => m.dummyRun a) s := rfl
theorem exec_passChecksClean : exec (.passChecksClean a) s = lift (fun m => m.checksClean a) s := rfl
theorem exec_rampDownDone : exec (.rampDownDone a) s = lift (fun m => m.rampDown a) s := rfl
theorem exec_rampUpDone : exec (.rampUpDone a) s = lift (fun m => m.rampUp a) s := rfl
theorem exec_limiterGapEnd : exec (.limiterGapEnd a) s = lift (fun m => m.gapEnd a) s := rfl
theorem exec_passResume : exec (.passResume a) s = lift (fun m => m.passResume a) s := rfl
theorem exec_preemptRequest (p : Nat) : exec (.preemptRequest p) s = lift (fun m => m.preemptStake p) s := rfl
theorem exec_arrayCheckFault : exec (.arrayCheckFault a) s = lift (fun m => m.arrayCheck a) s := rfl

end Rows

/-- Settles O32: each row of a pass has an equation above for the guards that its clause names. -/
theorem arrayPassRows : Obligations.ArrayPassRows := by
  refine ⟨fun s a hhold hon => ⟨fun x hx => ⟨fun m n => ?reload, fun m n => ?reloadHadamard, fun hfeed => ?feeds⟩,
      fun r rest hd hc => ⟨?drained, ?drainedPreempted⟩, ?drains, ?rampDown, ?idles, ?rampUp, ?gapEnd, fun r rest x => ?resume⟩,
    fun s a id r x total issued done i hcmd hwork => ?issue,
    fun s a => ⟨?noFault, fun r hr => ⟨s.m.checkRecord a r.word, rfl, rfl, rfl, rfl, rfl, rfl, rfl, ?firstFault, ?secondFault⟩,
      Mod.faultyPass_current, fun p => ?noFiller, ?preempt⟩⟩
  case reload =>
    exact fun hs hop htile hcheck => becomes_of_lift (exec_reloadDone s a) (Mod.reloadDone_tiles hx hon hs hop rfl rfl htile hcheck)
  case reloadHadamard =>
    exact fun hs hop htile hcheck => becomes_of_lift (exec_reloadDone s a) (Mod.reloadDone_hadamard hx hon hs hop htile hcheck)
  case feeds =>
    have hmay := Mod.mayFeed_of_feeding hhold hon hfeed
    exact ⟨fun hleft => becomes_of_lift (exec_rowBlockBoundary s a) (Mod.rowBlock_ends hx hmay hleft),
      fun hleft => becomes_of_lift (exec_lastRowFed s a) (Mod.lastRow_drains hx hmay hleft),
      fun hpre => becomes_of_lift (exec_dummyRowRun s a) (Mod.dummyRun_preempts hx hfeed hpre),
      fun hpre hs => becomes_of_lift (exec_dummyRowRun s a) (Mod.dummyRun_ramps hx hfeed hpre hs)⟩
  case drained => exact fun hr => becomes_of_lift (exec_passChecksClean s a) (Mod.checksClean_drained hd hc hr)
  case drainedPreempted => exact fun hr => becomes_of_lift (exec_passChecksClean s a) (Mod.checksClean_preempted hd hc hr)
  case drains => exact fun hd hs hc => becomes_of_lift (exec_passChecksClean s a) (Mod.checksClean_current hd hs hc)
  case rampDown =>
    exact fun hr => ⟨_, becomes_of_lift (exec_rampDownDone s a) (Mod.rampDown_gates hr), Mod.rampRows_le ..⟩
  case idles => exact fun hs hd hr => becomes_of_lift (exec_rampDownDone s a) (Mod.rampDown_idles hs hd hr)
  case rampUp => exact fun hs hr hg => becomes_of_lift (exec_rampUpDone s a) (Mod.rampUp_gated hhold hs hr hg)
  case gapEnd => exact fun hg => ⟨_, becomes_of_lift (exec_limiterGapEnd s a) (Mod.gapEnd_eq hhold hg)⟩
  case resume =>
    exact fun hsus hx hjob hserve hfree => becomes_of_lift (exec_passResume s a) (Mod.passResume_loads hsus hx hjob hserve hfree)
  case issue =>
    exact fun hnext hlink hlast hlead hop hserve hjob hgap hfree hfed => becomes_of_lift (exec_passIssue s a id)
      (Mod.passIssue_loads hcmd hwork rfl rfl rfl hnext hlink hlast hlead hop hserve hjob hgap hfree hfed)
  case noFault => exact fun h => becomes_of_lift (exec_arrayCheckFault s a) (Mod.arrayCheck_none h)
  case firstFault => exact fun h => becomes_of_lift (exec_arrayCheckFault s a) (Mod.arrayCheck_first hr h)
  case secondFault => exact fun h => becomes_of_lift (exec_arrayCheckFault s a) (Mod.arrayCheck_again hr h)
  case noFiller => exact fun h => becomes_of_lift (exec_preemptRequest s p) (Mod.preemptStake_of_no_filler h)
  case preempt =>
    rintro p rfl hjob hs hr hgang hidle
    exact becomes_of_lift (exec_preemptRequest s p) (Mod.preemptStake_first hjob hs hr hgang hidle)

end Sys2Proof.Machine
end

section
/-!
PROOFS. The accumulator's loop (R141) and its cuts at multiples of 16 pairs (R142, R144).
-/

namespace Sys2Proof.Machine

/-! ### One addition of the loop

The loop of a whole sum and the loop that goes on from a partial sum add their group sums by the same rule. They differ only in where
the count of groups begins, which the random word of ACC_SR is drawn by (R147). -/

/-- The addition of the group sum `s` into `acc` as the addition number `g` of a sum of `T` blocks of 128 pairs. -/
def addSum (sr : Option Draw) (p T g : Nat) (acc s : BitVec 32) : BitVec 32 :=
  match sr with
  | none => add32 acc s
  | some d => rnd32sr (d.acc p T g) ((f32 acc).add (f32 s))

section Loop
variable (sr : Option Draw) (p T g0 a K : Nat) (acc : BitVec 32) (term : Nat → Val)

theorem addGroup_eq_addSum (g : Nat) :
    addGroup sr p K term acc g = addSum sr p ((K + 127) / 128) g acc (groupSum term K g) := rfl

theorem accumulateFrom_eq_foldl :
    accumulateFrom sr p T g0 acc K term =
      (List.range ((K + 15) / 16)).foldl (fun acc g => addSum sr p T (g0 + g) acc (groupSum term K g)) acc := rfl

/-! ### The groups on the two sides of a cut -/

/-- A group that ends at or before the cut is full on both counts of pairs. -/
theorem groupSum_before_cut {a g : Nat} (h : g < a) : groupSum term (16 * a + K) g = groupSum term (16 * a) g := by
  have hwhole : min 16 (16 * a + K - 16 * g) = 16 := by omega
  have hfirst : min 16 (16 * a - 16 * g) = 16 := by omega
  rw [groupSum, groupSum, hwhole, hfirst]

/-- A group after the cut holds the pairs of the group that the second part counts from the cut. -/
theorem groupSum_after_cut (g : Nat) :
    groupSum term (16 * a + K) (a + g) = groupSum (fun k => term (16 * a + k)) K g := by
  have hcount : 16 * a + K - 16 * (a + g) = K - 16 * g := by omega
  rw [groupSum, groupSum, hcount]
  simp only [Nat.mul_add, Nat.add_assoc]

/-! ### The loop -/

/-- The `a` full groups before the cut come first, and no group crosses it (R144). -/
theorem accumulateFrom_cut :
    accumulateFrom sr p T g0 acc (16 * a + K) term =
      accumulateFrom sr p T (g0 + a) (accumulateFrom sr p T g0 acc (16 * a) term) K (fun k => term (16 * a + k)) := by
  have hwhole : (16 * a + K + 15) / 16 = a + (K + 15) / 16 := by omega
  have hfirst : (16 * a + 15) / 16 = a := by omega
  have hbefore : (List.range a).foldl (fun acc g => addSum sr p T (g0 + g) acc (groupSum term (16 * a + K) g)) acc =
      accumulateFrom sr p T g0 acc (16 * a) term := by
    rw [accumulateFrom_eq_foldl, hfirst]
    refine List.foldl_ext _ _ _ fun acc g hg => ?_
    rw [groupSum_before_cut K term (List.mem_range.1 hg)]
  rw [accumulateFrom_eq_foldl, hwhole, List.range_add, List.foldl_append, hbefore, List.foldl_map]
  simp only [accumulateFrom_eq_foldl, groupSum_after_cut, ← Nat.add_assoc]

/-- A whole sum is the loop that goes on from −0 at group 0 (R139, R141). -/
theorem accumulate_eq_accumulateFrom :
    accumulate sr p K term = accumulateFrom sr p ((K + 127) / 128) 0 negZero32 K term := by
  rw [accumulate, accumulateFrom_eq_foldl]
  refine List.foldl_ext _ _ _ fun acc g _ => ?_
  rw [addGroup_eq_addSum, Nat.zero_add]

end Loop

/-- Settles O30: no group crosses the cut, and the second part counts its groups, and so draws its random words, from the cut on. -/
theorem accumulationMayBeCut : Obligations.AccumulationMayBeCut :=
  fun sr p T g0 a K acc term => ⟨accumulateFrom_cut sr p T g0 a K acc term, accumulate_eq_accumulateFrom sr p K term⟩

end Sys2Proof.Machine
end

section
/-!
PROOFS. What the reads, the writes and the effect of a data command change in the module (R196, R210, R236–R238).
-/

namespace Sys2Proof.Machine

/-! ### What a read changes (R236–R238, R242) -/

/-- What every step of a fold changes in one field, the fold changes in that field alone. -/
theorem foldl_sets {α σ : Type} {put : Mod → σ → Mod} {f : Mod → α → Mod} (hself : ∀ m, ∃ a, m = put m a)
    (hput : ∀ m a b, put (put m a) b = put m b) (hf : ∀ m x, ∃ a, f m x = put m a) (l : List α) (m : Mod) :
    ∃ a, l.foldl f m = put m a := by
  induction l generalizing m with
  | nil => exact hself m
  | cons x l ih =>
    obtain ⟨a, ha⟩ := hf m x
    obtain ⟨b, hb⟩ := ih (f m x)
    exact ⟨b, by rw [List.foldl_cons, hb, ha, hput]⟩

section Reads
variable (m : Mod)

theorem Mod.touchBlocks_jobs (job : Nat) (locs : List Nat) : ∃ js, m.touchBlocks job locs = { m with jobs := js } := by
  unfold Mod.touchBlocks
  dsimp only
  split
  · exact ⟨m.jobs, rfl⟩
  · exact ⟨_, rfl⟩

theorem Mod.scrubWords_memErrors (gs : List Nat) : ∃ es, m.scrubWords gs = { m with memErrors := es } := by
  refine foldl_sets (put := fun m es => { m with memErrors := es }) (fun m => ⟨m.memErrors, rfl⟩) (fun _ _ _ => rfl) (fun m g => ?_) gs m
  split
  · exact ⟨_, rfl⟩
  · exact ⟨m.memErrors, rfl⟩

/-- A read over the links drops the errors that stood on them; one that meets an uncorrectable word there is recorded too. -/
theorem Mod.crossFor_cases (c : Cmd) (locs : List Nat) : ∃ es n,
    m.crossFor c locs = ({ m with linkErrors := es }, n, none) ∨
      ∃ r k, m.crossFor c locs = ({ m with linkErrors := es }.addOpen r, n, some k) := by
  unfold Mod.crossFor
  split
  · exact ⟨m.linkErrors, 0, .inl rfl⟩
  · split
    · exact ⟨m.linkErrors, 0, .inl rfl⟩
    · split
      · rename_i hx
        obtain ⟨rfl, -⟩ := Prod.mk.inj hx
        exact ⟨_, _, .inl rfl⟩
      · rename_i hx
        obtain ⟨rfl, -⟩ := Prod.mk.inj hx
        exact ⟨_, _, .inr ⟨_, _, rfl⟩⟩

/-- What a failed read leaves of the module in which it fails: the record of a lost channel, row or word, or of a word lost on a link; the
row of an uncorrectable word moves. -/
inductive Mod.Records : Mod → Prop
  | lost (r : LogRec) : Records (m.addLog r)
  | word (r : LogRec) (a : Nat) : Records ((m.addLog r).moveRow a)
  | link (r : LogRec) : Records (m.addOpen r)

/-- The module once a command's read blocks stand in the order of their use (R434). -/
def Mod.touched (c : Option Cmd) (locs : List Nat) : Mod :=
  match c with
  | some c => m.touchBlocks c.job locs
  | none => m

theorem Mod.touched_jobs (c : Option Cmd) (locs : List Nat) : ∃ js, m.touched c locs = { m with jobs := js } := by
  cases c with
  | none => exact ⟨m.jobs, rfl⟩
  | some c => exact m.touchBlocks_jobs c.job locs

/-- What a read does behind its read blocks, which is all for a read without a command. -/
def Mod.readHere (c : Option Cmd) (here : List Nat) : Mod × Nat × Option Nat :=
  match here.find? fun a => m.badChannel a || m.deadRow a with
  | some a => (m.logRead a (some (if m.badChannel a then 0x08 else 0x09)) c, 0, some m.record)
  | none =>
    let r := m.readCheck (here.map granuleOf).eraseDups
    let t := m.scrubWords (r.corrected.filter fun g => (channelOf (16 * g)).isSome)
    match r.bad with
    | some g => ((t.logRead (16 * g) none c).moveRow (16 * g), r.corrected.length, some t.record)
    | none =>
      match c with
      | none => (t, r.corrected.length, none)
      | some c =>
        match t.crossFor c here with
        | (t, n, bad) => (t, r.corrected.length + n, bad)

theorem Mod.checkLocal_eq (c : Option Cmd) (locs : List Nat) :
    m.checkLocal c locs = (m.touched c locs).readHere c (locs.filter isLocal) := rfl

/-- Behind the read blocks, a read changes the errors in memory and on links; one that fails is recorded too. -/
theorem Mod.readHere_cases (c : Option Cmd) (here : List Nat) : ∃ es ls n,
    m.readHere c here = ({ m with memErrors := es, linkErrors := ls }, n, none) ∨
      ∃ u k, m.readHere c here = (u, n, some k) ∧ { m with memErrors := es, linkErrors := ls }.Records u := by
  unfold Mod.readHere
  split
  · exact ⟨m.memErrors, m.linkErrors, _, .inr ⟨_, _, rfl, .lost _⟩⟩
  · obtain ⟨es, hes⟩ := m.scrubWords_memErrors ((m.readCheck (here.map granuleOf).eraseDups).corrected.filter fun g =>
      (channelOf (16 * g)).isSome)
    simp only [hes]
    split
    · exact ⟨es, m.linkErrors, _, .inr ⟨_, _, rfl, .word _ _⟩⟩
    · cases c with
      | none => exact ⟨es, m.linkErrors, _, .inl rfl⟩
      | some c =>
        obtain ⟨ls, n, h | ⟨r, k, h⟩⟩ := Mod.crossFor_cases { m with memErrors := es } c here
        · exact ⟨es, ls, _, .inl (by simp only [h]; rfl)⟩
        · exact ⟨es, ls, _, .inr ⟨_, k, by simp only [h]; rfl, .link r⟩⟩

/-- A read changes the jobs (the order of their read blocks) and the errors in memory and on links; one that fails is recorded too. -/
theorem Mod.checkLocal_cases (c : Option Cmd) (locs : List Nat) : ∃ js es ls n,
    m.checkLocal c locs = ({ m with jobs := js, memErrors := es, linkErrors := ls }, n, none) ∨
      ∃ u k, m.checkLocal c locs = (u, n, some k) ∧ { m with jobs := js, memErrors := es, linkErrors := ls }.Records u := by
  obtain ⟨js, hjs⟩ := m.touched_jobs c locs
  rw [Mod.checkLocal_eq, hjs]
  exact ⟨js, Mod.readHere_cases _ c _⟩

theorem Mod.checkWrite_clean {c : Option Cmd} {locs : List Nat} (h : (m.checkWrite c locs).2 = none) : m.checkWrite c locs = (m, none) := by
  unfold Mod.checkWrite at h ⊢
  split at h
  · cases h
  · rfl

/-- Accesses without a fault change the jobs and the errors in memory and on links, and nothing else. -/
theorem Mod.checkAccess_clean {c : Option Cmd} {reads writes : List Nat} (h : (m.checkAccess c reads writes).2.2 = none) :
    ∃ js es ls, (m.checkAccess c reads writes).1 = { m with jobs := js, memErrors := es, linkErrors := ls } := by
  obtain ⟨js, es, ls, n, hk | ⟨u, k, hk, -⟩⟩ := m.checkLocal_cases c reads
  · simp only [Mod.checkAccess, hk] at h ⊢
    exact ⟨js, es, ls, congrArg Prod.fst (Mod.checkWrite_clean _ h)⟩
  · simp [Mod.checkAccess, hk] at h

end Reads

/-! ### What an effect that writes changes (R196, R210) -/

section Writes
variable (m : Mod)

theorem Mod.countJob_jobs (id : Nat) (k : Ctr) (n : Nat) : ∃ js, m.countJob id k n = { m with jobs := js } := by
  unfold Mod.countJob
  split
  · exact ⟨m.jobs, rfl⟩
  · exact ⟨_, rfl⟩

theorem Mod.tally_fields (id : CmdId) (job : Nat) (e : Effect) : ∃ ls js, m.tally id job e = { m with lanes := ls, jobs := js } := by
  obtain ⟨js, hjs⟩ := foldl_sets (put := fun m js => { m with jobs := js }) (f := fun m (c : Ctr × Nat) => m.countJob job c.1 c.2)
    (fun m => ⟨m.jobs, rfl⟩) (fun _ _ _ => rfl) (fun m c => m.countJob_jobs job c.1 c.2) e.ctrs
    (m.updSum id.lane fun s => { s.counts e.put.counts with nonfinite := (s.counts e.put.counts).nonfinite + e.nonfinite })
  exact ⟨_, js, hjs⟩

theorem Mod.land_of_local (j : Job) (id : CmdId) (rd : Nat → Byte) {ws : List (Nat × Byte)} (h : ∀ w ∈ ws, isLocal w.1 = true) :
    m.land j id rd ws = m.store ws := by
  have hlocal : ws.filter (fun w => isLocal w.1) = ws := List.filter_eq_self.2 h
  have htray : ws.filter (fun w => isTray w.1) = [] := by
    refine List.filter_eq_nil_iff.2 fun w hw => ?_
    have := h w hw
    simp only [isLocal, isTray, decide_eq_true_eq, Bool.and_eq_true] at this ⊢
    omega
  have hwin : ws.filter (fun w => isWin w.1) = [] := by
    refine List.filter_eq_nil_iff.2 fun w hw => ?_
    have := h w hw
    simp only [isLocal, isWin, decide_eq_true_eq] at this ⊢
    omega
  simp only [Mod.land, hlocal, htray, hwin]
  rfl

/-- A command's counts, the note of the channels that it read, and its writes on this module. -/
theorem Mod.noted_store_fields (l : Lane) (f : Summary → Summary) (id : CmdId) (job : Nat) (locs : List Nat) (ws : List (Nat × Byte)) :
    ∃ lns reads es, ((m.updSum l f).noteReads id job false locs).store ws =
      { m with mem := m.mem.writeAll ws, lanes := lns, channelReads := reads, memErrors := es } := ⟨_, _, _, rfl⟩

variable {m} {t : Mod} {id : CmdId} {r : Running} {j : Job} {got : List (Nat × Byte)} {body : (Nat → Byte) → Effect}

/-- An effect that has written: it did not fail, its accesses met no fault, and its writes have landed and its counts are in. -/
theorem Mod.runEffect_wrote (h : m.runEffect id r j got body = .wrote t) : let e := body (m.reader j got)
    e.fail = none ∧ ∃ k, k = m.checkAccess (some r.cmd) e.reads.flatten (e.put.writes.map (·.1)) ∧ k.2.2 = none ∧
      t = ((((k.1.updSum id.lane fun s => { s with corrected := s.corrected + k.2.1 }).noteReads id r.cmd.job false
        e.reads.flatten).land j id (m.reader j got) e.put.writes).tally id r.cmd.job e) := by
  intro e
  unfold Mod.runEffect at h
  dsimp only at h
  split at h
  · cases h
  · split at h
    · cases h
    · rename_i hbad
      split at h
      · cases h
      · rename_i hfail
        simp only [hfail] at hbad h
        exact ⟨hfail, _, rfl, hbad, (Ran.wrote.inj h).symm⟩

/-- An effect that writes on this module alone changes memory by its writes; of the rest it changes no more than the errors of the words
that it read and wrote, the links' errors, the lanes' and jobs' counts and the note of the channels that it read. -/
theorem Mod.runEffect_wrote_local (h : m.runEffect id r j got body = .wrote t)
    (hlocal : ∀ w ∈ (body (m.reader j got)).put.writes, isLocal w.1 = true) :
    ∃ js es ls lns reads, t = { m with
      mem := m.mem.writeAll (body (m.reader j got)).put.writes, jobs := js, memErrors := es, linkErrors := ls, lanes := lns
      channelReads := reads } := by
  obtain ⟨-, k, rfl, hclean, ht⟩ := Mod.runEffect_wrote h
  obtain ⟨js, es, ls, hk⟩ := Mod.checkAccess_clean m hclean
  rw [hk, Mod.land_of_local _ _ _ _ hlocal] at ht
  obtain ⟨_, reads, es', hstore⟩ := Mod.noted_store_fields _ _ _ _ _ _ _
  rw [hstore] at ht
  obtain ⟨lns, js', htally⟩ := Mod.tally_fields _ id r.cmd.job (body (m.reader j got))
  exact ⟨js', es', ls, lns, reads, ht.trans htally⟩

end Writes

/-- Settles O27: memory is the only field of the statement that such an effect changes, and a write changes the bytes it names alone. -/
theorem effectWritesOnlyItsBytes : Obligations.EffectWritesOnlyItsBytes := by
  intro m t id r j got body hwf hrun hlocal
  obtain ⟨hfail, -⟩ := Mod.runEffect_wrote hrun
  obtain ⟨js, es, ls, lns, reads, rfl⟩ := Mod.runEffect_wrote_local hrun hlocal
  exact ⟨hfail, rfl, fun a ha => Memory.get_writeAll hwf _ a ha, rfl, rfl, rfl, rfl, rfl, rfl, rfl, rfl, rfl, rfl⟩

end Sys2Proof.Machine
end

section
/-!
PROOFS. The start of a data command: the order of what ends it, holds it back or lets it run (R196–R198, R346, R421, R469).
-/

namespace Sys2Proof.Machine

/-! ### The stakes of its queue come first (R39, R469) -/

section Start
variable {m : Mod} {id : CmdId} {c : Cmd} {j : Job}

theorem Mod.startData_moving (h : (m.stakesOf j c.pkt.queue.toNat).1 = true) : m.startData id c j = m.setWork id.lane .ready := by
  simp only [Mod.startData, h, if_true]

theorem Mod.startData_absent {n : Nat} (h : m.stakesOf j c.pkt.queue.toNat = (false, some n)) :
    m.startData id c j = m.complete id .faultDetected n := by
  simp [Mod.startData, h]

/-! ### Then the places and the limits of its operands (R346, R421) -/

section Stakes
variable (hs : m.stakesOf j c.pkt.queue.toNat = (false, none))
include hs

theorem Mod.startData_unplaced {k : Nat} {o : Opnd} (hx : dataOf c j = .error (some k, o)) :
    m.startData id c j = m.setWork id.lane (.placement k) := by
  simp [Mod.startData, hs, hx]

theorem Mod.startData_unknown {o : Opnd} (hx : dataOf c j = .error (none, o)) :
    m.startData id c j = m.complete id .badDescriptor (o.field 4) := by
  simp [Mod.startData, hs, hx]

theorem Mod.startData_limit {x : Data} {d : Nat} (hx : dataOf c j = .ok x) (hd : dataLimit c.op j c.pkt = some d) :
    m.startData id c j = m.complete id .badDescriptor d := by
  simp [Mod.startData, hs, hx, hd]

/-! ### Then bounds before overlap (R196–R198, log 10) -/

section Tests
variable {x : Data} (hx : dataOf c j = .ok x) (hl : dataLimit c.op j c.pkt = none) (hfar : x.farScatter = false)
include hx hl hfar

theorem Mod.startData_bounds {d : Nat} (ht : dataTest x (m.reader j []) = some d) : m.startData id c j = m.complete id .bounds d := by
  simp [Mod.startData, hs, hx, hl, hfar, ht]

theorem Mod.startData_overlaps {d : Nat} (ht : dataTest x (m.reader j []) = none) (hc : m.claimExtents id c j = .overlaps d) :
    m.startData id c j = (m.countJob c.job .OVERLAP_REFUSED).complete id .overlap d := by
  simp [Mod.startData, hs, hx, hl, hfar, ht, hc]

theorem Mod.startData_runs {rs : List Registered} (ht : dataTest x (m.reader j []) = none) (hc : m.claimExtents id c j = .ok rs) :
    m.startData id c j = (({ m with registry := m.registry ++ rs }).noteCopies id x).launch id x [] := by
  simp [Mod.startData, hs, hx, hl, hfar, ht, hc]

end Tests
end Stakes
end Start

/-- Settles O26: one equation above for each outcome of the start, under the outcomes before it not holding. -/
theorem dataCommandStartOrder : Obligations.DataCommandStartOrder := fun _ _ _ _ =>
  ⟨Mod.startData_moving, fun _ => Mod.startData_absent, fun hs =>
    ⟨fun _ _ => Mod.startData_unplaced hs, fun _ => Mod.startData_unknown hs, fun _ hx =>
      ⟨fun _ => Mod.startData_limit hs hx, fun hl hfar =>
        ⟨fun _ => Mod.startData_bounds hs hx hl hfar, fun ht =>
          ⟨fun _ => Mod.startData_overlaps hs hx hl hfar ht, fun _ => Mod.startData_runs hs hx hl hfar ht⟩⟩⟩⟩⟩

end Sys2Proof.Machine
end

section
/-!
PROOFS. The messages of a split request (R211–R214, R238): what each kind of message does, and what a part that receives COMMIT writes.
-/

namespace Sys2Proof.Machine

/-! ### What a commit depends on (R212, R213) -/

/-- The part of the module that a part's COMMIT reads and changes: memory, the channels out of service, and the staged copies. -/
structure SplitParts where
  mem : Memory
  badChannels : List Nat
  staged : List Staged

def Mod.splitParts (m : Mod) : SplitParts := { mem := m.mem, badChannels := m.badChannels, staged := m.staged }

section Records
variable {m : Mod}

theorem Mod.ite_splitParts {c : Prop} [Decidable c] {a b : Mod} {x : SplitParts} (ha : a.splitParts = x) (hb : b.splitParts = x) :
    (if c then a else b).splitParts = x := by
  split <;> assumption

theorem Mod.raiseCause_splitParts (bit : Nat) : (m.raiseCause bit).splitParts = m.splitParts :=
  Mod.ite_splitParts (Mod.ite_splitParts rfl rfl) rfl

theorem Mod.trace_splitParts (r : TraceRec) : (m.trace_ r).splitParts = m.splitParts :=
  Mod.ite_splitParts rfl (Mod.ite_splitParts rfl (Mod.ite_splitParts rfl (Mod.ite_splitParts rfl rfl)))

theorem Mod.addLog_splitParts (r : LogRec) : (m.addLog r).splitParts = m.splitParts := by
  have htrace (x : Mod) (q : TraceRec) (b : Bytes) :
      (if r.cls = 0x40 then (x.trace_ q).extend 6 b else x.trace_ q).splitParts = x.splitParts :=
    Mod.ite_splitParts (Mod.trace_splitParts q) (Mod.trace_splitParts q)
  exact Mod.ite_splitParts rfl (Mod.ite_splitParts ((Mod.raiseCause_splitParts 0).trans (htrace _ _ _)) (htrace _ _ _))

theorem Mod.logRead_splitParts (a : Nat) (lost : Option Nat) (c : Option Cmd) : (m.logRead a lost c).splitParts = m.splitParts :=
  Mod.addLog_splitParts _

theorem Mod.countJob_splitParts (id : Nat) (k : Ctr) (n : Nat) : (m.countJob id k n).splitParts = m.splitParts :=
  Mod.ite_splitParts rfl rfl

theorem Mod.countOwner_splitParts (a : Nat) (k : Ctr) : (m.countOwner a k).splitParts = m.splitParts := by
  unfold Mod.countOwner
  split
  · exact Mod.countJob_splitParts _ k 1
  · rfl

theorem Mod.sparesGone_splitParts (r : Nat × Nat) : (m.sparesGone r).splitParts = m.splitParts :=
  Mod.ite_splitParts ((Mod.raiseCause_splitParts 1).trans (Mod.addLog_splitParts _)) rfl

theorem Mod.moveRow_splitParts (a : Nat) : (m.moveRow a).splitParts = m.splitParts := by
  unfold Mod.moveRow
  split
  · rfl
  · refine Mod.ite_splitParts rfl (Mod.ite_splitParts (Mod.ite_splitParts rfl rfl) ?_)
    exact (Mod.sparesGone_splitParts _).trans ((Mod.countOwner_splitParts a .ROWS_REMAPPED).trans (Mod.addLog_splitParts _))

theorem Mod.Records.splitParts {u : Mod} (h : m.Records u) : u.splitParts = m.splitParts := by
  cases h with
  | lost r => exact Mod.addLog_splitParts r
  | word r a => exact (Mod.moveRow_splitParts a).trans (Mod.addLog_splitParts r)
  | link r => exact Mod.addLog_splitParts _

theorem Mod.checkLocal_splitParts (c : Option Cmd) (locs : List Nat) : (m.checkLocal c locs).1.splitParts = m.splitParts := by
  obtain ⟨js, es, ls, n, h | ⟨u, k, h, hu⟩⟩ := m.checkLocal_cases c locs
  · rw [h]
    rfl
  · rw [h]
    exact hu.splitParts

theorem Mod.stagedWrites_free (t : Staged) : ∃ n, (m.stagedWrites t).2.2 = { m with free := n } := by
  unfold Mod.stagedWrites
  refine List.foldlRecOn (motive := fun p : List (Nat × Byte) × Counts × Mod => ∃ n, p.2.2 = { m with free := n }) _ _ ⟨m.free, rfl⟩ ?_
  rintro ⟨ws, n, u⟩ ⟨k, hu⟩ a -
  dsimp only at hu ⊢
  subst hu
  split
  · exact ⟨_, rfl⟩
  · exact ⟨k, rfl⟩

theorem Mod.badChannel_congr {u : Mod} (h : u.badChannels = m.badChannels) : u.badChannel = m.badChannel := by
  funext a
  simp only [Mod.badChannel, h]

end Records

/-! ### A part receives COMMIT (R212, R213) -/

/-- The staged copy of a part once it has recorded COMMIT for some writes, which it has made or could not make; other copies stay. -/
def Staged.commit (id : CmdId) (part : Nat) (ws : List (Nat × Byte)) (written : Bool) (t : Staged) : Staged :=
  if t.id == id && t.part == part then { t with adds := [], writes := ws, recorded := true, written := written } else t

theorem Staged.of_mem_map_commit {id : CmdId} {part : Nat} {ws : List (Nat × Byte)} {written : Bool} {l : List Staged} {u : Staged}
    (hu : u ∈ l.map (Staged.commit id part ws written)) (hid : u.id = id) (hpart : u.part = part) :
    u.recorded = true ∧ u.writes = ws ∧ u.written = written := by
  obtain ⟨t, -, rfl⟩ := List.mem_map.1 hu
  unfold Staged.commit at hid hpart ⊢
  split
  · exact ⟨rfl, rfl, rfl⟩
  · rename_i h
    rw [if_neg h] at hid hpart
    simp [hid, hpart] at h

/-- A part records COMMIT for some writes and makes them, unless one goes to a channel out of service, which is recorded. -/
def Mod.landCommit (m : Mod) (c : Cmd) (id : CmdId) (part : Nat) (ws : List (Nat × Byte)) : Mod :=
  let lost := ws.find? fun w => isLocal w.1 && m.badChannel w.1
  let t := { m with staged := m.staged.map (Staged.commit id part ws lost.isNone) }
  match lost with
  | some w => t.logRead w.1 (some 0x08) (some c)
  | none => t.store ws

theorem Mod.landCommit_splitParts (m : Mod) (c : Cmd) (id : CmdId) (part : Nat) (ws : List (Nat × Byte)) :
    let lost := ws.find? fun w => isLocal w.1 && m.badChannel w.1
    (m.landCommit c id part ws).splitParts =
      { m.splitParts with mem := if lost.isNone then m.mem.writeAll ws else m.mem
                          staged := m.staged.map (Staged.commit id part ws lost.isNone) } := by
  intro lost
  unfold Mod.landCommit
  cases hlost : ws.find? fun w => isLocal w.1 && m.badChannel w.1 with
  | none => simp only [lost, hlost]; rfl
  | some w => simp only [lost, hlost]; exact Mod.logRead_splitParts _ _ _

section Commit
variable {m : Mod} {id : CmdId} {part : Nat} {r : Running} {failed : List (Nat × Nat)} {left : List Nat} {t : Staged}
  (hr : m.cmd? id = some r) (hw : r.work = .split [] failed left) (hp : part ∈ left)
  (ht : (m.staged.find? fun t => t.id == id && t.part == part) = some t) (hwritten : t.written = false)
include hr hw hp ht hwritten

/-- COMMIT reads the old values and counts the results before it lands; a fault in either stays with the command as the part's failure. -/
theorem Mod.splitCommit_eq :
    let k := m.stagedWrites t
    let a := k.2.2.checkLocal (some r.cmd) (t.adds.flatMap (·.locs))
    let u := a.1.updSum id.lane fun x => { x.counts k.2.1 with corrected := x.corrected + a.2.1 }
    let done := u.landCommit r.cmd id part k.1
    m.splitCommit id part =
      if a.2.2.isNone && (k.1.find? fun w => isLocal w.1 && u.badChannel w.1).isNone then done
      else done.setWork id.lane (.split [] ((failed.filter fun f => f.1 != part).concat (part, Status.faultDetected.code)) left) := by
  have hgo : (t.written || !left.contains part) = false := by simp [hwritten, hp]
  simp only [Mod.splitCommit, hr, ht, hw, hgo]
  rfl

/-- The copy is recorded and the writes are made, unless one of them goes to a channel out of service. -/
theorem Mod.splitCommit_splitParts :
    let ws := (m.stagedWrites t).1
    let lost := ws.find? fun w => isLocal w.1 && m.badChannel w.1
    (m.splitCommit id part).splitParts =
      { m.splitParts with mem := if lost.isNone then m.mem.writeAll ws else m.mem
                          staged := m.staged.map (Staged.commit id part ws lost.isNone) } := by
  intro ws lost
  obtain ⟨n, hfree⟩ := m.stagedWrites_free t
  have hread : ((m.stagedWrites t).2.2.checkLocal (some r.cmd) (t.adds.flatMap (·.locs))).1.splitParts = m.splitParts := by
    rw [Mod.checkLocal_splitParts, hfree]
    rfl
  have hland (u : Mod) (hu : u.splitParts = m.splitParts) : (u.landCommit r.cmd id part ws).splitParts =
      { m.splitParts with mem := if lost.isNone then m.mem.writeAll ws else m.mem
                          staged := m.staged.map (Staged.commit id part ws lost.isNone) } := by
    obtain ⟨hmem, hbad, hstaged⟩ := SplitParts.mk.inj hu
    rw [Mod.landCommit_splitParts, hu, Mod.badChannel_congr hbad, hmem, hstaged]
  rw [Mod.splitCommit_eq hr hw hp ht hwritten]
  exact Mod.ite_splitParts (hland _ hread) (hland _ hread)

end Commit

/-! ### A part reports (R212, R214) -/

section Report
variable {m : Mod} {id : CmdId} {part status : Nat} {r : Running} {unstaged : List Nat} {failed bad : List (Nat × Nat)}
  (hr : m.cmd? id = some r) (hw : r.work = .split unstaged failed []) (hp : part ∈ unstaged)
  (hbad : (if status = 0 then failed else failed.concat (part, status)) = bad)
include hr hw hp hbad

theorem Mod.partStaged_waits (hleft : unstaged.filter (· != part) ≠ []) :
    m.partStaged id part status = m.setWork id.lane (.split (unstaged.filter (· != part)) bad []) := by
  simp [-List.concat_eq_append, Mod.partStaged, hr, hw, hbad, hp, hleft]

variable (hleft : unstaged.filter (· != part) = [])
include hleft

theorem Mod.partStaged_commits (hnone : bad = []) :
    m.partStaged id part status = m.setWork id.lane (.split [] [] ((m.staged.filter fun t => t.id == id).map (·.part))) := by
  simp [-List.concat_eq_append, Mod.partStaged, hr, hw, hbad, hleft, hnone, hp]

theorem Mod.partStaged_fails (hsome : bad ≠ []) :
    let e := partFailed (bad.map fun f => (f.1, f.2, 1))
    m.partStaged id part status = (m.countJob r.cmd.job .SPLIT_ABORTED).complete id e.1 e.2.1 e.2.2 := by
  simp [-List.concat_eq_append, Mod.partStaged, hr, hw, hbad, hleft, hp, hsome]

end Report

/-! ### A part receives ABORT (R212, R213) -/

section Abort
variable {m : Mod} {id : CmdId} {part : Nat} {t : Staged} (hr : m.cmd? id = none)
  (ht : (m.staged.find? fun t => t.id == id && t.part == part) = some t)
include hr ht

theorem Mod.splitAbort_recorded (h : t.recorded = true) : m.splitAbort id part = m := by
  simp [Mod.splitAbort, hr, ht, h]

theorem Mod.splitAbort_frees (h : t.recorded = false) : m.splitAbort id part = m.freeStaged id part := by
  simp [Mod.splitAbort, hr, ht, h]

end Abort

/-! ### A part acknowledges COMMIT (R212, R214) -/

section Ack
variable {m : Mod} {id : CmdId} {part : Nat} {r : Running} {failed : List (Nat × Nat)} {left : List Nat}

/-- A part none of whose staged copies lacks the record of COMMIT has recorded it, if it stands here at all. -/
theorem Mod.here_recorded (h : (m.staged.find? fun t => t.id == id && t.part == part && !t.recorded) = none) :
    ((m.staged.any fun t => t.id == id && t.part == part) && !m.staged.any fun t => t.id == id && t.part == part && t.recorded) = false := by
  rw [List.find?_eq_none] at h
  by_cases hany : (m.staged.any fun t => t.id == id && t.part == part) = true
  · obtain ⟨t, ht, hmine⟩ := List.any_eq_true.1 hany
    have hrec : (m.staged.any fun t => t.id == id && t.part == part && t.recorded) = true :=
      List.any_eq_true.2 ⟨t, ht, by simpa [hmine] using h t ht⟩
    rw [hrec, Bool.not_true, Bool.and_false]
  · rw [Bool.not_eq_true] at hany
    rw [hany, Bool.false_and]

variable (hr : m.cmd? id = some r) (hw : r.work = .split [] failed left) (hp : part ∈ left)
  (hrec : (m.staged.find? fun t => t.id == id && t.part == part && !t.recorded) = none)
include hr hw hp hrec

theorem Mod.commitAck_waits (hrest : left.filter (· != part) ≠ []) :
    m.commitAck id part = (m.freeStaged id part).setWork id.lane (.split [] failed (left.filter (· != part))) := by
  simp [Mod.commitAck, hr, hw, hp, Mod.here_recorded hrec, hrest]

variable (hrest : left.filter (· != part) = [])
include hrest

theorem Mod.commitAck_ends (hnone : failed = []) :
    m.commitAck id part = (((m.freeStaged id part).payOwed id).endSplit id ((m.freeStaged id part).scatterRows id)) := by
  simp [Mod.commitAck, hr, hw, hp, Mod.here_recorded hrec, hrest, hnone]

theorem Mod.commitAck_fails (hsome : failed ≠ []) :
    let e := partFailed (failed.map fun f => (f.1, f.2, 2))
    m.commitAck id part = ((m.freeStaged id part).payOwed id).complete id e.1 e.2.1 e.2.2 := by
  simp [Mod.commitAck, hr, hw, hp, Mod.here_recorded hrec, hrest, hsome]

end Ack

/-! ### Which function of the module each row runs -/

section Rows
variable (s : State) (id : CmdId) (part : Nat)

theorem exec_partStaged (status : Nat) : exec (.partStaged id part status) s = lift (fun m => m.partStaged id part status) s := rfl
theorem exec_splitCommit : exec (.splitCommit id part) s = lift (fun m => m.splitCommit id part) s := rfl
theorem exec_splitAbort : exec (.splitAbort id part) s = lift (fun m => m.splitAbort id part) s := rfl
theorem exec_commitAck : exec (.commitAck id part) s = lift (fun m => m.commitAck id part) s := rfl

end Rows

/-- Settles O45: each message has its equations above; of a COMMIT the statement asks for memory and the staged copies. -/
theorem splitRequestRows : Obligations.SplitRequestRows := by
  intro s id part status
  refine ⟨fun r unstaged failed hr hw hp => ⟨?waits, ?commits, ?fails⟩, fun r t failed left hr hw hp ht hwritten => ?commit,
    fun t hr ht => ⟨?recorded, ?frees⟩, fun r failed left hr hw hp hrec => ⟨?ackWaits, ?ackEnds, ?ackFails⟩⟩
  case waits => exact fun h => becomes_of_lift (exec_partStaged s id part status) (Mod.partStaged_waits hr hw hp rfl h)
  case commits => exact fun h hb => becomes_of_lift (exec_partStaged s id part status) (Mod.partStaged_commits hr hw hp rfl h hb)
  case fails => exact fun h hb => ⟨rfl, becomes_of_lift (exec_partStaged s id part status) (Mod.partStaged_fails hr hw hp rfl h hb)⟩
  case commit =>
    intro ws lost
    obtain ⟨hmem, -, hstaged⟩ := SplitParts.mk.inj (Mod.splitCommit_splitParts hr hw hp ht hwritten)
    refine next_of_lift (exec_splitCommit s id part) ⟨fun hl => ?_, fun hl => ?_, fun u hu hid hpart => ?_⟩
    · exact hmem.trans (if_pos (Option.isNone_iff_eq_none.2 hl))
    · exact hmem.trans (if_neg fun hn => Option.isSome_iff_ne_none.1 hl (Option.isNone_iff_eq_none.1 hn))
    · exact Staged.of_mem_map_commit (hstaged ▸ hu) hid hpart
  case recorded => exact fun h => becomes_of_lift (exec_splitAbort s id part) (Mod.splitAbort_recorded hr ht h)
  case frees => exact fun h => becomes_of_lift (exec_splitAbort s id part) (Mod.splitAbort_frees hr ht h)
  case ackWaits => exact fun h => becomes_of_lift (exec_commitAck s id part) (Mod.commitAck_waits hr hw hp hrec h)
  case ackEnds => exact fun h hf => becomes_of_lift (exec_commitAck s id part) (Mod.commitAck_ends hr hw hp hrec h hf)
  case ackFails => exact fun h hf => becomes_of_lift (exec_commitAck s id part) (Mod.commitAck_fails hr hw hp hrec h hf)

end Sys2Proof.Machine
end

section
/-!
PROOFS. Every step keeps the module's memory, Tier C and the staging regions in canonical form (R161, R218, R230).
-/

namespace Sys2Proof.Machine

/-- A meaning keeps every memory in canonical form. -/
def KeepsMem (run : State → Host.Outcome State Fault Refusal) : Prop := ∀ s t, s.m.memOk → run s = .next t → t.m.memOk

/-- A meaning keeps the canonical form when the change of the module that it lifts does. -/
theorem KeepsMem.of_lift {f : Mod → Mod} (hf : ∀ m, m.memOk → (f m).memOk) : KeepsMem (lift f) := by
  intro s t hs ht
  obtain rfl := Host.Outcome.next.inj ht
  exact hf s.m hs

/-- Every command keeps the canonical form: the packets of all operations share one reception, and each other row lifts a named operation
of the module. -/
theorem exec_keepsMem : ∀ i, KeepsMem (exec i)
  | .nop p | .fenceQueue p | .fenceJob p | .tieSignalAdd p | .tieSignalReset p | .tieWait p | .tieDump p | .echo p | .planLoad p |
    .planStart p | .quiesce p | .planUnload p | .jobAbort p | .jobNotice p | .copy p | .gather p | .scatter p | .scatterAdd p | .fill p |
    .rngFill p | .convert p | .matmul p | .hadamard p | .sparseForward p | .sparseDataGrad p | .sparseWeightGrad p | .spmm p |
    .riddleExact p | .riddleGuarded p | .riddleFree p | .mend p | .vexpr p | .reduceSum p | .reduceSumsq p | .reduceMax p | .reduceMin p |
    .distMinPlus p | .distMaxPlus p | .distL2 p | .distL1 p | .route p | .dispatch p | .combine p | .dispatchGrad p | .combineGrad p |
    .expertCounts p | .reduceScatter p | .allGather p | .allReduce p | .norm p | .broadcast p | .send p | .recv p | .optimSweep p |
    .lossRead p | .lossLoad p | .stepCommit p | .stepRollback p | .reside p | .evict p | .checkpoint p | .restore p | .ownTake p |
    .ownGive p | .poolConfig p | .poolStatRecords p | .poolStatRequesters p | .bistStake p | .bistSide p | .bistModule p |
    .bistCheckers p | .crashDumpRead p | .logByNumber p | .logNewest p | .countersJob p | .countersModule p | .countersPort p |
    .countersArray p | .countersRouterHalf p | .traceSet p | .traceStart p | .traceStop p | .traceMark p | .hbmReadCheck p |
    .hbmPattern p | .spareStake p | .spareWeaveLane p | .spareHbmLane p | .spareDramRow p | .spareSramRow p | .spareMgmt p |
    .resetEngine p | .resetPartition p | .resetModule p | .resetPowerCycle p | .attestReport p | .attestChain p | .fwStageBegin p |
    .fwStageWrite p | .fwActivateTrial p | .fwActivateReset p | .fwActivateLock p | .policyPropose p | .policyCountersign p
    => .of_lift fun m => m.receive_memOk _ p
  | .getStatus => .of_lift fun m hm => m.serve_memOk 1 _ hm Mod.answerStatus_memOk
  | .getIdentity => .of_lift fun m hm => m.serve_memOk 2 _ hm Mod.answerIdentity_memOk
  | .attestShort => .of_lift fun m hm => m.serve_memOk 3 _ hm Mod.answerAttest_memOk
  | .claimWrite => .of_lift fun m hm => m.serve_memOk 4 _ hm Mod.answerClaimWrite_memOk
  | .claimCommit => .of_lift fun m hm => m.serve_memOk 5 _ hm Mod.answerClaimCommit_memOk
  | .bootControl => .of_lift fun m hm => m.serve_memOk 6 _ hm Mod.answerBootControl_memOk
  | .logTail => .of_lift fun m hm => m.serve_memOk 7 _ hm Mod.answerLogTail_memOk
  | .getPower => .of_lift (f := fun m => m.serve 0x100 fun m => m.ackSideband 0 (some m.powerBody)) fun m hm =>
      m.serve_memOk _ _ hm fun m => m.ackSideband_memOk 0 _
  | .setPowerLimit => .of_lift fun m hm => m.serve_memOk 0x101 _ hm Mod.answerSetLimit_memOk
  | .getThermal => .of_lift (f := fun m => m.serve 0x102 fun m => m.ackSideband 0 (some m.thermalBody)) fun m hm =>
      m.serve_memOk _ _ hm fun m => m.ackSideband_memOk 0 _
  | .getRails => .of_lift fun m hm => m.serve_memOk 0x103 _ hm Mod.answerRails_memOk
  | .sidebandRequest => .of_lift Mod.sideRequest_memOk
  | .sidebandCancel => .of_lift Mod.sideCancel_memOk
  | .ackValidClear => .of_lift fun m => m.sideWrite_memOk 8 1#32
  | .alertCauseClear bits => .of_lift fun m => m.sideWrite_memOk 0x404 bits
  | .alertMaskWrite value => .of_lift fun m => m.sideWrite_memOk 0x408 value
  | .registerWrite box offset value => .of_lift fun m => m.registerWrite_memOk box offset value
  | .sideMailboxRequest side msg => .of_lift fun m => m.sideController_memOk side msg
  | .smallMailboxSend receiver sender channel msg => .of_lift fun m => m.smallSend_memOk receiver sender channel msg
  | .smallDoorbellClear receiver channel => .of_lift fun m => m.smallClear_memOk receiver channel
  | .setdasa addr => .of_lift fun m => m.setdasa_memOk addr
  | .setnewda addr => .of_lift fun m => m.setnewda_memOk addr
  | .rstdaa => .of_lift Mod.rstdaa_memOk
  | .entdaa addr => .of_lift fun m => m.setdasa_memOk addr
  | .getbcr => .of_lift fun m => m.i3cAnswer_memOk Config.i3cBcr
  | .getdcr => .of_lift fun m => m.i3cAnswer_memOk Config.i3cDcr
  | .getstatus => .of_lift Mod.i3cGetStatus_memOk
  | .enec events => .of_lift fun m => m.setIbi_memOk events true
  | .disec events => .of_lift fun m => m.setIbi_memOk events false
  | .rdmaRead src _ target offset length => .of_lift fun m => m.rdmaRead_memOk src target offset length
  | .rdmaWrite src _ target offset data => .of_lift fun m => m.rdmaWrite_memOk src target offset data
  | .rdmaUnsupported src _ => .of_lift fun m => m.rdmaOther_memOk src
  | .init src point chain nonce => .of_lift fun m => m.initiate_memOk src point chain nonce
  | .finish src confirm => .of_lift fun m => m.finishHandshake_memOk src confirm
  | .handshakeTimeout src => .of_lift fun m => m.handshakeLapses_memOk src
  | .sessionExpiry sid => .of_lift fun m => m.sessionExpires_memOk sid
  | .queueHead lane => .of_lift fun m hm => (m.queueHead lane).closeSessions_memOk (m.queueHead_memOk lane hm)
  | .commandTimeout lane => .of_lift fun m hm => (m.timeoutAt lane).closeSessions_memOk (m.timeoutAt_memOk lane hm)
  | .reorderTimeout lane seq => .of_lift fun m => m.reorderTimeout_memOk lane seq
  | .retainExpiry job tensor => .of_lift fun m => m.retainExpiry_memOk job tensor
  | .drainComplete job => .of_lift fun m => m.drainComplete_memOk job
  | .segmentComplete lane => .of_lift fun m => m.segmentComplete_memOk lane
  | .tieWaiterArrival ref who threshold => .of_lift fun m => m.waiterArrives_memOk ref who threshold
  | .tieWaiterRemoval ref who => .of_lift fun m => m.waiterLeaves_memOk ref who
  | .farTieSignal f => .of_lift fun m => m.farSignal_memOk f
  | .farTieWait f => .of_lift fun m => m.farWait_memOk f
  | .farTieRelease id value => .of_lift fun m => m.farReleased_memOk id value
  | .farTieWithdraw f => .of_lift fun m => m.farWithdraw_memOk f
  | .farWaitRetry id => .of_lift fun m => m.farRetried_memOk id
  | .farWaitDecisionTimeout id => .of_lift fun m => m.farUndecided_memOk id
  | .withyRequest job pool place cls n r0 requester head => .of_lift fun m hm =>
      ite_memOk (m.poolRequest_memOk job pool place cls n r0 requester head hm) hm
  | .withyRelease job pool place cls index => .of_lift fun m => m.withyReleased_memOk job pool place cls index
  | .withyAddRef job pool place cls index d => .of_lift fun m => m.poolAddRef_memOk job pool place cls index d
  | .passIssue arr id => .of_lift fun m => m.passIssue_memOk arr id
  | .reloadDone arr => .of_lift fun m => m.reloadDone_memOk arr
  | .lastRowFed arr => .of_lift fun m => m.lastRow_memOk arr
  | .passChecksClean arr => .of_lift fun m => m.checksClean_memOk arr
  | .rowBlockBoundary arr => .of_lift fun m => m.rowBlock_memOk arr
  | .dummyRowRun arr => .of_lift fun m => m.dummyRun_memOk arr
  | .rampDownDone arr => .of_lift fun m => m.rampDown_memOk arr
  | .rampUpDone arr => .of_lift fun m => m.rampUp_memOk arr
  | .limiterGapEnd arr => .of_lift fun m => m.gapEnd_memOk arr
  | .preemptRequest stake => .of_lift fun m => m.preemptStake_memOk stake
  | .passResume arr => .of_lift fun m => m.passResume_memOk arr
  | .arrayCheckFault arr => .of_lift fun m => m.arrayCheck_memOk arr
  | .residencyFetchDone job tensor => .of_lift fun m => m.fetchDone_memOk job tensor
  | .counts x => .of_lift fun m => m.onCounts_memOk x
  | .parcel x => .of_lift fun m => m.onRows_memOk x false
  | .accept x => .of_lift fun m => m.onAccept_memOk x
  | .hold x => .of_lift fun m => m.onHold_memOk x
  | .pull x => .of_lift fun m => m.onPull_memOk x
  | .result x => .of_lift fun m => m.onResult_memOk x
  | .tags x => .of_lift fun m => m.onTags_memOk x
  | .keep x => .of_lift fun m => m.onKeep_memOk x
  | .grad x => .of_lift fun m => m.onRows_memOk x true
  | .dgrad x => .of_lift fun m => m.onDgrad_memOk x
  | .spoil x => .of_lift fun m => m.onSpoil_memOk x
  | .forwardRound job exch slot => .of_lift fun m => m.forwardRound_memOk job exch slot
  | .backwardRound job exch slot => .of_lift fun m => m.backwardRound_memOk job exch slot
  | .chunk x => .of_lift fun m => m.onWale_memOk .chunk x
  | .ack x => .of_lift fun m => m.onWale_memOk .ack x
  | .scales x => .of_lift fun m => m.onWale_memOk .scales x
  | .gatherChunk x => .of_lift fun m => m.onWale_memOk .gather x
  | .normUp x => .of_lift fun m => m.onWale_memOk .normUp x
  | .verdict x => .of_lift fun m => m.verdictHere_memOk x
  | .clear x => .of_lift fun m => m.onWale_memOk .clear x
  | .sendData x => .of_lift fun m => m.onWale_memOk .sendData x
  | .waleDeadline job bucket step shard => .of_lift fun m => m.waleDeadline_memOk job bucket step shard
  | .normDeadline job step => .of_lift fun m => m.normDeadline_memOk job step
  | .verdictRequest job step rank => .of_lift fun m => m.verdictRequest_memOk job step rank
  | .verdictRequestRetry id => .of_lift fun m => m.verdictRetry_memOk id
  | .rollbackWindowEnd job => .of_lift fun m => m.rollbackEnd_memOk job
  | .partStaged id part status => .of_lift fun m => m.partStaged_memOk id part status
  | .splitCommit id part => .of_lift fun m => m.splitCommit_memOk id part
  | .splitAbort id part => .of_lift fun m => m.splitAbort_memOk id part
  | .commitAck id part => .of_lift fun m => m.commitAck_memOk id part
  | .trayLoad r => .of_lift fun m => m.serveTray_memOk .load r
  | .trayStore r => .of_lift fun m => m.serveTray_memOk .store r
  | .trayAdd r => .of_lift fun m => m.serveTray_memOk .add r
  | .trayMin r => .of_lift fun m => m.serveTray_memOk .min r
  | .trayMax r => .of_lift fun m => m.serveTray_memOk .max r
  | .trayCas r => .of_lift fun m => m.serveTray_memOk .cas r
  | .trayFadd r => .of_lift fun m => m.serveTray_memOk .fadd r
  | .trayResponse r => .of_lift fun m => m.trayAnswered_memOk r
  | .targetResettingAnswer a => .of_lift fun m => m.answered_memOk a false
  | .unreachableAnswer a => .of_lift fun m => m.answered_memOk a true
  | .weaveTransit _ op pkt fclk => .of_lift fun m hm => ite_memOk hm (m.arrivePacket_memOk op pkt.routed fclk hm)
  | .placementTable job inc rank places => .of_lift fun m => m.placed_memOk job inc rank places
  | .ownTakeRequest id owner job region => .of_lift (f := fun m => if m.isSteward then m.ownTake id owner job region.toNat else m)
      fun m hm => ite_memOk (m.ownTake_memOk id owner job region.toNat hm) hm
  | .ownGiveRequest id owner job region => .of_lift (f := fun m => if m.isSteward then m.ownGive id owner job region.toNat else m)
      fun m hm => ite_memOk (m.ownGive_memOk id owner job region.toNat hm) hm
  | .ownTakeRetry id => .of_lift fun m => m.retryOwn_memOk id 1
  | .stewardRetry id => .of_lift fun m => m.retryOwn_memOk id 2
  | .gatewayFlush job inc rank tensor window block data => .of_lift fun m => m.gatewayFlushed_memOk job inc rank tensor window block data
  | .gatewayFetch job inc rank tensor window block => .of_lift fun m => m.gatewayFetched_memOk job inc rank tensor window block
  | .gatewayFetchData job window block data => .of_lift fun m => m.gatewayFilled_memOk job window block data
  | .noticeRelay n => .of_lift fun m => m.relay_memOk n
  | .stewardAssign addr noticeId signature => .of_lift fun m => m.assignSteward_memOk addr noticeId signature
  | .roster r => .of_lift fun m => m.rosterHere_memOk r
  | .faultTableUpdate links => .of_lift fun m => m.setFaultTable_memOk links
  | .trayAttest steward nonce => .of_lift fun m => m.challenged_memOk steward nonce
  | .joinDecision x report => .of_lift fun m => m.decideJoin_memOk x report
  | .mark port src markId => .of_lift fun m => m.markHere_memOk port src markId
  | .markReply port src markId => .of_lift fun m => m.markReplied_memOk port src markId
  | .linkReplay port uncorrectable => .of_lift fun m => m.replayed_memOk port uncorrectable
  | .fecWindowEnd port lane corrected excess => .of_lift fun m => m.fecWindow_memOk port lane corrected excess
  | .laneSwitch port => .of_lift fun m => m.laneSwitched_memOk port
  | .laneFailure port lane => .of_lift fun m => m.laneFailed_memOk port lane
  | .laneTest channel mismatch => .of_lift fun m => m.laneTested_memOk channel mismatch
  | .patrolScrub granule => .of_lift fun m => m.patrolScrub_memOk granule
  | .timerCopyReload => .of_lift Mod.reloadCopies_memOk
  | .timerCopyCompare copy => .of_lift fun m => m.compareCopy_memOk copy
  | .timerMismatch => .of_lift Mod.timerFails_memOk
  | .clockLockLoss clock => .of_lift fun m => m.clockFails_memOk clock
  | .lockstepMismatch pair => .of_lift fun m => m.lockstepFails_memOk pair
  | .dupStateMismatch unit => .of_lift fun m => m.dupFails_memOk unit
  | .residueFault at_ again => .of_lift fun m => m.residue_memOk at_ again
  | .converterMismatch stake => .of_lift fun m => m.converterFails_memOk stake
  | .progressWatchdog engine => .of_lift fun m => m.watchdog_memOk engine
  | .firmwareWatchdog border => .of_lift fun m hm => (m.count .HANGS).mgmtFails_memOk border 0x20 (m.count_memOk .HANGS 1 hm)
  | .contextStopDone engine => .of_lift fun m => m.contextStopped_memOk engine
  | .replayVerdict engine guilty => .of_lift fun m => m.replayVerdict_memOk engine guilty
  | .escalationBoundExpiry level unit => .of_lift fun m => m.boundPassed_memOk level unit
  | .moduleResetDone => .of_lift Mod.resetDone_memOk
  | .noticeResend => .of_lift Mod.resendNotices_memOk
  | .rotatingTakeover rib => .of_lift fun m => m.rotate_memOk rib
  | .stakeTakeoverDone rib => .of_lift fun m => m.moveDone_memOk rib
  | .selfTestDone phys pass => .of_lift fun m => m.selfTested_memOk phys pass
  | .checkerInjection unit reported => .of_lift fun m => m.inject_memOk unit reported
  | .logFlush => .of_lift Mod.flushLog_memOk
  | .traceStream records => .of_lift fun m => m.streamTrace_memOk records
  | .inputApplied mv => .of_lift fun m => m.inputApplied_memOk mv
  | .bulkChargeDone => .of_lift Mod.bulkCharged_memOk
  | .inputUndervoltage mv => .of_lift fun m => m.inputFails_memOk mv
  | .pwrEnRise => .of_lift Mod.pwrEnRises_memOk
  | .railGroupInRegulation group => .of_lift fun m => m.railsUp_memOk group
  | .pwrGoodTimeout => .of_lift Mod.railsTimeout_memOk
  | .pwrEnFall => .of_lift Mod.pwrEnFalls_memOk
  | .pwrEnLow200ms => .of_lift Mod.alwaysOnResets_memOk
  | .modRstNAssert micros => .of_lift fun m => m.rstAsserted_memOk micros
  | .modRstNRelease wakeLow b0ok b1ok => .of_lift fun m => m.rstReleased_memOk wakeLow b0ok b1ok
  | .wakeNFall => .of_lift (f := fun m => Mod.wakeUnit { m with boot := { m.boot with wakes := m.boot.wakes + 1 } }
      ⟨10, if m.boot.activeB1 then 1 else 0⟩) fun _ hm => Mod.wakeUnit_memOk _ _ hm
  | .memoryTrainingDone failedLanes => .of_lift fun m => m.memoryTrained_memOk failedLanes
  | .bootBistDone failedStakes => .of_lift fun m => m.bootTested_memOk failedStakes
  | .linkTrainingDone ports => .of_lift fun m => m.linksTrained_memOk ports
  | .powerSample mv ma arrays => .of_lift fun m => m.sampled_memOk mv ma arrays
  | .limiterUpdate => .of_lift Mod.limit_memOk
  | .sensorRead values => .of_lift fun m => m.sensed_memOk values
  | .shutdownHoldEnd => .of_lift Mod.shutDown_memOk
  | .railFault rail => .of_lift (f := fun m => if rail < 24 && m.power.railUp rail then m.beginHold false rail else m)
      fun m hm => ite_memOk (m.beginHold_memOk false rail hm) hm
  | .thermalLimitRaise => .of_lift Mod.thermalRaised_memOk
  | .thermalLimitPersists => .of_lift Mod.thermalPersists_memOk
  | .commandPacketRefused src datagram => .of_lift fun m => m.receiveDatagram_memOk src datagram
  | .sweepPage unit => .of_lift fun m => m.sweepPage_memOk unit
  | .farTieAnswer id a => .of_lift fun m => m.farAnswered_memOk id a
  | .stewardAnswer id stale full => .of_lift fun m => m.stewardAnswered_memOk id stale full
  | .ownershipEntryCopy region owner => .of_lift fun m => m.setHome_memOk region.toNat owner
  | .gatewayFlushAck job window block => .of_lift fun m => m.gatewayAcked_memOk job window block
  | .notice n => .of_lift fun m => m.applyNotice_memOk n
  | .weaveLinkTrained port t => .of_lift fun m => m.linkTrained_memOk port t
  | .escalationLevelDone level unit => .of_lift fun m => m.levelDone_memOk level unit
  | .mgmtSelfTestDone border pass => .of_lift fun m => m.mgmtTested_memOk border pass
  | .tapTck tms tdi trstN => .of_lift fun m => m.tck_memOk tms tdi trstN

/-- Settles O6: the idle step is `Mod.tick`, and any other runs the command at the front of the queue. -/
theorem stepKeepsMemoryCanonical : Obligations.StepKeepsMemoryCanonical := by
  rintro ⟨m, pending⟩ t hs ht
  cases pending with
  | nil => exact KeepsMem.of_lift Mod.tick_memOk _ t hs ht
  | cons i rest => exact exec_keepsMem i ⟨m, rest⟩ t hs ht

end Sys2Proof.Machine
end

section
/-!
PROOFS. The hash of Tier B is one to one (R228).
-/

namespace Sys2Proof.Machine

/-! ### One field of the hash -/

/-- A field of the hash of Tier B: bits [hi:lo] of a number, folded with the bits 7 and 14 places above them. -/
def foldedBits (w hi lo : Nat) : Nat := bitsOf w hi lo ^^^ bitsOf w (hi + 7) (lo + 7) ^^^ bitsOf w (hi + 14) (lo + 14)

theorem bitsOf_lt (w hi lo : Nat) : bitsOf w hi lo < 2 ^ (hi + 1 - lo) := Nat.mod_lt _ (Nat.two_pow_pos _)

theorem foldedBits_lt (w hi lo : Nat) : foldedBits w hi lo < 2 ^ (hi + 1 - lo) := by
  have h7 := bitsOf_lt w (hi + 7) (lo + 7)
  have h14 := bitsOf_lt w (hi + 14) (lo + 14)
  rw [show hi + 7 + 1 - (lo + 7) = hi + 1 - lo by omega] at h7
  rw [show hi + 14 + 1 - (lo + 14) = hi + 1 - lo by omega] at h14
  exact Nat.xor_lt_two_pow (Nat.xor_lt_two_pow (bitsOf_lt w hi lo) h7) h14

/-- The bits from place 5 on are those of the number's quotient by 32. -/
theorem bitsOf_add_five (w hi lo : Nat) : bitsOf w (hi + 5) (lo + 5) = bitsOf (w / 32) hi lo := by
  rw [bitsOf, bitsOf, Nat.div_div_eq_div_mul, Nat.pow_add, Nat.mul_comm (2 ^ lo), show hi + 5 + 1 - (lo + 5) = hi + 1 - lo by omega]

/-- Of two numbers that agree from bit 5 on, a folded field tells the field itself. -/
theorem bitsOf_eq_of_foldedBits_eq {v w hi lo : Nat} (hrow : v / 32 = w / 32) (h : foldedBits v hi lo = foldedBits w hi lo) :
    bitsOf v hi lo = bitsOf w hi lo := by
  have hup (k : Nat) : bitsOf v (hi + k + 5) (lo + k + 5) = bitsOf w (hi + k + 5) (lo + k + 5) := by
    rw [bitsOf_add_five, bitsOf_add_five, hrow]
  rw [foldedBits, foldedBits, hup 2, hup 9] at h
  exact Nat.xor_left_inj.1 (Nat.xor_left_inj.1 h)

/-! ### The whole place -/

/-- The hash takes the unit's number `u` modulo 3, three folded fields of `u / 3`, and `u / 3` from bit 5 on. -/
theorem lpddrPlace_eq (a : Nat) :
    let u := (a - tierBBase) / 256
    let w := u / 3
    let package := 12 * foldedBits w 0 0 + 4 * (u % 3) + foldedBits w 2 1
    lpddrPlace a = (foldedBits w 0 0, package, 4 * package + foldedBits w 4 3, w / 32) := by
  simp only [lpddrPlace, foldedBits, bitOf, bitsOf]
  rfl

theorem tierB_unit_lt {a : Nat} (h : a < tierBEnd) : (a - tierBBase) / 256 < 3 * 2 ^ 32 := by
  simp only [tierBBase, tierBEnd] at h ⊢
  omega

theorem lpddrPlace_bounds {a : Nat} (h : a < tierBEnd) :
    (lpddrPlace a).1 < 2 ∧ (lpddrPlace a).2.1 < 24 ∧ (lpddrPlace a).2.1 / 12 = (lpddrPlace a).1 ∧
      (lpddrPlace a).2.2.1 < 96 ∧ (lpddrPlace a).2.2.1 / 4 = (lpddrPlace a).2.1 ∧ (lpddrPlace a).2.2.2 < 2 ^ 27 := by
  have hu := tierB_unit_lt h
  rw [lpddrPlace_eq]
  generalize (a - tierBBase) / 256 = u at hu ⊢
  have hborder := foldedBits_lt (u / 3) 0 0
  have hpackage := foldedBits_lt (u / 3) 2 1
  have hchannel := foldedBits_lt (u / 3) 4 3
  dsimp only
  omega

/-- A number is told by its fields [0:0], [2:1] and [4:3] and the bits from 5 on. -/
theorem eq_of_fields {v w : Nat} (hrow : v / 32 = w / 32) (h0 : bitsOf v 0 0 = bitsOf w 0 0) (h1 : bitsOf v 2 1 = bitsOf w 2 1)
    (h3 : bitsOf v 4 3 = bitsOf w 4 3) : v = w := by
  simp only [bitsOf] at h0 h1 h3
  omega

theorem lpddrPlace_injective {a b : Nat} (hc : (lpddrPlace a).2.2.1 = (lpddrPlace b).2.2.1)
    (hr : (lpddrPlace a).2.2.2 = (lpddrPlace b).2.2.2) : (a - tierBBase) / 256 = (b - tierBBase) / 256 := by
  rw [lpddrPlace_eq, lpddrPlace_eq] at hc hr
  generalize (a - tierBBase) / 256 = u at hc hr ⊢
  generalize (b - tierBBase) / 256 = v at hc hr ⊢
  dsimp only at hc hr
  have hu0 := foldedBits_lt (u / 3) 0 0
  have hu1 := foldedBits_lt (u / 3) 2 1
  have hu3 := foldedBits_lt (u / 3) 4 3
  have hv0 := foldedBits_lt (v / 3) 0 0
  have hv1 := foldedBits_lt (v / 3) 2 1
  have hv3 := foldedBits_lt (v / 3) 4 3
  have hthird : u / 3 = v / 3 := eq_of_fields hr (bitsOf_eq_of_foldedBits_eq hr (by omega)) (bitsOf_eq_of_foldedBits_eq hr (by omega))
    (bitsOf_eq_of_foldedBits_eq hr (by omega))
  omega

/-- Settles O31: the hash keeps all of a unit's number, in fields of their own widths. -/
theorem tierBPlacement : Obligations.TierBPlacement :=
  ⟨fun _ _ h => lpddrPlace_bounds h, fun _ _ _ _ _ _ => lpddrPlace_injective, by decide⟩

end Sys2Proof.Machine
end

section
/-!
PROOFS. The end of a fetch into Tier A (R247, R249).
-/

namespace Sys2Proof.Machine

section Fetch
variable {m : Mod} {job t : Nat} {j : Job} {r : Residency} {pl : TensorPlace} {base : Nat}
  (hj : m.job? job = some j) (hr : j.res? t = some r) (hpl : j.place? t = some pl)
  (hfetching : r.fetching = true) (hbase : r.copyBase = some base)
include hj hr hpl hfetching hbase

theorem Mod.fetchDone_overtaken (hw : m.written job t = true) : m.fetchDone job t = m := by
  simp only [Mod.fetchDone, hj, hr, hpl, hfetching, hbase, hw, if_true]

theorem Mod.fetchDone_copies (hw : m.written job t = false) {m' : Mod} {k : Nat}
    (hread : m.checkLocal none ((List.range pl.decl.bytes).map pl.place.addr) = (m', k, none)) :
    m.fetchDone job t =
      ((m'.store (((List.range pl.decl.bytes).map pl.place.addr).zipIdx.map fun (a, i) => (base + i, m'.byte a))).updJob job
        fun j => { j.updRes t (fun r => { r with valid := true, fetching := false }) with
          counters := (j.counters.bump .RESIDE_FETCHES 1).bump .RESIDE_BYTES pl.decl.bytes }).pokeResidency job := by
  simp only [Mod.fetchDone, hj, hr, hpl, hfetching, hbase, hw, hread]
  rfl

end Fetch

theorem exec_residencyFetchDone (job t : Nat) (s : State) :
    exec (.residencyFetchDone job t) s = lift (fun m => m.fetchDone job t) s := rfl

/-- Settles O38: the two ends of a fetch, by whether a write of the tensor is in flight. -/
theorem residencyFetch : Obligations.ResidencyFetch := fun s job t _ _ _ _ hj hr hpl hf hb =>
  ⟨fun hw => becomes_of_lift (exec_residencyFetchDone job t s) (Mod.fetchDone_overtaken hj hr hpl hf hb hw),
    fun _ _ hw hread => becomes_of_lift (exec_residencyFetchDone job t s) (Mod.fetchDone_copies hj hr hpl hf hb hw hread)⟩

end Sys2Proof.Machine
end

section
/-!
PROOFS. Tray operations at their target, and the answers that reach their requester (R222, R238, R285, R309, R414, R422, R425, R427).
-/

namespace Sys2Proof.Machine

/-! ### A tray operation at its target -/

/-- The old bytes that an operation answers are those that stand there. -/
theorem Mod.trayDo_fst (m : Mod) (op : TrayOp) (n addr : Nat) (operand : Bytes) : (m.trayDo op n addr operand).1 = m.bytes addr n := by
  unfold Mod.trayDo
  dsimp only
  split <;> rfl

/-- The answer of the memory controller to a request. -/
def Mod.answerTray (m : Mod) (op : TrayOp) (r : TrayReq) (result : Nat) (data : Bytes) (bad : Bool) : Mod :=
  m.emit (.trayResponse r.src op { tag := r.tag, result := result, data := data, bad := bad })

/-- The accesses of a tray operation at its target: a STORE reads nothing. -/
def Mod.trayAccess (m : Mod) (op : TrayOp) (r : TrayReq) : Mod × Nat × Option Nat :=
  let at_ := (List.range (sizeBytes r.size)).map (r.addr.toNat % 2 ^ 48 + ·)
  m.checkAccess none (if op == .store then [] else at_) at_

/-- Accesses that read nothing and write no channel out of service leave the module alone. -/
theorem Mod.checkAccess_nil (m : Mod) {writes : List Nat} (h : ∀ a ∈ writes, m.badChannel a = false) :
    m.checkAccess none [] writes = (m, 0, none) := by
  have hfind : (writes.find? fun a => isLocal a && m.badChannel a) = none :=
    List.find?_eq_none.2 fun a ha => by simp [h a ha]
  have hread : m.checkLocal none [] = (m, 0, none) := rfl
  simp [Mod.checkAccess, Mod.checkWrite, hread, hfind]

section Target
variable {m : Mod} {op : TrayOp} {r : TrayReq}

theorem Mod.serveTray_resetting (h : m.resettingFor r.job = true) : m.serveTray op r = m.turnAway (.tray r.src r.tag) := by
  simp only [Mod.serveTray, h, if_true]

variable (hrun : m.resettingFor r.job = false)
include hrun

theorem Mod.serveTray_unreachable (h : m.trayReachable op r = false) : m.serveTray op r = m.answerTray op r 1 [] false := by
  simp [Mod.serveTray, Mod.answerTray, hrun, h]

variable (hreach : m.trayReachable op r = true)
include hreach

theorem Mod.serveTray_keptOut (h : m.keepsOut op r = true) : m.serveTray op r = m.answerTray op r 2 [] false := by
  simp [Mod.serveTray, Mod.answerTray, hrun, hreach, h]

variable (hkeep : m.keepsOut op r = false)
include hkeep

/-- What a tray operation does that its target performs (R237, R238, R425). -/
theorem Mod.serveTray_reached :
    let loc := r.addr.toNat % 2 ^ 48
    let n := sizeBytes r.size
    let k := m.trayAccess op r
    m.serveTray op r =
      if k.2.2.isSome then k.1.answerTray op r 0 (List.replicate n 0#8) true
      else (k.1.trayDo op n loc r.operand).2.answerTray op r 0
        (if op == .load || op == .cas || (r.fetch && op != .store) then (k.1.trayDo op n loc r.operand).1 else []) false := by
  simp only [Mod.serveTray, hrun, hreach, hkeep, Bool.not_true, Bool.false_eq_true, if_false]
  rfl

theorem Mod.serveTray_performs (h : (m.trayAccess op r).2.2 = none) :
    let loc := r.addr.toNat % 2 ^ 48
    let n := sizeBytes r.size
    let k := m.trayAccess op r
    m.serveTray op r = (k.1.trayDo op n loc r.operand).2.answerTray op r 0
      (if op == .load || op == .cas || (r.fetch && op != .store) then k.1.bytes loc n else []) false := by
  rw [Mod.serveTray_reached hrun hreach hkeep]
  simp only [h, Option.isSome_none, Bool.false_eq_true, if_false, Mod.trayDo_fst]

theorem Mod.serveTray_lost (h : (m.trayAccess op r).2.2.isSome) :
    m.serveTray op r = (m.trayAccess op r).1.answerTray op r 0 (List.replicate (sizeBytes r.size) 0#8) true := by
  rw [Mod.serveTray_reached hrun hreach hkeep, if_pos h]

theorem Mod.serveTray_stores (hop : op = .store)
    (h : ∀ a ∈ (List.range (sizeBytes r.size)).map (r.addr.toNat % 2 ^ 48 + ·), m.badChannel a = false) :
    m.serveTray op r = (m.trayDo op (sizeBytes r.size) (r.addr.toNat % 2 ^ 48) r.operand).2.answerTray op r 0 [] false := by
  subst hop
  have hk : m.trayAccess .store r = (m, 0, none) := m.checkAccess_nil h
  rw [Mod.serveTray_performs hrun hreach hkeep (by rw [hk]), hk]
  simp

end Target

/-! ### A response at its requester (R425) -/

/-- The bytes that a response brings to the place where its operation put them. -/
def TrayOut.arrivals (t : TrayOut) (x : TrayResp) : List (Nat × Byte) :=
  match t.into with
  | some l => x.data.zipIdx.map fun (b, i) => (l + i, b)
  | none => []

section Response
variable {m : Mod} {x : TrayResp}

theorem Mod.trayAnswered_unknown (h : (m.trayOps.find? fun t => t.tag == x.tag) = none) : m.trayAnswered x = m := by
  simp only [Mod.trayAnswered, h]

variable {t : TrayOut} (ht : (m.trayOps.find? fun t => t.tag == x.tag) = some t)
include ht

theorem Mod.trayAnswered_bad {q : Nat} (hbad : x.bad = true) (hq : t.id.lane = .queue q) :
    let u := m.dropTag t.tag
    let rec_ : LogRec :=
      { time := 0, record := 0, cls := 0x04, outcome := 2, unit := ⟨11, 0⟩, job := t.job, queue := q, seq := t.id.seq }
    m.trayAnswered x = ((u.addOpen rec_).endWith t.id .faultDetected u.record).pokeWaiting := by
  simp only [Mod.trayAnswered, ht, hbad, hq, if_true]

variable (hgood : x.bad = false)
include hgood

theorem Mod.trayAnswered_address (h : x.result = 1) :
    m.trayAnswered x = ((m.dropTag t.tag).endWith t.id .bounds (boundsDetail 15 (t.addr % 2 ^ 52))).pokeWaiting := by
  simp [Mod.trayAnswered, ht, hgood, h]

theorem Mod.trayAnswered_notOwner (h : x.result = 2) :
    m.trayAnswered x = ((m.dropTag t.tag).endWith t.id .bounds (boundsDetail 14 (t.addr % 2 ^ 52))).pokeWaiting := by
  simp [Mod.trayAnswered, ht, hgood, h]

theorem Mod.trayAnswered_goesOn (h : x.result = 0) :
    m.trayAnswered x = (((m.dropTag t.tag).updRunning t.id.lane fun r =>
      if r.cmd.pkt.seq.toNat == t.id.seq then { r with work := arrive r.work (t.arrivals x) } else r).poke t.id).pokeWaiting := by
  simp only [Mod.trayAnswered, ht, hgood, h, Bool.false_eq_true, if_false, Nat.zero_ne_one, OfNat.zero_ne_ofNat]
  rfl

end Response

/-! ### TARGET_RESETTING and UNREACHABLE (R285, R309, R414) -/

section Answers
variable {m : Mod}

/-- A command that meets TARGET_RESETTING ends with that status and the rank. -/
theorem Mod.endAnswered_resetting (id : CmdId) (rank job : Nat) :
    m.endAnswered [id] false rank job = m.endWith id .targetResetting rank := rfl

/-- A command that meets UNREACHABLE ends with FAULT_DETECTED and a record of its job. -/
theorem Mod.endAnswered_unreachable (id : CmdId) (rank job : Nat) :
    let rec_ : LogRec := { time := 0, record := 0, cls := 0x0B, outcome := 2, unit := ⟨11, 0⟩, job := job }
    m.endAnswered [id] true rank job = (m.addOpen rec_).endWith id .faultDetected m.record := rfl

theorem Mod.answered_tray_resetting {tag rank : Nat} {t : TrayOut} {r : Running} (ht : (m.trayOps.find? fun t => t.tag == tag) = some t)
    (hr : m.cmd? t.id = some r) :
    m.answered (.tray tag rank) false = ((m.dropTag tag).endWith t.id .targetResetting rank).pokeWaiting := by
  simp [Mod.answered, ht, hr, Mod.endAnswered_resetting]

theorem Mod.answered_wale {job bucket step shard chunk rank : Nat} {j : Job} (hj : m.job? job = some j) (unreachable : Bool) :
    m.answered (.wale job bucket step shard chunk rank) unreachable =
      (m.chunkRefused job bucket (j.waleStep step) shard chunk).endReduces job bucket (j.waleStep step) := by
  simp only [Mod.answered, hj]

theorem Mod.answered_exchange {job exch step rank n : Nat} {j : Job} (hj : m.job? job = some j) (hn : j.stepOf exch step = some n)
    (unreachable : Bool) : m.answered (.exchange job exch step rank) unreachable = m.spoilBy job exch n rank := by
  simp [Mod.answered, hj, hn]

section Command
variable {id : CmdId} {r : Running} (hr : m.cmd? id = some r)
include hr

theorem Mod.answered_far (rank : Nat) (unreachable : Bool) :
    m.answered (.far id rank) unreachable = m.endAnswered [id] unreachable rank r.cmd.job := by
  simp [Mod.answered, hr]

theorem Mod.answered_steward (hw : r.work = .steward 0) (unreachable : Bool) :
    m.answered (.steward id) unreachable =
      if unreachable then m.endAnswered [id] true 0 r.cmd.job else m.setWork id.lane (.steward 2) := by
  simp only [Mod.answered, hr, hw]

end Command
end Answers

/-! ### Which function of the module each row runs -/

/-- The rows of tray operations, each with its operation. -/
def trayRows (r : TrayReq) : List (Instr × TrayOp) :=
  [(.trayLoad r, .load), (.trayStore r, .store), (.trayAdd r, .add), (.trayMin r, .min), (.trayMax r, .max), (.trayCas r, .cas),
    (.trayFadd r, .fadd)]

theorem exec_trayRow {r : TrayReq} {p : Instr × TrayOp} (hp : p ∈ trayRows r) (s : State) :
    exec p.1 s = lift (fun m => m.serveTray p.2 r) s := by
  simp only [trayRows, List.mem_cons, List.not_mem_nil, or_false] at hp
  obtain rfl | rfl | rfl | rfl | rfl | rfl | rfl := hp <;> rfl

theorem becomes_trayRow {r : TrayReq} {p : Instr × TrayOp} (hp : p ∈ trayRows r) {s : State} {m : Mod} (h : s.m.serveTray p.2 r = m) :
    becomes p.1 s m :=
  becomes_of_lift (f := fun m => m.serveTray p.2 r) (exec_trayRow hp s) h

theorem becomes_trayResponse {x : TrayResp} {s : State} {m : Mod} (h : s.m.trayAnswered x = m) : becomes (.trayResponse x) s m :=
  becomes_of_lift (f := fun m => m.trayAnswered x) rfl h

theorem becomes_targetResetting {a : Answered} {s : State} {m : Mod} (h : s.m.answered a false = m) :
    becomes (.targetResettingAnswer a) s m :=
  becomes_of_lift (f := fun m => m.answered a false) rfl h

theorem becomes_unreachable {a : Answered} {s : State} {m : Mod} (h : s.m.answered a true = m) : becomes (.unreachableAnswer a) s m :=
  becomes_of_lift (f := fun m => m.answered a true) rfl h

/-- Settles O46: the table of operations, and one equation above for each outcome at the target and for each answer at the requester. -/
theorem trayOperationRows : Obligations.TrayOperationRows := by
  refine ⟨⟨fun _ _ _ _ => ⟨rfl, rfl, rfl, rfl, rfl, rfl, rfl⟩, fun s r p hp => ?target⟩, fun s x tag rank =>
    ⟨fun h => becomes_trayResponse (Mod.trayAnswered_unknown h), fun t ht => ?response, fun t r ht hr => ?tray,
      fun job j bucket step shard chunk hj => ?wale, fun id r hr hw => ?steward, fun id r hr => ?far,
      fun job exch step j n hj hn => ?exchange⟩⟩
  case target =>
    refine ⟨fun h => becomes_trayRow hp (Mod.serveTray_resetting h), fun hrun =>
      ⟨fun h => becomes_trayRow hp (Mod.serveTray_unreachable hrun h), fun hreach =>
        ⟨fun h => becomes_trayRow hp (Mod.serveTray_keptOut hrun hreach h), fun hkeep => ⟨?performs, ?lost, ?stores⟩⟩⟩⟩
    case performs => exact fun h => becomes_trayRow hp (Mod.serveTray_performs hrun hreach hkeep h)
    case lost => exact fun h => becomes_trayRow hp (Mod.serveTray_lost hrun hreach hkeep h)
    case stores => exact fun hop _ h => becomes_trayRow hp (Mod.serveTray_stores hrun hreach hkeep hop h)
  case response =>
    exact ⟨fun q hbad hq => becomes_trayResponse (Mod.trayAnswered_bad ht hbad hq),
      fun hgood h => becomes_trayResponse (Mod.trayAnswered_address ht hgood h),
      fun hgood h => becomes_trayResponse (Mod.trayAnswered_notOwner ht hgood h),
      fun hgood h => becomes_trayResponse (Mod.trayAnswered_goesOn ht hgood h)⟩
  case tray => exact becomes_targetResetting (Mod.answered_tray_resetting ht hr)
  case wale => exact ⟨becomes_targetResetting (Mod.answered_wale hj false), becomes_unreachable (Mod.answered_wale hj true)⟩
  case steward =>
    exact ⟨becomes_targetResetting (Mod.answered_steward hr hw false), becomes_unreachable (Mod.answered_steward hr hw true)⟩
  case far => exact ⟨becomes_targetResetting (Mod.answered_far hr rank false), becomes_unreachable (Mod.answered_far hr rank true)⟩
  case exchange =>
    exact ⟨becomes_targetResetting (Mod.answered_exchange hj hn false), becomes_unreachable (Mod.answered_exchange hj hn true)⟩

end Sys2Proof.Machine
end

section
/-!
PROOFS. Placement tables and gateway windows (R237, R238, R421, R432–R434).
-/

namespace Sys2Proof.Machine

/-- What a job's number finds after a change of that job: the changed job. -/
theorem Mod.job?_updJob (m : Mod) (id : Nat) {f : Job → Job} (hf : ∀ j, (f j).plan.job = j.plan.job) :
    (m.updJob id f).job? id = (m.job? id).map f := by
  unfold Mod.updJob Mod.job?
  induction m.jobs with
  | nil => rfl
  | cons j js ih =>
    by_cases h : j.plan.job = id
    · simp [h, hf]
    · simpa [h] using ih

theorem Mod.eq_of_job?_updJob {m : Mod} {id : Nat} {f : Job → Job} {j j' : Job} (hj : m.job? id = some j)
    (h' : (m.updJob id f).job? id = some j') (hf : ∀ j, (f j).plan.job = j.plan.job) : j' = f j := by
  rw [Mod.job?_updJob m id hf, hj] at h'
  exact (Option.some.inj h').symm

theorem Mod.job?_of_standing {m u : Mod} (h : m.standing = u.standing) (id : Nat) : m.job? id = u.job? id := by
  rw [Mod.job?, Mod.job?, show m.jobs = u.jobs from Mod.jobs_of_standing h]

/-- A job of an incarnation is a resident job. -/
theorem Mod.job?_of_current? {m : Mod} {job inc : Nat} {j : Job} (h : m.current? job inc = some j) : m.job? job = some j :=
  (Option.filter_eq_some_iff.1 h).1

theorem Mod.checkLocal_mem {m : Mod} (c : Option Cmd) (locs : List Nat) : (m.checkLocal c locs).1.mem = m.mem :=
  congrArg SplitParts.mem (Mod.checkLocal_splitParts c locs)

/-! ### Placement tables (R421) -/

section Placement
variable {m : Mod} {job inc rank : Nat} {ps : List RemotePlace}

theorem Mod.placed_stale (h : m.current? job inc = none) (hrun : m.resettingFor job = false) :
    m.placed job inc rank ps = m.count .staleTraffic := by
  simp [Mod.placed, h, hrun]

/-- A job with a rank's table in place of its older one. -/
def Job.withPlacement (rank : Nat) (ps : List RemotePlace) (j : Job) : Job :=
  { j with placements := (rank, ps) :: j.placements.filter fun p => p.1 != rank }

theorem Mod.placed_jobs {j : Job} (h : m.current? job inc = some j) :
    (m.placed job inc rank ps).jobs = (m.updJob job (Job.withPlacement rank ps)).jobs := by
  simp only [Mod.placed, h]
  rfl

theorem Mod.placed_job {j j' : Job} (h : m.current? job inc = some j) (h' : (m.placed job inc rank ps).job? job = some j') :
    (rank, ps) ∈ j'.placements ∧ ∀ q ∈ j'.placements, q.1 = rank → q.2 = ps := by
  have hjob : (m.updJob job (Job.withPlacement rank ps)).job? job = some j' := by rwa [Mod.job?, ← Mod.placed_jobs h]
  obtain rfl := Mod.eq_of_job?_updJob (Mod.job?_of_current? h) hjob fun _ => rfl
  refine ⟨List.mem_cons_self, fun q hq hrank => ?_⟩
  obtain rfl | hold := List.mem_cons.1 hq
  · rfl
  · simp [hrank] at hold

end Placement

/-! ### Flushes and fetches at the target (R237, R238, R432, R433) -/

/-- The writes of a flush of some bytes of a block: at home, and in a valid copy. -/
def Job.flushWrites (j : Job) (tensor block : Nat) (data : List (Nat × Byte)) : List (Nat × Byte) :=
  data.flatMap fun (o, b) => j.tensorWrites tensor (65536 * block + o) b

section Target
variable {m : Mod} {job inc rank tensor window block : Nat} {data : List (Nat × Byte)}

theorem Mod.gatewayFlushed_stale (h : m.current? job inc = none) :
    m.gatewayFlushed job inc rank tensor window block data = m.count .staleTraffic := by
  simp only [Mod.gatewayFlushed, h]

theorem Mod.gatewayFetched_stale (h : m.current? job inc = none) :
    m.gatewayFetched job inc rank tensor window block = m.count .staleTraffic := by
  simp only [Mod.gatewayFetched, h]

variable {j : Job} (hj : m.current? job inc = some j)
include hj

theorem Mod.gatewayFlushed_resetting (h : m.resettingFor job = true) :
    m.gatewayFlushed job inc rank tensor window block data = m.turnAway (.request (j.plan.addrOf rank)) := by
  simp only [Mod.gatewayFlushed, hj, h, if_true]

theorem Mod.gatewayFetched_resetting (h : m.resettingFor job = true) :
    m.gatewayFetched job inc rank tensor window block = m.turnAway (.request (j.plan.addrOf rank)) := by
  unfold Mod.gatewayFetched
  rw [hj]
  exact if_pos h

variable (hrun : m.resettingFor job = false)
include hrun

theorem Mod.gatewayFlushed_writes (h : ∀ w ∈ j.flushWrites tensor block data, (isLocal w.1 && m.badChannel w.1) = false) :
    m.gatewayFlushed job inc rank tensor window block data =
      (m.store (j.flushWrites tensor block data)).emit (.gatewayFlushAck rank job window block) := by
  have hfind : (((j.flushWrites tensor block data).map (·.1)).find? fun a => isLocal a && m.badChannel a) = none := by
    rw [List.find?_eq_none]
    simpa using h
  unfold Job.flushWrites at hfind ⊢
  simp [Mod.gatewayFlushed, hj, hrun, Mod.checkWrite, hfind]

theorem Mod.gatewayFlushed_lost {a : Nat}
    (h : (((j.flushWrites tensor block data).map (·.1)).find? fun a => isLocal a && m.badChannel a) = some a) :
    m.gatewayFlushed job inc rank tensor window block data = m.logRead a (some 0x08) none := by
  unfold Job.flushWrites at h
  simp [Mod.gatewayFlushed, hj, hrun, Mod.checkWrite, h]

theorem Mod.gatewayFetched_returns {at_ : List (Option Nat)}
    (hat : (List.range 65536).map (fun o => j.tensorAddr tensor (65536 * block + o)) = at_) :
    let k := m.checkLocal none (at_.filterMap id)
    m.gatewayFetched job inc rank tensor window block = k.1.emit (.gatewayFetchData rank job window block
      (if k.2.2.isSome then none else some (at_.map fun a => (a.map k.1.byte).getD 0#8))) := by
  unfold Mod.gatewayFetched
  rw [hj]
  refine (if_neg (Bool.eq_false_iff.1 hrun)).trans ?_
  rw [hat]

end Target

/-! ### Fetched data and acknowledgements at the reader (R237, R433, R434) -/

section Reader
variable {m : Mod} {job window block : Nat} {j : Job}

theorem Mod.gatewayFilled_unasked (h : ∀ j, m.job? job = some j → (window, block) ∉ j.fetching) (bs : Option Bytes) :
    m.gatewayFilled job window block bs = m := by
  unfold Mod.gatewayFilled
  split
  · rfl
  · rename_i j hj
    simp [h j hj]

section Asked
variable (hj : m.job? job = some j) (hf : (window, block) ∈ j.fetching)
include hj hf

theorem Mod.gatewayFilled_lost :
    let ids := (j.fetchers.filter fun f => f.1 == (window, block)).map (·.2)
    let u := (m.updJob job fun j =>
      { j with fetching := j.fetching.erase (window, block), fetchers := j.fetchers.filter fun f => f.1 != (window, block) }).addOpen
        { time := 0, record := 0, cls := 0x04, outcome := 2, unit := ⟨11, 0⟩, job := job }
    m.gatewayFilled job window block none =
      (ids.filter fun id => (u.cmd? id).isSome).foldl (fun u id => u.endWith id .faultDetected m.record) u := by
  simp [Mod.gatewayFilled, Mod.gatewayLost, hj, hf]

/-- The data stand in a read block of the job, and the commands that lack bytes go on. -/
theorem Mod.gatewayFilled_fills (data : Bytes) : ∃ u : Mod, m.gatewayFilled job window block (some data) = u.pokeAll (u.lacking job) ∧
    ∀ j', u.job? job = some j' → ∃ b ∈ j'.readBlocks, b.window = window ∧ b.block = block ∧ b.data.map (·.2) = data := by
  simp only [Mod.gatewayFilled, hj, List.contains_iff_mem.2 hf, Bool.not_true, Bool.false_eq_true, if_false]
  refine ⟨_, rfl, fun j' hj' => ?_⟩
  rw [Mod.job?_of_standing (Mod.letGo_standing _)] at hj'
  obtain rfl := Mod.eq_of_job?_updJob hj hj' fun _ => rfl
  refine ⟨{ window := window, block := block, data := data.zipIdx.map fun (b, i) => (i, b) }, by simp, rfl, rfl, ?_⟩
  exact (List.map_map ..).trans (List.zipIdx_map_fst 0 data)

end Asked

theorem Mod.gatewayAcked_unasked
    (h : ∀ j, m.job? job = some j → ∀ b ∈ j.stageBlocks, ¬(b.window = window ∧ b.block = block ∧ b.flushing = true)) :
    m.gatewayAcked job window block = m := by
  unfold Mod.gatewayAcked
  split
  · rfl
  · rename_i j hj
    have hfind : (j.stageBlocks.find? fun b => b.window == window && b.block == block && b.flushing) = none := by
      rw [List.find?_eq_none]
      simpa [and_assoc] using h j hj
    rw [hfind]

/-- The flushed block leaves the job, and the commands that wait for acknowledgements go on. -/
theorem Mod.gatewayAcked_frees {b : GatewayBlock} (hj : m.job? job = some j)
    (hb : (j.stageBlocks.find? fun b => b.window == window && b.block == block && b.flushing) = some b) :
    ∃ u : Mod, m.gatewayAcked job window block = (u.pokeAll (u.unacked job)).pokeWaiting ∧
      ∀ j', u.job? job = some j' → j'.stageBlocks = j.stageBlocks.erase b := by
  simp only [Mod.gatewayAcked, hj, hb]
  refine ⟨_, rfl, fun j' hj' => ?_⟩
  obtain rfl := Mod.eq_of_job?_updJob hj hj' fun _ => rfl
  rfl

end Reader

/-! ### Which function of the module each row runs -/

section Rows
variable {s : State} {m : Mod} {job inc rank tensor window block : Nat}

theorem becomes_placementTable {ps : List RemotePlace} (h : s.m.placed job inc rank ps = m) :
    becomes (.placementTable job inc rank ps) s m :=
  becomes_of_lift (f := fun m => m.placed job inc rank ps) rfl h

theorem becomes_gatewayFlush {data : List (Nat × Byte)} (h : s.m.gatewayFlushed job inc rank tensor window block data = m) :
    becomes (.gatewayFlush job inc rank tensor window block data) s m :=
  becomes_of_lift (f := fun m => m.gatewayFlushed job inc rank tensor window block data) rfl h

theorem becomes_gatewayFetch (h : s.m.gatewayFetched job inc rank tensor window block = m) :
    becomes (.gatewayFetch job inc rank tensor window block) s m :=
  becomes_of_lift (f := fun m => m.gatewayFetched job inc rank tensor window block) rfl h

theorem becomes_gatewayFetchData {bs : Option Bytes} (h : s.m.gatewayFilled job window block bs = m) :
    becomes (.gatewayFetchData job window block bs) s m :=
  becomes_of_lift (f := fun m => m.gatewayFilled job window block bs) rfl h

theorem becomes_gatewayFlushAck (h : s.m.gatewayAcked job window block = m) : becomes (.gatewayFlushAck job window block) s m :=
  becomes_of_lift (f := fun m => m.gatewayAcked job window block) rfl h

end Rows

/-- Settles O48: each row by whether its incarnation is resident, under reset, and asked for what comes. -/
theorem gatewayAndPlacementRows : Obligations.GatewayAndPlacementRows := by
  intro s job inc rank tensor window block ps data
  refine ⟨fun h => ⟨?flushStale, ?fetchStale, ?placeStale⟩, fun j hj h => ⟨?flushResets, ?fetchResets⟩,
    fun j hj hrun => ⟨⟨?flushWrites, ?flushLost⟩, ?fetchMem, ?fetchReturns⟩, ?place, ?fillUnasked, ?ackUnasked,
    fun j hj hf => ⟨?fills, ?fillLost⟩, ?ackFrees⟩
  case flushStale => exact becomes_gatewayFlush (Mod.gatewayFlushed_stale h)
  case fetchStale => exact becomes_gatewayFetch (Mod.gatewayFetched_stale h)
  case placeStale => exact fun hrun => becomes_placementTable (Mod.placed_stale h hrun)
  case flushResets => exact becomes_gatewayFlush (Mod.gatewayFlushed_resetting hj h)
  case fetchResets => exact becomes_gatewayFetch (Mod.gatewayFetched_resetting hj h)
  case flushWrites => exact fun h => becomes_gatewayFlush (Mod.gatewayFlushed_writes hj hrun h)
  case flushLost => exact fun a h => becomes_gatewayFlush (Mod.gatewayFlushed_lost hj hrun h)
  case fetchMem => exact Mod.checkLocal_mem none _
  case fetchReturns => exact becomes_gatewayFetch (Mod.gatewayFetched_returns hj hrun rfl)
  case place => exact fun j hj => next_of_lift (f := fun m => m.placed job inc rank ps) rfl fun j' => Mod.placed_job hj
  case fillUnasked => exact fun bs h => becomes_gatewayFetchData (Mod.gatewayFilled_unasked h bs)
  case ackUnasked => exact fun h => becomes_gatewayFlushAck (Mod.gatewayAcked_unasked h)
  case fills =>
    obtain ⟨u, hu, hblock⟩ := Mod.gatewayFilled_fills hj hf (data.map (·.2))
    obtain ⟨t, ht, htm⟩ := next_of_becomes (becomes_gatewayFetchData hu)
    exact ⟨t, u, ht, htm, hblock⟩
  case fillLost => exact becomes_gatewayFetchData (Mod.gatewayFilled_lost hj hf)
  case ackFrees =>
    intro j b hj hb
    obtain ⟨u, hu, hblocks⟩ := Mod.gatewayAcked_frees hj hb
    obtain ⟨t, ht, htm⟩ := next_of_becomes (becomes_gatewayFlushAck hu)
    exact ⟨t, u, ht, htm, hblocks⟩

end Sys2Proof.Machine
end

section
/-!
PROOFS. Messages of the exchange that meet an open step (R265-R287).
-/

namespace Sys2Proof.Machine

/-! ### A message of the exchange meets its step (R62, R264) -/

theorem Mod.ensureEx_of_open {m : Mod} {j : Job} {e : ExchangeDecl} {n : Nat} (h : (j.ex? e.id n).isSome) : m.ensureEx j e n = m :=
  if_pos h

/-- The parcel that a message brings, before it has withies. -/
def arriving (x : ExMsg) (g : Bool) : ParcelIn :=
  { source := x.source, group := x.group, slot := x.slot, grad := g, count := x.tags.length, tags := x.tags, rows := x.rows
    rows2 := x.rows2, phase := .inWithies, wasHeld := false, withies := [], acked := true }

section Taken
variable {m : Mod} {x : ExMsg} {j0 j : Job} {e : ExchangeDecl} {n : Nat}
variable (h : m.takesEx x j0 e n) (hj : (m.ensureEx j0 e n).job? x.job = some j)
include h hj

/-- A message that is taken acts on the module in which its step is open. -/
theorem Mod.exchangeMsg_taken {f : Mod → Job → ExchangeDecl → Nat → Mod} : m.exchangeMsg x f = f (m.ensureEx j0 e n) j e n := by
  obtain ⟨hj0, hreset, hinc, he, hn, hroll⟩ := h
  have hwindow : (j0.rollbackUntil.isSome && n == j0.step.toNat) = false := by
    obtain hroll | hroll := hroll <;> simp [hroll]
  simp [Mod.exchangeMsg, Mod.exTarget, hj0, hreset, hinc, he, hn, hwindow, hj]

variable {st : ExStep} (hst : j.ex? e.id n = some st)
include hst

/-! ### A parcel or a gradient at its receiver (R270, R273) -/

theorem Mod.onRows_spoiled (hsp : st.spoiled.isSome) (g : Bool) : m.onRows x g = m.ensureEx j0 e n := by
  rw [Mod.onRows, Mod.exchangeMsg_taken h hj]
  simp [hst, hsp]

section New
variable (hsp : st.spoiled = none) (hentry : (st.entry x.source x.group x.slot).isSome)
variable {g : Bool} (hnew : st.parcel? x.source x.group x.slot g = none) {m' : Mod}
include hsp hentry hnew

theorem Mod.onRows_granted {ws : List Nat}
    (hr : (m.ensureEx j0 e n).requestRecv j.plan e st (e.withiesFor x.tags.length)
      (st.head j.plan e == some (g, x.source, x.group, x.slot)) = (m', some ws)) :
    m.onRows x g = ((m'.updEx j.plan.job e.id n fun s =>
      { s with parcelsIn := s.parcelsIn.concat { arriving x g with withies := ws } }).answer j e n (arriving x g) .accept).recvMoved
        j e n := by
  rw [Mod.onRows, Mod.exchangeMsg_taken h hj]
  simp only [hst, hsp, Option.isSome_none, Bool.false_eq_true, if_false, Option.isNone_eq_false_iff.2 hentry, hnew, hr]
  rfl

theorem Mod.onRows_held
    (hr : (m.ensureEx j0 e n).requestRecv j.plan e st (e.withiesFor x.tags.length)
      (st.head j.plan e == some (g, x.source, x.group, x.slot)) = (m', none)) :
    let runs := j.phase != .loaded
    let held := { arriving x g with tags := [], rows := [], rows2 := [], phase := .held, wasHeld := true, acked := runs }
    let u := ((m'.updEx j.plan.job e.id n fun s => { s with parcelsIn := s.parcelsIn.concat held }).updSlot j.plan.job e.id n x.slot
      fun q => { q with heldPairs := q.heldPairs + x.tags.length }).countJob j.plan.job .EXCHANGE_HELD_PAIRS x.tags.length
    m.onRows x g = (if runs then u.answer j e n held .hold else u).recvMoved j e n := by
  rw [Mod.onRows, Mod.exchangeMsg_taken h hj]
  simp only [hst, hsp, Option.isSome_none, Bool.false_eq_true, if_false, Option.isNone_eq_false_iff.2 hentry, hnew, hr]
  rfl

end New

/-! ### PULL and KEEP at the token owner (R273, R276, R287) -/

theorem Mod.onPull_spoiled (hsp : st.spoiled.isSome) :
    m.onPull x = (m.ensureEx j0 e n).emit (.exchange x.source .spoil (j.plan.exMsg e.id x.group n x.slot)) := by
  rw [Mod.onPull, Mod.exchangeMsg_taken h hj]
  simp [hst, hsp]

section Sent
variable (hsp : st.spoiled = none) {o : ParcelOut} (ho : st.out? x = some o)
include hsp ho

theorem Mod.onPull_sends :
    let m' := m.ensureEx j0 e n
    let ls := st.parcelSlots x.group x.source x.slot
    let msg := j.plan.parcelMsg e x.group n x.slot (st.sentAll && x.group + 1 == st.nextGroup) ls true
    m.onPull x = if o.grad.isSome then
        (m'.mapOut j.plan.job e.id n x fun o => { o with grad := some .sent }).emit
          (.exchange x.source .grad { msg with rows := ls.map (fun l => l.gRow.getD []), rows2 := ls.map fun l => l.rowIn.getD [] })
      else (m'.mapOut j.plan.job e.id n x fun o => { o with phase := .sent }).emit (.exchange x.source .parcel msg) := by
  rw [Mod.onPull, Mod.exchangeMsg_taken h hj]
  simp [hst, hsp, ho]

theorem Mod.onKeep_selects (hph : o.phase = .tagsSent) :
    let ls := st.parcelSlots x.group x.source x.slot
    let gone := ((ls.zip x.keep).filter fun p => !p.2).map fun p => (p.1.tag.token, p.1.tag.kslot)
    let kept := ls.filter fun l => !gone.contains (l.tag.token, l.tag.kslot)
    let marked := (m.ensureEx j0 e n).mapLedger j.plan.job e.id n fun l =>
      if l.of x && gone.contains (l.tag.token, l.tag.kslot) then { l with tag := { l.tag with dropped := true } } else l
    m.onKeep x = if kept.isEmpty then (marked.mapOut j.plan.job e.id n x fun o => { o with phase := .accepted }).moveStep j.plan.job e.id n
      else ((marked.mapOut j.plan.job e.id n x fun o => { o with phase := .sent }).emit (.exchange x.source .parcel
        (j.plan.parcelMsg e x.group n x.slot (st.sentAll && x.group + 1 == st.nextGroup) kept false))).moveStep j.plan.job e.id n := by
  rw [Mod.onKeep, Mod.exchangeMsg_taken h hj]
  simp only [hst, ho, hph, hsp]
  rfl

end Sent
end Taken

section Rows
variable {s : State} {x : ExMsg} {j0 j : Job} {e : ExchangeDecl} {n : Nat}

/-- PARCEL and GRAD bring rows of the two kinds. -/
theorem becomes_rows {m : Mod} {g : Bool} (h : s.m.onRows x g = m) :
    (g = false → becomes (.parcel x) s m) ∧ (g = true → becomes (.grad x) s m) :=
  ⟨fun hg => becomes_of_lift (f := fun m => m.onRows x false) rfl (hg ▸ h),
    fun hg => becomes_of_lift (f := fun m => m.onRows x true) rfl (hg ▸ h)⟩

theorem becomes_pull {m : Mod} (h : s.m.onPull x = m) : becomes (.pull x) s m :=
  becomes_of_lift (f := fun m => m.onPull x) rfl h

theorem becomes_keep {m : Mod} (h : s.m.onKeep x = m) : becomes (.keep x) s m :=
  becomes_of_lift (f := fun m => m.onKeep x) rfl h

end Rows

/-- Settles O40: a message that is taken runs its function on the open step; PARCEL and GRAD by what their withies' request gives, PULL and
KEEP by what the owner sent. -/
theorem exchangeRows : Obligations.ExchangeRows := by
  refine ⟨fun s x j0 e n h => ⟨Mod.ensureEx_of_open, fun j st hj hst => ?receiver⟩,
    fun s x j0 e n h => ⟨Mod.ensureEx_of_open, fun j st hj hst => ?owner⟩⟩
  case' receiver => refine ⟨?counts, fun g hsp hentry hnew => ?rows, fun hsp => ?spoiled, ?tags⟩
  case' owner =>
    refine ⟨?accept, ?hold, fun hsp => ?pullSpoiled, fun o hsp ho => ?pull, ?result, ?dgrad, ?spoil, fun o ho hph hsp => ?keep⟩
  case counts => exact becomes_of_lift (f := fun m => m.onCounts x) rfl (Mod.exchangeMsg_taken h hj)
  case tags => exact becomes_of_lift (f := fun m => m.onTags x) rfl (Mod.exchangeMsg_taken h hj)
  case accept => exact becomes_of_lift (f := fun m => m.onAccept x) rfl (Mod.exchangeMsg_taken h hj)
  case hold => exact becomes_of_lift (f := fun m => m.onHold x) rfl (Mod.exchangeMsg_taken h hj)
  case result => exact becomes_of_lift (f := fun m => m.onResult x) rfl (Mod.exchangeMsg_taken h hj)
  case dgrad => exact becomes_of_lift (f := fun m => m.onDgrad x) rfl (Mod.exchangeMsg_taken h hj)
  case spoil => exact becomes_of_lift (f := fun m => m.onSpoil x) rfl (Mod.exchangeMsg_taken h hj)
  case rows =>
    apply becomes_rows
    rcases hr : (s.m.ensureEx j0 e n).requestRecv j.plan e st (e.withiesFor x.tags.length)
      (st.head j.plan e == some (g, x.source, x.group, x.slot)) with ⟨m', _ | ws⟩
    · exact Mod.onRows_held h hj hst hsp hentry hnew hr
    · exact Mod.onRows_granted h hj hst hsp hentry hnew hr
  case spoiled =>
    exact ⟨(becomes_rows (Mod.onRows_spoiled h hj hst hsp false)).1 rfl, (becomes_rows (Mod.onRows_spoiled h hj hst hsp true)).2 rfl⟩
  case pullSpoiled => exact becomes_pull (Mod.onPull_spoiled h hj hst hsp)
  case pull =>
    have key := Mod.onPull_sends h hj hst hsp ho
    exact ⟨fun hg => becomes_pull (key.trans (if_neg (by simp [hg]))), fun hg => becomes_pull (key.trans (if_pos hg))⟩
  case keep =>
    have key := Mod.onKeep_selects h hj hst hsp ho hph
    exact ⟨fun hk => becomes_keep (key.trans (if_pos (List.isEmpty_iff.2 hk))),
      fun hk => becomes_keep (key.trans (if_neg (mt List.isEmpty_iff.1 hk)))⟩

end Sys2Proof.Machine
end

section
/-!
PROOFS. The rounds of an expert slot (R271, R276, R278, R282, R283).
-/

namespace Sys2Proof.Machine

/-! ### Which parcels a round takes (R271) -/

theorem takeRound_takes_first (limit used : Nat) (ps : List ParcelIn) : (takeRound limit used ps).map (·.1) <+: ps := by
  induction ps generalizing used with
  | nil => simp [takeRound]
  | cons p ps ih =>
    rw [takeRound]
    split_ifs
    · simpa using ih _
    · simp
    · simp

theorem takeRound_ne_nil {limit : Nat} {ps : List ParcelIn} (h : ps ≠ []) : takeRound limit 0 ps ≠ [] := by
  cases ps with
  | nil => contradiction
  | cons p ps =>
    rw [takeRound, if_pos rfl]
    split_ifs <;> exact List.cons_ne_nil _ _

theorem takeRound_sum_le {limit used : Nat} (h : used ≤ limit) (ps : List ParcelIn) :
    used + ((takeRound limit used ps).map (·.2)).sum ≤ limit := by
  induction ps generalizing used with
  | nil => simpa [takeRound] using h
  | cons p ps ih =>
    rw [takeRound]
    split_ifs with hfit hused
    · simpa [Nat.add_assoc] using ih hfit
    · simp [hused]
    · simpa using h

/-- After a first parcel, a round takes no part of one. -/
theorem takeRound_whole {limit used : Nat} (hused : 0 < used) {ps : List ParcelIn} :
    ∀ x ∈ takeRound limit used ps, x.2 = x.1.count - x.1.ran := by
  induction ps generalizing used with
  | nil => simp [takeRound]
  | cons p ps ih =>
    rw [takeRound]
    split_ifs with hfit hzero
    · exact List.forall_mem_cons.2 ⟨rfl, ih (by omega)⟩
    · omega
    · simp

/-- A round takes whole parcels, save a first one that alone has more rows than the limit (log 110). -/
theorem takeRound_whole_or_split {limit : Nat} {ps : List ParcelIn} (h : ∀ p ∈ ps, p.ran < p.count) :
    ∀ x ∈ takeRound limit 0 ps, x.2 = x.1.count - x.1.ran ∨
      (takeRound limit 0 ps = [(x.1, limit)] ∧ limit < x.1.count - x.1.ran) := by
  cases ps with
  | nil => simp [takeRound]
  | cons p ps =>
    have hp : p.ran < p.count := h p List.mem_cons_self
    rw [takeRound, if_pos rfl]
    split_ifs with hfit
    · have hwhole : ∀ x ∈ (p, p.count - p.ran) :: takeRound limit (0 + (p.count - p.ran)) ps, x.2 = x.1.count - x.1.ran :=
        List.forall_mem_cons.2 ⟨rfl, takeRound_whole (by omega)⟩
      exact fun x hx => .inl (hwhole x hx)
    · simp only [List.mem_singleton, forall_eq, true_and]
      exact .inr (by omega)

/-! ### Which positions a selection keeps (R276) -/

theorem insertBy_eq_orderedInsert {α : Type} (le : α → α → Bool) (x : α) (l : List α) :
    insertBy le x l = l.orderedInsert (fun a b => le a b) x := by
  induction l with
  | nil => rfl
  | cons y ys ih => simp [insertBy, List.orderedInsert, ih]

theorem sortBy_eq_insertionSort {α : Type} (le : α → α → Bool) (l : List α) : sortBy le l = l.insertionSort fun a b => le a b := by
  induction l with
  | nil => rfl
  | cons x xs ih => rw [sortBy, ih, insertBy_eq_orderedInsert, List.insertionSort_cons]

theorem sortBy_perm {α : Type} (le : α → α → Bool) (l : List α) : (sortBy le l).Perm l :=
  sortBy_eq_insertionSort le l ▸ List.perm_insertionSort _ l

/-- The positions of the sorted list are those of the list, in another order. -/
theorem positions_perm {α : Type} (le : α × Nat → α × Nat → Bool) (l : List α) :
    ((sortBy le l.zipIdx).map (·.2)).Perm (List.range l.length) := by
  rw [List.range_eq_range', ← List.zipIdx_map_snd]
  exact (sortBy_perm le _).map _

theorem keptPositions_eq_take (c : Nat) (tags : List Tag) : keptPositions c tags =
    ((sortBy (fun (a b : Tag × Nat) => pickBefore a.1.gate b.1.gate) tags.zipIdx).map (·.2)).take c := List.map_take

theorem length_keptPositions (c : Nat) (tags : List Tag) : (keptPositions c tags).length = min c tags.length := by
  rw [keptPositions_eq_take, List.length_take, (positions_perm _ tags).length_eq, List.length_range]

theorem nodup_keptPositions (c : Nat) (tags : List Tag) : (keptPositions c tags).Nodup := by
  rw [keptPositions_eq_take]
  exact ((positions_perm _ tags).nodup_iff.2 List.nodup_range).sublist (List.take_sublist ..)

theorem lt_of_mem_keptPositions {c i : Nat} {tags : List Tag} (h : i ∈ keptPositions c tags) : i < tags.length := by
  rw [keptPositions_eq_take] at h
  exact List.mem_range.1 ((positions_perm _ tags).mem_iff.1 (List.mem_of_mem_take h))

/-! ### A forward round (R271) -/

/-- The RESULT that answers a parcel with its output rows. -/
def resultOf (j : Job) (e : ExchangeDecl) (step slot : Nat) (p : ParcelIn) (rows : List Bytes) : Out :=
  .exchange p.source .result { j.plan.exMsg e.id p.group step slot with tags := p.tags, rows := rows, held := p.wasHeld }

/-- What a round does with a parcel of which it ran `x.2` rows: it stands with the outputs in the place of its rows, and leaves in a
RESULT when no row is left. The second part holds the outputs of the parcels that follow. -/
def returnRows (j : Job) (e : ExchangeDecl) (job exch step slot : Nat) (acc : Mod × List Bytes) (x : ParcelIn × Nat) :
    Mod × List Bytes :=
  let p := x.1.after x.2 (acc.2.take x.2)
  let m := acc.1.mapParcel job exch step (fun y => y.is p.source p.group p.slot p.grad) fun _ => p
  (if p.phase == .resulted then m.emit (resultOf j e step slot p p.rows) else m, acc.2.drop x.2)

section Returned
variable {j : Job} {e : ExchangeDecl} {job exch step slot : Nat}

theorem returnRows_mem (acc : Mod × List Bytes) (x : ParcelIn × Nat) :
    (returnRows j e job exch step slot acc x).1.mem = acc.1.mem := by
  simp only [returnRows]
  split_ifs <;> rfl

theorem out_subset_returnRows (acc : Mod × List Bytes) (x : ParcelIn × Nat) :
    acc.1.out ⊆ (returnRows j e job exch step slot acc x).1.out := by
  simp only [returnRows]
  split_ifs
  · exact List.subset_cons_self ..
  · exact List.Subset.refl _

/-- A parcel whose rows have all run is answered. -/
theorem result_mem_returnRows (acc : Mod × List Bytes) {x : ParcelIn × Nat} (h : x.1.ran + x.2 = x.1.count) :
    ∃ rows, resultOf j e step slot x.1 rows ∈ (returnRows j e job exch step slot acc x).1.out := by
  simp only [returnRows, ParcelIn.after, h, if_true, beq_self_eq_true]
  exact ⟨_, List.mem_cons_self⟩

theorem foldl_returnRows_mem (ps : List (ParcelIn × Nat)) (acc : Mod × List Bytes) :
    (ps.foldl (returnRows j e job exch step slot) acc).1.mem = acc.1.mem :=
  List.foldlRecOn (motive := fun a => a.1.mem = acc.1.mem) ps _ rfl fun a ha x _ => (returnRows_mem a x).trans ha

theorem out_subset_foldl_returnRows (ps : List (ParcelIn × Nat)) (acc : Mod × List Bytes) :
    acc.1.out ⊆ (ps.foldl (returnRows j e job exch step slot) acc).1.out :=
  List.foldlRecOn (motive := fun a => acc.1.out ⊆ a.1.out) ps _ (List.Subset.refl _) fun a ha x _ =>
    List.Subset.trans ha (out_subset_returnRows a x)

/-- Each parcel of a round whose rows have all run is answered. -/
theorem result_mem_foldl_returnRows {ps : List (ParcelIn × Nat)} {x : ParcelIn × Nat} (hx : x ∈ ps) (h : x.1.ran + x.2 = x.1.count)
    (acc : Mod × List Bytes) :
    ∃ rows, resultOf j e step slot x.1 rows ∈ (ps.foldl (returnRows j e job exch step slot) acc).1.out := by
  obtain ⟨before, after, rfl⟩ := List.append_of_mem hx
  rw [List.foldl_append, List.foldl_cons]
  obtain ⟨rows, hrows⟩ := result_mem_returnRows (before.foldl (returnRows j e job exch step slot) acc) h
  exact ⟨rows, out_subset_foldl_returnRows after _ hrows⟩

end Returned

/-- The rows of what a forward round takes. -/
def roundRows (ps : List (ParcelIn × Nat)) : List Bytes := ps.flatMap fun x => (x.1.rows.drop x.1.ran).take x.2

/-- The run of a forward body on the rows of what a round takes. -/
def Mod.forwardRun (m : Mod) (j : Job) (e : ExchangeDecl) (slot : Nat) (ps : List (ParcelIn × Nat)) : BodyRun :=
  m.runBody j e slot e.bodyFwd (roundRows ps) [] 0 0 []

section Rounds
variable {m : Mod} {job exch slot : Nat} {j : Job} {e : ExchangeDecl} (hj : m.job? job = some j) (he : j.plan.exchange? exch = some e)
include hj he

theorem Mod.forwardRound_of_noneWaiting (h : ((j.openSteps exch).find? fun s => !(s.waiting slot).isEmpty) = none) :
    m.forwardRound job exch slot = m := by
  simp only [Mod.forwardRound, hj, he, h]

theorem Mod.forwardRound_of_not_runs (h : j.runs = false) : m.forwardRound job exch slot = m := by
  simp only [Mod.forwardRound, hj, he, h]
  split <;> rfl

theorem Mod.backwardRound_of_not_runs (h : j.runs = false) : m.backwardRound job exch slot = m := by
  simp [Mod.backwardRound, hj, he, h]

variable (hrun : j.runs = true) {st : ExStep}
include hrun

section Forward
variable (hst : ((j.openSteps exch).find? fun s => !(s.waiting slot).isEmpty) = some st)
include hst

theorem Mod.forwardRound_fails {c : Status} {d : Nat} {p : Bytes} {b : BodyRun}
    (hb : m.forwardRun j e slot (takeRound e.roundRows 0 (st.waiting slot)) = b) (h : b.fail = some (c, d, p)) :
    m.forwardRound job exch slot = b.m.bodyFailed j e st.step c d := by
  subst hb
  simp only [Mod.forwardRun, roundRows] at h ⊢
  simp only [Mod.forwardRound, hj, he, hst, hrun, h]
  rfl

theorem Mod.forwardRound_returns {ps : List (ParcelIn × Nat)} (hps : takeRound e.roundRows 0 (st.waiting slot) = ps)
    (h : (m.forwardRun j e slot ps).fail = none) :
    m.forwardRound job exch slot = (((ps.foldl (returnRows j e job exch st.step slot) ((m.forwardRun j e slot ps).m,
      (m.forwardRun j e slot ps).rowsAt roundOut (roundRows ps).length e.outBytes)).1.updSlot job exch st.step slot fun q =>
        { q with roundsFwd := q.roundsFwd + 1 }).traceRound j e slot (roundRows ps).length).recvMoved j e st.step := by
  subst hps
  simp only [Mod.forwardRun, roundRows] at h ⊢
  simp only [Mod.forwardRound, hj, he, hst, hrun, h]
  rfl

end Forward

theorem Mod.backwardRound_of_head {m' : Mod} (hslot : slot < (e.slotsOf j.plan.rank).length)
    (hst : (j.openSteps exch).head? = some st) (h : m.backwardIn j e st slot = some m') : m.backwardRound job exch slot = m' := by
  obtain ⟨sts, hsts⟩ := List.head?_eq_some_iff.1 hst
  simp [Mod.backwardRound, hj, he, hrun, hslot, hsts, h]

end Rounds

/-! ### A backward round in a step (R278, R282, R283) -/

/-- A slot's progress in a step. -/
def ExStep.progress (st : ExStep) (slot : Nat) : SlotProg := (st.slots.find? fun q => q.slot == slot).getD { slot := slot }

/-- The pairs of a slot that count vectors tell. -/
def ExStep.knownPairs (st : ExStep) (j : Job) (e : ExchangeDecl) (slot : Nat) : Nat :=
  ((st.knownParcels e slot (j.plan.senders e)).map (·.2.2)).sum

/-- The pairs that the span before left for the next one. -/
def ExStep.carriedPairs (st : ExStep) (slot : Nat) : List SpanPair :=
  (st.progress slot).carry.map fun c => (⟨c.1, c.2.1, c.2.2, c.1.source, c.1.token / 256⟩ : SpanPair)

/-- The pairs of a slot that a backward round could run. -/
def ExStep.readyPairs (st : ExStep) (j : Job) (e : ExchangeDecl) (slot : Nat) : List SpanPair :=
  st.carriedPairs slot ++ st.present slot (st.knownParcels e slot (j.plan.senders e))

/-- The number of them that it runs. -/
def ExStep.spanSize (st : ExStep) (j : Job) (e : ExchangeDecl) (slot : Nat) : Nat :=
  spanLen (st.progress slot).bwdNext e.roundRows (st.readyPairs j e slot).length
    (if st.allFinished (j.plan.senders e) then some (st.knownPairs j e slot) else none)

/-- The run of a backward body on a span. -/
def Mod.backwardRun (m : Mod) (j : Job) (e : ExchangeDecl) (st : ExStep) (slot : Nat) : BodyRun :=
  let took := (st.readyPairs j e slot).take (st.spanSize j e slot)
  m.runBody j e slot e.bodyBwd (took.map (·.row)) (took.map (·.grow)) (st.progress slot).bwdNext (st.knownPairs j e slot)
    (st.progress slot).acc

/-- What a backward round leaves after its body ran as `b`. -/
def BodyRun.spanRan (b : BodyRun) (j : Job) (e : ExchangeDecl) (st : ExStep) (slot : Nat) : Mod :=
  let n := st.spanSize j e slot
  let took := (st.readyPairs j e slot).take n
  let sent := b.m.sendDgrads j e st.step slot (took.zip (b.rowsAt roundIn n e.inBytes))
  let span := sent.endSpan j e st slot (took.drop (st.carriedPairs slot).length) ((st.readyPairs j e slot).drop n)
  let done := st.allFinished (j.plan.senders e) && (st.progress slot).bwdNext + n == st.knownPairs j e slot
  let m := if done then span.1.writeGrads j e slot (st.divisor j.plan e slot) (some b.acc) else span.1
  (((m.updSlot j.plan.job e.id st.step slot fun q =>
    { q with
      roundsBwd := q.roundsBwd + 1, bwdNext := q.bwdNext + n, acc := if done then [] else b.acc
      carry := span.2.map (fun x => (x.tag, x.grow, x.row)), written := done }).traceRound j e slot n).pullsOf j.plan.job
        e.recvPool).recvMoved j e st.step

section BackwardIn
variable {m : Mod} {j : Job} {e : ExchangeDecl} {st : ExStep} {slot : Nat} (hw : (st.progress slot).written = false)
include hw

/-- A slot without pairs has its gradients written +0, unless they stay absent. -/
theorem Mod.backwardIn_empty (hfin : st.allFinished (j.plan.senders e) = true) (hn : st.knownPairs j e slot = 0) :
    m.backwardIn j e st slot = some ((if e.emptyAbsent then m else m.writeGrads j e slot 0 none).updSlot j.plan.job e.id st.step slot
      fun q => { q with written := true }) := by
  simp only [ExStep.progress, ExStep.knownPairs] at hw hn
  simp [Mod.backwardIn, hw, hfin, hn]

section Span
variable (hpairs : st.allFinished (j.plan.senders e) = false ∨ st.knownPairs j e slot ≠ 0)
variable (hdraws : st.allFinished (j.plan.senders e) = true ∨ e.drawsAcc = false) (hn : st.spanSize j e slot ≠ 0)
include hpairs hdraws hn

theorem Mod.backwardIn_span : m.backwardIn j e st slot = match (m.backwardRun j e st slot).fail with
    | some (c, d, _) => some ((m.backwardRun j e st slot).m.bodyFailed j e st.step c d)
    | none => some ((m.backwardRun j e st slot).spanRan j e st slot) := by
  have hempty : (st.allFinished (j.plan.senders e) && st.knownPairs j e slot == 0) = false := by
    obtain h | h := hpairs <;> simp [h]
  have hwaits : (!st.allFinished (j.plan.senders e) && e.drawsAcc) = false := by
    obtain h | h := hdraws <;> simp [h]
  exact (if_neg (Bool.eq_false_iff.1 hw)).trans ((if_neg (Bool.eq_false_iff.1 hempty)).trans
    ((if_neg (Bool.eq_false_iff.1 hwaits)).trans (if_neg hn)))

theorem Mod.backwardIn_fails {c : Status} {d : Nat} {p : Bytes} (h : (m.backwardRun j e st slot).fail = some (c, d, p)) :
    m.backwardIn j e st slot = some ((m.backwardRun j e st slot).m.bodyFailed j e st.step c d) := by
  rw [Mod.backwardIn_span hw hpairs hdraws hn, h]

theorem Mod.backwardIn_ran (h : (m.backwardRun j e st slot).fail = none) :
    m.backwardIn j e st slot = some ((m.backwardRun j e st slot).spanRan j e st slot) := by
  rw [Mod.backwardIn_span hw hpairs hdraws hn, h]

end Span
end BackwardIn

section Rows
variable {s : State} {m : Mod} {job exch slot : Nat}

theorem becomes_forwardRound (h : s.m.forwardRound job exch slot = m) : becomes (.forwardRound job exch slot) s m :=
  becomes_of_lift (f := fun m => m.forwardRound job exch slot) rfl h

theorem becomes_backwardRound (h : s.m.backwardRound job exch slot = m) : becomes (.backwardRound job exch slot) s m :=
  becomes_of_lift (f := fun m => m.backwardRound job exch slot) rfl h

end Rows

/-- Settles O41: what a round takes by induction over the parcels, what a selection keeps as a part of a permutation of the positions;
then one equation above for each end of a round. -/
theorem expertRounds : Obligations.ExpertRounds := by
  refine ⟨⟨fun limit ps h => ⟨takeRound_takes_first limit 0 ps, takeRound_ne_nil,
      by simpa using takeRound_sum_le (Nat.zero_le limit) ps, takeRound_whole_or_split h⟩,
      fun c tags => ⟨length_keptPositions c tags, nodup_keptPositions c tags, fun _ => lt_of_mem_keptPositions⟩⟩,
    fun s job exch slot j e hj he => ⟨?noneWaiting, ?stopped, ?forward, ?backward⟩⟩
  case noneWaiting => exact fun h => becomes_forwardRound (Mod.forwardRound_of_noneWaiting hj he h)
  case stopped =>
    exact fun h => ⟨becomes_forwardRound (Mod.forwardRound_of_not_runs hj he h),
      becomes_backwardRound (Mod.backwardRound_of_not_runs hj he h)⟩
  case forward =>
    intro st hrun hst ps ins b
    split
    next hb => exact becomes_forwardRound (Mod.forwardRound_fails hj he hrun hst rfl hb)
    next hb =>
      exact ⟨_, becomes_forwardRound (Mod.forwardRound_returns hj he hrun hst rfl hb),
        foldl_returnRows_mem .., fun p hp h => result_mem_foldl_returnRows hp h _⟩
  case backward =>
    intro st hrun hslot hst senders fin q known total hw
    have hround {m : Mod} (h : s.m.backwardIn j e st slot = some m) : becomes (.backwardRound job exch slot) s m :=
      becomes_backwardRound (Mod.backwardRound_of_head hj he hrun hslot hst h)
    refine ⟨fun hfin hnone => hround (Mod.backwardIn_empty hw hfin hnone), ?_⟩
    intro hpairs hdraws carried ready n took b hn
    split
    next hb => exact hround (Mod.backwardIn_fails hw hpairs hdraws hn hb)
    next hb => exact hround (Mod.backwardIn_ran hw hpairs hdraws hn hb)

end Sys2Proof.Machine
end

section
/-!
PROOFS. Verdicts and verdict requests, and the deadlines of a reduction, of NORM and of a rollback (R305, R306, R316, R318, R339, R353).
-/

namespace Sys2Proof.Machine

/-! ### Verdicts and verdict requests (R318, R339) -/

section Verdict
variable {m : Mod} {x : WaleMsg} {j : Job}

theorem Mod.onVerdict_recorded {v : VerdictRec} (h : m.verdict? j.plan.job (j.waleStep x.step) = some v) :
    m.onVerdict j x = m.endNorms v := by
  simp only [Mod.onVerdict, h]

theorem Mod.onVerdict_first {v : VerdictRec}
    (hv : v = { job := j.plan.job, inc := j.plan.inc, step := j.waleStep x.step, word := x.word, vec := x.vec })
    (h : m.verdict? j.plan.job (j.waleStep x.step) = none) : m.onVerdict j x = (m.recordVerdict v).endNorms v := by
  subst hv
  simp only [Mod.onVerdict, h]

theorem Mod.verdictHere_took {t : Mod} (h : m.takesWale .verdict x j) (ht : m.onVerdict j x = t) :
    m.verdictHere x = (t.replayWale x.job).pokeVerdict x.job :=
  congrArg (·.pokeVerdict x.job) (Mod.onWale_took h (congrArg (·, true) ht))

theorem Mod.verdictHere_resetting (h : m.resettingFor x.job = true) :
    m.verdictHere x = (m.turnAway (.wale x.source .verdict x)).pokeVerdict x.job :=
  congrArg (·.pokeVerdict x.job) (Mod.onWale_resetting h)

theorem Mod.verdictRequest_recorded {job step rank : Nat} {v : VerdictRec} (h : m.resettingFor job = false)
    (hv : (m.verdicts.reverse.find? fun v => v.job == job && v.step == step) = some v) :
    m.verdictRequest job step rank = m.emit (.verdictTell rank job step v.word v.vec) := by
  simp [Mod.verdictRequest, h, hv]

theorem Mod.verdictRetry_asks {id : CmdId} {r : Running} (hr : m.cmd? id = some r) (hw : r.work = .verdictAsk)
    (hj : m.job? r.cmd.job = some j) : m.verdictRetry id = m.askVerdict j := by
  simp only [Mod.verdictRetry, hr, hw, hj]

end Verdict

/-! ### Deadlines act once they have passed (R305, R306, R316, R353) -/

section Deadline
variable {m : Mod} {job step d : Nat}

section Reduction
variable {bucket shard : Nat} {a : NodeAt} (ha : m.nodeAt? job bucket step shard = some a) (hd : a.n.deadline = some d)
include ha hd

theorem Mod.waleDeadline_passed (h : d ≤ m.now) (hp : a.j.phase ≠ .loaded) :
    m.waleDeadline job bucket step shard = (m.expireNode a).endReduces job bucket step := by
  simp [Mod.waleDeadline, ha, hd, h, hp]

theorem Mod.waleDeadline_early (h : m.now < d) : m.waleDeadline job bucket step shard = m := by
  simp [Mod.waleDeadline, ha, hd, Nat.not_le.mpr h]

end Reduction

section Norm
variable {j : Job} {n : NormNode} (hj : m.job? job = some j) (hn : j.norm? step = some n) (hd : n.deadline = some d)
include hj hn hd

/-- R316: every edge without an input is lost, and the node forms. -/
theorem Mod.normDeadline_passed {lost : List Nat}
    (hlost : lost = j.plan.normEdges.filter fun e => !(n.gone.contains e || n.inputs.any fun i => i.1 == e))
    (h : d ≤ m.now) (hf : n.formed = false) (hp : j.phase ≠ .loaded) :
    m.normDeadline job step =
      (((m.trace_ { time := 0, kind := 6, job := job, inc := j.plan.inc, arg1 := lost.length }).updNorm job step fun n =>
        lost.foldl (fun n e => n.lose j.plan e) n).updJob job fun j => { j with deadlines := j.deadlines + lost.length }).formNorm job step := by
  subst hlost
  simp [Mod.normDeadline, hj, hn, hd, h, hf, hp]

theorem Mod.normDeadline_early (h : m.now < d) : m.normDeadline job step = m := by
  simp [Mod.normDeadline, hj, hn, hd, Nat.not_le.mpr h]

end Norm

section Rollback
variable {j : Job} (hj : m.job? job = some j) (hd : j.rollbackUntil = some d)
include hj hd

theorem Mod.rollbackEnd_passed (h : d ≤ m.now) : m.rollbackEnd job = m.updJob job fun j => { j with rollbackUntil := none } := by
  simp [Mod.rollbackEnd, hj, hd, h]

theorem Mod.rollbackEnd_early (h : m.now < d) : m.rollbackEnd job = m := by
  simp [Mod.rollbackEnd, hj, hd, Nat.not_le.mpr h]

end Rollback
end Deadline

section Rows
variable {s : State} {m : Mod} {x : WaleMsg} {id : CmdId} {job bucket step shard rank : Nat}

theorem becomes_verdict (h : s.m.verdictHere x = m) : becomes (.verdict x) s m :=
  becomes_of_lift (f := fun m => m.verdictHere x) rfl h

theorem becomes_verdictRequest (h : s.m.verdictRequest job step rank = m) : becomes (.verdictRequest job step rank) s m :=
  becomes_of_lift (f := fun m => m.verdictRequest job step rank) rfl h

theorem becomes_verdictRequestRetry (h : s.m.verdictRetry id = m) : becomes (.verdictRequestRetry id) s m :=
  becomes_of_lift (f := fun m => m.verdictRetry id) rfl h

theorem becomes_waleDeadline (h : s.m.waleDeadline job bucket step shard = m) : becomes (.waleDeadline job bucket step shard) s m :=
  becomes_of_lift (f := fun m => m.waleDeadline job bucket step shard) rfl h

theorem becomes_normDeadline (h : s.m.normDeadline job step = m) : becomes (.normDeadline job step) s m :=
  becomes_of_lift (f := fun m => m.normDeadline job step) rfl h

theorem becomes_rollbackWindowEnd (h : s.m.rollbackEnd job = m) : becomes (.rollbackWindowEnd job) s m :=
  becomes_of_lift (f := fun m => m.rollbackEnd job) rfl h

end Rows

/-- Settles O43: a verdict by whether its job resets and whether the step has a record already, each deadline by whether its time has come. -/
theorem waleTimersAndVerdicts : Obligations.WaleTimersAndVerdicts := by
  intro s job step
  refine ⟨fun x => becomes_verdict rfl, ?taken, ?resetting, ?request, ?retry, ?reduction, ?norm, ?rollback⟩
  case taken =>
    exact fun x j h => ⟨fun v hv => becomes_verdict (Mod.verdictHere_took h (Mod.onVerdict_recorded hv)),
      fun hv => becomes_verdict (Mod.verdictHere_took h (Mod.onVerdict_first rfl hv))⟩
  case resetting => exact fun x h => becomes_verdict (Mod.verdictHere_resetting h)
  case request => exact fun rank v h hv => becomes_verdictRequest (Mod.verdictRequest_recorded h hv)
  case retry => exact fun id r j hr hw hj => becomes_verdictRequestRetry (Mod.verdictRetry_asks hr hw hj)
  case reduction =>
    exact fun bucket shard a d ha hd => ⟨fun h hp => becomes_waleDeadline (Mod.waleDeadline_passed ha hd h hp),
      fun h => becomes_waleDeadline (Mod.waleDeadline_early ha hd h)⟩
  case norm =>
    exact fun j n d hj hn hd => ⟨fun h hf hp => becomes_normDeadline (Mod.normDeadline_passed hj hn hd rfl h hf hp),
      fun h => becomes_normDeadline (Mod.normDeadline_early hj hn hd h)⟩
  case rollback =>
    exact fun j t hj ht => ⟨fun h => becomes_rollbackWindowEnd (Mod.rollbackEnd_passed hj ht h),
      fun h => becomes_rollbackWindowEnd (Mod.rollbackEnd_early hj ht h)⟩

end Sys2Proof.Machine
end

section
/-!
PROOFS. A sweep unit finishes a page (R341–R343).
-/

namespace Sys2Proof.Machine

/-! ### The stamp of a page (R342) -/

section Stamp
variable (j : Job) (range unit page step now : Nat)

@[simp] theorem Job.setStamp_plan : (j.setStamp range unit page step now).plan = j.plan := rfl

@[simp] theorem Job.stamp_setStamp : (j.setStamp range unit page step now).stamp (range, unit, page) = step := by
  simp [Job.stamp, Job.setStamp]

@[simp] theorem Job.setPageScale_plan (sc : Nat × Nat) : (j.setPageScale range unit page sc).plan = j.plan := by
  unfold Job.setPageScale
  split <;> rfl

@[simp] theorem Job.stamp_setPageScale (sc : Nat × Nat) (pg : Nat × Nat × Nat) :
    (j.setPageScale range unit page sc).stamp pg = j.stamp pg := by
  unfold Job.setPageScale
  split <;> rfl

end Stamp

/-! ### The stages of a page (R342) -/

/-- The work of a unit's page on the memory as it stands. -/
def Mod.pageWork (m : Mod) (l : Lane) (r : Running) (j : Job) (rg : RangeDecl) (v : VerdictRec) (u page : Nat) : PageWork :=
  (j.readBy (r.cmd.id l)).pageWork j rg r.scalar (v.vec.headD 0#32) u page m.byte

/-- The accesses of a page, and whether they met a fault. -/
def Mod.accessPage (m : Mod) (r : Running) (w : PageWork) : Mod × Nat × Option Nat :=
  m.checkAccess (some r.cmd) w.reads (w.put.writes.map (·.1))

/-- What the accesses of a page leave: its command counts the corrected words, and the channels read are noted. -/
def Mod.readPage (m : Mod) (l : Lane) (r : Running) (w : PageWork) : Mod :=
  ((m.accessPage r w).1.updSum l fun s => { s with corrected := s.corrected + (m.accessPage r w).2.1 }).noteReads (r.cmd.id l)
    r.cmd.job true w.reads

/-- A page's writes go into the journal and into place, with its stamp and its scales. -/
def Mod.stampPage (m : Mod) (job : Nat) (w : PageWork) (range u page step : Nat) : Mod :=
  ((m.journal { job := job, unit := u, step := step, range := range - 1, page := page, state := 3
                writes := w.put.writes, scales := (w.m, w.v) }).store w.put.writes).updJob job fun j =>
    (j.setStamp range u page step m.now).setPageScale range u page (w.m, w.v)

/-- The job and the command count a page. -/
def Mod.countPage (m : Mod) (l : Lane) (job : Nat) (w : PageWork) : Mod :=
  (m.countJob job .SWEEP_PAGES).updSum l fun s => s.counts w.put.counts

/-- What a page without a fault leaves of the module, before its command goes on. -/
def Mod.applyPage (m : Mod) (l : Lane) (r : Running) (w : PageWork) (range u page step : Nat) : Mod :=
  ((m.readPage l r w).stampPage r.cmd.job w range u page step).countPage l r.cmd.job w

/-- What becomes of a sweep with the page `(range, u, page)` and `rest` left. -/
def Mod.finishPage (m : Mod) (l : Lane) (r : Running) (v : VerdictRec) (w : PageWork) (range u page step pages : Nat)
    (rest : List (Nat × Nat × Nat)) : Mod :=
  match (m.accessPage r w).2.2 with
  | some n => (m.readPage l r w).failSweep (r.cmd.id l) r.cmd.job .faultDetected n
  | none =>
    match rest with
    | [] => ((m.applyPage l r w range u page step).endSweep (r.cmd.id l) (vDegraded v.word) (pages + 1)).pokeSteps r.cmd.job
    | rest => (m.applyPage l r w range u page step).setWork l (.sweep rest (pages + 1))

section Finish
variable {m : Mod} {l : Lane} {r : Running} {v : VerdictRec} {w : PageWork} {range u page step pages : Nat}
variable {rest : List (Nat × Nat × Nat)}

theorem Mod.finishPage_fault {n : Nat} (h : (m.accessPage r w).2.2 = some n) : m.finishPage l r v w range u page step pages rest =
    (m.readPage l r w).failSweep (r.cmd.id l) r.cmd.job .faultDetected n := by
  simp only [Mod.finishPage, h]

theorem Mod.finishPage_last (h : (m.accessPage r w).2.2 = none) (hrest : rest = []) :
    m.finishPage l r v w range u page step pages rest =
      ((m.applyPage l r w range u page step).endSweep (r.cmd.id l) (vDegraded v.word) (pages + 1)).pokeSteps r.cmd.job := by
  simp only [Mod.finishPage, h, hrest]

theorem Mod.finishPage_more (h : (m.accessPage r w).2.2 = none) (hrest : rest ≠ []) :
    m.finishPage l r v w range u page step pages rest =
      (m.applyPage l r w range u page step).setWork l (.sweep rest (pages + 1)) := by
  cases rest with
  | nil => exact absurd rfl hrest
  | cons pg rest => simp only [Mod.finishPage, h]

end Finish

/-- A unit whose only sweep has a page of it first finishes that page. -/
theorem Mod.sweepPage_eq_finishPage {m : Mod} {u page range pages : Nat} {l : Lane} {r : Running} {j : Job}
    {rest : List (Nat × Nat × Nat)} {v : VerdictRec} {rg : RangeDecl} (hrun : m.runnings = [(l, r)])
    (hwork : r.work = .sweep ((range, u, page) :: rest) pages) (hj : m.job? r.cmd.job = some j)
    (hgo : m.stoppedAt (.sweep u) = false) (hv : m.verdict? r.cmd.job j.step.toNat = some v) (hrg : j.plan.range? range = some rg) :
    m.sweepPage u = m.finishPage l r v (m.pageWork l r j rg v u page) range u page j.step.toNat pages rest := by
  simp only [Mod.sweepPage, hrun, hwork, List.filter_cons, List.filter_nil, List.any_cons, List.find?_cons, List.erase_cons_head,
    beq_self_eq_true, Bool.true_or, if_true, sortBy, insertBy, hj, hgo, hv, hrg]
  rfl

/-! ### What a page without a fault leaves -/

section Apply
variable (m : Mod) (l : Lane) (r : Running) (w : PageWork) (range u page step : Nat)

theorem Mod.readPage_fields : ∃ lns reads, m.readPage l r w = { (m.accessPage r w).1 with lanes := lns, channelReads := reads } :=
  ⟨_, _, rfl⟩

theorem Mod.stampPage_fields (job : Nat) : ∃ es js jns, m.stampPage job w range u page step =
    { m with mem := m.mem.writeAll w.put.writes, memErrors := es, jobs := js, journals := jns } := ⟨_, _, _, rfl⟩

theorem Mod.countPage_fields (job : Nat) : ∃ lns js, m.countPage l job w = { m with lanes := lns, jobs := js } := by
  obtain ⟨js, hjs⟩ := m.countJob_jobs job .SWEEP_PAGES 1
  exact ⟨_, js, congrArg (fun t => t.updSum l fun s => s.counts w.put.counts) hjs⟩

/-- Behind its accesses, a page changes memory by its writes; of the rest it changes no more than the errors of the words that it wrote,
the counts and stamps of lanes and jobs, the journals, and the note of the channels that it read. -/
theorem Mod.applyPage_fields : ∃ es js jns lns reads, m.applyPage l r w range u page step =
    { (m.accessPage r w).1 with
      mem := (m.accessPage r w).1.mem.writeAll w.put.writes, memErrors := es, jobs := js, journals := jns, lanes := lns
      channelReads := reads } := by
  obtain ⟨_, reads, hread⟩ := m.readPage_fields l r w
  obtain ⟨es, _, jns, hstamp⟩ := (m.readPage l r w).stampPage_fields w range u page step r.cmd.job
  obtain ⟨lns, js, hcount⟩ := ((m.readPage l r w).stampPage r.cmd.job w range u page step).countPage_fields l w r.cmd.job
  exact ⟨es, js, jns, lns, reads, by rw [Mod.applyPage, hcount, hstamp, hread]⟩

theorem Mod.applyPage_out : (m.applyPage l r w range u page step).out = (m.accessPage r w).1.out := by
  obtain ⟨es, js, jns, lns, reads, h⟩ := m.applyPage_fields l r w range u page step
  rw [h]

variable {m r w} in
theorem Mod.applyPage_mem_ties (h : (m.accessPage r w).2.2 = none) :
    (m.applyPage l r w range u page step).mem = m.mem.writeAll w.put.writes ∧ (m.applyPage l r w range u page step).ties = m.ties := by
  obtain ⟨js, es, ls, hclean⟩ := Mod.checkAccess_clean m h
  obtain ⟨es', js', jns, lns, reads, happly⟩ := m.applyPage_fields l r w range u page step
  rw [happly, Mod.accessPage, hclean]
  exact ⟨rfl, rfl⟩

/-- The job that a number finds once a page is stamped has the page's stamp. -/
theorem Mod.stamp_of_stampPage {job : Nat} {j : Job} (h : (m.stampPage job w range u page step).job? job = some j) :
    j.stamp (range, u, page) = step := by
  rw [Mod.stampPage, Mod.job?_updJob _ _ fun _ => by simp] at h
  obtain ⟨i, -, rfl⟩ := Option.map_eq_some_iff.1 h
  simp

/-- The counts of a page leave the stamps of its job. -/
theorem Mod.job?_countPage (job : Nat) : (m.countPage l job w).job? job =
    (m.job? job).map fun j => { j with counters := j.counters.bump .SWEEP_PAGES 1 } := Mod.job?_updJob m job fun _ => rfl

theorem Mod.stamp_of_applyPage {j : Job} (h : (m.applyPage l r w range u page step).job? r.cmd.job = some j) :
    j.stamp (range, u, page) = step := by
  rw [Mod.applyPage, Mod.job?_countPage] at h
  obtain ⟨i, hi, rfl⟩ := Option.map_eq_some_iff.1 h
  have hstamp : i.stamp (range, u, page) = step := Mod.stamp_of_stampPage _ _ _ _ _ _ hi
  exact hstamp

end Apply

theorem becomes_sweepPage {s : State} {m : Mod} {u : Nat} (h : s.m.sweepPage u = m) : becomes (.sweepPage u) s m :=
  becomes_of_lift (f := fun m => m.sweepPage u) rfl h

/-- Settles O44: the step by whether the page's accesses met a fault, then by whether the page was the last. -/
theorem sweepPageDone : Obligations.SweepPageDone := by
  intro s u l r j range page rest pages v rg hrun hwork hj hgo hv hrg id w k m
  have hfinish := Mod.sweepPage_eq_finishPage hrun hwork hj hgo hv hrg
  refine ⟨?fault, fun hclean => ⟨s.m.applyPage l r w range u page j.step.toNat, ?mem, ?ties, ?out, ?stamp, ?last, ?more⟩⟩
  case fault => exact fun n hbad => becomes_sweepPage (hfinish.trans (Mod.finishPage_fault hbad))
  case mem => exact (Mod.applyPage_mem_ties l range u page _ hclean).1
  case ties => exact (Mod.applyPage_mem_ties l range u page _ hclean).2
  case out => exact (Mod.applyPage_out s.m l r w range u page _).trans
  case stamp => exact fun j' => Mod.stamp_of_applyPage s.m l r w range u page _
  case last => exact fun hlast => becomes_sweepPage (hfinish.trans (Mod.finishPage_last hclean hlast))
  case more => exact fun hmore => becomes_sweepPage (hfinish.trans (Mod.finishPage_more hclean hmore))

end Sys2Proof.Machine
end

section
/-!
PROOFS. The step: what it does with the command at the front of the queue, and the state that the invariant of the memories starts from.
-/

namespace Sys2Proof.Machine

/-! ### A step and the waiting commands -/

/-- Every command's meaning lifts a function of the module, so each answers a next state with the waiting commands as they were. -/
theorem exists_becomes (i : Instr) (s : State) : ∃ m, becomes i s m := by
  cases i <;> exact ⟨_, rfl⟩

/-- A step always goes on, on the waiting commands without the front one. -/
theorem step_pending (s : State) : ∃ t, step s = .next t ∧ t.pending = s.pending.drop 1 := by
  obtain ⟨m, pending⟩ := s
  cases pending with
  | nil => exact ⟨_, step_of_idle rfl, rfl⟩
  | cons i rest =>
    obtain ⟨u, hu⟩ := exists_becomes i ⟨m, rest⟩
    exact ⟨_, hu, rfl⟩

/-- Settles O1: the state whose queue is a command and `s.pending` has `s` itself as its rest. -/
theorem stepRunsFrontCommand : Obligations.StepRunsFrontCommand := fun _ _ => rfl

/-- Settles O2, by whether a command waits. -/
theorem everyStepGoesOn : Obligations.EveryStepGoesOn := step_pending

/-! ### Memory at reset -/

/-- Settles O5: memory and Tier C are empty at reset, and there is no session. -/
theorem resetMemoryCanonical : Obligations.ResetMemoryCanonical :=
  ⟨Memory.wf_nil, Memory.wf_nil, fun _ hs => absurd hs List.not_mem_nil⟩

end Sys2Proof.Machine
end

section
/-!
PROOFS. Ties: how a tie serves its waiters and forms its value (R364-R366), and the rows of a tie's home and of a far wait
(R369, R373-R376).
-/

namespace Sys2Proof.Machine

/-! ### COUNT mode serves the oldest waiters in order (R364) -/

section CountServe
variable (v : Nat) (ws : List Waiter)

theorem countServe_cons_covered {w : Waiter} (h : w.t ≤ v) : countServe v (w :: ws) =
    ((countServe (v - w.t) ws).1, (countServe (v - w.t) ws).2.1, (w, v - w.t) :: (countServe (v - w.t) ws).2.2) := if_pos h

theorem countServe_cons_uncovered {w : Waiter} (h : v < w.t) : countServe v (w :: ws) = (v, w :: ws, []) :=
  if_neg (Nat.not_le.mpr h)

/-- The released waiters, and behind them the ones that stay, are the waiters that there were. -/
theorem countServe_released_append_rest : ((countServe v ws).2.2.map (·.1)) ++ (countServe v ws).2.1 = ws := by
  induction ws generalizing v with
  | nil => rfl
  | cons w ws ih =>
    rcases lt_or_ge v w.t with hlt | hle
    · rw [countServe_cons_uncovered v ws hlt]; rfl
    · rw [countServe_cons_covered v ws hle]; simp [ih]

/-- The value left and the released thresholds make up the value that there was. -/
theorem countServe_value_add_sum : (countServe v ws).1 + ((countServe v ws).2.2.map fun w => w.1.t).sum = v := by
  induction ws generalizing v with
  | nil => rfl
  | cons w ws ih =>
    rcases lt_or_ge v w.t with hlt | hle
    · rw [countServe_cons_uncovered v ws hlt]; rfl
    · have hrest := ih (v - w.t)
      rw [countServe_cons_covered v ws hle]
      simp only [List.map_cons, List.sum_cons]
      omega

/-- The value left does not cover the first waiter that stays. -/
theorem countServe_value_lt_head {w : Waiter} (h : (countServe v ws).2.1.head? = some w) : (countServe v ws).1 < w.t := by
  induction ws generalizing v with
  | nil => cases h
  | cons x ws ih =>
    rcases lt_or_ge v x.t with hlt | hle
    · rw [countServe_cons_uncovered v ws hlt] at h ⊢
      obtain rfl := Option.some.inj h
      exact hlt
    · rw [countServe_cons_covered v ws hle] at h ⊢
      exact ih _ h

/-- Each released waiter gets the value without the thresholds released up to its own. -/
theorem countServe_released_value {i : Nat} {w : Waiter × Nat} (h : (countServe v ws).2.2[i]? = some w) :
    w.2 + (((countServe v ws).2.2.take (i + 1)).map fun x => x.1.t).sum = v := by
  induction ws generalizing v i with
  | nil => cases h
  | cons x ws ih =>
    rcases lt_or_ge v x.t with hlt | hle
    · rw [countServe_cons_uncovered v ws hlt] at h; cases h
    · rw [countServe_cons_covered v ws hle] at h ⊢
      cases i with
      | zero =>
        obtain rfl := Option.some.inj h
        simp [Nat.sub_add_cancel hle]
      | succ i =>
        have hrest := ih (v - x.t) h
        simp only [List.take_succ_cons, List.map_cons, List.sum_cons]
        omega

end CountServe

/-! ### Both modes (R364, R365) -/

section Serve
variable {t : Tie}

theorem Tie.serve_count (h : t.level = false) : t.serve =
    ({ t with value := (countServe t.value t.waiters).1, waiters := (countServe t.value t.waiters).2.1 },
      (countServe t.value t.waiters).2.2) := by
  simp [Tie.serve, h]

theorem Tie.serve_level (h : t.level = true) : t.serve =
    ({ t with waiters := t.waiters.filter fun w => t.value < w.t },
      (t.waiters.filter fun w => w.t ≤ t.value).map fun w => (w, t.value)) := if_pos h

theorem Tie.serve_frame (t : Tie) : t.serve.1.ref = t.ref ∧ t.serve.1.overflow = t.overflow ∧
    t.serve.1.underflow = t.underflow ∧ t.serve.1.abandoned = t.abandoned := by
  cases h : t.level
  · rw [Tie.serve_count h]; exact ⟨rfl, rfl, rfl, rfl⟩
  · rw [Tie.serve_level h]; exact ⟨rfl, rfl, rfl, rfl⟩

end Serve

/-! ### Additions are clamped to 32 bits (R366) -/

section Add
variable {t : Tie} {a : Int}

theorem Tie.add_below (h : (t.value : Int) + a < 0) : t.add a = ({ t with value := 0, underflow := true }, true) := if_pos h

theorem Tie.add_above (h : 2 ^ 32 ≤ (t.value : Int) + a) : t.add a = ({ t with value := 2 ^ 32 - 1, overflow := true }, true) :=
  (if_neg (by omega)).trans (if_pos h)

theorem Tie.add_within (h0 : 0 ≤ (t.value : Int) + a) (h : (t.value : Int) + a < 2 ^ 32) :
    t.add a = ({ t with value := ((t.value : Int) + a).toNat }, false) :=
  (if_neg (by omega)).trans (if_neg (by omega))

/-- The sum lies below, above or within the range of VALUE. -/
theorem Tie.add_spec (t : Tie) (a : Int) :
    ((t.add a).1.value : Int) = max 0 (min (2 ^ 32 - 1) (t.value + a)) ∧
      ((t.add a).2 = true ↔ t.value + a < 0 ∨ 2 ^ 32 ≤ t.value + a) ∧
      (t.add a).1.overflow = (t.overflow || decide (2 ^ 32 ≤ t.value + a)) ∧
      (t.add a).1.underflow = (t.underflow || decide (t.value + a < 0)) ∧
      (t.add a).1.waiters = t.waiters ∧ (t.add a).1.ref = t.ref := by
  rcases lt_or_ge (t.value + a) 0 with hneg | hpos
  · have hnot : ¬ 2 ^ 32 ≤ (t.value : Int) + a := by omega
    rw [Tie.add_below hneg]
    refine ⟨?_, iff_of_true rfl (.inl hneg), by rw [decide_eq_false hnot, Bool.or_false],
      by rw [decide_eq_true hneg, Bool.or_true], rfl, rfl⟩
    simp only [Nat.cast_zero]
    omega
  rcases lt_or_ge (t.value + a) (2 ^ 32) with hlt | hge
  · rw [Tie.add_within hpos hlt]
    refine ⟨?_, iff_of_false Bool.false_ne_true (by omega), by rw [decide_eq_false (not_le.mpr hlt), Bool.or_false],
      by rw [decide_eq_false (not_lt.mpr hpos), Bool.or_false], rfl, rfl⟩
    simp only
    omega
  · rw [Tie.add_above hge]
    refine ⟨?_, iff_of_true rfl (.inr hge), by rw [decide_eq_true hge, Bool.or_true],
      by rw [decide_eq_false (not_lt.mpr hpos), Bool.or_false], rfl, rfl⟩
    simp only
    omega

end Add

/-- Settles O20: COUNT mode by the lemmas on `countServe`, LEVEL mode by membership in a filter, the sum by `Tie.add_spec`. -/
theorem tieArithmetic : Obligations.TieArithmetic := by
  refine ⟨fun t => ⟨fun hcount => ?count, fun hlevel => ?level, t.serve_frame⟩, fun t a v _ => ?add⟩
  case count =>
    rw [Tie.serve_count hcount]
    exact ⟨countServe_released_append_rest _ _, countServe_value_add_sum _ _, fun w => countServe_value_lt_head _ _,
      fun i w => countServe_released_value _ _⟩
  case level =>
    rw [Tie.serve_level hlevel]
    refine ⟨rfl, fun w => by simp, fun w v => ?_⟩
    simp only [List.mem_map, List.mem_filter, decide_eq_true_eq, Prod.mk.injEq]
    constructor
    · rintro ⟨x, ⟨hx, hle⟩, rfl, rfl⟩
      exact ⟨hx, hle, rfl⟩
    · rintro ⟨hw, hle, rfl⟩
      exact ⟨w, ⟨hw, hle⟩, rfl, rfl⟩
  case add =>
    obtain ⟨hvalue, hclamp, hover, hunder, hwaiters, href⟩ := t.add_spec a
    exact ⟨hvalue, hclamp, hover, hunder, hwaiters, href, rfl⟩

/-! ### A waiter comes and goes (R369, R373) -/

section Waiters
variable {m : Mod} {ref : Nat} {t : Tie} (ht : m.tie? ref = some t)
include ht

section Arrives
variable (hab : t.abandoned = false) {who : WaiterId} (hnew : (t.waiters.any fun w => w.who == who) = false) (n : Nat)
include hab hnew

theorem Mod.waiterArrives_thread {e i : Nat} (hwho : who = .thread e i) (hi : i < 8) (hp : m.present e = true) :
    m.waiterArrives ref who n = (m.parkThread e i (.tie ref)).addWaiter ref ⟨who, n⟩ := by
  subst hwho
  simp [Mod.waiterArrives, ht, hab, hnew, Nat.not_le.mpr hi, hp]

theorem Mod.waiterArrives_no_thread {e i : Nat} (hwho : who = .thread e i) (h : 8 ≤ i ∨ m.present e = false) :
    m.waiterArrives ref who n = m := by
  subst hwho
  have hnone : (decide (8 ≤ i) || !m.present e) = true := by simpa using h
  simp [Mod.waiterArrives, ht, hab, hnew, hnone]

theorem Mod.waiterArrives_cmd {id : CmdId} {k : Nat} {r : Running} (hwho : who = .cmd id k) (hr : m.cmd? id = some r)
    (hw : r.waitsOn ref k = true) : m.waiterArrives ref who n = m.addWaiter ref ⟨who, n⟩ := by
  subst hwho
  simp [Mod.waiterArrives, ht, hab, hnew, hr, hw]

end Arrives

theorem Mod.waiterLeaves_thread {e i : Nat} (h : (t.waiters.any fun w => w.who == .thread e i) = true) :
    m.waiterLeaves ref (.thread e i) = (m.removeWaiter ref (.thread e i)).wakeThread e i := by
  simp [Mod.waiterLeaves, ht, h]

theorem Mod.waiterLeaves_cmd {id : CmdId} {k : Nat} {r : Running} (h : (t.waiters.any fun w => w.who == .cmd id k) = true)
    (hr : m.cmd? id = some r) (he : m.expired r = true) :
    m.waiterLeaves ref (.cmd id k) = m.complete id .timeout (tieTimeoutDetail false 0 ref) := by
  simp [Mod.waiterLeaves, ht, h, hr, he]

end Waiters

/-! ### A far request at the tie's home (R369, R374, R376) -/

section Incarnation
variable {m : Mod} {job inc : Nat} {j : Job} (hj : m.job? job = some j)
include hj

theorem Mod.current?_of_inc (h : j.plan.inc = inc) : m.current? job inc = some j := by simp [Mod.current?, hj, h]

theorem Mod.current?_of_inc_ne (h : j.plan.inc ≠ inc) : m.current? job inc = none := by simp [Mod.current?, hj, h]

end Incarnation

section Home
variable {m : Mod} {f : FarMsg} {j : Job} (hrun : m.resettingFor f.job = false) (hj : m.job? f.job = some j)

section Stale
include hj
variable (hinc : j.plan.inc ≠ f.inc)
include hinc

theorem Mod.farWithdraw_stale : m.farWithdraw f = m.count .staleTraffic := by
  simp [Mod.farWithdraw, Mod.current?_of_inc_ne hj hinc]

include hrun

theorem Mod.farSignal_stale : m.farSignal f = m.count .staleTraffic := by simp [Mod.farSignal, hrun, hj, hinc]

theorem Mod.farWait_stale : m.farWait f = m.count .staleTraffic := by simp [Mod.farWait, hrun, hj, hinc]

end Stale

variable (hinc : j.plan.inc = f.inc) {t : Tie} (ht : m.tie? f.ref = some t)
include hj hinc ht

theorem Mod.farWithdraw_waiting (h : (t.waiters.any fun w => w.who == .far f.rank f.id) = true) : m.farWithdraw f =
    ({ m with farWaiters := m.farWaiters - 1 }.removeWaiter f.ref (.far f.rank f.id)).emit (.farAnswer f.rank f.id .ack) := by
  simp [Mod.farWithdraw, Mod.current?_of_inc hj hinc, ht, h]

variable (hok : m.tieOk j.plan f.ref = true)
include hrun hok

theorem Mod.farSignal_reset (h : f.reset = true) : m.farSignal f =
    ((m.setTie (t.reset f.amount.toNat)).settle [.serve f.ref]).emit (.farAnswer f.rank f.id .ack) := by
  simp [Mod.farSignal, hrun, hj, hinc, hok, ht, h]

variable (hab : t.abandoned = false)
include hab

theorem Mod.farSignal_add (h : f.reset = false) : m.farSignal f =
    (m.settle [.add f.ref f.amount]).emit (.farAnswer f.rank f.id .ack) := by
  simp [Mod.farSignal, hrun, hj, hinc, hok, ht, h, hab]

theorem Mod.farWait_registers (h : m.farWaiters < 2048) : m.farWait f =
    { m with farWaiters := m.farWaiters + 1 }.addWaiter f.ref ⟨.far f.rank f.id, f.threshold⟩ := by
  simp [Mod.farWait, hrun, hj, hinc, hok, ht, hab, Nat.not_le.mpr h]

theorem Mod.farWait_tableFull (h : 2048 ≤ m.farWaiters) : m.farWait f = m.emit (.farAnswer f.rank f.id .tableFull) := by
  simp [Mod.farWait, hrun, hj, hinc, hok, ht, hab, h]

end Home

/-! ### The home's answers at the waiting module (R369, R374, R376) -/

section Away
variable {m : Mod} {id : CmdId} {r : Running} {p : Plan} {t : TieRef} (h : m.farCmd? id = some (r, p, t))
include h

theorem Mod.farReleased_completes (v : Nat) : m.farReleased id v = m.complete id .ok 0 (leBytes 8 v) := by
  simp only [Mod.farReleased, h]

theorem Mod.farAnswered_ack (hw : r.work = .farSignal) : m.farAnswered id .ack = m.complete id .ok 0 := by
  simp only [Mod.farAnswered, h, hw]

theorem Mod.farAnswered_tableFull (hw : r.work = .tieWait true) : m.farAnswered id .tableFull = m.setWork id.lane .farRetry := by
  simp only [Mod.farAnswered, h, hw]

theorem Mod.farAnswered_badDescriptor (hw : r.work = .farSignal ∨ r.work = .tieWait true) :
    m.farAnswered id .badDescriptor = m.complete id .badDescriptor 0x40 := by
  obtain hw | hw := hw <;> simp only [Mod.farAnswered, h, hw]

theorem Mod.farAnswered_abandoned (hw : r.work = .farSignal ∨ r.work = .tieWait true) :
    m.farAnswered id .abandoned = m.complete id .abandoned t.ref := by
  obtain hw | hw := hw <;> simp only [Mod.farAnswered, h, hw]

theorem Mod.farRetried_asks (hw : r.work = .farRetry) : m.farRetried id =
    ((m.countJob p.job .TIE_FAR_RETRIES).sendReq (p.addrOf t.rank)
      (.far t.rank (farMsg p id t.ref false 0 (r.cmd.pkt.u 8 4)) true)).setWork id.lane (.tieWait true) := by
  simp only [Mod.farRetried, h, hw, if_true]

theorem Mod.farUndecided_late {u : Nat} (hw : r.work = .farDecision u) (hu : u ≤ m.now) :
    m.farUndecided id = m.complete id .timeout (tieTimeoutDetail true t.rank t.ref) := by
  simp only [Mod.farUndecided, h, hw, if_pos hu]

theorem Mod.farUndecided_early {u : Nat} (hw : r.work = .farDecision u) (hu : m.now < u) : m.farUndecided id = m := by
  simp only [Mod.farUndecided, h, hw, if_neg (Nat.not_le.mpr hu)]

end Away

/-! ### Which function of the module each row runs -/

section Rows
variable {s : State} {m : Mod}

theorem becomes_tieWaiterArrival {ref n : Nat} {who : WaiterId} (h : s.m.waiterArrives ref who n = m) :
    becomes (.tieWaiterArrival ref who n) s m :=
  becomes_of_lift (f := fun m => m.waiterArrives ref who n) rfl h

theorem becomes_tieWaiterRemoval {ref : Nat} {who : WaiterId} (h : s.m.waiterLeaves ref who = m) :
    becomes (.tieWaiterRemoval ref who) s m :=
  becomes_of_lift (f := fun m => m.waiterLeaves ref who) rfl h

theorem becomes_farTieSignal {f : FarMsg} (h : s.m.farSignal f = m) : becomes (.farTieSignal f) s m :=
  becomes_of_lift (f := fun m => m.farSignal f) rfl h

theorem becomes_farTieWait {f : FarMsg} (h : s.m.farWait f = m) : becomes (.farTieWait f) s m :=
  becomes_of_lift (f := fun m => m.farWait f) rfl h

theorem becomes_farTieWithdraw {f : FarMsg} (h : s.m.farWithdraw f = m) : becomes (.farTieWithdraw f) s m :=
  becomes_of_lift (f := fun m => m.farWithdraw f) rfl h

theorem becomes_farTieRelease {id : CmdId} {v : Nat} (h : s.m.farReleased id v = m) : becomes (.farTieRelease id v) s m :=
  becomes_of_lift (f := fun m => m.farReleased id v) rfl h

theorem becomes_farTieAnswer {id : CmdId} {a : FarAnswer} (h : s.m.farAnswered id a = m) : becomes (.farTieAnswer id a) s m :=
  becomes_of_lift (f := fun m => m.farAnswered id a) rfl h

theorem becomes_farWaitRetry {id : CmdId} (h : s.m.farRetried id = m) : becomes (.farWaitRetry id) s m :=
  becomes_of_lift (f := fun m => m.farRetried id) rfl h

theorem becomes_farWaitDecisionTimeout {id : CmdId} (h : s.m.farUndecided id = m) : becomes (.farWaitDecisionTimeout id) s m :=
  becomes_of_lift (f := fun m => m.farUndecided id) rfl h

end Rows

/-- Settles O24: the rows at a tie's home, then those at the module whose command waits. -/
theorem tieRows : Obligations.TieRows := by
  refine ⟨fun s ref t ht => ⟨?arrives, ?threadLeaves, ?cmdLeaves, ?cmdArrives, ?home, ?stale⟩,
    fun s id r p t v h => ⟨?release, ?ack, ?full, ?ended, ?retry, ?late, ?early⟩⟩
  case arrives => exact fun e i k hab hnew => ⟨fun hi hp => becomes_tieWaiterArrival (Mod.waiterArrives_thread ht hab hnew k rfl hi hp),
      fun hno => becomes_tieWaiterArrival (Mod.waiterArrives_no_thread ht hab hnew k rfl hno)⟩
  case threadLeaves => exact fun e i hw => becomes_tieWaiterRemoval (Mod.waiterLeaves_thread ht hw)
  case cmdLeaves => exact fun id k r hw hr he => becomes_tieWaiterRemoval (Mod.waiterLeaves_cmd ht hw hr he)
  case cmdArrives => exact fun id k n r hab hnew hr hw => becomes_tieWaiterArrival (Mod.waiterArrives_cmd ht hab hnew n rfl hr hw)
  case home =>
    rintro f rfl hrun j hj hinc hok hab
    exact ⟨fun h => becomes_farTieSignal (Mod.farSignal_add hrun hj hinc ht hok hab h),
      fun h => becomes_farTieSignal (Mod.farSignal_reset hrun hj hinc ht hok h),
      fun h => becomes_farTieWait (Mod.farWait_registers hrun hj hinc ht hok hab h),
      fun h => becomes_farTieWait (Mod.farWait_tableFull hrun hj hinc ht hok hab h),
      fun h => becomes_farTieWithdraw (Mod.farWithdraw_waiting hj hinc ht h)⟩
  case stale => exact fun f _ hrun j hj hinc => ⟨becomes_farTieSignal (Mod.farSignal_stale hrun hj hinc),
      becomes_farTieWait (Mod.farWait_stale hrun hj hinc), becomes_farTieWithdraw (Mod.farWithdraw_stale hj hinc)⟩
  case release => exact becomes_farTieRelease (Mod.farReleased_completes h v)
  case ack => exact fun hw => becomes_farTieAnswer (Mod.farAnswered_ack h hw)
  case full => exact fun hw => becomes_farTieAnswer (Mod.farAnswered_tableFull h hw)
  case ended => exact fun hw => ⟨becomes_farTieAnswer (Mod.farAnswered_badDescriptor h hw),
      becomes_farTieAnswer (Mod.farAnswered_abandoned h hw)⟩
  case retry => exact fun hw => becomes_farWaitRetry (Mod.farRetried_asks h hw)
  case late => exact fun u hw hu => becomes_farWaitDecisionTimeout (Mod.farUndecided_late h hw hu)
  case early => exact fun u hw hu => becomes_farWaitDecisionTimeout (Mod.farUndecided_early h hw hu)

end Sys2Proof.Machine
end

section
/-!
PROOFS. The commands of a queue that complete as they start (R49, R371, R377, R530), and TIE_SIGNAL and TIE_WAIT on a local tie (R366,
R372, R373). `Mod.Begun` is the module in which such a command has begun; what is still to happen then is worked off one entry at a time.
-/

namespace Sys2Proof.Machine

/-! ### What is still to happen leaves the sessions that are to close and the log (R475, R502) -/

/-- The parts of the module that the end of a command and what follows from it leave alone. -/
structure Ledger where
  closing : List Nat
  log : List LogRec

def Mod.ledger (m : Mod) : Ledger := { closing := m.closing, log := m.log }

section Closing
variable (m : Mod)

theorem Mod.countJob_ledger (id : Nat) (k : Ctr) (n : Nat) : (m.countJob id k n).ledger = m.ledger := by
  unfold Mod.countJob; split <;> rfl

theorem Mod.trace_ledger (r : TraceRec) : (m.trace_ r).ledger = m.ledger := by
  unfold Mod.trace_
  dsimp only
  repeat' split
  all_goals rfl

theorem Mod.trace_trayOps (r : TraceRec) : (m.trace_ r).trayOps = m.trayOps := by
  unfold Mod.trace_
  dsimp only
  repeat' split
  all_goals rfl

theorem Mod.sendReply_ledger (sid : Nat) (q : Bool) (r : Reply) : (m.sendReply sid q r).ledger = m.ledger := by
  unfold Mod.sendReply
  repeat' split
  all_goals rfl

theorem Mod.letGo_ledger : m.letGo.ledger = m.ledger := by
  unfold Mod.letGo
  split
  · rfl
  · rw [emitAll_eq]; rfl

theorem Mod.finish_ledger (id : CmdId) (st : Status) (d : Nat) (p : Bytes) : (m.finish id st d p).1.ledger = m.ledger := by
  unfold Mod.finish
  split
  · rfl
  · refine (Mod.letGo_ledger _).trans ((Mod.trace_ledger _ _).trans ?_)
    exact Mod.sendReply_ledger _ _ _ _

theorem Mod.addTie_ledger (ref : Nat) (a : Int) : (m.addTie ref a).1.ledger = m.ledger := by
  unfold Mod.addTie
  split
  · rfl
  · split
    · exact Mod.countJob_ledger _ _ _ _
    · exact Mod.countJob_ledger _ _ _ _

theorem Mod.release_ledger (ref : Nat) (w : Waiter) (v : Nat) : (m.release ref w v).1.ledger = m.ledger := by
  unfold Mod.release
  repeat' split
  all_goals rfl

theorem Mod.releaseAll_ledger (ref : Nat) (ws : List (Waiter × Nat)) : (m.releaseAll ref ws).1.ledger = m.ledger := by
  induction ws generalizing m with
  | nil => rfl
  | cons w ws ih => exact (ih _).trans (m.release_ledger ref w.1 w.2)

theorem Mod.serveTie_ledger (ref : Nat) : (m.serveTie ref).1.ledger = m.ledger := by
  unfold Mod.serveTie
  split
  · rfl
  · exact Mod.releaseAll_ledger _ _ _

theorem Mod.settleFuel_ledger (n : Nat) (ts : List Todo) : (m.settleFuel n ts).ledger = m.ledger := by
  induction n generalizing m ts with
  | zero => rfl
  | succ n ih =>
    cases ts with
    | nil => rfl
    | cons t ts =>
      cases t with
      | add ref a => exact (ih _ _).trans (m.addTie_ledger ref a)
      | serve ref => exact (ih _ _).trans (m.serveTie_ledger ref)
      | done id st d p => exact (ih _ _).trans (m.finish_ledger id st d p)

theorem Mod.trace_closing (r : TraceRec) : (m.trace_ r).closing = m.closing := congrArg Ledger.closing (m.trace_ledger r)

theorem Mod.finish_closing (id : CmdId) (st : Status) (d : Nat) (p : Bytes) : (m.finish id st d p).1.closing = m.closing :=
  congrArg Ledger.closing (m.finish_ledger id st d p)

theorem Mod.settleFuel_closing (n : Nat) (ts : List Todo) : (m.settleFuel n ts).closing = m.closing :=
  congrArg Ledger.closing (m.settleFuel_ledger n ts)

/-- The end of a command writes no record. -/
theorem Mod.complete_log (id : CmdId) (st : Status) (d : Nat) (p : Bytes) : (m.complete id st d p).log = m.log :=
  congrArg Ledger.log (m.settleFuel_ledger _ _)

end Closing

/-! ### Working off a list, entry by entry -/

section Settle
variable (m : Mod) (n : Nat) (ts : List Todo)

/-- There is fuel for at least four entries. -/
theorem Mod.settle_eq_settleFuel : ∃ n, m.settle ts = m.settleFuel (n + 4) ts :=
  ⟨2 * ts.length + 16 * m.lanes.length + 12, congrArg (m.settleFuel · ts) (by omega)⟩

theorem Mod.settleFuel_nil : m.settleFuel n [] = m := by cases n <;> rfl

theorem Mod.settleFuel_add (ref : Nat) (a : Int) :
    m.settleFuel (n + 1) (.add ref a :: ts) = (m.addTie ref a).1.settleFuel n (ts ++ (m.addTie ref a).2) := rfl

theorem Mod.settleFuel_serve (ref : Nat) :
    m.settleFuel (n + 1) (.serve ref :: ts) = (m.serveTie ref).1.settleFuel n (ts ++ (m.serveTie ref).2) := rfl

theorem Mod.settleFuel_done (id : CmdId) (st : Status) (d : Nat) (p : Bytes) :
    m.settleFuel (n + 1) (.done id st d p :: ts) = (m.finish id st d p).1.settleFuel n (ts ++ (m.finish id st d p).2) := rfl

end Settle

/-! ### Ties -/

section Ties
variable {m : Mod} {ref : Nat} {t u : Tie}

theorem Mod.tie_ref (h : m.tie? ref = some t) : t.ref = ref := by simpa using List.find?_some h

/-- A tie reads as it was set. -/
theorem Mod.tie?_setTie (h : m.tie? ref = some t) (hu : u.ref = ref) : (m.setTie u).tie? ref = some u := by
  subst hu
  have hset (o : Tie) : ((if o.ref == u.ref then u else o).ref == u.ref) = (o.ref == u.ref) := by split <;> simp_all
  have hfound : ((m.ties.find? fun o => o.ref == u.ref).map fun o => if o.ref == u.ref then u else o) = some u := by
    rw [show (m.ties.find? fun o => o.ref == u.ref) = some t from h]
    simp [Mod.tie_ref h]
  unfold Mod.tie? Mod.setTie
  rw [List.find?_map, ← hfound]
  exact congrArg (fun q => (m.ties.find? q).map _) (funext hset)

/-- A tie that nothing waits on serves nobody. -/
theorem Tie.serve_of_no_waiters (h : t.waiters = []) : t.serve = (t, []) := by
  obtain ⟨⟩ := t
  simp only at h
  subst h
  unfold Tie.serve
  split <;> rfl

theorem Mod.serveTie_of_no_waiters (h : m.tie? ref = some t) (hw : t.waiters = []) : m.serveTie ref = (m.setTie t, []) := by
  simp only [Mod.serveTie, h, Tie.serve_of_no_waiters hw]
  rfl

/-- A waiter stands for a command. -/
def Waiter.isOf (w : Waiter) (id : CmdId) : Bool :=
  match w.who with
  | .cmd i _ => i == id
  | _ => false

theorem Waiter.isOf_eq_false {w : Waiter} {id : CmdId} (h : ∀ k, w.who ≠ .cmd id k) : w.isOf id = false := by
  unfold Waiter.isOf
  split
  · rename_i i k hwho
    have hne : i ≠ id := fun e => h k (by rw [hwho, e])
    simpa using hne
  · rfl

/-- The waiters of a command are dropped, and the ties that they waited on are named. -/
theorem Mod.dropWaiters_eq (m : Mod) (id : CmdId) : m.dropWaiters id =
    ({ m with ties := m.ties.map fun t => { t with waiters := t.waiters.filter fun w => !w.isOf id } },
      (m.ties.filter fun t => t.waiters.any (·.isOf id)).map (·.ref)) := rfl

/-- No tie has a waiter of a command. -/
def Mod.Unawaited (m : Mod) (id : CmdId) : Prop := ∀ u ∈ m.ties, ∀ w ∈ u.waiters, w.isOf id = false

namespace Mod.Unawaited
variable {id : CmdId} (h : m.Unawaited id)
include h

theorem setTie (hu : ∀ w ∈ u.waiters, w.isOf id = false) : (m.setTie u).Unawaited id := by
  intro v hv
  obtain ⟨o, ho, rfl⟩ := List.mem_map.mp hv
  split
  · exact hu
  · exact h o ho

theorem of_ties {m' : Mod} (ht : m'.ties = m.ties) : m'.Unawaited id := by
  unfold Mod.Unawaited
  rw [ht]
  exact h

theorem dropWaiters : (m.dropWaiters id).1.ties = m.ties ∧ (m.dropWaiters id).2 = [] := by
  rw [Mod.dropWaiters_eq]
  constructor
  · refine (List.map_congr_left fun t ht => ?_).trans (List.map_id _)
    have hfilter : (t.waiters.filter fun w => !w.isOf id) = t.waiters :=
      List.filter_eq_self.2 fun w hw => congrArg (!·) (h t ht w hw)
    rw [hfilter]
    rfl
  · refine List.map_eq_nil_iff.2 (List.filter_eq_nil_iff.2 fun t ht hany => ?_)
    obtain ⟨w, hw, hwho⟩ := List.any_eq_true.1 hany
    rw [h t ht w hw] at hwho
    exact Bool.false_ne_true hwho

end Mod.Unawaited

end Ties

/-! ### A command ends -/

section Finish
variable {m : Mod} {id : CmdId} {r : Running} (hr : m.cmd? id = some r) (st : Status) (d : Nat) (p : Bytes)
include hr

theorem Mod.finish_lane {ls : LaneState} (hl : m.lane? id.lane = some ls) :
    (m.finish id st d p).1.lane? id.lane = some { ls with
      current := none, replies := lastN 256 (ls.replies ++ [(r.cmd.pkt.seq.toNat, r.cmd.reply m.timer st d r.sum p)]) } := by
  have hidle : (m.updLane id.lane fun s => { s with current := none }).lane? id.lane = some { ls with current := none } :=
    Mod.lane_updLane_of (fun s => { s with current := none }) hl fun _ => rfl
  unfold Mod.lane?
  rw [Mod.finish_lanes m id st d p r hr]
  exact Mod.lane_updLane_of (fun s => { s with replies := lastN 256 (s.replies ++ [(_, r.cmd.reply m.timer st d r.sum p)]) }) hidle
    fun _ => rfl

/-- A command's end drops its waiters, whose ties are served next, and raises its signals. -/
theorem Mod.finish_eq_dropWaiters : ∃ (v : Mod) (b : Bool), v.ties = m.ties ∧ m.finish id st d p =
    ((v.dropWaiters id).1, (v.dropWaiters id).2.map .serve ++ if st.signals then r.cmd.signals b else []) := by
  unfold Mod.finish
  rw [hr]
  refine ⟨_, _, ?_, rfl⟩
  exact (Mod.ties_of_standing (Mod.letGo_standing _)).trans ((Mod.ties_of_standing (Mod.trace_standing _ _)).trans
    (Mod.ties_of_standing (Mod.sendReply_standing _ _ _ _)))

/-- A command that no tie waits with and that signals nothing leaves the ties alone, and nothing is still to happen. -/
theorem Mod.finish_of_unawaited (h : m.Unawaited id) (h0 : r.cmd.pkt.sig0.toNat = noTie) (h1 : r.cmd.pkt.sig1.toNat = noTie) :
    (m.finish id st d p).1.ties = m.ties ∧ (m.finish id st d p).2 = [] := by
  obtain ⟨v, b, hv, hfinish⟩ := Mod.finish_eq_dropWaiters hr st d p
  obtain ⟨hties, hserved⟩ := (h.of_ties hv).dropWaiters
  rw [hfinish]
  refine ⟨hties.trans hv, ?_⟩
  rw [hserved]
  simp [Cmd.signals, h0, h1]

end Finish

/-! ### A command of a queue begins on its idle lane -/

/-- The module in which the command of an accepted packet is marked as started. -/
def Mod.started (m : Mod) (op : Op) (p : Packet) (ss : Session) : Mod :=
  (m.atHead op p ss).markStarted (laneOf p ss.sid) { cmd := cmdOf op p ss m.now, headAt := m.now, work := .ready }

/-- In `u` the command of a packet that `m` accepts has begun and is at work `w`. -/
structure Mod.Begun (m u : Mod) (op : Op) (p : Packet) (ss : Session) (ls : LaneState) (w : Work) : Prop where
  lane : u.lane? (laneOf p ss.sid) = some { ls with
    expected := p.seq + 1, accepted := [], current := some { cmd := cmdOf op p ss m.now, headAt := m.now, work := w, started := true } }
  session : u.session? ss.sid = some { ss with inPkts := ss.inPkts + 1 }
  closing : u.closing = []
  timer : u.timer = m.timer

section Start
variable {m : Mod} {op : Op} {p : Packet} {ss : Session} {ls : LaneState}

theorem Mod.trace_sessions (m : Mod) (r : TraceRec) : (m.trace_ r).sessions = m.sessions := by
  unfold Mod.trace_
  dsimp only
  repeat' split
  all_goals rfl

/-- Marking as started changes the mark and writes a trace record. -/
theorem Mod.markStarted_eq_trace (m : Mod) (l : Lane) {r : Running} (h : r.started = false) :
    ∃ t, m.markStarted l r = (m.updRunning l fun r => { r with started := true }).trace_ t := by
  unfold Mod.markStarted
  rw [h, if_neg Bool.false_ne_true]
  exact ⟨_, rfl⟩

theorem Mod.started_eq_trace (m : Mod) (op : Op) (p : Packet) (ss : Session) : ∃ r, m.started op p ss =
    ((m.atHead op p ss).updRunning (laneOf p ss.sid) fun r => { r with started := true }).trace_ r :=
  Mod.markStarted_eq_trace _ _ rfl

theorem Mod.started_standing (m : Mod) (op : Op) (p : Packet) (ss : Session) : (m.started op p ss).standing = m.standing := by
  obtain ⟨r, hr⟩ := m.started_eq_trace op p ss
  rw [hr]
  exact Mod.trace_standing _ _

theorem Mod.started_job (m : Mod) (op : Op) (p : Packet) (ss : Session) (id : Nat) : (m.started op p ss).job? id = m.job? id :=
  Mod.job?_of_standing (m.started_standing op p ss) id

theorem Mod.started_ties (m : Mod) (op : Op) (p : Packet) (ss : Session) : (m.started op p ss).ties = m.ties :=
  Mod.ties_of_standing (m.started_standing op p ss)

theorem Mod.started_tie (m : Mod) (op : Op) (p : Packet) (ss : Session) (ref : Nat) : (m.started op p ss).tie? ref = m.tie? ref :=
  congrArg (List.find? _) (m.started_ties op p ss)

theorem Mod.begun_started (h : m.accepts op p ss ls) : m.Begun (m.started op p ss) op p ss ls .ready := by
  obtain ⟨⟨-, -, -, -, hses, hclosing, -⟩, hl, hexp, -⟩ := h
  have hhead : (m.atHead op p ss).lane? (laneOf p ss.sid) = some { ls with
      expected := p.seq + 1, accepted := [], current := some { cmd := cmdOf op p ss m.now, headAt := m.now, work := .ready } } := by
    unfold Mod.atHead
    rw [← hexp]
    exact Mod.lane_updLane_of (m := m.updSession ss.sid _) _ hl fun _ => rfl
  have hsession : (m.atHead op p ss).session? ss.sid = some { ss with inPkts := ss.inPkts + 1 } :=
    Mod.session_updSession m ss.sid (fun x => { x with inPkts := x.inPkts + 1 }) (fun _ => rfl) ss hses
  obtain ⟨r, hr⟩ := m.started_eq_trace op p ss
  have htimer : (m.started op p ss).timer = m.timer := Mod.timer_of_standing (m.started_standing op p ss)
  rw [hr] at htimer ⊢
  constructor
  · unfold Mod.lane?
    rw [Mod.trace_lanes]
    exact Mod.lane_updLane_of (fun x => { x with current := x.current.map fun r => { r with started := true } }) hhead fun _ => rfl
  · unfold Mod.session?
    rw [Mod.trace_sessions]
    exact hsession
  · exact (Mod.trace_closing _ _).trans hclosing
  · exact htimer

namespace Mod.Begun
variable {u v : Mod} {w : Work} (hu : m.Begun u op p ss ls w)
include hu

theorem of_eq (hl : v.lanes = u.lanes) (hs : v.sessions = u.sessions) (hc : v.closing = u.closing) (ht : v.timer = u.timer) :
    m.Begun v op p ss ls w := by
  refine ⟨?_, ?_, hc.trans hu.closing, ht.trans hu.timer⟩
  · unfold Mod.lane?; rw [hl]; exact hu.lane
  · unfold Mod.session?; rw [hs]; exact hu.session

theorem setTie (t : Tie) : m.Begun (u.setTie t) op p ss ls w := hu.of_eq rfl rfl rfl rfl

theorem updJob (id : Nat) (f : Job → Job) : m.Begun (u.updJob id f) op p ss ls w := hu.of_eq rfl rfl rfl rfl

theorem countJob (id : Nat) (k : Ctr) (n : Nat) : m.Begun (u.countJob id k n) op p ss ls w := by
  unfold Mod.countJob
  split
  · exact hu
  · exact hu.updJob id _

theorem trace (r : TraceRec) : m.Begun (u.trace_ r) op p ss ls w :=
  hu.of_eq (Mod.trace_lanes u r) (Mod.trace_sessions u r) (Mod.trace_closing u r) (Mod.timer_of_standing (Mod.trace_standing u r))

theorem setWork (x : Work) : m.Begun (u.setWork (laneOf p ss.sid) x) op p ss ls x := by
  refine ⟨?_, hu.session, hu.closing, hu.timer⟩
  exact Mod.lane_updLane_of (fun s => { s with current := s.current.map fun r => { r with work := x } }) hu.lane fun _ => rfl

theorem cmd : u.cmd? (idOf p ss) = some { cmd := cmdOf op p ss m.now, headAt := m.now, work := w, started := true } := by
  unfold Mod.cmd? Mod.running?
  rw [show (idOf p ss).lane = laneOf p ss.sid from rfl, hu.lane]
  simp [Option.filter, cmdOf, idOf]

theorem work : (u.running? (laneOf p ss.sid)).map (·.work) = some w := by
  unfold Mod.running?
  rw [hu.lane]
  rfl

end Mod.Begun

/-! ### What follows the packet -/

section After
variable (h : m.accepts op p ss ls) (hop : op.control = false)
include h hop

/-- A command of a queue travels with CTRL clear (R51). -/
theorem Mod.laneOf_of_accepts : laneOf p ss.sid = .queue p.queue.toNat := by
  obtain ⟨-, -, -, -, -, -, -, -, -, hcheck⟩ := h
  obtain ⟨hrule, -, -⟩ := Mod.checkPacket_eq_none hcheck
  obtain ⟨hflag, -, -⟩ := (Mod.laneRule_of_queued hop).1 hrule
  simp [laneOf, hflag]

/-- Nothing is held back on the lane, and no session is to close: only lanes of ended sessions go. -/
theorem Mod.after_of_accepts {u : Mod} {ls' : LaneState} (hl : u.lane? (laneOf p ss.sid) = some ls') (hheld : ls'.held = ls.held)
    (hbad : ls'.badHeld = ls.badHeld) (hc : u.closing = []) :
    (u.after p ss).ties = u.ties ∧ (u.after p ss).out = u.out ∧ (u.after p ss).lane? (laneOf p ss.sid) = some ls' := by
  have hlane := Mod.laneOf_of_accepts h hop
  obtain ⟨-, -, -, -, -, hh, hb, -⟩ := h
  have hafter : u.after p ss = u.dropLanes := by
    unfold Mod.after
    rw [Mod.catchUp_empty hl (hheld.trans hh) (hbad.trans hb), Mod.closeSessions_of_none hc]
  rw [hafter]
  exact ⟨rfl, rfl, Mod.dropLanes_lane hl fun sid hsid => by rw [hlane] at hsid; cases hsid⟩

/-- A command that is still at work stays at its lane's head. -/
theorem Mod.Begun.after {u : Mod} {w : Work} (hu : m.Begun u op p ss ls w) :
    ((u.after p ss).running? (laneOf p ss.sid)).map (·.work) = some w ∧ (u.after p ss).ties = u.ties := by
  obtain ⟨hties, -, hl⟩ := Mod.after_of_accepts h hop hu.lane rfl rfl hu.closing
  refine ⟨?_, hties⟩
  unfold Mod.running?
  rw [hl]
  rfl

/-- R52, R56: a command that ends OK, with whatever is still to happen after it, has completed. -/
theorem Mod.Begun.completed {u : Mod} {w : Work} (hu : m.Begun u op p ss ls w) (n : Nat) (ts : List Todo) (pl : Bytes) :
    ((u.settleFuel (n + 1) (.done (idOf p ss) .ok 0 pl :: ts)).after p ss).completed p ss (m.okReply op p ss pl) ∧
      ((u.settleFuel (n + 1) (.done (idOf p ss) .ok 0 pl :: ts)).after p ss).ties =
        (u.settleFuel (n + 1) (.done (idOf p ss) .ok 0 pl :: ts)).ties := by
  have hrep : (cmdOf op p ss m.now).reply u.timer .ok 0 {} pl = m.okReply op p ss pl := by rw [hu.timer]; rfl
  have hfinish := Mod.finish_lane hu.cmd .ok 0 pl hu.lane
  have hsent := Mod.finish_out u (idOf p ss) .ok 0 pl _ hu.cmd
  simp only [hrep] at hfinish hsent
  obtain ⟨go, hsent⟩ := hsent
  have hkeep := Mod.settleFuel_keeps (l := laneOf p ss.sid) (ls := { ls with
    expected := p.seq + 1, accepted := [], current := none
    replies := lastN 256 (ls.replies ++ [(p.seq.toNat, m.okReply op p ss pl)]) }) rfl n (u.finish (idOf p ss) .ok 0 pl).1
      (ts ++ (u.finish (idOf p ss) .ok 0 pl).2)
  rw [Mod.settleFuel_done]
  have hclosing := (Mod.settleFuel_closing _ n (ts ++ (u.finish (idOf p ss) .ok 0 pl).2)).trans
    ((u.finish_closing (idOf p ss) .ok 0 pl).trans hu.closing)
  obtain ⟨hties, hout, hl⟩ := Mod.after_of_accepts h hop (hkeep.lane hfinish) rfl rfl hclosing
  refine ⟨⟨⟨_, hl, rfl, rfl, ?stored⟩, fun hq => ?sent⟩, hties⟩
  case stored =>
    dsimp only
    exact mem_lastN_concat _ _
  case sent =>
    have hloud : p.quiet = false := hq.resolve_right fun hne => hne rfl
    rw [hout]
    refine hkeep.out _ (hsent ▸ List.mem_append_right _ (List.mem_append_left _ ?_))
    unfold Mod.replyOut
    rw [show (cmdOf op p ss m.now).pkt.quiet = false from hloud, show (cmdOf op p ss m.now).sid = ss.sid from rfl, hu.session]
    exact List.mem_singleton.2 rfl

/-- R52, R56: a command that ends OK at once has completed. -/
theorem Mod.Begun.complete {u : Mod} {w : Work} (hu : m.Begun u op p ss ls w) (pl : Bytes) :
    ((u.complete (idOf p ss) .ok 0 pl).after p ss).completed p ss (m.okReply op p ss pl) := by
  obtain ⟨n, hn⟩ := u.settle_eq_settleFuel [.done (idOf p ss) .ok 0 pl]
  unfold Mod.complete
  rw [hn]
  exact (hu.completed h hop (n + 3) [] pl).1

end After

end Start

/-! ### NOP, ECHO, FENCE and TIE_DUMP (R49, R371, R377, R530) -/

section Control
variable {p : Packet} {ss : Session} {ls : LaneState} {s : State} {j : Job} (hj : s.m.job? p.job.toNat = some j)
  (hs : s.m.stakesBusy j p.queue.toNat = false)
include hj hs

/-- The packet of an accepted command answers the module in which the command has started. -/
theorem exec_of_starts {op : Op} (hop : op.control = false) (h : s.m.accepts op p ss ls) {u : Mod}
    (hu : (s.m.started op p ss).startQueued (idOf p ss) (cmdOf op p ss s.m.now) j = u) :
    exec (op.instr p) s = .next { s with m := u.after p ss } := by
  subst hu
  exact queueCommandStarts op p ss ls s j hop h hj hs

/-- A command that completes as it starts has completed. -/
theorem exec_completes {op : Op} (hop : op.control = false) (h : s.m.accepts op p ss ls) {u : Mod} {w : Work} {pl : Bytes}
    (hu : s.m.Begun u op p ss ls w)
    (hstart : (s.m.started op p ss).startQueued (idOf p ss) (cmdOf op p ss s.m.now) j = u.complete (idOf p ss) .ok 0 pl) :
    ∃ t, exec (op.instr p) s = .next t ∧ t.m.completed p ss (s.m.okReply op p ss pl) :=
  ⟨_, exec_of_starts hj hs hop h hstart, hu.complete h hop pl⟩

omit hs in
/-- R371: a fence of a job with no tray operation outstanding and no gateway block to write back completes. -/
theorem Mod.startFence_clear {op : Op} (h : s.m.accepts op p ss ls) (htray : s.m.trayOps = []) (hblocks : j.stageBlocks = [])
    (whole : Bool) : ∃ u, s.m.Begun u op p ss ls .ready ∧
      (s.m.started op p ss).startFence (idOf p ss) (cmdOf op p ss s.m.now) whole = u.complete (idOf p ss) .ok 0 := by
  have hjob : (s.m.started op p ss).job? p.job.toNat = some j := (s.m.started_job op p ss _).trans hj
  have htray' : (s.m.started op p ss).trayOps = [] := by
    obtain ⟨r, hr⟩ := s.m.started_eq_trace op p ss
    rw [hr]
    exact (Mod.trace_trayOps _ _).trans htray
  generalize hv : s.m.started op p ss = v at hjob htray'
  have hbegun : s.m.Begun v op p ss ls .ready := hv ▸ Mod.begun_started h
  refine ⟨?u, ?begun, ?fenced⟩
  case fenced =>
    unfold Mod.startFence Mod.flushBlocks
    rw [show (cmdOf op p ss s.m.now).job = p.job.toNat from rfl, hjob, htray']
    simp only [hblocks, Option.map_some, Option.getD_some, List.filter_nil, List.map_nil, List.foldl_nil, List.isEmpty_nil, and_self,
      if_true]
    rfl
  case begun => exact hbegun.of_eq rfl rfl rfl rfl

end Control

/-- Settles O22: each command completes as it starts, in a module in which it has begun. -/
theorem controlCommandsComplete : Obligations.ControlCommandsComplete := by
  intro p ss ls s j hj hs
  refine ⟨fun h => ?nop, fun h => ?echo, fun h htray hblocks => ?fenceQueue, fun h htray hblocks => ?fenceJob, fun h => ?dump⟩
  case nop => exact exec_completes hj hs rfl h (Mod.begun_started h) rfl
  case echo =>
    refine exec_completes (op := .echo) hj hs rfl h (w := .ready) ?_ rfl
    split
    · exact (Mod.begun_started h).trace _
    · exact Mod.begun_started h
  case fenceQueue =>
    obtain ⟨u, hu, hstart⟩ := Mod.startFence_clear hj h htray hblocks false
    exact exec_completes hj hs rfl h hu hstart
  case fenceJob =>
    obtain ⟨u, hu, hstart⟩ := Mod.startFence_clear hj h htray hblocks true
    exact exec_completes hj hs rfl h hu hstart
  case dump =>
    rw [← s.m.started_ties .tieDump p ss]
    exact exec_completes hj hs rfl h (Mod.begun_started h) rfl

/-! ### A command at a tie that nothing else waits on (R366, R372, R373) -/

section OneWaiter
variable {t : Tie} {w : Waiter}

theorem Tie.no_waiters (h : t.waiters = []) : { t with waiters := [] } = t := by
  obtain ⟨⟩ := t
  simp only at h
  subst h
  rfl

/-- In COUNT mode the one waiter that VALUE covers is released, and its threshold is subtracted. -/
theorem Tie.serve_one_count (hl : t.level = false) (h : w.t ≤ t.value) : ({ t with waiters := [w] } : Tie).serve =
    ({ t with value := t.value - w.t, waiters := [] }, [(w, t.value - w.t)]) := by
  rw [Tie.serve_count (show ({ t with waiters := [w] } : Tie).level = false from hl), countServe_cons_covered _ _ h]
  rfl

/-- In LEVEL mode it is released and VALUE stays. -/
theorem Tie.serve_one_level (hl : t.level = true) (h : w.t ≤ t.value) : ({ t with waiters := [w] } : Tie).serve =
    ({ t with waiters := [] }, [(w, t.value)]) := by
  rw [Tie.serve_level (show ({ t with waiters := [w] } : Tie).level = true from hl)]
  simp [h, Nat.not_lt.mpr h]

/-- One that VALUE does not cover stays, in both modes. -/
theorem Tie.serve_one_uncovered (h : t.value < w.t) : ({ t with waiters := [w] } : Tie).serve = ({ t with waiters := [w] }, []) := by
  rcases Bool.eq_false_or_eq_true t.level with hl | hl
  · rw [Tie.serve_level (show ({ t with waiters := [w] } : Tie).level = true from hl)]
    simp [h, Nat.not_le.mpr h]
  · rw [Tie.serve_count (show ({ t with waiters := [w] } : Tie).level = false from hl), countServe_cons_uncovered _ _ h]

end OneWaiter

theorem Mod.tie?_of_ties {m u : Mod} (h : u.ties = m.ties) (ref : Nat) : u.tie? ref = m.tie? ref := congrArg (List.find? _) h

section LocalTie
variable {m u : Mod} {op : Op} {p : Packet} {ss : Session} {ls : LaneState} {w : Work} {ref : Nat} {t : Tie}
  (hu : m.Begun u op p ss ls w) (ht : u.tie? ref = some t) (hnone : t.waiters = []) (hun : u.Unawaited (idOf p ss))
  (h0 : p.sig0.toNat = noTie) (h1 : p.sig1.toNat = noTie)

section End
include hu hun h0 h1

/-- The end of the command leaves the ties alone, and the rest of the list is worked off. -/
theorem Mod.Begun.settleFuel_done (n : Nat) (ts : List Todo) (pl : Bytes) : ∃ v : Mod, v.ties = u.ties ∧
    u.settleFuel (n + 1) (.done (idOf p ss) .ok 0 pl :: ts) = v.settleFuel n ts := by
  obtain ⟨hties, hmore⟩ := Mod.finish_of_unawaited hu.cmd .ok 0 pl hun h0 h1
  refine ⟨_, hties, ?_⟩
  rw [Mod.settleFuel_done, hmore, List.append_nil]

end End

variable (h : m.accepts op p ss ls) (hop : op.control = false)
include hu ht h0 h1 h hop

section Signal
include hnone hun

/-- R366: a signal adds its amount, and its command completes. -/
theorem Mod.Begun.signal_adds (hab : t.abandoned = false) (a : Int) :
    ((u.settle [.add ref a, .done (idOf p ss) .ok 0 []]).after p ss).completed p ss (m.okReply op p ss []) ∧
      ((u.settle [.add ref a, .done (idOf p ss) .ok 0 []]).after p ss).tie? ref = some (t.add a).1 := by
  obtain ⟨-, -, -, -, hwaiters, href⟩ := t.add_spec a
  rw [hnone] at hwaiters
  rw [Mod.tie_ref ht] at href
  obtain ⟨n, hn⟩ := u.settle_eq_settleFuel [.add ref a, .done (idOf p ss) .ok 0 []]
  obtain ⟨k, hadd⟩ : ∃ k, u.addTie ref a = ((u.countJob t.job .TIE_SATURATIONS k).setTie (t.add a).1, [.serve ref]) := by
    unfold Mod.addTie
    rw [ht]
    exact ⟨_, if_neg (by simp [hab])⟩
  have hcount : (u.countJob t.job .TIE_SATURATIONS k).ties = u.ties := by
    obtain ⟨js, hjs⟩ := Mod.countJob_jobs (m := u) t.job .TIE_SATURATIONS k
    rw [hjs]
  have hbegun := (hu.countJob t.job .TIE_SATURATIONS k).setTie (t.add a).1
  have hset := Mod.tie?_setTie ((Mod.tie?_of_ties hcount ref).trans ht) href
  have hawait := (hun.of_ties hcount).setTie (u := (t.add a).1) (by simp [hwaiters])
  rw [hn, Mod.settleFuel_add, hadd]
  obtain ⟨hdone, hties⟩ := hbegun.completed h hop (n + 2) [.serve ref] []
  refine ⟨hdone, (Mod.tie?_of_ties hties ref).trans ?_⟩
  obtain ⟨v, hv, hrest⟩ := hbegun.settleFuel_done hawait h0 h1 (n + 2) [.serve ref] []
  have hfound := (Mod.tie?_of_ties hv ref).trans hset
  rw [hrest, Mod.settleFuel_serve, Mod.serveTie_of_no_waiters hfound hwaiters, List.append_nil, Mod.settleFuel_nil]
  exact Mod.tie?_setTie hfound href

/-- R366: a RESET sets the value, and its command completes. -/
theorem Mod.Begun.signal_resets (x : Nat) :
    (((u.setTie (t.reset x)).settle [.serve ref, .done (idOf p ss) .ok 0 []]).after p ss).completed p ss (m.okReply op p ss []) ∧
      (((u.setTie (t.reset x)).settle [.serve ref, .done (idOf p ss) .ok 0 []]).after p ss).tie? ref = some (t.reset x) := by
  have hreft : t.ref = ref := Mod.tie_ref ht
  have href : (t.reset x).ref = ref := hreft
  have hwaiters : (t.reset x).waiters = [] := hnone
  have hset := Mod.tie?_setTie ht href
  have hset2 := Mod.tie?_setTie hset href
  have hbegun := (hu.setTie (t.reset x)).setTie (t.reset x)
  have hfree : ∀ w ∈ (t.reset x).waiters, w.isOf (idOf p ss) = false := by simp [hwaiters]
  have hawait := (hun.setTie hfree).setTie hfree
  obtain ⟨n, hn⟩ := (u.setTie (t.reset x)).settle_eq_settleFuel [.serve ref, .done (idOf p ss) .ok 0 []]
  rw [hn, Mod.settleFuel_serve, Mod.serveTie_of_no_waiters hset hwaiters, List.append_nil]
  obtain ⟨hdone, hties⟩ := hbegun.completed h hop (n + 2) [] []
  obtain ⟨v, hv, hrest⟩ := hbegun.settleFuel_done hawait h0 h1 (n + 2) [] []
  refine ⟨hdone, (Mod.tie?_of_ties hties ref).trans ?_⟩
  rw [hrest, Mod.settleFuel_nil]
  exact (Mod.tie?_of_ties hv ref).trans hset2

end Signal

end LocalTie

section Wait

/-- The command registers at its tie, where it is the only waiter. -/
theorem Mod.addWaiter_alone {u : Mod} {ref : Nat} {t : Tie} (ht : u.tie? ref = some t) (hnone : t.waiters = []) (x : Waiter) :
    u.addWaiter ref x = (u.setTie { t with waiters := [x] }).settle [.serve ref] := by
  simp only [Mod.addWaiter, ht, hnone, List.nil_append]

/-- R373: a TIE_WAIT that its tie releases is to complete with VALUE. -/
theorem Mod.releaseAll_tieWait {u : Mod} {id : CmdId} {r : Running} {far : Bool} (hr : u.cmd? id = some r) (hw : r.work = .tieWait far)
    (ref k n x : Nat) : u.releaseAll ref [(⟨.cmd id k, n⟩, x)] = (u, [.done id .ok 0 (leBytes 8 x)]) := by
  simp [Mod.releaseAll, Mod.release, hr, hw]

variable {m u : Mod} {op : Op} {p : Packet} {ss : Session} {ls : LaneState} {ref n : Nat} {t t2 : Tie}
  (hu : m.Begun u op p ss ls (.tieWait false)) (ht : u.tie? ref = some t) (hnone : t.waiters = [])
  (h : m.accepts op p ss ls) (hop : op.control = false)
include hu ht hnone h hop

/-- R373: a wait that its tie releases at once completes with the value it is given. -/
theorem Mod.Begun.wait_released (hun : u.Unawaited (idOf p ss)) (h0 : p.sig0.toNat = noTie) (h1 : p.sig1.toNat = noTie) {x : Nat}
    (hserve : ({ t with waiters := [⟨.cmd (idOf p ss) 2, n⟩] } : Tie).serve = (t2, [(⟨.cmd (idOf p ss) 2, n⟩, x)]))
    (href : t2.ref = ref) (hno : t2.waiters = []) :
    ((u.addWaiter ref ⟨.cmd (idOf p ss) 2, n⟩).after p ss).completed p ss (m.okReply op p ss (leBytes 8 x)) ∧
      ((u.addWaiter ref ⟨.cmd (idOf p ss) 2, n⟩).after p ss).tie? ref = some t2 := by
  rw [Mod.addWaiter_alone ht hnone]
  generalize ht1 : ({ t with waiters := [⟨.cmd (idOf p ss) 2, n⟩] } : Tie) = t1 at hserve
  have hreft : t.ref = ref := Mod.tie_ref ht
  have href1 : t1.ref = ref := (congrArg Tie.ref ht1.symm).trans hreft
  have hset := Mod.tie?_setTie ht href1
  have hset2 := Mod.tie?_setTie hset href
  have hbegun := (hu.setTie t1).setTie t2
  have hawait : ((u.setTie t1).setTie t2).Unawaited (idOf p ss) := by
    rintro o ho
    obtain ⟨o1, ho1, rfl⟩ := List.mem_map.mp ho
    obtain ⟨o0, ho0, rfl⟩ := List.mem_map.mp ho1
    by_cases hr : o0.ref = ref
    · simp [hr, href1, href, hno]
    · simp only [beq_iff_eq, href1, hr, if_false, href]
      exact hun o0 ho0
  have hserved : (u.setTie t1).serveTie ref = ((u.setTie t1).setTie t2, [.done (idOf p ss) .ok 0 (leBytes 8 x)]) := by
    simp only [Mod.serveTie, hset, hserve]
    exact Mod.releaseAll_tieWait hbegun.cmd rfl ref 2 n x
  obtain ⟨k, hk⟩ := (u.setTie t1).settle_eq_settleFuel [.serve ref]
  rw [hk, Mod.settleFuel_serve, hserved, List.nil_append]
  obtain ⟨hdone, hties⟩ := hbegun.completed h hop (k + 2) [] (leBytes 8 x)
  obtain ⟨v, hv, hrest⟩ := hbegun.settleFuel_done hawait h0 h1 (k + 2) [] (leBytes 8 x)
  refine ⟨hdone, (Mod.tie?_of_ties hties ref).trans ?_⟩
  rw [hrest, Mod.settleFuel_nil]
  exact (Mod.tie?_of_ties hv ref).trans hset2

/-- R373: a wait that its tie does not release stays at its lane's head, among the tie's waiters. -/
theorem Mod.Begun.wait_stays (hlt : t.value < n) :
    (((u.addWaiter ref ⟨.cmd (idOf p ss) 2, n⟩).after p ss).running? (laneOf p ss.sid)).map (·.work) = some (.tieWait false) ∧
      ((u.addWaiter ref ⟨.cmd (idOf p ss) 2, n⟩).after p ss).tie? ref =
        some { t with waiters := [⟨.cmd (idOf p ss) 2, n⟩] } := by
  have hserve : ({ t with waiters := [⟨.cmd (idOf p ss) 2, n⟩] } : Tie).serve = _ := Tie.serve_one_uncovered hlt
  rw [Mod.addWaiter_alone ht hnone]
  generalize ht1 : ({ t with waiters := [⟨.cmd (idOf p ss) 2, n⟩] } : Tie) = t1 at hserve ⊢
  have hreft : t.ref = ref := Mod.tie_ref ht
  have href1 : t1.ref = ref := (congrArg Tie.ref ht1.symm).trans hreft
  have hset := Mod.tie?_setTie ht href1
  have hserved : (u.setTie t1).serveTie ref = ((u.setTie t1).setTie t1, []) := by
    simp only [Mod.serveTie, hset, hserve]
    rfl
  obtain ⟨k, hk⟩ := (u.setTie t1).settle_eq_settleFuel [.serve ref]
  rw [hk, Mod.settleFuel_serve, hserved, List.nil_append, Mod.settleFuel_nil]
  obtain ⟨hwork, hties⟩ := ((hu.setTie t1).setTie t1).after h hop
  exact ⟨hwork, (Mod.tie?_of_ties hties ref).trans (Mod.tie?_setTie hset href1)⟩

end Wait

section Commands
variable {u : Mod} {id : CmdId} {c : Cmd} {j : Job} {t : Tie} (hfar : (j.plan.tieRef (c.pkt.u 0 8)).far = false)
  (ht : u.tie? (j.plan.tieRef (c.pkt.u 0 8)).ref = some t)
include hfar ht

theorem Mod.startTieSignal_add (hab : t.abandoned = false) : u.startTieSignal id c j false =
    u.settle [.add (j.plan.tieRef (c.pkt.u 0 8)).ref (leInt (c.pkt.payload.drop 8) 4), .done id .ok 0 []] := by
  simp [Mod.startTieSignal, hfar, ht, hab]

theorem Mod.startTieSignal_reset : u.startTieSignal id c j true =
    (u.setTie (t.reset (c.pkt.u 8 4))).settle [.serve (j.plan.tieRef (c.pkt.u 0 8)).ref, .done id .ok 0 []] := by
  simp [Mod.startTieSignal, hfar, ht]

theorem Mod.startTieWait_local (hab : t.abandoned = false) : u.startTieWait id c j =
    (u.setWork id.lane (.tieWait false)).addWaiter (j.plan.tieRef (c.pkt.u 0 8)).ref ⟨.cmd id 2, c.pkt.u 8 4⟩ := by
  simp [Mod.startTieWait, hfar, ht, hab]

end Commands

/-- Settles O23: the command begins at a tie that is unchanged and that nothing waits on; then by what it does there. -/
theorem tieCommandsOnLocalTie : Obligations.TieCommandsOnLocalTie := by
  intro op p ss ls s j t h hj hs h0 h1 hfar ht hab hnone hun
  have hbegun := Mod.begun_started h
  have htie := (s.m.started_tie op p ss (j.plan.tieRef (p.u 0 8)).ref).trans ht
  have hawait : (s.m.started op p ss).Unawaited (idOf p ss) :=
    Mod.Unawaited.of_ties (fun u hu w hw => Waiter.isOf_eq_false (hun u hu w hw)) (s.m.started_ties op p ss)
  have href : t.ref = (j.plan.tieRef (p.u 0 8)).ref := Mod.tie_ref ht
  have hread (u : Mod) {o : Option Tie} (hu : u.tie? (j.plan.tieRef (p.u 0 8)).ref = o) : u.tie? t.ref = o := href ▸ hu
  have hwork := hbegun.setWork (.tieWait false)
  have hstart := Mod.startTieWait_local (id := idOf p ss) (c := cmdOf op p ss s.m.now) hfar htie hab
  refine ⟨?add, ?reset, ?count, ?level, ?stays⟩
  case add =>
    rintro rfl
    obtain ⟨hdone, hset⟩ := hbegun.signal_adds htie hnone hawait h0 h1 h rfl hab (leInt (p.payload.drop 8) 4)
    exact ⟨_, exec_of_starts hj hs rfl h (Mod.startTieSignal_add hfar htie hab), hdone, hread _ hset⟩
  case reset =>
    rintro rfl
    obtain ⟨hdone, hset⟩ := hbegun.signal_resets htie hnone hawait h0 h1 h rfl (p.u 8 4)
    exact ⟨_, exec_of_starts hj hs rfl h (Mod.startTieSignal_reset hfar htie), hdone, hread _ hset⟩
  case count =>
    rintro rfl hle hcount
    obtain ⟨hdone, hset⟩ := hwork.wait_released htie hnone h rfl hawait h0 h1 (Tie.serve_one_count hcount hle) href rfl
    exact ⟨_, exec_of_starts hj hs rfl h hstart, hdone,
      hread _ (hset.trans (congrArg some (Tie.no_waiters (t := { t with value := t.value - p.u 8 4 }) hnone)))⟩
  case level =>
    rintro rfl hle hlevel
    obtain ⟨hdone, hset⟩ := hwork.wait_released htie hnone h rfl hawait h0 h1 (Tie.serve_one_level hlevel hle) href rfl
    exact ⟨_, exec_of_starts hj hs rfl h hstart, hdone,
      hread _ (hset.trans (congrArg some (Tie.no_waiters hnone)))⟩
  case stays =>
    rintro rfl hlt
    obtain ⟨hhead, hset⟩ := hwork.wait_stays htie hnone h rfl hlt
    exact ⟨_, exec_of_starts hj hs rfl h hstart, hhead, hread _ hset⟩

end Sys2Proof.Machine
end

section
/-!
PROOFS. Withy pools: which withies a request takes, and the rows of requests, reference counts and releases (R380, R381, R383).
-/

namespace Sys2Proof.Machine

/-! ### The lowest free withies (R380) -/

/-- A grant is the front of the free withies in rising order. -/
theorem lowestFree_eq_take (busy : List Nat) (fuel i n : Nat) :
    lowestFree busy fuel i n = ((List.range' i fuel).filter fun w => !busy.contains w).take n := by
  induction fuel generalizing i n with
  | zero => simp [lowestFree]
  | succ fuel ih =>
    cases n with
    | zero => simp [lowestFree]
    | succ n =>
      rw [List.range'_succ]
      cases hb : busy.contains i
      · rw [List.filter_cons_of_pos (by simp only [hb]; rfl), List.take_succ_cons, ← ih]
        exact if_neg (by rw [hb]; exact Bool.false_ne_true)
      · rw [List.filter_cons_of_neg (by simp only [hb]; decide), ← ih]
        exact if_pos hb

section Free
variable {busy : List Nat} {total n : Nat}

/-- The free withies of a pool's cell, in rising order. -/
def freeWithiesOf (busy : List Nat) (total : Nat) : List Nat := (List.range' 0 total).filter fun w => !busy.contains w

theorem mem_freeWithiesOf {w : Nat} : w ∈ freeWithiesOf busy total ↔ w < total ∧ w ∉ busy := by
  simp [freeWithiesOf, List.mem_range'_1]

theorem freeWithiesOf_sorted : (freeWithiesOf busy total).Pairwise (· < ·) := List.Pairwise.filter _ List.pairwise_lt_range'

theorem length_freeWithiesOf (hb : busy.Nodup) (hlt : ∀ b ∈ busy, b < total) :
    (freeWithiesOf busy total).length = total - busy.length := by
  have hbusy : ((List.range' 0 total).filter fun w => busy.contains w).Perm busy := by
    refine (List.perm_ext_iff_of_nodup (List.Nodup.filter _ List.nodup_range') hb).2 fun w => ?_
    simpa [List.mem_range'_1] using hlt w
  have hsplit := List.length_eq_length_filter_add (l := List.range' 0 total) fun w => busy.contains w
  rw [hbusy.length_eq, List.length_range'] at hsplit
  unfold freeWithiesOf
  omega

/-- Each withy granted is lower than every free one left. -/
theorem lower_mem_take_freeWithiesOf {w v : Nat} (hw : w ∈ (freeWithiesOf busy total).take n) (hv : v < w) :
    v ∈ busy ∨ v ∈ (freeWithiesOf busy total).take n := by
  by_cases hb : v ∈ busy
  · exact .inl hb
  obtain ⟨hwt, -⟩ := mem_freeWithiesOf.1 (List.mem_of_mem_take hw)
  have hfree : v ∈ freeWithiesOf busy total := mem_freeWithiesOf.2 ⟨hv.trans hwt, hb⟩
  have hsorted := freeWithiesOf_sorted (busy := busy) (total := total)
  rw [← List.take_append_drop n (freeWithiesOf busy total)] at hfree hsorted
  obtain ⟨-, -, hbelow⟩ := List.pairwise_append.1 hsorted
  refine .inr ((List.mem_append.1 hfree).resolve_right fun hleft => ?_)
  exact absurd (hbelow w hw v hleft) (Nat.lt_asymm hv)

end Free

/-! ### Requests (R380, R381) -/

section Request
variable {m : Mod} {job pool pl cls : Nat} {c : PoolCell} (hc : m.cell? job pool pl cls = some c) {n r0 who : Nat} {q : Requester}
  (hq : (((m.poolState? job pool).map (·.requesters)).getD [])[who]? = some q)
include hc hq

theorem Mod.poolRequest_quota (h : q.quota < m.held job pool who + n * classUnits cls) :
    (m.poolRequest job pool pl cls n r0 who false).1 =
      m.updCell job pool pl cls fun c => { c with quotaFails := min ctrMax (c.quotaFails + 1) } := by
  simp [Mod.poolRequest, hc, hq, h]

variable (hquota : m.held job pool who + n * classUnits cls ≤ q.quota)
include hquota

theorem Mod.poolRequest_empty (h : c.free < n) : (m.poolRequest job pool pl cls n r0 who false).1 =
    m.updCell job pool pl cls fun c => { c with emptyFails := min ctrMax (c.emptyFails + 1) } := by
  simp [Mod.poolRequest, hc, hq, Nat.not_lt.mpr hquota, h]

theorem Mod.poolRequest_granted (h : n ≤ c.free) (hreserve : c.reserve ≤ c.free - n) :
    (m.poolRequest job pool pl cls n r0 who false).1 = m.updCell job pool pl cls fun x =>
      let y := { x with busy := x.busy ++ (lowestFree (c.busy.map fun w : Withy => w.index) c.total 0 n).map (fun i => (⟨i, r0, who⟩ : Withy)) }
      { y with lowWater := min y.lowWater y.free, grants := min ctrMax (y.grants + n) } := by
  simp [Mod.poolRequest, hc, hq, Nat.not_lt.mpr hquota, Nat.not_lt.mpr h, Nat.not_lt.mpr hreserve]

end Request

/-! ### Reference counts and releases (R383) -/

section Release
variable {m : Mod} {job pool pl cls : Nat}

/-- The withies of a parcel that a RESULT answered go back together (log 110). -/
theorem Mod.withyReleased_parcel {i step : Nat} {j : Job} {e : ExchangeDecl} {x : ParcelIn} (hj : m.job? job = some j)
    (hx : j.resultedIn pool pl cls i = some (e, step, x)) : m.withyReleased job pool pl cls i =
      (((((m.freeWithies j e x.withies).mapParcel job e.id step (fun y => y.is x.source x.group x.slot x.grad) fun y =>
        { y with phase := .run, withies := [], rows := [] }).updSlot job e.id step x.slot fun q =>
          { q with out := q.out + x.count }).pullsOf job pool).recvMoved j e step) := by
  simp [Mod.withyReleased, hj, hx]

theorem Mod.withyReleased_plain {i : Nat} (h : ∀ j, m.job? job = some j → j.resultedIn pool pl cls i = none) :
    m.withyReleased job pool pl cls i = (m.poolRelease job pool pl cls i).pullsOf job pool := by
  have hnone : ((m.job? job).bind fun j => (j.resultedIn pool pl cls i).map fun x => (j, x)) = none := by
    cases hj : m.job? job with
    | none => rfl
    | some j => simp [h j hj]
  simp only [Mod.withyReleased, hnone]

variable {c : PoolCell} (hc : m.cell? job pool pl cls = some c) {i : Nat}
include hc

theorem Mod.poolRelease_busy (h : (c.busy.any fun w => w.index == i) = true) : m.poolRelease job pool pl cls i =
    m.updCell job pool pl cls fun c =>
      let lowered := c.busy.map fun w => if w.index == i then { w with refs := w.refs - 1 } else w
      { c with busy := lowered.filter fun w => w.refs != 0 } := by
  simp only [Mod.poolRelease, hc, h, if_true]

theorem Mod.poolRelease_free (h : (c.busy.any fun w => w.index == i) = false) : m.poolRelease job pool pl cls i =
    (m.countJob job .POOL_BAD_RELEASE).logMisuse job ⟨if pl < 4 then 3 else 9, pl⟩ i := by
  simp only [Mod.poolRelease, hc, h, Bool.false_eq_true, if_false]

variable {w : Withy} (hw : (c.busy.find? fun w => w.index == i) = some w) {d : Nat}
include hw

theorem Mod.poolAddRef_adds (h : w.refs + d ≤ 65535) : m.poolAddRef job pool pl cls i d = m.updCell job pool pl cls fun c =>
    { c with busy := c.busy.map fun w => if w.index == i then { w with refs := w.refs + d } else w } := by
  simp only [Mod.poolAddRef, hc, hw, if_neg (Nat.not_lt.mpr h)]

theorem Mod.poolAddRef_saturates (h : 65535 < w.refs + d) : m.poolAddRef job pool pl cls i d = m.countJob job .POOL_REF_SATURATED := by
  simp only [Mod.poolAddRef, hc, hw, if_pos h]

end Release

/-! ### Which function of the module each row runs -/

section Rows
variable {s : State} {m : Mod} {job pool pl cls : Nat}

theorem becomes_withyRequest {n r0 who : Nat} (hn : 1 ≤ n ∧ n ≤ 65535 ∧ 1 ≤ r0 ∧ r0 ≤ 65535)
    (h : (s.m.poolRequest job pool pl cls n r0 who false).1 = m) : becomes (.withyRequest job pool pl cls n r0 who false) s m :=
  becomes_of_lift (f := fun m =>
    if 1 ≤ n ∧ n ≤ 65535 ∧ 1 ≤ r0 ∧ r0 ≤ 65535 then (m.poolRequest job pool pl cls n r0 who false).1 else m) rfl ((if_pos hn).trans h)

theorem becomes_withyAddRef {i d : Nat} (h : s.m.poolAddRef job pool pl cls i d = m) : becomes (.withyAddRef job pool pl cls i d) s m :=
  becomes_of_lift (f := fun m => m.poolAddRef job pool pl cls i d) rfl h

theorem becomes_withyRelease {i : Nat} (h : s.m.withyReleased job pool pl cls i = m) : becomes (.withyRelease job pool pl cls i) s m :=
  becomes_of_lift (f := fun m => m.withyReleased job pool pl cls i) rfl h

end Rows

/-- Settles O37: the rows at a pool's cell, and a grant as the front of the free withies. -/
theorem withyPools : Obligations.WithyPools := by
  refine ⟨fun s job pool pl cls c hc => ⟨?request, ?refs, ?parcel, ?bad⟩, fun busy total n hb hlt hn => ?lowest⟩
  case request =>
    intro n r0 who q hn hn' hr hr' hq
    exact ⟨fun hquota hfree hreserve => becomes_withyRequest ⟨hn, hn', hr, hr'⟩ (Mod.poolRequest_granted hc hq hquota hfree hreserve),
      fun h => becomes_withyRequest ⟨hn, hn', hr, hr'⟩ (Mod.poolRequest_quota hc hq h),
      fun hquota h => becomes_withyRequest ⟨hn, hn', hr, hr'⟩ (Mod.poolRequest_empty hc hq hquota h)⟩
  case refs =>
    intro i d w hw
    refine ⟨fun h => becomes_withyAddRef (Mod.poolAddRef_adds hc hw h), fun h => becomes_withyAddRef (Mod.poolAddRef_saturates hc hw h),
      fun hnone => becomes_withyRelease ((Mod.withyReleased_plain hnone).trans ?_)⟩
    have hbusy : (c.busy.any fun w => w.index == i) = true :=
      List.any_eq_true.2 ⟨w, List.mem_of_find?_eq_some hw, List.find?_some (p := fun w : Withy => w.index == i) hw⟩
    exact congrArg (fun m => m.pullsOf job pool) (Mod.poolRelease_busy hc hbusy)
  case parcel => exact fun i j e step x hj hx => becomes_withyRelease (Mod.withyReleased_parcel hj hx)
  case bad => exact fun i hnone hfree => becomes_withyRelease ((Mod.withyReleased_plain hnone).trans
      (congrArg (fun m => m.pullsOf job pool) (Mod.poolRelease_free hc hfree)))
  case lowest =>
    intro ws
    have hws : ws = (freeWithiesOf busy total).take n := lowestFree_eq_take busy total 0 n
    rw [hws]
    refine ⟨?_, freeWithiesOf_sorted.nodup.sublist (List.take_sublist n _), fun w hw => mem_freeWithiesOf.1 (List.mem_of_mem_take hw),
      fun w hw v hv => lower_mem_take_freeWithiesOf hw hv⟩
    rw [List.length_take, length_freeWithiesOf hb hlt, min_eq_left hn]

end Sys2Proof.Machine
end

section
/-!
PROOFS. The management side: the sideband requests and registers (R390, R391, R482, R483, R503, R504, R556, R568), the SMALL and SIDE
mailboxes (R388-R391), the I3C target (R481) and the test access port (R510).
-/

namespace Sys2Proof.Machine

/-! ### Serving a sideband request (R503, R504, R556, R568) -/

theorem Mod.serve_of_serves {m : Mod} {code : Nat} (h : m.serves code = true) (f : Mod → Mod) : m.serve code f = f m := if_pos h

/-- A row that serves a request of a code answers what its function gives while the mailbox holds such a request. -/
theorem becomes_of_serves {i : Instr} {s : State} {code : Nat} {f : Mod → Mod} {m : Mod}
    (hi : exec i s = lift (fun m => m.serve code f) s) (h : s.m.serves code = true) (hf : f s.m = m) : becomes i s m :=
  becomes_of_lift (f := fun m => m.serve code f) hi ((Mod.serve_of_serves h f).trans hf)

section Answers
variable {m : Mod}

theorem Mod.answerClaimWrite_claimed (h : m.boot.unclaimed = false) : m.answerClaimWrite = m.ackSideband 0x12 (some []) := by
  simp [Mod.answerClaimWrite, h]

theorem Mod.answerClaimWrite_fits (h : m.boot.unclaimed = true)
    (hlen : leNat (m.sideband.body.take 4) + (m.sideband.body.drop 4).length ≤ policyMax) : m.answerClaimWrite =
      { m with claim := putAt m.claim (leNat (m.sideband.body.take 4)) (m.sideband.body.drop 4) }.ackSideband 0 (some []) := by
  simp only [Mod.answerClaimWrite, h, Bool.not_true, Bool.false_eq_true, if_false, if_neg (Nat.not_lt.mpr hlen)]

theorem Mod.answerClaimCommit_claimed (h : m.boot.unclaimed = false) : m.answerClaimCommit = m.ackSideband 0x12 (some []) := by
  simp [Mod.answerClaimCommit, h]

section Commit
variable (h : m.boot.unclaimed = true)
include h

theorem Mod.answerClaimCommit_noPolicy (hp : policyIn m.claim = none) : m.answerClaimCommit = m.ackSideband 0x30 (some []) := by
  simp [Mod.answerClaimCommit, h, hp]

theorem Mod.answerClaimCommit_policy {p : Policy} (hp : policyIn m.claim = some p) : m.answerClaimCommit =
    if p.epoch = 1 ∧ Config.sm2Verify p.ownerKey (sm3 m.claim) (m.sideband.body.take 64) = true ∧
        Config.sm2Verify p.custodianKey (sm3 m.claim) (m.sideband.body.drop 64) = true then
      (({ m with claim := [] }.installPolicy { p with bytes := m.claim }).ackSideband 0 (some [])).closeSessions
    else m.ackSideband 0x30 (some []) := by
  simp only [Mod.answerClaimCommit, h, hp, Bool.not_true, Bool.false_eq_true, if_false, Bool.and_eq_true, beq_iff_eq, and_assoc]

end Commit

theorem Mod.answerBootControl_level {l : Byte} (hb : m.sideband.body = [l]) (hl : l.toNat ≤ 2) : m.answerBootControl =
    { m with boot := { m.boot with bistOnce := some l.toNat } }.ackSideband 0 (some []) := by
  have hne : l.toNat ≠ 0xFF := by omega
  simp [Mod.answerBootControl, hb, hne, hl]

theorem Mod.answerBootControl_default (hb : m.sideband.body = [0xFF#8]) : m.answerBootControl =
    { m with boot := { m.boot with bistOnce := none } }.ackSideband 0 (some []) := by
  simp [Mod.answerBootControl, hb]

theorem limitOk_iff {w : Nat} : limitOk w = true ↔ 2400 ≤ w ∧ w ≤ 4800 ∧ w % 10 = 0 := by
  simp [limitOk, and_assoc]

theorem Mod.answerSetLimit_ok (h : limitOk (leNat (m.sideband.body.take 2)) = true) : m.answerSetLimit =
    (m.setLimit (leNat (m.sideband.body.take 2))).ackSideband 0 (some []) := if_pos h

theorem Mod.answerSetLimit_failed (h : limitOk (leNat (m.sideband.body.take 2)) ≠ true) : m.answerSetLimit =
    m.ackSideband 0x30 (some []) := if_neg h

theorem Mod.setLimit_limit (m : Mod) (w : Nat) : (m.setLimit w).power.limit = w := rfl

end Answers

/-- Settles O16: each request is served while the mailbox holds it, by the answer of its code. -/
theorem sidebandRequestEffects : Obligations.SidebandRequestEffects := by
  refine ⟨fun s => ⟨?status, ?identity, ?attest, ?logTail, ?power, ?thermal, ?rails⟩,
    fun s => ⟨?writeClaimed, ?writeFits, ?commitClaimed, ?commit, ?level, ?default, ?limit⟩⟩
  case status => exact fun h => becomes_of_serves rfl h rfl
  case identity => exact fun h => becomes_of_serves rfl h rfl
  case attest => exact fun h => ⟨_, rfl, becomes_of_serves rfl h rfl⟩
  case logTail => exact fun h => becomes_of_serves rfl h rfl
  case power => exact fun h => becomes_of_serves (f := fun m => m.ackSideband 0 (some m.powerBody)) rfl h rfl
  case thermal => exact fun h => becomes_of_serves (f := fun m => m.ackSideband 0 (some m.thermalBody)) rfl h rfl
  case rails => exact fun h => ⟨_, rfl, rfl, becomes_of_serves rfl h rfl⟩
  case writeClaimed => exact fun h hc => becomes_of_serves rfl h (Mod.answerClaimWrite_claimed hc)
  case writeFits => exact fun h hc hlen => becomes_of_serves rfl h (Mod.answerClaimWrite_fits hc hlen)
  case commitClaimed => exact fun h hc => becomes_of_serves rfl h (Mod.answerClaimCommit_claimed hc)
  case commit =>
    intro h hc
    refine becomes_of_serves rfl h ?_
    cases hp : policyIn s.m.claim with
    | none => exact Mod.answerClaimCommit_noPolicy hc hp
    | some p => exact Mod.answerClaimCommit_policy hc hp
  case level => exact fun l h hb hl => becomes_of_serves rfl h (Mod.answerBootControl_level hb hl)
  case default => exact fun h hb => becomes_of_serves rfl h (Mod.answerBootControl_default hb)
  case limit =>
    rintro w h rfl
    refine ⟨fun hlow hhigh hstep => ⟨?_, Mod.setLimit_limit _ _⟩, fun hbad => ?_⟩
    · exact becomes_of_serves rfl h (Mod.answerSetLimit_ok (limitOk_iff.2 ⟨hlow, hhigh, hstep⟩))
    · refine becomes_of_serves rfl h (Mod.answerSetLimit_failed fun hok => ?_)
      obtain ⟨hlow, hhigh, hstep⟩ := limitOk_iff.1 hok
      omega

/-! ### The registers of the sideband mailbox and of the alert (R390, R391, R482, R483) -/

section Registers
variable {m : Mod} (h : m.power.standby = true) (v : BitVec 32)
include h

theorem Mod.sideWrite_mask : m.sideWrite 4 v = { m with sideband := { m.sideband with mask := v } } := by simp [Mod.sideWrite, h]

theorem Mod.sideWrite_valid : m.sideWrite 8 1#32 = { m with sideband := { m.sideband with valid := false } } := by
  simp [Mod.sideWrite, h, Mod.sideAckClear]

theorem Mod.sideWrite_overrun (hv : v.getLsbD 7 = true) :
    m.sideWrite 0xC v = { m with sideband := { m.sideband with overrun := false } } := by simp [Mod.sideWrite, h, hv]

theorem Mod.sideWrite_reqBuf {k : Nat} (hk : k < 64) (hb : m.sideband.busy = false) : m.sideWrite (0x100 + 4 * k) v =
    { m with sideband := { m.sideband with reqBuf := m.sideband.reqBuf.write (4 * k) (leBytes 4 v.toNat) } } := by
  have hmod : (256 + 4 * k) % 4 = 0 := by omega
  have h0 : 256 + 4 * k ≠ 0 := by omega
  have h4 : 256 + 4 * k ≠ 4 := by omega
  have h8 : 256 + 4 * k ≠ 8 := by omega
  have hc : 256 + 4 * k ≠ 12 := by omega
  have hin : 256 ≤ 256 + 4 * k ∧ 256 + 4 * k < 512 := by omega
  unfold Mod.sideWrite
  rw [if_neg (by simp [h, hmod]), if_neg h0, if_neg h4, if_neg h8, if_neg hc, if_pos hin, Nat.add_sub_cancel_left]
  simp [Mod.sideBuffer, hb]

theorem Mod.sideWrite_causeClear :
    m.sideWrite 0x404 v = m.setAlert (m.alertCause &&& ~~~(v.setWidth 8)) m.alertMask := by simp [Mod.sideWrite, h, Mod.causeClear]

theorem Mod.sideWrite_maskAlert : m.sideWrite 0x408 v = m.setAlert m.alertCause (v.setWidth 8) := by
  simp [Mod.sideWrite, h, Mod.maskAlert]

omit h in
theorem Mod.sideWrite_unaligned {off : Nat} (hoff : off % 4 ≠ 0) : m.sideWrite off v = m := by simp [Mod.sideWrite, hoff]

omit h in
theorem Mod.sideCancel_idle (hb : m.sideband.busy = false) : m.sideCancel = m := by simp [Mod.sideCancel, hb]

/-- While a request is busy the CANCEL is noted, and the request stops or goes on, which is free. -/
theorem Mod.sideCancel_busy (hb : m.sideband.busy = true) : m.sideCancel =
    let m' : Mod := { m with free := m.free + 1, sideband := { m.sideband with cancel := true } }
    if Config.freeBool m.free = true then m'.ackSideband 0x20 (some []) else m' := by
  simp [Mod.sideCancel, h, hb, Mod.freeBool]

end Registers

theorem Mod.raiseIbi_sideband (m : Mod) (b : Nat) : (m.raiseIbi b).sideband = m.sideband := by
  unfold Mod.raiseIbi; split <;> rfl

theorem Mod.ackSideband_sideband (m : Mod) (code : Nat) (body : Option Bytes) :
    (m.ackSideband code body).sideband.valid = true ∧ (m.ackSideband code body).sideband.returnCode = BitVec.ofNat 16 code ∧
      (m.ackSideband code body).sideband.busy = false := by
  unfold Mod.ackSideband
  dsimp only
  rw [Mod.raiseIbi_sideband]
  exact ⟨rfl, rfl, rfl⟩

theorem becomes_registerWrite {s : State} {m : Mod} {off : Nat} {v : BitVec 32} (h : s.m.sideWrite off v = m) :
    becomes (.registerWrite .sideband off v) s m :=
  becomes_of_lift (f := fun m => m.registerWrite .sideband off v) rfl h

/-- Settles O17: the registers by their offsets, CANCEL by whether a request is busy. -/
theorem sidebandRegisterWrites : Obligations.SidebandRegisterWrites := by
  intro s v h
  refine ⟨?valid, ?cause, ?mask, ?boxMask, ?overrun, ?reqBuf, ?unaligned, ?cancel, ?idle⟩
  case valid => exact becomes_of_lift (f := fun m => m.sideWrite 8 1#32) rfl (Mod.sideWrite_valid h)
  case cause => exact becomes_of_lift (f := fun m => m.sideWrite 0x404 v) rfl (Mod.sideWrite_causeClear h v)
  case mask => exact becomes_of_lift (f := fun m => m.sideWrite 0x408 v) rfl (Mod.sideWrite_maskAlert h v)
  case boxMask => exact becomes_registerWrite (Mod.sideWrite_mask h v)
  case overrun => exact fun hv => becomes_registerWrite (Mod.sideWrite_overrun h v hv)
  case reqBuf => exact fun k hk hb => becomes_registerWrite (Mod.sideWrite_reqBuf h v hk hb)
  case unaligned => exact fun off hoff => becomes_registerWrite (Mod.sideWrite_unaligned v hoff)
  case cancel =>
    intro hb
    refine next_of_lift (f := Mod.sideCancel) rfl ?_
    dsimp only
    rw [Mod.sideCancel_busy h hb]
    dsimp only
    split
    · exact Mod.ackSideband_sideband _ 0x20 _
    · rfl
  case idle => exact fun hb => becomes_of_lift (f := Mod.sideCancel) rfl (Mod.sideCancel_idle hb)

/-! ### SMALL mailboxes (R388, R389) -/

section Small
variable {m : Mod} {r x c : Nat} {msg : Bytes}

/-- The mailbox once a sender has filled a channel. -/
def SmallMailbox.filled (b : SmallMailbox) (c : Nat) (msg : Bytes) : SmallMailbox :=
  { b with
    doorbell := b.doorbell ||| BitVec.ofNat 32 (2 ^ c)
    channels := (c, msg) :: b.channels.filter fun y => y.1 != c
    empty_ := b.empty_.filter (· != c) }

/-- The mailbox once the receiver has cleared a doorbell. -/
def SmallMailbox.cleared (b : SmallMailbox) (c : Nat) : SmallMailbox :=
  { b with
    doorbell := b.doorbell &&& ~~~(BitVec.ofNat 32 (2 ^ c))
    channels := b.channels.filter fun y => y.1 != c
    empty_ := c :: b.empty_.filter (· != c) }

/-- The record of a write of another sender's channel. -/
def Mod.foreignChannel (m : Mod) (x c : Nat) : LogRec :=
  { time := 0, record := 0, cls := 0x41, outcome := 2, unit := ⟨1, x⟩, logical := (m.logicalOf x).getD 0xFF, sub := c }

theorem Mod.smallSend_foreign (h : r / 64 ≠ x / 64 ∨ m.channelFor r x ≠ some c) :
    m.smallSend r x c msg = (m.count .MAILBOX_REJECTED).addOpen (m.foreignChannel x c) :=
  if_pos (by simpa using h)

section Own
variable (hside : r / 64 = x / 64) (hown : m.channelFor r x = some c)
include hside hown

theorem Mod.smallSend_fills (hmsg : msg.length = 64) (hfree : (m.smallBox r).doorbell.getLsbD c = false) : m.smallSend r x c msg =
    if (m.smallBox r).wakeEn.getLsbD c = true then (m.setSmallBox ((m.smallBox r).filled c msg)).wakeUnit ⟨1, r⟩
    else m.setSmallBox ((m.smallBox r).filled c msg) := by
  have htake : (msg ++ List.replicate 64 0#8).take 64 = msg := by rw [← hmsg, List.take_left]
  simp only [Mod.smallSend, hside, hown, hfree, htake, bne_self_eq_false, Bool.or_self, Bool.false_eq_true, if_false]
  rfl

theorem Mod.smallSend_parks (hfull : (m.smallBox r).doorbell.getLsbD c = true) {l : Nat} (hl : m.logicalOf x = some l) :
    m.smallSend r x c msg = m.parkThread l (Config.channelThread x c % 8) (.channel r c) := by
  simp only [Mod.smallSend, hside, hown, hfull, hl, bne_self_eq_false, Bool.or_self, Bool.false_eq_true, if_false, if_true]

end Own

theorem Mod.smallClear_full (h : (m.smallBox r).doorbell.getLsbD c = true) : m.smallClear r c =
    (m.setSmallBox ((m.smallBox r).cleared c)).wakeThreads fun ph => ph == .channel r c :=
  if_neg (by simp [h])

end Small

/-! ### SIDE mailboxes (R390, R391) -/

section Side
variable {m : Mod} {n : Nat} {msg : Bytes}

theorem Mod.sideBox_setSideBox (m : Mod) (n : Nat) (b : MailboxRegs) : (m.setSideBox n b).sideBox n = b := by
  simp [Mod.sideBox, Mod.setSideBox]

theorem Mod.sideBox_setSideBox_of_ne (m : Mod) {n k : Nat} (h : k ≠ n) (b : MailboxRegs) : (m.setSideBox n b).sideBox k = m.sideBox k := by
  have hkeep : ∀ y : Nat × MailboxRegs, decide ((y.1 != n) = true ∧ (y.1 == k) = true) = (y.1 == k) := fun y => by
    by_cases hy : y.1 = k <;> simp [hy, h]
  simp only [Mod.sideBox, Mod.setSideBox, List.find?_cons, beq_eq_false_iff_ne.2 (Ne.symm h), List.find?_filter, hkeep]

/-- A doorbell leaves everything but the list of woken receivers. -/
theorem Mod.wakeUnit_eq (m : Mod) (u : UnitRef) : ∃ ws, m.wakeUnit u = { m with boot := { m.boot with woken := ws } } := by
  unfold Mod.wakeUnit
  split
  · exact ⟨_, rfl⟩
  · exact ⟨m.boot.woken, rfl⟩

variable (hgood : m.power.pwrGood = true) (hbusy : (m.sideBox n).busy = false)
include hgood hbusy

theorem Mod.sideController_overrun (h : (m.sideBox n).valid = true) : m.sideController n msg =
    (m.setSideBox n { m.sideBox n with overrun := true }).count .MAILBOX_OVERRUNS := by
  simp [Mod.sideController, hgood, hbusy, h]

/-- A request is answered: the acknowledgement returns the request's SEQ, and nothing but the mailbox, the woken receivers and the free
values changes. -/
theorem Mod.sideController_acks (h : (m.sideBox n).valid = false) : ∃ b ws f,
    m.sideController n msg = ({ m with boot := { m.boot with woken := ws }, free := f } : Mod).setSideBox n b ∧ b.valid = true ∧
      b.busy = false ∧ b.ackSeq = msg.getD 0 0#8 ∧ (m.boot.noFirmware = true → b.returnCode = 0x21#16) := by
  have hseq : ((msg ++ List.replicate 256 0#8).take 256).getD 0 0#8 = msg.getD 0 0#8 := by cases msg <;> rfl
  obtain ⟨ws, hws⟩ := m.wakeUnit_eq ⟨10, if m.boot.activeB1 then 1 else 0⟩
  unfold Mod.sideController
  rw [if_neg (by simp [hgood]), if_neg (by simp [hbusy, h])]
  simp only [hws]
  exact ⟨_, ws, _, rfl, rfl, hbusy, hseq, fun hno => by simp [hno, Mod.freeNat, Mod.freeBytes]⟩

end Side

theorem becomes_smallMailboxSend {s : State} {m : Mod} {r x c : Nat} {msg : Bytes} (h : s.m.smallSend r x c msg = m) :
    becomes (.smallMailboxSend r x c msg) s m :=
  becomes_of_lift (f := fun m => m.smallSend r x c msg) rfl h

/-- Settles O18: a channel by whose it is and whether it is full; a Side mailbox by whether an acknowledgement stands. -/
theorem mailboxChannels : Obligations.MailboxChannels := by
  refine ⟨fun s r x c msg _ hmsg => ⟨?fills, ?parks, ?foreign, ?clears⟩, fun s n msg _ _ hgood hbusy => ⟨?acks, ?overrun⟩⟩
  case fills =>
    intro hside hown hfree
    exact ⟨(s.m.smallBox r).filled c msg, rfl, rfl, rfl, rfl, rfl, becomes_smallMailboxSend (Mod.smallSend_fills hside hown hmsg hfree)⟩
  case parks => exact fun hside hown hfull l hl => becomes_smallMailboxSend (Mod.smallSend_parks hside hown hfull hl)
  case foreign =>
    exact fun h => ⟨s.m.foreignChannel x c, rfl, rfl, rfl, rfl, becomes_smallMailboxSend (Mod.smallSend_foreign h)⟩
  case clears =>
    intro h
    exact ⟨(s.m.smallBox r).cleared c, rfl, rfl, rfl, becomes_of_lift (f := fun m => m.smallClear r c) rfl (Mod.smallClear_full h)⟩
  case acks =>
    intro hvalid
    obtain ⟨b, ws, f, heq, hv, hb, hseq, hrc⟩ := Mod.sideController_acks (msg := msg) hgood hbusy hvalid
    refine next_of_lift (f := fun m => m.sideController n msg) rfl ?_
    dsimp only
    rw [heq, Mod.sideBox_setSideBox]
    exact ⟨hv, hb, hseq, fun k hk => Mod.sideBox_setSideBox_of_ne _ hk b, rfl, rfl, rfl, hrc⟩
  case overrun =>
    exact fun h => becomes_of_lift (f := fun m => m.sideController n msg) rfl (Mod.sideController_overrun hgood hbusy h)

/-! ### The I3C target (R481) -/

section I3c
variable {m : Mod} (h : m.power.standby = true)
include h

theorem Mod.setdasa_free (hd : m.i3c.dynamic = none) (a : BitVec 7) :
    m.setdasa a = { m with i3c := { m.i3c with dynamic := some a } } := by simp [Mod.setdasa, h, hd, Mod.setDynamic]

theorem Mod.setnewda_taken (hd : m.i3c.dynamic ≠ none) (a : BitVec 7) :
    m.setnewda a = { m with i3c := { m.i3c with dynamic := some a } } := by
  simp [Mod.setnewda, h, Option.isSome_iff_ne_none.2 hd, Mod.setDynamic]

theorem Mod.rstdaa_eq : m.rstdaa = { m with i3c := { m.i3c with dynamic := none } } := if_pos h

theorem Mod.setIbi_enint {e : BitVec 8} (he : e.getLsbD 0 = true) (on : Bool) :
    m.setIbi e on = { m with i3c := { m.i3c with ibi := on } } := by
  unfold Mod.setIbi
  rw [h, he]
  rfl

theorem Mod.i3cAnswer_eq (b : Bytes) : m.i3cAnswer b = m.emit (.i3cData b) := if_pos h

end I3c

/-! ### The test access port (R510) -/

theorem Tap.enter_state (t : Tap) (s : TapState) : (t.enter s).state = s := by cases s <;> rfl

section Tap
variable {t : Tap} (tms tdi : Bool) (free : Nat)

theorem Tap.capture_idcode (hs : t.state = .capDr) (hir : t.ir = 0x01#8) :
    ((t.act tdi free).enter (t.state.next tms)).dr = (List.range 32).map (0x1E3A52F3#32).getLsbD := by
  simp only [Tap.act, hs, hir]
  cases tms <;> rfl

theorem Tap.shift_out (hs : t.state = .shiftDr) : ((t.act tdi free).enter (t.state.next tms)).tdo = t.dr.headD false ∧
    ((t.act tdi free).enter (t.state.next tms)).dr = t.dr.drop 1 ++ [tdi] := by
  simp only [Tap.act, hs]
  cases tms <;> exact ⟨rfl, rfl⟩

theorem Tap.update_bypass (hs : t.state = .exit1Ir) (h1 : t.shiftIr ≠ 0x01#8) (h2 : t.shiftIr ≠ 0x02#8) :
    ((t.act tdi free).enter (t.state.next true)).ir = 0xFF#8 := by
  simp only [Tap.act, hs]
  exact if_neg (by simp [h1, h2])

end Tap

/-- Five edges with TMS high reach Test-Logic-Reset: by state. -/
theorem TapState.next_five (t : TapState) : ((((t.next true).next true).next true).next true).next true = .reset := by
  cases t <;> rfl

/-- Settles O19: the bus commands by the address that the target holds, the port by its state at the edge. -/
theorem managementBusRows : Obligations.ManagementBusRows := by
  refine ⟨fun s a e h => ⟨?setdasa, ?setnewda, ?rstdaa, ?events, ?bcr, ?dcr, ?status⟩, ?trst, ?edge, TapState.next_five⟩
  case setdasa =>
    exact fun hd => ⟨becomes_of_lift (f := fun m => m.setdasa a) rfl (Mod.setdasa_free h hd a),
      becomes_of_lift (f := fun m => m.setdasa a) rfl (Mod.setdasa_free h hd a)⟩
  case setnewda => exact fun hd => becomes_of_lift (f := fun m => m.setnewda a) rfl (Mod.setnewda_taken h hd a)
  case rstdaa => exact becomes_of_lift (f := Mod.rstdaa) rfl (Mod.rstdaa_eq h)
  case events =>
    exact fun he => ⟨becomes_of_lift (f := fun m => m.setIbi e true) rfl (Mod.setIbi_enint h he true),
      becomes_of_lift (f := fun m => m.setIbi e false) rfl (Mod.setIbi_enint h he false)⟩
  case bcr => exact becomes_of_lift (f := fun m => m.i3cAnswer Config.i3cBcr) rfl (Mod.i3cAnswer_eq h _)
  case dcr => exact becomes_of_lift (f := fun m => m.i3cAnswer Config.i3cDcr) rfl (Mod.i3cAnswer_eq h _)
  case status =>
    exact becomes_of_lift (f := Mod.i3cGetStatus) rfl (Mod.i3cAnswer_eq (m := { s.m with free := s.m.free + 1 }) h _)
  case trst => exact fun s tms tdi => becomes_of_lift (f := fun m => m.tck tms tdi false) rfl rfl
  case edge =>
    refine fun s tms tdi => ⟨(s.m.tap.act tdi s.m.free).enter (s.m.tap.state.next tms),
      becomes_of_lift (f := fun m => m.tck tms tdi true) rfl rfl, Tap.enter_state _ _, fun hs hir => Tap.capture_idcode tms tdi _ hs hir,
      fun hs => Tap.shift_out tms tdi _ hs, ?_⟩
    rintro hs rfl h1 h2
    exact Tap.update_bypass tdi _ hs h1 h2

end Sys2Proof.Machine
end

section
/-!
PROOFS. What a Module reset discards (R462), and the undefined opcodes (R529).
-/

namespace Sys2Proof.Machine

/-! ### A Module reset discards and counts (R462) -/

/-- Settles O10: packets and datagrams by check 1 of R54, RDMA requests while the module serves none. -/
theorem moduleResetDiscards : Obligations.ModuleResetDiscards := by
  intro s h
  have hclosed : s.m.rdmaClosed = true := by simp [Mod.rdmaClosed, h]
  refine ⟨fun op p => ?packet, fun src qp target off len => ?read, fun src qp target off data => ?write, fun src qp => ?other,
    fun src b => ?datagram⟩
  case packet => exact becomes_of_receive (congrArg Mod.closeSessions (Mod.receiveAs_closed (.inl h)))
  case read => exact becomes_of_lift (exec_rdmaRead s src qp target off len) (Mod.rdmaRead_closed hclosed)
  case write => exact becomes_of_lift (exec_rdmaWrite s src qp target off data) (Mod.rdmaWrite_closed hclosed)
  case other => exact becomes_of_lift (exec_rdmaUnsupported s src qp) (Mod.rdmaOther_closed hclosed)
  case datagram =>
    refine becomes_of_lift (exec_commandPacketRefused s src b) ?_
    split
    · exact Mod.receiveDatagram_short_closed ‹_› (.inl h)
    · exact Mod.receiveDatagram_closed (Nat.not_lt.mp ‹_›) h

/-! ### Which opcodes are defined (R529) -/

/-- The majors that no operation has. -/
def UndefinedMajor (major : Nat) : Prop :=
  major = 0x00 ∨ (0x07 ≤ major ∧ major ≤ 0x0F) ∨ (0x16 ≤ major ∧ major ≤ 0x1F) ∨ major = 0x24 ∨
    (0x28 ≤ major ∧ major ≤ 0x2F) ∨ (0x38 ≤ major ∧ major ≤ 0x3F) ∨ (0x46 ≤ major ∧ major ≤ 0x4F) ∨
    (0x57 ≤ major ∧ major ≤ 0x5F) ∨ (0x64 ≤ major ∧ major ≤ 0x6F) ∨ (0x76 ≤ major ∧ major ≤ 0x7F) ∨
    (0x82 ≤ major ∧ major ≤ 0xDF) ∨ (0xE8 ≤ major ∧ major ≤ 0xEF) ∨ (0xF5 ≤ major ∧ major ≤ 0xFF)

theorem Op.not_undefinedMajor (op : Op) : ¬ UndefinedMajor op.major := by
  cases op <;> simp [UndefinedMajor, Op.major]

theorem Op.ofCode_spec {major variant : Nat} {op : Op} (h : Op.ofCode major variant = some op) :
    op ∈ Op.all ∧ op.major = major ∧ op.variant = variant := by
  have hcode := List.find?_some h
  simp only [Bool.and_eq_true, beq_iff_eq] at hcode
  exact ⟨List.mem_of_find?_eq_some h, hcode⟩

theorem Op.ofCode_undefinedMajor {major : Nat} (h : UndefinedMajor major) (variant : Nat) : Op.ofCode major variant = none := by
  refine List.find?_eq_none.2 fun op _ hcode => Op.not_undefinedMajor op ?_
  simp only [Bool.and_eq_true, beq_iff_eq] at hcode
  rwa [hcode.1]

/-- Every major that has an operation has one of VARIANT 0x00. -/
theorem Op.ofCode_variant_zero (op : Op) : (Op.ofCode op.major 0).isSome := by
  cases op <;> rfl

/-- An operation alone under its major has VARIANT 0x00. -/
theorem Op.variant_of_alone {op : Op} (h : ∀ o ∈ Op.all, o.major = op.major → o = op) : op.variant = 0 := by
  obtain ⟨o, ho⟩ := Option.isSome_iff_exists.1 (Op.ofCode_variant_zero op)
  obtain ⟨hmem, hmajor, hvariant⟩ := Op.ofCode_spec ho
  rw [← h o hmem hmajor]
  exact hvariant

/-! ### A datagram of an undefined opcode is refused (R529) -/

/-- The refusal of a packet whose opcode is undefined (R56). -/
def undefinedReply (p : Packet) (major variant : Nat) (now : Tick) : Reply :=
  { dst := p.src, dup := false, major := major, variant := variant, job := p.job.toNat, inc := p.inc.toNat
    queue := p.queue.toNat, seq := p.seq.toNat, status := .badPacket, detail := 0x04, handle := p.handle.toNat
    doneTime := now, counters := {}, payload := [] }

section Undefined
variable {m : Mod} {p : Packet} {major variant : Nat} {ss : Session} {ls : LaneState}
  (hres : headerReserved none p = none) (hreset : m.resetting = none) (hready : m.boot.stage = .ready)
  (hlen : p.payload.length ≤ 8128) (hof : m.sessionOf p.src = some ss) (hs : m.session? ss.sid = some ss) (hc : m.closing = [])
  (htag : tag16 ss.key (p.header major variant ++ p.payload) = p.tag) (hmagic : p.magic = 0x5153) (hversion : p.version = 1)
  (hhlen : p.hlen = 4) (hl : m.lane? (laneOf p ss.sid) = some ls) (hexp : ls.expected = p.seq) (hheld : ls.held = [])
  (hbad : ls.badHeld = [])
include hres hreset hready hlen hof hc htag hmagic hversion hhlen hl hexp

/-- In sequence, it takes its number and meets its refusal. -/
theorem Mod.receiveAs_undefined : m.receiveAs none major variant p =
    ((m.numbered p ss).refuseCmd (laneOf p ss.sid) ss.sid false (undefinedReply p major variant m.timer)).catchUp 65
      (laneOf p ss.sid) := by
  have hopen : ¬ (m.resetting.isSome ∨ m.boot.stage ≠ .ready) := by simp [hreset, hready]
  have hlong : ¬ 8192 < 64 + p.payload.length := by omega
  have hheader : ¬ (p.magic ≠ 0x5153 ∨ p.version ≠ 1 ∨ p.hlen ≠ 4) := by simp [hmagic, hversion, hhlen]
  have hl' : (m.heard ss).lane? (laneOf p ss.sid) = some ls := hl
  unfold Mod.receiveAs
  rw [if_neg hopen, if_neg hlong, Mod.openSession_of_sessionOf hof hc]
  dsimp only
  rw [if_neg (not_not.mpr htag), if_neg hheader, hres]
  exact Mod.sequence_expected hl' hexp

include hs hheld hbad

/-- The refusal has left, is stored, and the lane goes on with the next number. -/
theorem Mod.receiveAs_undefined_spec :
    (m.receiveAs none major variant p).closeSessions.out = .reply ((undefinedReply p major variant m.timer).signed ss.key) :: m.out ∧
      (m.receiveAs none major variant p).closeSessions.lane? (laneOf p ss.sid) = some { ls with
        expected := p.seq + 1
        replies := lastN 256 (ls.replies ++ [((undefinedReply p major variant m.timer).seq, undefinedReply p major variant m.timer)]) } := by
  have hs0 := Mod.numbered_session (p := p) hs
  have hl0 : (m.numbered p ss).lane? (laneOf p ss.sid) = some { ls with expected := ls.expected + 1 } :=
    Mod.lane_updLane_of (m := m.heard ss) (fun x => { x with expected := x.expected + 1 }) hl fun _ => rfl
  have hst : (undefinedReply p major variant m.timer).status ≠ .ok := by simp [undefinedReply]
  have ht : (undefinedReply p major variant m.timer).doneTime = (m.numbered p ss).timer := rfl
  have hlane := Mod.refuseCmd_lane (quiet := false) hs0 hst ht hl0
  have hclosed := (congrArg Untouched.closing (Mod.refuseCmd_untouched (l := laneOf p ss.sid) (quiet := false) hs0 hst ht)).trans hc
  rw [Mod.receiveAs_undefined hres hreset hready hlen hof hc htag hmagic hversion hhlen hl hexp,
    Mod.catchUp_empty hlane hheld hbad 65, Mod.closeSessions_of_none hclosed, ← hexp]
  have hout := Mod.refuseCmd_out (l := laneOf p ss.sid) (quiet := false) hs0 hst ht
  refine ⟨hout, Mod.dropLanes_lane hlane fun sid hsid => ?_⟩
  obtain rfl : sid = ss.sid := by
    unfold laneOf at hsid
    split at hsid <;> cases hsid
    rfl
  exact Mod.refuseCmd_session hs0 hst ht

end Undefined

/-- Settles O14: the table of operations, and a datagram read as a packet of no operation. -/
theorem undefinedOpcodeRefused : Obligations.UndefinedOpcodeRefused := by
  refine ⟨fun major variant h => Op.ofCode_undefinedMajor h variant, fun major variant op h => ?code, fun op _ h => Op.variant_of_alone h,
    ?datagram⟩
  case code =>
    obtain ⟨-, hcode⟩ := Op.ofCode_spec h
    exact hcode
  case datagram =>
    intro src b ss ls s w p hlong hshort hop hres hreset hready hof hs hc htag hmagic hversion hhlen hl hexp hheld hbad
    have hlen : p.payload.length ≤ 8128 := by rw [Packet.ofBytes_payload_length]; omega
    obtain ⟨hout, hlane⟩ := Mod.receiveAs_undefined_spec hres hreset hready hlen hof hs hc htag hmagic hversion hhlen hl hexp hheld hbad
    have hreceive : s.m.receiveDatagram src b = (s.m.receiveAs none (w % 256) (w / 256 % 256) p).closeSessions := by
      rw [Mod.receiveDatagram_packet hlong]
      exact congrArg (fun o => (s.m.receiveAs o (w % 256) (w / 256 % 256) p).closeSessions) hop
    rw [← hreceive] at hout hlane
    exact ⟨_, _, exec_commandPacketRefused s src b, hout, rfl, rfl, rfl, _, hlane, rfl, rfl⟩

end Sys2Proof.Machine
end

section
/-!
PROOFS. Ownership of the regions of the tray (R427–R431, R435): what a take and a give become at the steward, the entry of the home, and the
steward's answer at the module that asked.
-/

namespace Sys2Proof.Machine

/-! ### The home's entries -/

/-- The home holds what the copy says. -/
theorem Mod.homeOwner_setHome_same (m : Mod) (region : Nat) (owner : Option (Nat × Nat)) :
    (m.setHome region owner).homeOwner region = owner := by
  unfold Mod.homeOwner Mod.setHome
  cases owner with
  | none => simp
  | some o => simp

/-- A copy of another region's entry leaves a region's owner. -/
theorem Mod.homeOwner_setHome_ne {m : Mod} {region k : Nat} (owner : Option (Nat × Nat)) (h : k ≠ region) :
    (m.setHome region owner).homeOwner k = m.homeOwner k := by
  have hrest : (m.homeOwners.filter fun e => e.1 != region).find? (fun e => e.1 == k) = m.homeOwners.find? fun e => e.1 == k := by
    rw [List.find?_filter]
    congr 1
    funext e
    by_cases he : e.1 = k
    · simp [he, h]
    · simp [he]
  unfold Mod.homeOwner Mod.setHome
  cases owner with
  | none => exact congrArg (Option.map (·.2)) hrest
  | some o =>
    have hne : (region == k) = false := beq_false_of_ne h.symm
    simp only [List.find?_cons, hne, hrest]

/-! ### A take and a give at the steward -/

section Steward
variable {m : Mod} {id : CmdId} {owner job region : Nat}

theorem Mod.ownTake_resetting (h : m.resetting.isSome) : m.ownTake id owner job region = m.turnAway (.request owner) := if_pos h

theorem Mod.ownGive_resetting (h : m.resetting.isSome) : m.ownGive id owner job region = m.turnAway (.request owner) := if_pos h

variable (h : m.resetting = none)
include h

theorem Mod.ownTake_unowned (he : (m.ownEntry region).owner = none) : m.ownTake id owner job region =
    (m.setOwner region (some (owner, job)) false).answerOwner owner id (m.ownEntry region).stale false := by
  simp [Mod.ownTake, h, he, Mod.grantRegion]

theorem Mod.ownTake_own (he : (m.ownEntry region).owner = some (owner, job)) :
    m.ownTake id owner job region = m.answerOwner owner id false false := by
  simp [Mod.ownTake, h, he]

theorem Mod.ownGive_own (he : (m.ownEntry region).owner = some (owner, job)) :
    m.ownGive id owner job region = ((m.setOwner region none false).grantNext region).answerOwner owner id false false := by
  simp [Mod.ownGive, h, he]

variable {o : Nat × Nat} (he : (m.ownEntry region).owner = some o) (ho : o ≠ (owner, job))
include he ho

theorem Mod.ownGive_other : m.ownGive id owner job region = m.answerOwner owner id false false := by
  simp [Mod.ownGive, h, he, ho]

theorem Mod.ownTake_full (hw : 256 ≤ m.ownWaits.length) : m.ownTake id owner job region = m.answerOwner owner id false true := by
  have ho' : ¬(o.1 = owner ∧ o.2 = job) := fun hc => ho (Prod.ext hc.1 hc.2)
  simp [Mod.ownTake, h, he, ho', hw]

theorem Mod.ownTake_queued (hw : m.ownWaits.length < 256) : m.ownTake id owner job region =
    let n : Mod := { m with ownWaits := m.ownWaits.concat { region := region, owner := owner, job := job, id := id } }
    if o.1 = m.modAddr then n else n.emit (.takeWaits o.1 region) := by
  have ho' : ¬(o.1 = owner ∧ o.2 = job) := fun hc => ho (Prod.ext hc.1 hc.2)
  simp only [Mod.ownTake, h, he, Option.isSome_none, Bool.false_eq_true, if_false, if_neg ho', if_neg (not_le.mpr hw)]

end Steward

/-! ### The module that asked -/

section Asking
variable {m : Mod} {id : CmdId} {r : Running} {j : Job} {ph : Nat} {stale full : Bool}

theorem Mod.stewardAnswered_gone (h : m.cmd? id = none) : m.stewardAnswered id stale full = m := by
  simp only [Mod.stewardAnswered, h]

theorem Mod.stewardAnswered_full (h : m.cmd? id = some r) (hw : r.work = .steward ph) :
    m.stewardAnswered id stale true = m.setWork id.lane (.steward 1) := by
  simp only [Mod.stewardAnswered, h, hw, if_true]

theorem Mod.retryOwn_gone (h : m.cmd? id = none) (phase : Nat) : m.retryOwn id phase = m := by
  simp only [Mod.retryOwn, h]

theorem Mod.retryOwn_waiting (h : m.cmd? id = some r) (hj : m.job? r.cmd.job = some j) (hw : r.work = .steward ph) :
    m.retryOwn id ph = m.startOwn id r.cmd j := by
  simp only [Mod.retryOwn, h, hj, hw, if_true]

variable {o : Opnd} {v : View} {slot : Nat} {p : Placement} (h : m.cmd? id = some r) (hj : m.job? r.cmd.job = some j)
  (ho : (r.cmd.op.opnds j.plan r.cmd.pkt).head? = some o) (hv : j.find o = .ok v) (hp : v.place = .tray slot p)
  {n : Nat} (hn : regionNo slot (p.addr (stripe * r.cmd.pkt.u 0 4)) = n)
include ho hv hp hn

section Answer
include h hj

theorem Mod.stewardAnswered_take (hop : r.cmd.op = .ownTake) (hw : r.work = .steward ph) : m.stewardAnswered id stale false =
    (m.updJob r.cmd.job fun j => { j with owned := n :: j.owned.filter (· != n) }).complete id .ok 0
      (leBytes 8 (if stale then 1 else 0)) := by
  subst hn
  rw [hop] at ho
  simp [Mod.stewardAnswered, h, hw, hj, hop, ho, hv, hp]

theorem Mod.stewardAnswered_give (hop : r.cmd.op = .ownGive) (hw : r.work = .steward ph) : m.stewardAnswered id stale false =
    (m.updJob r.cmd.job fun j => { j with owned := j.owned.filter (· != n) }).complete id .ok 0 := by
  subst hn
  rw [hop] at ho
  simp [Mod.stewardAnswered, h, hw, hj, hop, ho, hv, hp]

end Answer

/-- A take that asks again sends its request to the tray's steward. -/
theorem Mod.startOwn_take (hs : m.isSteward = false) (hlen : stripe * r.cmd.pkt.u 0 4 < v.len) (hop : r.cmd.op = .ownTake) :
    m.startOwn id r.cmd j = (m.setWork id.lane (.steward 0)).emit
      (.ownTake id r.cmd.job n) := by
  subst hn
  have hs' : (m.setWork id.lane (.steward 0)).isSteward = false := hs
  rw [hop] at ho
  simp [Mod.startOwn, hop, ho, hv, hp, not_le.mpr hlen, Mod.askSteward, hs']

end Asking

/-- Settles O47: what the steward does with a take and a give, the home's entry, and the answer and the retries at the requester. -/
theorem stewardRows : Obligations.StewardRows := by
  intro s id owner job region
  refine ⟨fun hs => ⟨?takeNoSteward, ?giveNoSteward⟩, fun hs hr => ⟨?takeResetting, ?giveResetting⟩, fun hs hr => ?steward,
    fun own => ?home, fun hc stale full => ⟨?_, ?_, ?_⟩, fun r ph stale hc hw => ?full,
    fun r j o v slot p hc hj ho hv hp => ⟨fun ph stale hw => ⟨fun hop => ?take, fun hop => ?give⟩,
      fun hs hlen hop => ⟨fun hw => ?_, fun hw => ?_⟩⟩,
    fun r j hc hj => ⟨fun hw => ?_, fun hw => ?_⟩⟩
  case takeNoSteward | giveNoSteward => exact becomes_of_lift rfl (by rw [hs]; rfl)
  case takeResetting => exact becomes_of_lift rfl ((if_pos hs).trans (Mod.ownTake_resetting hr))
  case giveResetting => exact becomes_of_lift rfl ((if_pos hs).trans (Mod.ownGive_resetting hr))
  case steward =>
    have htake {m : Mod} (h : s.m.ownTake id owner job region.toNat = m) : becomes (.ownTakeRequest id owner job region) s m :=
      becomes_of_lift rfl ((if_pos hs).trans h)
    have hgive {m : Mod} (h : s.m.ownGive id owner job region.toNat = m) : becomes (.ownGiveRequest id owner job region) s m :=
      becomes_of_lift rfl ((if_pos hs).trans h)
    exact ⟨fun he => htake (Mod.ownTake_unowned hr he), fun he => ⟨htake (Mod.ownTake_own hr he), hgive (Mod.ownGive_own hr he)⟩,
      fun o he ho => ⟨hgive (Mod.ownGive_other hr he ho), fun hw => htake (Mod.ownTake_full hr he ho hw),
        fun hw => htake (Mod.ownTake_queued hr he ho hw)⟩⟩
  case home =>
    exact next_of_lift (f := fun m => m.setHome region.toNat own) rfl
      ⟨Mod.homeOwner_setHome_same .., fun k hk => Mod.homeOwner_setHome_ne own hk⟩
  case full => exact becomes_of_lift (f := fun m => m.stewardAnswered id stale true) rfl (Mod.stewardAnswered_full hc hw)
  case take => exact becomes_of_lift (f := fun m => m.stewardAnswered id stale false) rfl (Mod.stewardAnswered_take hc hj ho hv hp rfl hop hw)
  case give => exact becomes_of_lift (f := fun m => m.stewardAnswered id stale false) rfl (Mod.stewardAnswered_give hc hj ho hv hp rfl hop hw)
  · exact becomes_of_lift (f := fun m => m.retryOwn id 1) rfl (Mod.retryOwn_gone hc 1)
  · exact becomes_of_lift (f := fun m => m.retryOwn id 2) rfl (Mod.retryOwn_gone hc 2)
  · exact becomes_of_lift (f := fun m => m.stewardAnswered id stale full) rfl (Mod.stewardAnswered_gone hc)
  · exact becomes_of_lift (f := fun m => m.retryOwn id 1) rfl
      ((Mod.retryOwn_waiting hc hj hw).trans (Mod.startOwn_take ho hv hp rfl hs hlen hop))
  · exact becomes_of_lift (f := fun m => m.retryOwn id 2) rfl
      ((Mod.retryOwn_waiting hc hj hw).trans (Mod.startOwn_take ho hv hp rfl hs hlen hop))
  · exact becomes_of_lift (f := fun m => m.retryOwn id 1) rfl (Mod.retryOwn_waiting hc hj hw)
  · exact becomes_of_lift (f := fun m => m.retryOwn id 2) rfl (Mod.retryOwn_waiting hc hj hw)

end Sys2Proof.Machine
end

section
/-!
PROOFS. What an alert, a trace record and a log record leave alone beside the standing state: a layer that the links, the resets and the power
rows use.
-/

namespace Sys2Proof.Machine

/-- The parts of the module beside the standing state that no alert and no record touches. -/
structure Apart where
  ports : List Port
  modAddr : Nat
  isSteward : Bool
  power : Power
  arrays : List ArrayState
  lanes : List LaneState
  resetting : Option ModuleReset
  timerOn : Bool

def Mod.apart (m : Mod) : Apart :=
  { ports := m.ports, modAddr := m.modAddr, isSteward := m.isSteward, power := m.power, arrays := m.arrays, lanes := m.lanes
    resetting := m.resetting, timerOn := m.timerOn }

section Fields
variable {m : Mod} {x : Apart} (h : m.apart = x)
include h

theorem Mod.ports_of_apart : m.ports = x.ports := congrArg Apart.ports h
theorem Mod.modAddr_of_apart : m.modAddr = x.modAddr := congrArg Apart.modAddr h
theorem Mod.isSteward_of_apart : m.isSteward = x.isSteward := congrArg Apart.isSteward h
theorem Mod.power_of_apart : m.power = x.power := congrArg Apart.power h
theorem Mod.arrays_of_apart : m.arrays = x.arrays := congrArg Apart.arrays h
theorem Mod.lanes_of_apart : m.lanes = x.lanes := congrArg Apart.lanes h
theorem Mod.resetting_of_apart : m.resetting = x.resetting := congrArg Apart.resetting h
theorem Mod.timerOn_of_apart : m.timerOn = x.timerOn := congrArg Apart.timerOn h

end Fields

section Records
variable (m : Mod)

theorem ite_apart {c : Prop} [Decidable c] {a b : Mod} {x : Apart} (ha : a.apart = x) (hb : b.apart = x) : (if c then a else b).apart = x := by
  split <;> assumption

theorem foldl_apart {α : Type} {f : Mod → α → Mod} (h : ∀ m a, (f m a).apart = m.apart) (l : List α) (m : Mod) :
    (l.foldl f m).apart = m.apart := by
  induction l generalizing m with
  | nil => rfl
  | cons a l ih => exact (ih _).trans (h m a)

theorem Mod.raiseIbi_apart (b : Nat) : (m.raiseIbi b).apart = m.apart := ite_apart rfl rfl

theorem Mod.raiseCause_apart (bit : Nat) : (m.raiseCause bit).apart = m.apart := ite_apart (Mod.raiseIbi_apart _ _) rfl

theorem Mod.trace_apart (r : TraceRec) : (m.trace_ r).apart = m.apart :=
  ite_apart rfl (ite_apart rfl (ite_apart rfl (ite_apart rfl rfl)))

theorem Mod.addLog_apart (r : LogRec) : (m.addLog r).apart = m.apart := by
  have htrace (x : Mod) (q : TraceRec) (b : Bytes) :
      (if r.cls = 0x40 then (x.trace_ q).extend 6 b else x.trace_ q).apart = x.apart :=
    ite_apart (Mod.trace_apart x q) (Mod.trace_apart x q)
  exact ite_apart rfl (ite_apart ((Mod.raiseCause_apart _ 0).trans (htrace _ _ _)) (htrace _ _ _))

theorem Mod.addOpen_apart (r : LogRec) : (m.addOpen r).apart = m.apart := Mod.addLog_apart _ _

theorem Mod.logLink_apart (cls outcome i lane : Nat) : (m.logLink cls outcome i lane).apart = m.apart := Mod.addLog_apart m _

theorem Mod.spareIn_apart (u : UnitRef) (sub : Nat) : (m.spareIn u sub).apart = m.apart :=
  Mod.addOpen_apart m { time := 0, record := 0, cls := 0x31, outcome := 5, unit := u, sub := sub }

/-- A cause that is raised stands. -/
theorem Mod.raiseCause_sets {bit : Nat} (h : bit < 8) : (m.raiseCause bit).alertCause.getLsbD bit = true := by
  rw [Mod.raiseCause_alertCause, BitVec.getLsbD_or, BitVec.getLsbD_ofNat, Nat.testBit_two_pow_self, decide_eq_true h]
  simp

end Records

end Sys2Proof.Machine
end

section
/-!
PROOFS. The fabric: the steward's assignment, rosters, the fault table, marks, and the rows of the links (R398–R400, R412, R435–R440, R470,
R505, R515).
-/

namespace Sys2Proof.Machine

/-! ### Ports -/

section Ports
variable {m : Mod} {i : Nat} {p : Port}

/-- A port that a module holds is the one that its number names. -/
theorem Mod.getD_port (h : m.ports[i]? = some p) : m.ports.getD i {} = p := by
  rw [List.getD_eq_getElem?_getD, h]; rfl

theorem Mod.port_updPort (h : m.ports[i]? = some p) (f : Port → Port) : (m.updPort i f).ports[i]? = some (f p) := by
  change (m.ports.modify i f)[i]? = _
  rw [List.getElem?_modify_eq, h]; rfl

theorem Mod.port_countPort (h : m.ports[i]? = some p) (k : Ctr) (n : Nat) :
    (m.countPort i k n).ports[i]? = some { p with counters := p.counters.bump k n } :=
  Mod.port_updPort h fun p => { p with counters := p.counters.bump k n }

theorem Mod.port_logLink (h : m.ports[i]? = some p) (cls outcome lane : Nat) : (m.logLink cls outcome i lane).ports[i]? = some p := by
  rw [Mod.ports_of_apart (m.logLink_apart cls outcome i lane)]; exact h

end Ports

/-- R399, R470: the end of a lane's window. -/
theorem Mod.fecWindow_spec {m : Mod} {i : Nat} {p : Port} (h : m.ports[i]? = some p) (lane n : Nat) (bad : Bool) :
    ∃ q, (m.fecWindow i lane n bad).ports[i]? = some q ∧
      (bad = true → p.spareFor = 0xF → p.training = none → p.up = true → q.training = some lane) ∧
      (bad = false → q.training = p.training) ∧ (lane = 0 → q.retries1s = p.retriesNow ∧ q.retriesNow = 0) ∧ q.state = p.state := by
  have hp := Mod.port_updPort (Mod.port_countPort h .FEC_CORRECTED n) fun p =>
    let p := if lane = 0 then { p with retries1s := p.retriesNow, retriesNow := 0 } else p
    if bad && p.spareFor == 0xF && p.training.isNone && p.up then { p with training := some lane } else p
  refine ⟨_, hp, ?_⟩
  dsimp only
  have hup (q : Port) (hq : q.state = p.state) : q.up = p.up := by rw [Port.up, Port.up, hq]
  by_cases hl : lane = 0
  · simp only [if_pos hl]
    split
    · exact ⟨fun _ _ _ _ => rfl, fun hb => by simp_all, fun _ => ⟨rfl, rfl⟩, rfl⟩
    · next hno =>
      exact ⟨fun hb hs ht hu => absurd (by simp [hb, hs, ht, hup, hu]) hno, fun _ => rfl, fun _ => ⟨rfl, rfl⟩, rfl⟩
  · simp only [if_neg hl]
    split
    · exact ⟨fun _ _ _ _ => rfl, fun hb => by simp_all, fun h0 => absurd h0 hl, rfl⟩
    · next hno =>
      exact ⟨fun hb hs ht hu => absurd (by simp [hb, hs, ht, hup, hu]) hno, fun _ => rfl, fun h0 => absurd h0 hl, rfl⟩

section LaneSwitch
variable {m : Mod} {i : Nat} {p : Port} (h : m.ports[i]? = some p)
include h

theorem Mod.laneSwitched_untrained (ht : p.training = none) : m.laneSwitched i = m := by
  simp only [Mod.laneSwitched, Mod.getD_port h, ht]

theorem Mod.laneSwitched_trained {l : Nat} (ht : p.training = some l) : m.laneSwitched i =
    ((m.updPort i fun p => { p with spareFor := l, training := none }).countPort i .LANE_SWAPS 1).spareIn ⟨7, i⟩ l := by
  simp only [Mod.laneSwitched, Mod.getD_port h, ht]

end LaneSwitch

/-! ### A lane that fails (R400, R440) -/

/-- The state of a port that narrows: DEGRADED with 4 lanes or more, DOWN with fewer. -/
def Port.narrowed (p : Port) : Nat := if usableLanes p.failed < 4 then 0 else 3

section Narrow
variable {m : Mod} {i lane : Nat} {p : Port} (h : m.ports[i]? = some p)
include h

theorem Mod.narrow_stays (hs : p.state = p.narrowed) : m.narrow i lane = m.logLink 0x0B 2 i lane := by
  simp only [Mod.narrow, Mod.getD_port h]
  exact if_pos (beq_iff_eq.mpr hs)

theorem Mod.narrow_changes (hs : p.state ≠ p.narrowed) : m.narrow i lane = ((m.updPort i fun q =>
    { q with state := p.narrowed, width := if p.narrowed = 0 then 0 else 4, training := none }).logLink 0x42 2 i lane).raiseCause 2 := by
  simp only [Mod.narrow, Mod.getD_port h]
  exact if_neg fun hc => hs (beq_iff_eq.mp hc)

/-- The port after it narrowed, and ALERT_N when its state changed. -/
theorem Mod.narrow_spec : ∃ q, (m.narrow i lane).ports[i]? = some q ∧ q.failed = p.failed ∧ q.state = q.narrowed ∧
    (q.state ≠ p.state → (m.narrow i lane).alertCause.getLsbD 2 = true ∧ q.width = if q.state = 0 then 0 else 4) := by
  by_cases hs : p.state = p.narrowed
  · rw [Mod.narrow_stays h hs]
    exact ⟨p, Mod.port_logLink h _ _ _, rfl, hs, fun hne => absurd rfl hne⟩
  · rw [Mod.narrow_changes h hs]
    have hp := Mod.port_logLink (Mod.port_updPort h fun q =>
      { q with state := p.narrowed, width := if p.narrowed = 0 then 0 else 4, training := none }) 0x42 2 lane
    exact ⟨_, (congrArg (·[i]?) (Mod.ports_of_apart (Mod.raiseCause_apart _ 2))).trans hp, rfl, rfl, fun _ => ⟨Mod.raiseCause_sets _ (by decide), rfl⟩⟩

end Narrow

section LaneFailure
variable {m : Mod} {i lane : Nat} {p : Port} (h : m.ports[i]? = some p)
include h

theorem Mod.laneFailed_down (hu : p.up = false) : m.laneFailed i lane = m := by
  rw [Mod.laneFailed, Mod.getD_port h]
  exact if_pos (by simp [hu])

theorem Mod.laneFailed_again (hl : lane ∈ p.failed) : m.laneFailed i lane = m := by
  rw [Mod.laneFailed, Mod.getD_port h]
  exact if_pos (by simp [hl])

theorem Mod.laneFailed_new (hu : p.up = true) (hl : lane ∉ p.failed) :
    m.laneFailed i lane = (m.updPort i fun p => { p with failed := (lane :: p.failed).eraseDups }).narrow i lane := by
  unfold Mod.laneFailed
  rw [Mod.getD_port h]
  exact if_neg (by simp [hu, hl])

end LaneFailure

/-! ### The roster and the fault table (R412, R436) -/

theorem Mod.useRoster_roster (m : Mod) (epoch : Nat) (rs : List RosterRec) :
    (m.useRoster epoch rs).roster = rs ∧ (m.useRoster epoch rs).rosterEpoch = epoch := by
  unfold Mod.useRoster
  dsimp only
  split <;> exact ⟨rfl, rfl⟩

/-- What a new fault table stalls: destinations with packets on their way, and these packets. -/
theorem Mod.setFaultTable_stalled {m : Mod} {links : List (Nat × Nat)} (h : links.length ≤ 256) {d : Nat × List Sent}
    (hd : d ∈ (m.setFaultTable links).stalled) (hnew : d ∉ m.stalled) : d.2 ≠ [] ∧ ∀ q ∈ d.2, (d.1, q) ∈ m.outstanding := by
  rw [Mod.setFaultTable, if_neg (not_lt.mpr h)] at hd
  obtain hold | hmoved := List.mem_append.mp hd
  · exact absurd hold hnew
  · obtain ⟨a, ha, rfl⟩ := List.mem_map.mp hmoved
    obtain ⟨ha, -⟩ := List.mem_filter.mp ha
    obtain ⟨x, hx, rfl⟩ := List.mem_map.mp (List.mem_eraseDups.mp ha)
    obtain ⟨hx, -⟩ := List.mem_filter.mp hx
    constructor
    · exact List.ne_nil_of_mem (List.mem_map.mpr ⟨x, List.mem_filter.mpr ⟨hx, beq_self_eq_true _⟩, rfl⟩)
    · intro q hq
      obtain ⟨y, hy, rfl⟩ := List.mem_map.mp hq
      obtain ⟨hy, heq⟩ := List.mem_filter.mp hy
      rw [← beq_iff_eq.mp heq]
      exact hy

/-! ### A link that trains (R399, R505) -/

section Training
variable {m : Mod} {port : Nat} {t : PortTrain}

/-- What training leaves alone: the module's address and its role. -/
def Mod.role (m : Mod) : Nat × Bool := (m.modAddr, m.isSteward)

theorem ite_role {c : Prop} [Decidable c] {a b : Mod} {x : Nat × Bool} (ha : a.role = x) (hb : b.role = x) :
    (if c then a else b).role = x := by
  split
  · exact ha
  · exact hb

theorem Mod.role_of_apart {m n : Mod} (h : m.apart = n.apart) : m.role = n.role :=
  Prod.ext (Mod.modAddr_of_apart h) (Mod.isSteward_of_apart h)

theorem Mod.narrow_role (m : Mod) (i lane : Nat) : (m.narrow i lane).role = m.role :=
  ite_role (Mod.role_of_apart (Mod.logLink_apart _ _ _ _ _))
    ((Mod.role_of_apart (Mod.raiseCause_apart _ _)).trans ((Mod.role_of_apart (Mod.logLink_apart _ _ _ _ _)).trans rfl))

theorem Mod.trainPort_role : (m.trainPort port t).role = m.role :=
  ite_role rfl (ite_role rfl (ite_role ((Mod.role_of_apart (Mod.spareIn_apart _ _ _)).trans rfl) (Mod.narrow_role _ _ _)))

theorem Mod.linkTrained_noSteward (h : m.isSteward = false) : m.linkTrained port t = m.trainPort port t := by
  have hs : (m.trainPort port t).isSteward = m.isSteward := congrArg Prod.snd Mod.trainPort_role
  exact if_neg (by simp [hs, h])

theorem Mod.linkTrained_steward (h : m.isSteward = true) (ht : sameTray t.neighbour m.modAddr = true) (hn : t.neighbour ≠ m.modAddr) :
    m.linkTrained port t = if ((m.trainPort port t).ports.getD port {}).up = true then (m.trainPort port t).challenge (slotOf t.neighbour)
      else m.trainPort port t := by
  have ha : (m.trainPort port t).modAddr = m.modAddr := congrArg Prod.fst Mod.trainPort_role
  have hs : (m.trainPort port t).isSteward = m.isSteward := congrArg Prod.snd Mod.trainPort_role
  unfold Mod.linkTrained
  simp only [hs, ha, h, ht, bne_iff_ne.mpr hn, Bool.true_and]

end Training

/-- Settles O49: the fabric's messages first, then the rows of the links. -/
theorem fabricRows : Obligations.FabricRows := by
  refine ⟨fun s => ⟨fun addr n sig => ?assign, fun r => ⟨fun hk => ?_, fun hk he => ?_, fun hk he => ?roster⟩,
      fun links => ⟨fun hl => ?_, fun hl => ?table⟩, fun port src id => ⟨?_, ?_⟩, fun port t => ⟨fun hs => ?_, fun hs ht hn => ?_⟩⟩,
    fun s i lane n bad p hp => ⟨?replay, ?window, fun ht => ?_, fun l ht => ?_, fun hu => ?_, fun hl => ?_, fun hu hl hs h4 => ?degraded,
      fun hu hl => ?failure⟩⟩
  case assign => exact becomes_of_lift (f := fun m => m.assignSteward addr n sig) rfl rfl
  · exact becomes_of_lift (f := fun m => m.rosterHere r) rfl (if_pos (by rw [hk]; rfl))
  · exact becomes_of_lift (f := fun m => m.rosterHere r) rfl ((if_neg (by rw [hk]; simp)).trans (if_pos he))
  case roster =>
    have hr : s.m.rosterHere r = s.m.useRoster r.epoch r.records := (if_neg (by rw [hk]; simp)).trans (if_neg (not_le.mpr he))
    obtain ⟨hrecords, hepoch⟩ := s.m.useRoster_roster r.epoch r.records
    exact next_of_lift (f := fun m => m.rosterHere r) rfl ⟨(congrArg Mod.roster hr).trans hrecords, (congrArg Mod.rosterEpoch hr).trans hepoch⟩
  · exact becomes_of_lift (f := fun m => m.setFaultTable links) rfl (if_pos hl)
  case table =>
    have ht : (s.m.setFaultTable links).faultTable = links ∧ (s.m.setFaultTable links).trayOps = s.m.trayOps := by
      rw [Mod.setFaultTable, if_neg (not_lt.mpr hl)]
      exact ⟨rfl, rfl⟩
    exact next_of_lift (f := fun m => m.setFaultTable links) rfl ⟨ht.1, ht.2, fun d hd hnew => Mod.setFaultTable_stalled hl hd hnew⟩
  · exact becomes_of_lift (f := fun m => m.markHere port src id) rfl rfl
  · exact becomes_of_lift (f := fun m => m.markReplied port src id) rfl rfl
  · exact becomes_of_lift (f := fun m => m.linkTrained port t) rfl (Mod.linkTrained_noSteward hs)
  · exact becomes_of_lift (f := fun m => m.linkTrained port t) rfl (Mod.linkTrained_steward hs ht hn)
  case replay => exact becomes_of_lift (f := fun m => m.replayed i bad) rfl rfl
  case window => exact next_of_lift (f := fun m => m.fecWindow i lane n bad) rfl (Mod.fecWindow_spec hp lane n bad)
  · exact becomes_of_lift (f := fun m => m.laneSwitched i) rfl (Mod.laneSwitched_untrained hp ht)
  · exact becomes_of_lift (f := fun m => m.laneSwitched i) rfl (Mod.laneSwitched_trained hp ht)
  · exact becomes_of_lift (f := fun m => m.laneFailed i lane) rfl (Mod.laneFailed_down hp hu)
  · exact becomes_of_lift (f := fun m => m.laneFailed i lane) rfl (Mod.laneFailed_again hp hl)
  case degraded =>
    have hp' := Mod.port_updPort hp fun p => { p with failed := (lane :: p.failed).eraseDups }
    exact becomes_of_lift (f := fun m => m.laneFailed i lane) rfl ((Mod.laneFailed_new hp hu hl).trans
      (Mod.narrow_stays hp' (hs.trans (if_neg (not_lt.mpr h4)).symm)))
  case failure =>
    have hp' := Mod.port_updPort hp fun p => { p with failed := (lane :: p.failed).eraseDups }
    obtain ⟨q, hq, hfailed, hstate, halert⟩ := Mod.narrow_spec (lane := lane) hp'
    rw [← Mod.laneFailed_new hp hu hl] at hq halert
    exact next_of_lift (f := fun m => m.laneFailed i lane) rfl ⟨q, hq, by simp [hfailed], fun hlt => hstate.trans (if_pos hlt),
      fun hge => hstate.trans (if_neg (not_lt.mpr hge)), halert⟩

end Sys2Proof.Machine
end

section
/-!
PROOFS. Packets at a port (R403–R410, R412, R422, R424, R425, R436): dropped, taken by this module, answered UNREACHABLE, forwarded or queued.
-/

namespace Sys2Proof.Machine

/-! ### Where a packet goes -/

section Arrival
variable {m : Mod} {op : Option TrayOp} {p : WeavePkt} {fclk : Nat}

/-- R412, R436: a packet of or for a quarantined module is dropped and counted. -/
theorem Mod.arrivePacket_quarantined (h : m.quarantinedAddr p.src.toNat = true ∨ m.quarantinedAddr p.dest.toNat = true) :
    m.arrivePacket op p fclk = m.count .QUARANTINE_DROPS := by
  have hq : (m.quarantinedAddr p.src.toNat || m.quarantinedAddr p.dest.toNat) = true := by simpa using h
  have htransit : m.transit op p fclk = m.count .QUARANTINE_DROPS := if_pos hq
  refine (if_pos ?_).trans htransit
  rw [Bool.or_assoc (p.dest.toNat != m.modAddr), hq]
  simp

variable (hsrc : m.quarantinedAddr p.src.toNat = false) (hdest : m.quarantinedAddr p.dest.toNat = false) (hc : m.combined = [])
include hsrc hdest hc

theorem Mod.arrivePacket_here (h : p.dest.toNat = m.modAddr) : m.arrivePacket op p fclk = match op with
    | some o => m.trayPacket o p
    | none => m.takePacket p :=
  have hno : m.answersCombined p = false := by rw [Mod.answersCombined, hc]; rfl
  if_neg (by rw [hsrc, hdest, hno, bne_eq_false_iff_eq.mpr h]; simp)

theorem Mod.arrivePacket_away (h : p.dest.toNat ≠ m.modAddr) : m.arrivePacket op p fclk = m.forward op p fclk := by
  refine (if_pos (by simp [h])).trans ?_
  unfold Mod.transit
  rw [if_neg (by simp [hsrc, hdest]), hc]
  exact if_neg (by simp [h])

end Arrival

/-! ### Tray operations and messages for this module (R404, R405, R422, R425) -/

section TrayPackets
variable {m : Mod} {o : TrayOp} {p : WeavePkt}

theorem Mod.trayPacket_response (h : p.cls = 1) : m.trayPacket o p = m.trayAnswered (responseOf p) := if_pos (beq_iff_eq.mpr h)

variable (h : p.cls ≠ 1)
include h

theorem Mod.trayPacket_request (he : p.errs = []) : m.trayPacket o p = m.serveTray o (m.requestOf p) :=
  (if_neg (by simpa using h)).trans (if_neg (by simp [he]))

theorem Mod.trayPacket_badRequest (he : p.errs ≠ []) :
    m.trayPacket o p = m.emit (.trayResponse p.src.toNat o { tag := p.pkt, result := 0, data := [], bad := true }) :=
  (if_neg (by simpa using h)).trans (if_pos (by simp [he]))

end TrayPackets

/-- Whether a part of a message is of the packet's message (R405). -/
def Partial.holds (p : WeavePkt) (x : Partial) : Bool := x.src == p.src.toNat && x.cls == p.cls && x.msgId == p.msgId

/-- The packets of a packet's message that are there once it has come. -/
def Mod.gathered (m : Mod) (p : WeavePkt) : List WeavePkt :=
  p :: (((m.assembly.find? (Partial.holds p)).map (·.packets)).getD []).filter fun q => q.pkt != p.pkt

/-- The parts of other messages. -/
def Mod.otherParts (m : Mod) (p : WeavePkt) : List Partial := m.assembly.filter fun x => !Partial.holds p x

section Messages
variable {m : Mod} {p : WeavePkt}

theorem Mod.takePacket_part (h : wholePackets (m.gathered p) = none) : m.takePacket p =
    { m with assembly := (m.otherParts p).concat { src := p.src.toNat, cls := p.cls, msgId := p.msgId, packets := m.gathered p } } := by
  unfold Mod.gathered Partial.holds at h
  simp only [Mod.takePacket, h]
  rfl

section Whole
variable {last : Nat} (h : wholePackets (m.gathered p) = some last)
include h

theorem Mod.takePacket_whole (hgood : ∀ q ∈ m.gathered p, q.pkt ≤ last → q.errs = []) :
    m.takePacket p = ({ m with assembly := m.otherParts p } : Mod).takeMessage (messageBytes (m.gathered p) last) := by
  have hno : ¬((m.gathered p).any fun q => q.pkt ≤ last && !q.errs.isEmpty) = true := by
    simp only [List.any_eq_true, Bool.and_eq_true, decide_eq_true_eq, Bool.not_eq_true', not_exists, not_and, Bool.not_eq_false,
      List.isEmpty_iff]
    exact hgood
  unfold Mod.gathered Partial.holds at h hno
  simp only [Mod.takePacket, h, if_neg hno]
  rfl

theorem Mod.takePacket_damaged (hbad : ∃ q ∈ m.gathered p, q.pkt ≤ last ∧ q.errs ≠ []) :
    m.takePacket p = ({ m with assembly := m.otherParts p } : Mod).damaged (messageBytes (m.gathered p) last)
      (headerLost (m.gathered p) (messageBytes (m.gathered p) last)) := by
  have hyes : ((m.gathered p).any fun q => q.pkt ≤ last && !q.errs.isEmpty) = true := by
    simpa only [List.any_eq_true, Bool.and_eq_true, decide_eq_true_eq, Bool.not_eq_true', List.isEmpty_eq_false_iff] using hbad
  unfold Mod.gathered Partial.holds at h hyes
  simp only [Mod.takePacket, h, if_pos hyes]
  rfl

end Whole

end Messages

/-! ### Packets for another module (R403, R407, R409, R410, R424) -/

section Forward
variable {m : Mod} {op : Option TrayOp} {p : WeavePkt} {fclk : Nat}

theorem Mod.forward_noWay (h : m.hops (p.cls == 0) (!(p.cls == 0) && p.vc < 2) p.u p.dest.toNat = []) :
    m.forward op p fclk = (m.emit (.unreachable p.src.toNat p.pkt)).count .UNREACHABLE := by
  simp only [Mod.forward, h, Mod.takeHop]

variable {d out : Nat} {plus : Bool} (h : m.hops (p.cls == 0) (!(p.cls == 0) && p.vc < 2) p.u p.dest.toNat = [(d, plus, out)])
include h

theorem Mod.forward_leaves (hop : (p.cls == 0) = false ∨ op = none ∨ op = some .load ∨ op = some .store) :
    m.forward op p fclk = ((m.channelOn p d plus).2.drainPort out).leave out (m.channelOn p d plus).1 := by
  cases op with
  | none => simp only [Mod.forward, h, Mod.takeHop]
  | some o =>
    simp only [Mod.forward, h, Mod.takeHop]
    exact if_neg (by obtain hr | ho | ho | ho := hop <;> simp_all)

theorem Mod.forward_queues {o : TrayOp} (hr : (p.cls == 0) = true) (hl : o ≠ .load) (hs : o ≠ .store) :
    m.forward (some o) p fclk = (m.channelOn p d plus).2.queueAtomic out fclk o (m.channelOn p d plus).1 := by
  simp only [Mod.forward, h, Mod.takeHop]
  exact if_pos (by simp [hr, hl, hs])

end Forward

/-- Settles O50: the port and the quarantine first, then packets for this module, then packets for another. -/
theorem transitRows : Obligations.TransitRows := by
  intro s port op p0 fclk p
  have hbecomes {m : Mod} (hport : port ≤ 15) (h : s.m.arrivePacket op p fclk = m) : becomes (.weaveTransit port op p0 fclk) s m :=
    becomes_of_lift (f := fun m => if 15 < port then m else m.arrivePacket op p0.routed fclk) rfl ((if_neg (not_lt.mpr hport)).trans h)
  refine ⟨fun hport => ?noPort, fun hport hq => hbecomes hport (Mod.arrivePacket_quarantined hq), fun hport hsrc hdest hc =>
    ⟨fun hhere => ?here, fun haway => ?away⟩⟩
  case noPort =>
    exact becomes_of_lift (f := fun m => if 15 < port then m else m.arrivePacket op p0.routed fclk) rfl (if_pos hport)
  case here =>
    have harrive := Mod.arrivePacket_here (op := op) (fclk := fclk) hsrc hdest hc hhere
    refine ⟨fun o ho => ?tray, fun ho => ?message⟩
    case tray =>
      subst ho
      exact ⟨fun hcls => hbecomes hport (harrive.trans (Mod.trayPacket_response hcls)),
        fun hcls he => hbecomes hport (harrive.trans (Mod.trayPacket_request hcls he)),
        fun hcls he => hbecomes hport (harrive.trans (Mod.trayPacket_badRequest hcls he))⟩
    case message =>
      subst ho
      exact ⟨fun hpart => hbecomes hport (harrive.trans (Mod.takePacket_part hpart)), fun last hwhole =>
        ⟨fun hgood => hbecomes hport (harrive.trans (Mod.takePacket_whole hwhole hgood)),
          fun hbad => hbecomes hport (harrive.trans (Mod.takePacket_damaged hwhole hbad))⟩⟩
  case away =>
    have harrive := Mod.arrivePacket_away (op := op) (fclk := fclk) hsrc hdest hc haway
    refine ⟨fun hno => hbecomes hport (harrive.trans (Mod.forward_noWay hno)), fun d plus out hone =>
      ⟨fun hop => hbecomes hport (harrive.trans (Mod.forward_leaves hone hop)), fun o hr ho hl hs => ?_⟩⟩
    subst ho
    exact hbecomes hport (harrive.trans (Mod.forward_queues hone hr hl hs))

end Sys2Proof.Machine
end

section
/-!
PROOFS. The supply and the rails (R484, R548, R549, R552, R553, R555).
-/

namespace Sys2Proof.Machine

section Rails
variable {m : Mod} {mv group : Nat}

theorem Mod.inputFails_low (h : mv < 46000) : m.inputFails mv = { m.powerLost with power := { m.powerLost.power with
    inputMv := mv, inRange := false, mainEnabled := false, charged := m.power.charged && 36000 ≤ mv
    standby := m.power.standby && 36000 ≤ mv } } := if_neg (not_le.mpr h)

theorem Mod.pwrEnRises_held (h : m.power.pwrEn = true ∨ m.power.standby = false) : m.pwrEnRises = m :=
  if_pos (by simpa using h)

theorem Mod.pwrEnRises_sequences (he : m.power.pwrEn = false) (hs : m.power.standby = true) : m.pwrEnRises = { m with
    power := { m.power with pwrEn := true, lowSince := none, groups := 0 }
    boot := { m.boot with stage := .rails, stewardSel := Config.stewardSel } } := if_neg (by simp [he, hs])

theorem Mod.pwrEnFalls_low (h : m.power.pwrEn = false) : m.pwrEnFalls = m := if_pos (by simp [h])

theorem Mod.pwrEnFalls_high (h : m.power.pwrEn = true) :
    m.pwrEnFalls = { m.mainLost with power := { m.mainLost.power with pwrEn := false, lowSince := some m.now } } :=
  if_neg (by simp [h])

/-- A group comes up only next in order, while PWR_EN is high, the main rails are enabled and PWR_GOOD is not set. -/
theorem Mod.railsUp_refused
    (h : m.power.pwrEn = false ∨ m.power.mainEnabled = false ∨ m.power.pwrGood = true ∨ group ≠ m.power.groups + 1) :
    m.railsUp group = m := by
  refine if_pos ?_
  obtain h | h | h | h := h <;> simp [h]

section InOrder
variable (he : m.power.pwrEn = true) (hm : m.power.mainEnabled = true) (hp : m.power.pwrGood = false)
  (hg : group = m.power.groups + 1) (hf : m.boot.stage ≠ .failed)
include he hm hp hg hf

/-- The guard of `Mod.railsUp` passes for a group in order. -/
theorem Mod.railsUp_inOrder (h4 : group ≤ 4) : ¬(!m.power.pwrEn || !m.power.mainEnabled || m.power.pwrGood || group != m.power.groups + 1 ||
    4 < group || m.boot.stage == .failed) = true := by
  simp [he, hm, hp, ← hg, hf, h4]

theorem Mod.railsUp_group (h4 : group < 4) :
    m.railsUp group = { m with power := { m.power with groups := group }, boot := { m.boot with stage := .rails } } :=
  (if_neg (Mod.railsUp_inOrder he hm hp hg hf h4.le)).trans (if_pos h4)

theorem Mod.railsUp_last (h4 : group = 4) : m.railsUp group = ({ m with
    power := { m.power with groups := 4, pwrGood := true }
    timer := if !m.timerOn then 0 else m.timer
    timerOn := true
    boot := { m.boot with stage := .powerGood, powerUps := m.boot.powerUps + 1, resets := if !m.timerOn then 0 else m.boot.resets } } :
      Mod).raiseIbi 3 :=
  (if_neg (Mod.railsUp_inOrder he hm hp hg hf h4.le)).trans (if_neg (by omega))

end InOrder

theorem Mod.railsTimeout_idle (h : m.power.pwrEn = false ∨ m.power.pwrGood = true) : m.railsTimeout = m :=
  if_pos (by simpa using h)

theorem Mod.railsTimeout_late (he : m.power.pwrEn = true) (hp : m.power.pwrGood = false) : m.railsTimeout =
    ({ m with power := { m.power with groups := 0 }, boot := { m.boot with stage := .failed } } : Mod).raiseCause 7 :=
  if_neg (by simp [he, hp])

end Rails

/-- A byte of an in-band interrupt leaves when the controller has enabled them. -/
theorem Mod.raiseIbi_mem_out {m : Mod} (h : m.i3c.ibi = true) (b : Nat) : Out.ibi b ∈ (m.raiseIbi b).out := by
  rw [Mod.raiseIbi, if_pos h]
  exact List.mem_cons_self

/-- Settles O58: one equation above for each row of the supply, under the guard that the row checks. -/
theorem supplyRows : Obligations.SupplyRows := by
  intro s mv group
  refine ⟨becomes_of_lift (f := fun m => m.inputApplied mv) rfl rfl, fun h => ?_, fun h => ?_, fun h => ?_, fun h => ?undervoltage,
    fun h => ?_, fun he hs => ?rise, fun h => ?_, fun he hm hp hg hf => ⟨fun h4 => ?_, fun h4 => ?powerGood⟩, fun h => ?_,
    fun he hp => ?late, fun h => ?_, fun h => ?fall, fun h => ?_, fun h => ⟨?_, rfl, rfl⟩⟩
  · exact becomes_of_lift (f := Mod.bulkCharged) rfl (if_neg (by simp [h]))
  · exact becomes_of_lift (f := Mod.bulkCharged) rfl (if_pos h)
  · exact becomes_of_lift (f := fun m => m.inputFails mv) rfl (if_pos h)
  case undervoltage =>
    refine next_of_lift (f := fun m => m.inputFails mv) rfl ?_
    dsimp only
    rw [Mod.inputFails_low h]
    exact ⟨rfl, rfl, rfl, rfl, rfl, rfl, rfl, rfl, rfl, fun r hr => List.mem_filter.mp hr, rfl⟩
  · exact becomes_of_lift (f := Mod.pwrEnRises) rfl (Mod.pwrEnRises_held h)
  case rise =>
    refine next_of_lift (f := Mod.pwrEnRises) rfl ?_
    dsimp only
    rw [Mod.pwrEnRises_sequences he hs]
    exact ⟨rfl, rfl, rfl, rfl⟩
  · exact becomes_of_lift (f := fun m => m.railsUp group) rfl (Mod.railsUp_refused h)
  · exact becomes_of_lift (f := fun m => m.railsUp group) rfl (Mod.railsUp_group he hm hp hg hf h4)
  case powerGood =>
    refine next_of_lift (f := fun m => m.railsUp group) rfl ?_
    dsimp only
    rw [Mod.railsUp_last he hm hp hg hf h4]
    refine ⟨congrArg Power.pwrGood (Mod.power_of_apart (Mod.raiseIbi_apart _ 3)), Mod.timerOn_of_apart (Mod.raiseIbi_apart _ 3),
      congrArg Boot.stage (Mod.boot_of_standing (Mod.raiseIbi_standing _ 3)),
      congrArg Boot.powerUps (Mod.boot_of_standing (Mod.raiseIbi_standing _ 3)), ?_, fun hi => ?_⟩
    · rw [Mod.timer_of_standing (Mod.raiseIbi_standing _ 3)]
      cases s.m.timerOn <;> rfl
    · refine Mod.raiseIbi_mem_out ?_ 3
      exact hi
  · exact becomes_of_lift (f := Mod.railsTimeout) rfl (Mod.railsTimeout_idle h)
  case late =>
    refine next_of_lift (f := Mod.railsTimeout) rfl ?_
    dsimp only
    rw [Mod.railsTimeout_late he hp]
    exact ⟨congrArg Boot.stage (Mod.boot_of_standing (Mod.raiseCause_standing _ 7)),
      congrArg Power.groups (Mod.power_of_apart (Mod.raiseCause_apart _ 7)), Mod.raiseCause_sets _ (by decide)⟩
  · exact becomes_of_lift (f := Mod.pwrEnFalls) rfl (Mod.pwrEnFalls_low h)
  case fall =>
    refine next_of_lift (f := Mod.pwrEnFalls) rfl ?_
    dsimp only
    rw [Mod.pwrEnFalls_high h]
    exact ⟨rfl, rfl, rfl, rfl, rfl, rfl, rfl, rfl, rfl⟩
  · exact becomes_of_lift (f := Mod.alwaysOnResets) rfl (if_pos h)
  · exact becomes_of_lift (f := Mod.alwaysOnResets) rfl (if_neg (by simp [h]))

end Sys2Proof.Machine
end

section
/-!
PROOFS. The limiter, the sensors and the hold before a shutdown (R557–R562, R571).
-/

namespace Sys2Proof.Machine

/-! ### The limiter (R557, R558) -/

theorem gapUnits_le (power budget : Nat) : gapUnits power budget ≤ 64 := by
  unfold gapUnits
  cases h : (List.range 64).find? fun k => power ≤ budget * (1 + k) with
  | none => exact le_rfl
  | some k => exact (List.mem_range.mp (List.mem_of_find?_eq_some h)).le

/-- A sample changes the measured values and the window only; near the lower edge of the input's range it raises POWER. -/
theorem Mod.sampled_power (m : Mod) (mv ma arrays : Nat) : (m.sampled mv ma arrays).power = { m.power with
    inputMv := mv, inputMa := ma, arraysMw := arrays, window := (mv * ma / 1000 :: m.power.window).take 100 } := by
  unfold Mod.sampled
  dsimp only
  split
  · exact Mod.power_of_apart (Mod.raiseCause_apart _ 7)
  · rfl

theorem Mod.sampled_low {m : Mod} {mv : Nat} (ma arrays : Nat) (hp : m.power.pwrGood = true) (h46 : 46000 ≤ mv) (h48 : mv < 48000) :
    (m.sampled mv ma arrays).alertCause.getLsbD 7 = true := by
  unfold Mod.sampled
  rw [if_pos (by simp [hp, h46, h48])]
  exact Mod.raiseCause_sets _ (by decide)

/-- The limiter sets a gap of at most 64 units and says whether it is the largest. -/
theorem Mod.limit_spec (m : Mod) : ∃ units ≤ 64, ∃ gaps, m.limit.apart = { m.apart with
    power := { m.power with gap := 256 * units, gapPrimary := gaps, atMaximum := units == 64 } } ∧ m.limit.standing = m.standing := by
  unfold Mod.limit
  dsimp only
  exact ⟨_, gapUnits_le _ _, _, ite_apart (Mod.raiseCause_apart _ 7) rfl, ite_standing (Mod.raiseCause_standing _ 7) rfl⟩

/-! ### The hold before a shutdown (R562, R571) -/

section Hold
variable {m : Mod} {thermal : Bool} {n : Nat}

theorem Mod.beginHold_held {h : Bool × Nat} (hh : m.power.holding = some h) : m.beginHold thermal n = m := if_pos (by simp [hh])

theorem Mod.beginHold_starts (hh : m.power.holding = none) (hp : m.power.pwrGood = true) : m.beginHold thermal n = { m with
    power := { m.power with holding := some (thermal, n) }
    arrays := m.arrays.map fun (s : ArrayState) => if s.ramp == .none then { s with ramp := .down } else s } :=
  if_neg (by simp [hh, hp])

/-- The start of a hold changes no other field of the power. -/
theorem Mod.beginHold_power : ∃ h, (m.beginHold thermal n).power = { m.power with holding := h } := by
  unfold Mod.beginHold
  split
  · exact ⟨m.power.holding, rfl⟩
  · exact ⟨some (thermal, n), rfl⟩

/-- Once the hold has started no array stands without a ramp. -/
theorem Mod.beginHold_ramps (hh : m.power.holding = none) (hp : m.power.pwrGood = true) :
    (m.beginHold thermal n).arrays.length = m.arrays.length ∧ ∀ a ∈ (m.beginHold thermal n).arrays, a.ramp ≠ .none := by
  rw [Mod.beginHold_starts hh hp]
  refine ⟨List.length_map _, fun a ha => ?_⟩
  obtain ⟨b, -, rfl⟩ := List.mem_map.mp ha
  split
  · nofun
  · next hb => simpa using hb

end Hold

/-! ### The sensors (R560–R562) -/

theorem mem_sensorsWhere {vs : List Int} {p : Int → Int × Int × Int → Bool} {i : Nat} :
    i ∈ sensorsWhere vs p ↔ ∃ v x, vs[i]? = some v ∧ sensorPoints i = some x ∧ p v x = true := by
  unfold sensorsWhere
  rw [List.mem_filterMap]
  constructor
  · rintro ⟨⟨v, k⟩, hv, hk⟩
    rw [List.mem_zipIdx_iff_getElem?] at hv
    dsimp only at hv hk
    split at hk
    · next x hx =>
      split at hk
      · next hp =>
        cases hk
        exact ⟨v, x, hv, hx, hp⟩
      · cases hk
    · cases hk
  · rintro ⟨v, x, hv, hx, hp⟩
    exact ⟨(v, i), List.mem_zipIdx_iff_getElem?.mpr hv, by simp [hx, hp]⟩

/-- The sensors at a point of theirs. -/
theorem sensorsWhere_ne_nil {vs : List Int} {p : Int → Int × Int × Int → Bool} :
    sensorsWhere vs p ≠ [] ↔ ∃ i v x, vs[i]? = some v ∧ sensorPoints i = some x ∧ p v x = true := by
  rw [ne_eq, List.eq_nil_iff_forall_not_mem, not_forall]
  exact exists_congr fun i => not_not.trans mem_sensorsWhere

/-- The module once the values of the sensors stand and the thermal limit follows them; the hold has not started. -/
def Mod.heated (m : Mod) (vs : List Int) : Mod :=
  let hot := !(sensorsWhere vs fun v x => x.1 ≤ v).isEmpty
  ({ m with power := { m.power with
    sensors := vs, throttling := hot, released := (sensorsWhere vs fun v x => x.2.1 ≤ v).isEmpty
    thermal := if hot then Nat.max 2400 (m.power.thermal - 100) else m.power.thermal } } : Mod).noteBelow

section Sensors
variable {m : Mod} {vs : List Int}

theorem Mod.heated_throttling : (m.heated vs).power.throttling = true ↔ ∃ i v p, vs[i]? = some v ∧ sensorPoints i = some p ∧ p.1 ≤ v := by
  have h : (m.heated vs).power.throttling = !(sensorsWhere vs fun v x => x.1 ≤ v).isEmpty := rfl
  rw [h, Bool.not_eq_true', List.isEmpty_eq_false_iff, sensorsWhere_ne_nil]
  simp only [decide_eq_true_eq]

/-- What a read of the sensors leaves of the power: the values and limits, and a hold that stands or starts. -/
theorem Mod.sensed_power (hl : vs.length = 110) : ∃ h, (m.sensed vs).power = { (m.heated vs).power with holding := h } ∧
    (∀ x, m.power.holding = some x → h = some x) ∧
    (m.power.pwrGood = true → m.power.holding = none → (sensorsWhere vs fun v x => x.2.2 ≤ v) ≠ [] → ∃ i, h = some (true, i)) := by
  have hread : m.sensed vs = match sensorsWhere vs fun v x => x.2.2 ≤ v with
      | i :: _ => (if 96 < vs.getD 108 0 - vs.getD 109 0 then (m.heated vs).raiseCause 7 else m.heated vs).beginHold true i
      | [] => if 96 < vs.getD 108 0 - vs.getD 109 0 then (m.heated vs).raiseCause 7 else m.heated vs :=
    if_neg (by simp [hl, sensorCount])
  have hpower : (if 96 < vs.getD 108 0 - vs.getD 109 0 then (m.heated vs).raiseCause 7 else m.heated vs).power = (m.heated vs).power :=
    Mod.power_of_apart (ite_apart (Mod.raiseCause_apart _ 7) rfl)
  rw [hread]
  generalize (if 96 < vs.getD 108 0 - vs.getD 109 0 then (m.heated vs).raiseCause 7 else m.heated vs) = t at hpower
  have hholding : t.power.holding = m.power.holding := (congrArg Power.holding hpower).trans rfl
  have hgood : t.power.pwrGood = m.power.pwrGood := (congrArg Power.pwrGood hpower).trans rfl
  cases sensorsWhere vs fun v x => x.2.2 ≤ v with
  | nil => exact ⟨m.power.holding, hpower, fun x hx => hx, fun _ _ hne => absurd rfl hne⟩
  | cons i is =>
    dsimp only
    rw [← hpower]
    cases hh : m.power.holding with
    | some x =>
      rw [Mod.beginHold_held (hholding.trans hh)]
      exact ⟨some x, by rw [← hh, ← hholding], fun y hy => hy, nofun⟩
    | none =>
      cases hp : m.power.pwrGood with
      | true =>
        rw [Mod.beginHold_starts (hholding.trans hh) (hgood.trans hp)]
        exact ⟨some (true, i), rfl, nofun, fun _ _ _ => ⟨i, rfl⟩⟩
      | false =>
        obtain ⟨h, hpow⟩ := Mod.beginHold_power (m := t) (thermal := true) (n := i)
        exact ⟨h, hpow, nofun, nofun⟩

end Sensors

/-! ### The end of the hold (R451, R571) -/

/-- R473, R475: a detected fault stands in the log with its class, level and first word. -/
theorem Mod.addLog_newest (m : Mod) {r : LogRec} (h : 2 ≤ r.outcome) :
    ∃ q ∈ (m.addLog r).log, q.cls = r.cls ∧ q.level = r.level ∧ q.info0 = r.info0 := by
  have hextend (c : Prop) [Decidable c] (x : Mod) (b : Bytes) : (if c then x.extend 6 b else x).log = x.log := by
    split <;> rfl
  unfold Mod.addLog
  dsimp only
  rw [if_neg (by simp [show ¬ r.outcome ≤ 1 by omega]), if_pos h, Mod.raiseCause_log, hextend, Mod.trace_log]
  exact ⟨_, List.mem_append_right (lastN 3071 m.log) (List.mem_singleton.mpr rfl), rfl, rfl, rfl⟩

section Shutdown
variable (m : Mod)

/-- A level that begins writes no record of its own. -/
theorem Mod.beginLevel_log (e : Escalation) : (m.beginLevel e).log = m.log := by
  unfold Mod.beginLevel
  dsimp only
  rw [foldl_field (g := Mod.log)]
  · rfl
  · intro m o
    split
    · exact Mod.complete_log _ _ _ _ _
    · rfl

theorem Mod.takeDump_log (record level : Nat) : (m.takeDump record level).log = m.log := by
  unfold Mod.takeDump
  by_cases h : m.boot.noFirmware = true
  · rw [if_pos h]
  · rw [if_neg h]
    simp only [Mod.writeC_log]
    rfl

theorem Mod.sendNotice_log (n : Notice) : (m.sendNotice n).log = m.log :=
  foldl_field (f := fun m e => m.emit (.resetNotice e (n.bytes _))) (g := Mod.log) (fun _ _ => rfl) _ m

theorem Mod.notify_log (n : Notice) : (m.notify n).log = m.log := Mod.sendNotice_log m n

/-- The module at the end of the hold, once keep RAM is flushed, the record of level 5 is written and the notice is out; the rails are
still up. -/
def Mod.lastRecorded (n : Nat) : Mod :=
  let m := m.flushLog
  let rec_ := m.record
  let m := m.addLog { time := 0, record := 0, cls := 0x40, outcome := 7, level := 5, unit := ⟨15, 0⟩, info0 := n }
  let m := m.beginLevel { level := 5, unit := 0, started := m.now, record := rec_ }
  let x : Notice := { kind := 1, scope := 3, side := 0, noticeId := m.nextNotice, time := m.timer, record := rec_
                      jobs := Mod.noticeJobs m.jobs, sent := 0 }
  ({ m with nextNotice := m.nextNotice + 1 }.notify x).takeDump rec_ 5

/-- The record of the shutdown stands in the log, with the sensor or rail in INFO0. -/
theorem Mod.lastRecorded_log (n : Nat) : ∃ r ∈ (m.lastRecorded n).log, r.cls = 0x40 ∧ r.level = 5 ∧ r.info0 = n := by
  have hlog : (m.lastRecorded n).log = (m.flushLog.addLog { time := 0, record := 0, cls := 0x40, outcome := 7, level := 5
                                                            unit := ⟨15, 0⟩, info0 := n }).log :=
    (Mod.takeDump_log _ _ _).trans ((Mod.notify_log _ _).trans (Mod.beginLevel_log _ _))
  rw [hlog]
  exact Mod.addLog_newest _ (Nat.le_of_ble_eq_true rfl)

variable {m}

theorem Mod.shutDown_idle (h : m.power.holding = none) : m.shutDown = m := by
  simp only [Mod.shutDown, h]

theorem Mod.shutDown_held {th : Bool} {n : Nat} (h : m.power.holding = some (th, n)) : m.shutDown = { (m.lastRecorded n).mainLost with
    power := { (m.lastRecorded n).mainLost.power with cycleReq := true }
    boot := { (m.lastRecorded n).mainLost.boot with
      stage := if m.boot.stage != .ready && m.boot.stage != .resetting then .failed else .off } } := by
  simp only [Mod.shutDown, h]
  rfl

end Shutdown

/-- Settles O59: the limiter, the sensors, the faults of rails, the thermal limit, and the end of the hold. -/
theorem powerAndThermalRows : Obligations.PowerAndThermalRows := by
  intro s mv ma arrays rail vs
  have hrail {m : Mod} (h : (if rail < 24 && s.m.power.railUp rail then s.m.beginHold false rail else s.m) = m) :
      becomes (.railFault rail) s m :=
    becomes_of_lift (f := fun m => if rail < 24 && m.power.railUp rail then m.beginHold false rail else m) rfl h
  refine ⟨?sample, ?limiter, fun hl => ?_, fun hl => ?sensors, fun h => hrail (if_neg (by simp [h])), fun h hh => hrail ?railHeld,
    fun h => hrail (if_neg (by simp [h])), fun hr hu hh hp => ?railHold, fun h => ?_, fun hr ht hs => ?raise, fun h => ?_, fun t0 h => ?_,
    fun h => ?_, fun th n h => ?shutdown⟩
  case sample =>
    have hpower := s.m.sampled_power mv ma arrays
    exact next_of_lift (f := fun m => m.sampled mv ma arrays) rfl ⟨congrArg Power.window hpower, congrArg Power.inputMv hpower,
      congrArg Power.inputMa hpower, congrArg Power.arraysMw hpower, (congrArg Power.limit hpower).trans rfl, Mod.sampled_low ma arrays⟩
  case limiter =>
    obtain ⟨units, hunits, gaps, hapart, hstanding⟩ := s.m.limit_spec
    have hpower := Mod.power_of_apart hapart
    refine next_of_lift (f := Mod.limit) rfl ⟨Mod.mem_of_standing hstanding, Mod.jobs_of_standing hstanding, Mod.lanes_of_apart hapart,
      Mod.arrays_of_apart hapart, (congrArg Power.limit hpower).trans rfl,
      (congrArg Power.thermal hpower).trans rfl, ?_⟩
    dsimp only
    rw [hpower]
    exact ⟨Nat.mul_mod_right 256 units, Nat.mul_le_mul_left 256 hunits, by simp only [beq_iff_eq]; omega⟩
  · exact becomes_of_lift (f := fun m => m.sensed vs) rfl (if_pos (by simpa [sensorCount] using hl))
  case sensors =>
    obtain ⟨h, hpower, hstands, hstarts⟩ := Mod.sensed_power (m := s.m) hl
    refine next_of_lift (f := fun m => m.sensed vs) rfl ?_
    dsimp only
    rw [hpower]
    exact ⟨rfl, fun ht => if_pos ht, fun ht => if_neg (ne_true_of_eq_false ht), Mod.heated_throttling (m := s.m),
      fun hp hh hex => hstarts hp hh (sensorsWhere_ne_nil.mpr (by simpa only [decide_eq_true_eq] using hex)), hstands⟩
  case railHeld =>
    rw [Mod.beginHold_held hh]
    exact ite_self _
  case railHold =>
    have heq : (if rail < 24 && s.m.power.railUp rail then s.m.beginHold false rail else s.m) = s.m.beginHold false rail :=
      if_pos (by simp [hr, hu])
    obtain ⟨hlength, hramps⟩ := Mod.beginHold_ramps (thermal := false) (n := rail) hh hp
    refine next_of_lift (f := fun m => if rail < 24 && m.power.railUp rail then m.beginHold false rail else m) rfl ?_
    dsimp only
    rw [heq]
    exact ⟨by rw [Mod.beginHold_starts hh hp], hlength, hramps⟩
  · exact becomes_of_lift (f := Mod.thermalRaised) rfl (if_pos (by obtain h | h := h <;> simp [h]))
  case raise =>
    have heq : s.m.thermalRaised = ({ s.m with power := { s.m.power with thermal := min 4800 (s.m.power.thermal + 100) } } : Mod).noteBelow :=
      if_neg (by simp [hr, ht, hs])
    refine next_of_lift (f := Mod.thermalRaised) rfl ?_
    dsimp only
    rw [heq]
    exact ⟨rfl, rfl⟩
  · exact becomes_of_lift (f := Mod.thermalPersists) rfl (by simp only [Mod.thermalPersists, h])
  · exact becomes_of_lift (f := Mod.thermalPersists) rfl (by simp only [Mod.thermalPersists, h])
  · exact becomes_of_lift (f := Mod.shutDown) rfl (Mod.shutDown_idle h)
  case shutdown =>
    refine next_of_lift (f := Mod.shutDown) rfl ?_
    dsimp only
    rw [Mod.shutDown_held h]
    exact ⟨rfl, rfl, rfl, rfl, s.m.lastRecorded_log n, fun hready hreset => if_pos (by simp [hready, hreset])⟩

end Sys2Proof.Machine
end

section
/-!
PROOFS. The housekeeping: the end of a Module reset, the repetition of notices, the log flush and the trace stream (R449, R452, R460, R461,
R475, R514).
-/

namespace Sys2Proof.Machine

/-! ### Notices (R449) -/

theorem Mod.sendNotice_standing (m : Mod) (n : Notice) : (m.sendNotice n).standing = m.standing :=
  foldl_standing (f := fun m e => m.emit (.resetNotice e (n.bytes _))) (fun _ _ => rfl) _ m

theorem Mod.sendNotice_apart (m : Mod) (n : Notice) : (m.sendNotice n).apart = m.apart :=
  foldl_apart (f := fun m e => m.emit (.resetNotice e (n.bytes _))) (fun _ _ => rfl) _ m

/-- Notices go out and stay, each at most three times. -/
theorem Mod.resendNotices_spec (m : Mod) : (∀ x ∈ m.resendNotices.notices, x.sent < 3) ∧ m.resendNotices.jobs = m.jobs ∧
    m.resendNotices.mem = m.mem := by
  refine ⟨fun x hx => of_decide_eq_true (List.mem_filter.mp hx).2, ?_⟩
  have h := foldl_standing (f := fun m n => m.sendNotice n) Mod.sendNotice_standing
    (m.notices.filter fun n => n.sent < 3 && n.time.toNat + 100000 * n.sent ≤ m.now) m
  exact ⟨Mod.jobs_of_standing h, Mod.mem_of_standing h⟩

/-! ### The log flush (R475) -/

theorem Mod.flushLog_spec {m : Mod} (h : m.boot.noFirmware = false) : (∀ r ∈ m.flushLog.log, r.flushed = true) ∧
    m.flushLog.log.map (fun r => { r with flushed := true }) = m.log.map (fun r => { r with flushed := true }) ∧
    (∀ v ∈ m.flushLog.verdicts, v.flushed = true) ∧ m.flushLog.mem = m.mem := by
  rw [Mod.flushLog, if_neg (by simp [h])]
  generalize ht : (m.log.filter fun r => !r.flushed).foldl
    (fun m r => m.writeC 0xFF02 (64 * (r.record % logAreaRecords)) r.bytes) m = t
  have hlog : t.log = m.log := by
    rw [← ht]
    exact foldl_field (g := Mod.log) (fun _ _ => Mod.writeC_log _ _ _ _) _ m
  have hmem : t.mem = m.mem := by
    rw [← ht]
    exact foldl_field (g := Mod.mem) (fun _ _ => Mod.writeC_mem _ _ _ _) _ m
  refine ⟨fun r hr => ?_, ?_, fun v hv => ?_, hmem⟩
  · obtain ⟨q, -, rfl⟩ := List.mem_map.mp hr
    rfl
  · change (t.log.map _).map _ = _
    rw [List.map_map, hlog]
    rfl
  · obtain ⟨q, -, rfl⟩ := List.mem_map.mp hv
    rfl

/-! ### The trace stream (R514) -/

section Stream
variable {m : Mod} {n : Nat}

theorem Mod.streamTrace_noDest (h : m.trace.dest = none) : m.streamTrace n = m := by
  simp only [Mod.streamTrace, h]

variable {e : Endpoint} {ss : Session} (h : m.trace.dest = some e) (hs : m.session? m.trace.sid = some ss)
include h hs

theorem Mod.streamTrace_empty (hr : (m.trace.buffer.drop m.trace.streamed).take (min 254 n) = []) : m.streamTrace n = m := by
  simp only [Mod.streamTrace, h, hs, hr, List.isEmpty_nil, if_true]

theorem Mod.streamTrace_sends (hr : (m.trace.buffer.drop m.trace.streamed).take (min 254 n) ≠ []) : m.streamTrace n =
    ({ m with trace := { m.trace with
        streamed := m.trace.streamed + ((m.trace.buffer.drop m.trace.streamed).take (min 254 n)).length
        seq := m.trace.seq + 1 } } : Mod).emit
      (.trace e (m.traceDatagram ss.key ((m.trace.buffer.drop m.trace.streamed).take (min 254 n)))) := by
  simp only [Mod.streamTrace, h, hs]
  exact if_neg fun hc => hr (List.isEmpty_iff.mp hc)

end Stream

/-! ### The end of a Module reset (R452, R460, R461) -/

/-- A module that a reset has reopened: READY, with every job QUIESCED. -/
structure Mod.Reopened (m : Mod) : Prop where
  resetting : m.resetting = none
  stage : m.boot.stage = .ready
  quiesced : ∀ j ∈ m.jobs, j.phase = .quiesced

theorem Mod.notify_standing (m : Mod) (n : Notice) : (m.notify n).standing = m.standing := Mod.sendNotice_standing m n

theorem Mod.notify_resetting (m : Mod) (n : Notice) : (m.notify n).resetting = m.resetting :=
  Mod.resetting_of_apart (Mod.sendNotice_apart m n)

theorem Mod.policyUp_jobs (m : Mod) : m.policyUp.jobs = m.jobs := by
  obtain ⟨q, hq⟩ := m.policyUp_standing
  exact Mod.jobs_of_standing hq

theorem Mod.foldl_extend_jobs (m : Mod) (i : Nat) {α : Type} (b : α → Bytes) (l : List α) :
    (l.foldl (fun m x => m.extend i (b x)) m).jobs = m.jobs :=
  foldl_field (f := fun m x => m.extend i (b x)) (g := Mod.jobs) (fun _ _ => rfl) l m

theorem Mod.confirmSlot_jobs (m : Mod) : m.confirmSlot.jobs = m.jobs := Mod.jobs_of_standing m.confirmSlot_standing

theorem Mod.foldl_closeLevel_jobs (m : Mod) (l : List Escalation) : (l.foldl Mod.closeLevel m).jobs = m.jobs :=
  foldl_field (f := Mod.closeLevel) (g := Mod.jobs) (fun _ _ => rfl) l m

theorem Mod.quietAll_quiesced (m : Mod) (record : Nat) : ∀ j ∈ (m.quietAll record).jobs, j.phase = .quiesced := by
  intro j hj
  obtain ⟨k, -, rfl⟩ := List.mem_map.mp hj
  rfl

/-- The notice of the reset's end leaves the reopened module as it is. -/
theorem Mod.Reopened.notify {m : Mod} (h : m.Reopened) (n : Notice) : (m.notify n).Reopened where
  resetting := (Mod.notify_resetting m n).trans h.resetting
  stage := (congrArg Boot.stage (Mod.boot_of_standing (Mod.notify_standing m n))).trans h.stage
  quiesced := by rw [Mod.jobs_of_standing (Mod.notify_standing m n)]; exact h.quiesced

section Done
variable {m : Mod}

theorem Mod.resetDone_idle (h : m.resetting = none) : m.resetDone = m := by
  simp only [Mod.resetDone, h]

theorem Mod.resetDone_waits (h : m.boot.modRst = true ∨ m.power.cycleReq = true ∨ m.power.pwrGood = false) : m.resetDone = m := by
  unfold Mod.resetDone
  split
  · rfl
  · exact if_pos (by obtain h | h | h := h <;> simp [h])

variable {r : ModuleReset} (h : m.resetting = some r) (hrst : m.boot.modRst = false) (hcycle : m.power.cycleReq = false)
  (hgood : m.power.pwrGood = true) (h0 : m.boot.mgmt.1 ≠ .testing) (h1 : m.boot.mgmt.2 ≠ .testing)
include h hrst hcycle hgood h0 h1

theorem Mod.resetDone_fails (hf : (m.bootRom m.resetFirst).boot.stage = .failed) :
    m.resetDone = (m.bootRom m.resetFirst).startLevel 5 0 none := by
  have htest : ¬(m.boot.mgmt.1 == .testing || m.boot.mgmt.2 == .testing) = true := by simp [h0, h1]
  unfold Mod.resetDone
  rw [h]
  refine (if_neg (by simp [hrst, hcycle, hgood])).trans ?_
  extract_lets testing m'
  have hm' : m' = m := if_neg htest
  clear_value m'
  subst hm'
  exact if_pos (beq_iff_eq.mpr hf)

theorem Mod.resetDone_boots (hf : (m.bootRom m.resetFirst).boot.stage ≠ .failed) : m.resetDone.Reopened := by
  have htest : ¬(m.boot.mgmt.1 == .testing || m.boot.mgmt.2 == .testing) = true := by simp [h0, h1]
  have hguard : ¬(m.boot.modRst || m.power.cycleReq || !m.power.pwrGood) = true := by simp [hrst, hcycle, hgood]
  unfold Mod.resetDone
  rw [h]
  dsimp -zeta only
  rw [if_neg hguard]
  extract_lets testing m' booted trained repaired stopped still replaced committed rolled upped plans measured logged confirmed done closed
  have hm' : m' = m := if_neg htest
  clear_value m'
  subst hm'
  have hplans : measured.jobs = upped.jobs := Mod.foldl_extend_jobs upped 4 (fun j : Job => j.plan.bytes) plans
  have hlog : logged.jobs = measured.jobs := Mod.foldl_extend_jobs measured 6 LogRec.bytes _
  have hclosed : closed.jobs = confirmed.jobs := Mod.foldl_closeLevel_jobs confirmed done
  have hconfirmed : confirmed.jobs = logged.jobs := Mod.confirmSlot_jobs logged
  have hquiet : closed.jobs = (rolled.quietAll r.record).jobs :=
    hclosed.trans (hconfirmed.trans (hlog.trans (hplans.trans (Mod.policyUp_jobs _))))
  rw [if_neg fun hc => hf (beq_iff_eq.mp hc)]
  clear_value closed
  refine Mod.Reopened.notify ?_ _
  exact ⟨rfl, rfl, fun j hj => Mod.quietAll_quiesced rolled r.record j (hquiet ▸ hj)⟩

end Done

/-- Settles O56: the end of a Module reset, the notices, the log flush and the trace stream. -/
theorem housekeepingRows : Obligations.HousekeepingRows := by
  intro s n
  refine ⟨fun h => ?_, fun h => ?_, fun r h hrst hcycle hgood h0 h1 => ⟨fun hf => ?_, fun hf => ?boots⟩, ?_, ?_, fun h => ?_, fun h => ?_,
    fun h => ?_, fun e ss h hs => ⟨fun hr => ?_, fun hr => ?_⟩⟩
  · exact becomes_of_lift (f := Mod.resetDone) rfl (Mod.resetDone_idle h)
  · exact becomes_of_lift (f := Mod.resetDone) rfl (Mod.resetDone_waits h)
  · exact becomes_of_lift (f := Mod.resetDone) rfl (Mod.resetDone_fails h hrst hcycle hgood h0 h1 hf)
  case boots =>
    have hre := Mod.resetDone_boots h hrst hcycle hgood h0 h1 hf
    exact next_of_lift (f := Mod.resetDone) rfl ⟨hre.resetting, hre.stage, hre.quiesced⟩
  · exact becomes_of_lift (f := Mod.resendNotices) rfl rfl
  · exact next_of_lift (f := Mod.resendNotices) rfl s.m.resendNotices_spec
  · exact becomes_of_lift (f := Mod.flushLog) rfl (if_pos h)
  · exact next_of_lift (f := Mod.flushLog) rfl (Mod.flushLog_spec h)
  · exact becomes_of_lift (f := fun m => m.streamTrace n) rfl (Mod.streamTrace_noDest h)
  · exact becomes_of_lift (f := fun m => m.streamTrace n) rfl (Mod.streamTrace_empty h hs hr)
  · exact becomes_of_lift (f := fun m => m.streamTrace n) rfl (Mod.streamTrace_sends h hs hr)

end Sys2Proof.Machine
end

section
/-!
PROOFS. The code of a memory word is linear, so writing corrected words back changes no byte as it reads, as long as a failed lane that stays
in service never shows in a word of +0 (R234, R235, R237, R243).
-/

namespace Sys2Proof.Machine

/-! ### The check matrix is linear (R234, R235) -/

theorem gfDouble_xor {a b : Nat} (ha : a < 16) (hb : b < 16) : gfDouble (a ^^^ b) = gfDouble a ^^^ gfDouble b := by
  have h : ∀ a < 16, ∀ b < 16, gfDouble (a ^^^ b) = gfDouble a ^^^ gfDouble b := by decide
  exact h a ha b hb

theorem gfDouble_lt {a : Nat} (ha : a < 16) : gfDouble a < 16 := by
  have h : ∀ a < 16, gfDouble a < 16 := by decide
  exact h a ha

theorem ite_xor (p : Prop) [Decidable p] (a b : Nat) :
    (if p then a ^^^ b else 0) = (if p then a else 0) ^^^ (if p then b else 0) := by
  split <;> rfl

theorem gfMul_xor {a b : Nat} (ha : a < 16) (hb : b < 16) (c : Nat) : gfMul (a ^^^ b) c = gfMul a c ^^^ gfMul b c := by
  have ha1 := gfDouble_lt ha
  have hb1 := gfDouble_lt hb
  have ha2 := gfDouble_lt ha1
  have hb2 := gfDouble_lt hb1
  simp only [gfMul, gfDouble_xor ha hb, gfDouble_xor ha1 hb1, gfDouble_xor ha2 hb2, ite_xor]
  ac_rfl

theorem gfMul_zero (c : Nat) : gfMul 0 c = 0 := by simp [gfMul, gfDouble]

theorem symbol_lt (w : BitVec 144) (i : Nat) : symbol w i < 16 := Nat.mod_lt _ (by decide)

theorem symbol_xor (w v : BitVec 144) (i : Nat) : symbol (w ^^^ v) i = symbol w i ^^^ symbol v i := by
  rw [symbol, symbol, symbol, BitVec.toNat_xor, show 16 ^ i = 2 ^ (4 * i) by rw [Nat.pow_mul], Nat.xor_div_two_pow]
  exact Nat.xor_mod_two_pow (n := 4)

theorem Col.scale_xor {a b : Nat} (ha : a < 16) (hb : b < 16) (c : Col) : c.scale (a ^^^ b) = (c.scale a).xor (c.scale b) := by
  simp only [Col.scale, Col.xor, gfMul_xor ha hb]

theorem Col.xor_xor_comm (a b c d : Col) : (a.xor b).xor (c.xor d) = (a.xor c).xor (b.xor d) := by
  simp only [Col.xor, Col.mk.injEq]
  exact ⟨by ac_rfl, by ac_rfl, by ac_rfl, by ac_rfl⟩

theorem syndromeTo_xor (w v : BitVec 144) (n : Nat) : syndromeTo (w ^^^ v) n = (syndromeTo w n).xor (syndromeTo v n) := by
  induction n with
  | zero => simp [syndromeTo, Col.xor]
  | succ n ih => rw [syndromeTo, ih, symbol_xor, Col.scale_xor (symbol_lt w n) (symbol_lt v n), Col.xor_xor_comm]; rfl

theorem syndrome_xor (w v : BitVec 144) : syndrome (w ^^^ v) = (syndrome w).xor (syndrome v) := syndromeTo_xor w v 36

/-- An error of one symbol shows in that symbol alone. -/
theorem symbol_single {i e : Nat} (hi : i < 36) (he : e < 16) (n : Nat) :
    symbol (BitVec.ofNat 144 (e * 16 ^ i)) n = if n = i then e else 0 := by
  have hlt : e * 16 ^ i < 2 ^ 144 := calc
    e * 16 ^ i < 16 * 16 ^ i := Nat.mul_lt_mul_of_pos_right he (by positivity)
    _ = 16 ^ (i + 1) := (Nat.pow_succ' ..).symm
    _ ≤ 16 ^ 36 := Nat.pow_le_pow_right (by decide) hi
    _ = 2 ^ 144 := by norm_num
  rw [symbol, BitVec.toNat_ofNat, Nat.mod_eq_of_lt hlt]
  rcases Nat.lt_trichotomy n i with hn | rfl | hn
  · obtain ⟨k, rfl⟩ := Nat.exists_eq_add_of_lt hn
    rw [if_neg (by omega), show e * 16 ^ (n + k + 1) = 16 ^ n * (16 * (e * 16 ^ k)) by ring, Nat.mul_div_cancel_left _ (by positivity),
      Nat.mul_mod_right]
  · rw [if_pos rfl, Nat.mul_div_cancel _ (by positivity), Nat.mod_eq_of_lt he]
  · have hbig : e * 16 ^ i < 16 ^ n := calc
      e * 16 ^ i < 16 * 16 ^ i := Nat.mul_lt_mul_of_pos_right he (by positivity)
      _ = 16 ^ (i + 1) := (Nat.pow_succ' ..).symm
      _ ≤ 16 ^ n := Nat.pow_le_pow_right (by decide) hn
    rw [if_neg (by omega), Nat.div_eq_of_lt hbig, Nat.zero_mod]

theorem Col.scale_zero (c : Col) : c.scale 0 = ⟨0, 0, 0, 0⟩ := by simp [Col.scale, gfMul_zero]

theorem Col.xor_zero (c : Col) : c.xor ⟨0, 0, 0, 0⟩ = c := by simp [Col.xor]

theorem Col.zero_xor (c : Col) : Col.xor ⟨0, 0, 0, 0⟩ c = c := by simp [Col.xor]

theorem Col.xor_self (c : Col) : c.xor c = ⟨0, 0, 0, 0⟩ := by simp [Col.xor]

theorem syndromeTo_single {i e : Nat} (hi : i < 36) (he : e < 16) (n : Nat) :
    syndromeTo (BitVec.ofNat 144 (e * 16 ^ i)) n = if i < n then (hColumn i).scale e else ⟨0, 0, 0, 0⟩ := by
  induction n with
  | zero => rfl
  | succ n ih =>
    rw [syndromeTo, ih, symbol_single hi he]
    rcases Nat.lt_trichotomy i n with h | rfl | h
    · rw [if_pos h, if_neg (by omega), if_pos (by omega), Col.scale_zero, Col.xor_zero]
    · rw [if_neg (by omega), if_pos rfl, if_pos (by omega), Col.zero_xor]
    · rw [if_neg (by omega), if_neg (by omega), if_neg (by omega), Col.scale_zero, Col.xor_zero]

/-! ### What the decoder leaves of an error (R235) -/

/-- A correction lies in the word and explains the syndrome. -/
theorem explain_corrected {t : Col} {n k i e : Nat} (h : explain t n k = .corrected i e) :
    k ≤ i ∧ i < k + n ∧ e < 16 ∧ (hColumn i).scale e = t := by
  induction n generalizing k with
  | zero => cases h
  | succ n ih =>
    rw [explain] at h
    split at h
    · next e' he' =>
      obtain ⟨rfl, rfl⟩ := Decoded.corrected.inj h
      have hsound := List.find?_some he'
      have hmem := List.mem_of_find?_eq_some he'
      simp only [Bool.and_eq_true, beq_iff_eq] at hsound
      exact ⟨le_rfl, by omega, List.mem_range.mp hmem, hsound.2⟩
    · obtain ⟨hk, hi, he, ht⟩ := ih h
      exact ⟨by omega, by omega, he, ht⟩

/-- A corrected word is a code word. -/
theorem syndrome_flipSymbol {w : BitVec 144} {i e : Nat} (h : decodeWord w = .corrected i e) :
    syndrome (flipSymbol w i e) = ⟨0, 0, 0, 0⟩ := by
  unfold decodeWord at h
  dsimp only at h
  split at h
  · cases h
  · obtain ⟨-, hi, he, ht⟩ := explain_corrected h
    rw [flipSymbol, syndrome_xor, syndrome, syndrome, syndromeTo_single (by omega) he, if_pos (by omega), ht]
    exact Col.xor_self _

/-- The decoder does not see a code word. -/
theorem decodeWord_codeword {c : BitVec 144} (hc : syndrome c = ⟨0, 0, 0, 0⟩) (w : BitVec 144) : decodeWord (c ^^^ w) = decodeWord w := by
  rw [decodeWord, decodeWord, syndrome_xor, hc, Col.zero_xor]

/-- What the decoder leaves of a word's error. -/
def leftOf (e : BitVec 144) : BitVec 144 :=
  match decodeWord e with
  | .corrected i x => flipSymbol e i x
  | _ => e

theorem leftOf_codeword {c : BitVec 144} (hc : syndrome c = ⟨0, 0, 0, 0⟩) (w : BitVec 144) : leftOf (c ^^^ w) = c ^^^ leftOf w := by
  rw [leftOf, leftOf, decodeWord_codeword hc]
  split
  · exact BitVec.xor_assoc ..
  · rfl

/-- The byte of a word's error at an address. -/
def errorByte (e : BitVec 144) (a : Nat) : Byte := BitVec.ofNat 8 (e.toNat / 256 ^ (a % 16))

theorem errorByte_xor (e f : BitVec 144) (a : Nat) : errorByte (e ^^^ f) a = errorByte e a ^^^ errorByte f a := by
  rw [errorByte, BitVec.toNat_xor, show 256 ^ (a % 16) = 2 ^ (8 * (a % 16)) by rw [Nat.pow_mul], Nat.xor_div_two_pow, BitVec.ofNat_xor,
    Nat.pow_mul]
  rfl

theorem Mod.byte_eq (m : Mod) (a : Nat) : m.byte a = m.mem.get a ^^^ errorByte (leftOf (m.errorAt (granuleOf a))) a := rfl

/-! ### What failed lanes show (R243) -/

/-- A word of +0 reads as +0 whatever HBM4 lanes have failed and stay in service. What such a lane delivers is open (`Config.laneSymbol`, log
108), so the model decides neither this nor its negation. -/
def FailedLanesReadZero : Prop := ∀ (lanes : List (Nat × Nat)) (a : Nat), ({ hbmBadLanes := lanes } : Mod).byte a = 0#8

/-- An empty memory reads as what the decoder leaves of the lanes' errors. -/
theorem Mod.byte_of_lanes (m : Mod) (a : Nat) :
    ({ hbmBadLanes := m.hbmBadLanes } : Mod).byte a = errorByte (leftOf (m.laneErrorsAt (granuleOf a))) a := by
  have herr : ({ hbmBadLanes := m.hbmBadLanes } : Mod).errorAt (granuleOf a) = m.laneErrorsAt (granuleOf a) := BitVec.zero_xor
  rw [Mod.byte_eq, herr]
  exact BitVec.zero_xor

/-- It holds where the lanes deliver no error. -/
theorem failedLanesReadZero_of_silent (h : ∀ g x, Config.laneSymbol g x % 16 = 0) : FailedLanesReadZero := by
  intro lanes a
  have hfold (ls : List (Nat × Nat)) (w : BitVec 144) :
      ls.foldl (fun w x => w ^^^ flipSymbol 0 (x.2 % 36) (Config.laneSymbol (granuleOf a) x.2 % 16)) w = w := by
    induction ls generalizing w with
    | nil => rfl
    | cons x ls ih =>
      rw [List.foldl_cons, h, ih]
      simp [flipSymbol]
  have hnone : ({ hbmBadLanes := lanes } : Mod).laneErrorsAt (granuleOf a) = 0 := by
    rw [Mod.laneErrorsAt, hfold, ite_self]
  rw [({ hbmBadLanes := lanes } : Mod).byte_of_lanes a, hnone, leftOf, show decodeWord 0 = .clean by decide]
  simp [errorByte]

/-- It fails where lanes 0 and 1 of pseudo-channel 0 each spoil their symbol of granule 0 by 1: two symbols are more than the decoder mends. -/
theorem not_failedLanesReadZero_of_symbols (h0 : Config.laneSymbol 0 0 % 16 = 1) (h1 : Config.laneSymbol 0 1 % 16 = 1) :
    ¬ FailedLanesReadZero := by
  intro h
  have hpc : pseudoOf 0 = some 0 := by decide
  have herr : ({ hbmBadLanes := [(0, 0), (0, 1)] } : Mod).laneErrorsAt (granuleOf 0) = 0x11#144 := by
    simp [Mod.laneErrorsAt, granuleOf, List.filter, hpc, h0, h1, flipSymbol]
  have hbyte := h [(0, 0), (0, 1)] 0
  rw [({ hbmBadLanes := [(0, 0), (0, 1)] } : Mod).byte_of_lanes 0, herr] at hbyte
  exact absurd hbyte (by decide)

/-! ### Corrected words written back (R237) -/

section Scrub
variable (m : Mod) (g : Nat) (e : BitVec 144)

theorem Mod.setError_errorAt : (m.setError g e).errorAt g = e ^^^ m.laneErrorsAt g := by
  have hrest : (m.memErrors.filter fun p => p.1 != g).find? (fun p => p.1 == g) = none := by simp
  rw [Mod.errorAt, Mod.setError]
  dsimp only
  split
  · next he =>
    rw [hrest, he]
    rfl
  · rw [List.find?_cons_of_pos (by simp)]
    rfl

theorem Mod.setError_errorAt_ne {g' : Nat} (h : g' ≠ g) : (m.setError g e).errorAt g' = m.errorAt g' := by
  have hrest : (m.memErrors.filter fun p => p.1 != g).find? (fun p => p.1 == g') = m.memErrors.find? fun p => p.1 == g' := by
    rw [List.find?_filter]
    congr 1
    funext p
    by_cases hp : p.1 = g' <;> simp [hp, h]
  rw [Mod.errorAt, Mod.errorAt, Mod.setError]
  dsimp only
  split
  · rw [hrest]
    rfl
  · rw [List.find?_cons_of_neg (by simpa using h.symm), hrest]
    rfl

end Scrub

section Lanes
variable (hlanes : FailedLanesReadZero)
include hlanes

theorem Mod.laneErrors_hidden (m : Mod) (a : Nat) : errorByte (leftOf (m.laneErrorsAt (granuleOf a))) a = 0#8 :=
  (m.byte_of_lanes a).symm.trans (hlanes m.hbmBadLanes a)

/-- A corrected word that is written back reads as before. -/
theorem Mod.setError_byte (m : Mod) {g i e : Nat} (hd : decodeWord (m.errorAt g) = .corrected i e) (a : Nat) :
    (m.setError g (flipSymbol (m.errorAt g) i e)).byte a = m.byte a := by
  rw [Mod.byte_eq, Mod.byte_eq, show (m.setError g (flipSymbol (m.errorAt g) i e)).mem = m.mem from rfl]
  by_cases hg : granuleOf a = g
  · subst hg
    have hleft : leftOf (m.errorAt (granuleOf a)) = flipSymbol (m.errorAt (granuleOf a)) i e := by rw [leftOf, hd]
    rw [Mod.setError_errorAt, leftOf_codeword (syndrome_flipSymbol hd), errorByte_xor, Mod.laneErrors_hidden hlanes, hleft]
    simp
  · rw [Mod.setError_errorAt_ne m g _ hg]

theorem Mod.scrubWords_byte (gs : List Nat) (m : Mod) : (m.scrubWords gs).byte = m.byte := by
  unfold Mod.scrubWords
  induction gs generalizing m with
  | nil => rfl
  | cons g gs ih =>
    rw [List.foldl_cons, ih]
    split
    · next hd => exact funext (m.setError_byte hlanes hd)
    · rfl

end Lanes

end Sys2Proof.Machine
end

section
/-!
PROOFS. A segment of a data command completes (R215–R217, R237, R525). O33 computes the effect of a failed segment from the bytes before its
accesses, and the model from those after, when corrected words have been written back; the two agree if `FailedLanesReadZero`.
-/

namespace Sys2Proof.Machine

/-! ### What a read that fails leaves readable -/

/-- What the bytes of a module are read from: memory, the errors of its words, and the failed lanes that stay in service. -/
structure Words where
  mem : Memory
  memErrors : List (Nat × BitVec 144)
  hbmBadLanes : List (Nat × Nat)

def Mod.words (m : Mod) : Words := { mem := m.mem, memErrors := m.memErrors, hbmBadLanes := m.hbmBadLanes }

/-- The byte of a module that has these words. -/
def Words.byte (w : Words) : Nat → Byte := ({ mem := w.mem, memErrors := w.memErrors, hbmBadLanes := w.hbmBadLanes } : Mod).byte

section Records
variable {m : Mod}

theorem Mod.byte_of_words {u : Mod} (h : u.words = m.words) : u.byte = m.byte := congrArg Words.byte h

theorem Mod.ite_words {c : Prop} [Decidable c] {a b : Mod} {x : Words} (ha : a.words = x) (hb : b.words = x) :
    (if c then a else b).words = x := by
  split <;> assumption

theorem Mod.raiseCause_words (bit : Nat) : (m.raiseCause bit).words = m.words := Mod.ite_words (Mod.ite_words rfl rfl) rfl

theorem Mod.trace_words (r : TraceRec) : (m.trace_ r).words = m.words :=
  Mod.ite_words rfl (Mod.ite_words rfl (Mod.ite_words rfl (Mod.ite_words rfl rfl)))

theorem Mod.addLog_words (r : LogRec) : (m.addLog r).words = m.words := by
  have htrace (x : Mod) (q : TraceRec) (b : Bytes) :
      (if r.cls = 0x40 then (x.trace_ q).extend 6 b else x.trace_ q).words = x.words :=
    Mod.ite_words (Mod.trace_words q) (Mod.trace_words q)
  exact Mod.ite_words rfl (Mod.ite_words ((Mod.raiseCause_words 0).trans (htrace _ _ _)) (htrace _ _ _))

theorem Mod.logRead_words (a : Nat) (lost : Option Nat) (c : Option Cmd) : (m.logRead a lost c).words = m.words := Mod.addLog_words _

theorem Mod.countOwner_words (a : Nat) (k : Ctr) : (m.countOwner a k).words = m.words := by
  unfold Mod.countOwner
  split
  · exact Mod.ite_words rfl rfl
  · rfl

theorem Mod.sparesGone_words (r : Nat × Nat) : (m.sparesGone r).words = m.words :=
  Mod.ite_words ((Mod.raiseCause_words 1).trans (Mod.addLog_words _)) rfl

theorem Mod.moveRow_words (a : Nat) : (m.moveRow a).words = m.words := by
  unfold Mod.moveRow
  split
  · rfl
  · refine Mod.ite_words rfl (Mod.ite_words (Mod.ite_words rfl rfl) ?_)
    exact (Mod.sparesGone_words _).trans ((Mod.countOwner_words a .ROWS_REMAPPED).trans (Mod.addLog_words _))

theorem Mod.crossFor_words (c : Cmd) (locs : List Nat) : (m.crossFor c locs).1.words = m.words := by
  obtain ⟨es, n, h | ⟨r, k, h⟩⟩ := m.crossFor_cases c locs
  · rw [h]
    rfl
  · rw [h]
    exact Mod.addLog_words _

theorem Mod.checkWrite_words (c : Option Cmd) (locs : List Nat) : (m.checkWrite c locs).1.words = m.words := by
  unfold Mod.checkWrite
  split
  · exact Mod.logRead_words _ _ _
  · rfl

end Records

section Reads
variable (hlanes : FailedLanesReadZero)
include hlanes

theorem Mod.readHere_byte (m : Mod) (c : Option Cmd) (here : List Nat) : (m.readHere c here).1.byte = m.byte := by
  unfold Mod.readHere
  split
  · exact Mod.byte_of_words (Mod.logRead_words _ _ _)
  · dsimp only
    generalize ht : m.scrubWords _ = t
    have hscrub : t.byte = m.byte := by rw [← ht, Mod.scrubWords_byte hlanes]
    split
    · exact (Mod.byte_of_words ((Mod.moveRow_words _).trans (Mod.logRead_words _ _ _))).trans hscrub
    · cases c with
      | none => exact hscrub
      | some c => exact (Mod.byte_of_words (Mod.crossFor_words c here)).trans hscrub

/-- The accesses of a command change no byte as it reads. -/
theorem Mod.checkAccess_byte (m : Mod) (c : Option Cmd) (reads writes : List Nat) : (m.checkAccess c reads writes).1.byte = m.byte := by
  have hread : (m.checkLocal c reads).1.byte = m.byte := by
    obtain ⟨js, hjs⟩ := m.touched_jobs c reads
    rw [Mod.checkLocal_eq, hjs]
    exact Mod.readHere_byte hlanes _ c _
  unfold Mod.checkAccess
  dsimp only
  split
  · exact hread
  · exact (Mod.byte_of_words (Mod.checkWrite_words c writes)).trans hread

theorem Mod.runEffect_failed_byte {m t : Mod} {id : CmdId} {r : Running} {j : Job} {got : List (Nat × Byte)}
    {body : (Nat → Byte) → Effect} {st : Status} {d : Nat} {p : Bytes} (h : m.runEffect id r j got body = .failed t st d p) :
    t.byte = m.byte := by
  have hnoted (u : Mod) (f : Summary → Summary) (locs : List Nat) :
      ((u.updSum id.lane f).noteReads id r.cmd.job false locs).byte = u.byte := Mod.byte_of_words rfl
  unfold Mod.runEffect at h
  dsimp only at h
  split at h
  · cases h
  · split at h
    · obtain ⟨rfl, -⟩ := Ran.failed.inj h
      exact (hnoted _ _ _).trans (Mod.checkAccess_byte hlanes m _ _ _)
    · split at h
      · obtain ⟨rfl, -⟩ := Ran.failed.inj h
        exact (hnoted _ _ _).trans (Mod.checkAccess_byte hlanes m _ _ _)
      · cases h

end Reads

/-! ### A segment completes (R215–R217, R237, R525) -/

theorem Mod.reader_of_byte {m t : Mod} (h : t.byte = m.byte) (j : Job) (got : List (Nat × Byte)) : t.reader j got = m.reader j got := by
  funext a
  simp only [Mod.reader, h]

section Effects
variable {m : Mod} {id : CmdId} {r : Running} {j : Job} {got : List (Nat × Byte)} {body : (Nat → Byte) → Effect}

theorem Mod.runEffect_waits {locs : List Nat} (h : (body (m.reader j got)).needs j got = some locs) :
    m.runEffect id r j got body = .waits ((m.ask j id locs).setWork id.lane (.remote got false)) := by
  simp only [Mod.runEffect, h]

theorem Mod.runEffect_writes (hn : (body (m.reader j got)).needs j got = none) (hf : (body (m.reader j got)).fail = none)
    (ha : (m.checkAccess (some r.cmd) (body (m.reader j got)).reads.flatten ((body (m.reader j got)).put.writes.map (·.1))).2.2 = none) :
    ∃ t, m.runEffect id r j got body = .wrote t := by
  simp only [Mod.runEffect, hn, hf, Option.isSome_none, Bool.false_eq_true, if_false, ha]
  exact ⟨_, rfl⟩

end Effects

section Segment
variable {m : Mod} {l : Lane} {r : Running} {x : Data}

theorem Mod.cmd_of_dataAt {id : CmdId} (h : m.dataAt? id = some (r, x)) : m.cmd? id = some r := by
  unfold Mod.dataAt? at h
  split at h
  · cases h
  · next r' hr =>
    split at h
    · cases h
    · split at h
      · obtain ⟨rfl, -⟩ := Prod.mk.inj (Option.some.inj h)
        exact hr
      · cases h

/-- No operation but a vector expression has tray nodes. -/
theorem Mod.vexprNodes_other {id : CmdId} (hop : x.c.op ≠ .vexpr) (lo hi : Nat) : m.vexprNodes id x lo hi = (m, x.got, true, none) :=
  if_pos (bne_iff_ne.mpr hop)

section Rows
variable {id : CmdId} {t : Mod} {lo hi : Nat} (hr : m.cmd? id = some r) (hop : x.c.op ≠ .vexpr)
include hr hop

theorem Mod.runRows_waits (h : (m.keepBytes id x.got).runEffect id r x.j x.got (x.body x.got lo hi) = .waits t) :
    m.runRows id x lo hi = .waits t := by
  simp only [Mod.runRows, Mod.vexprNodes_other hop, hr, h]

theorem Mod.runRows_wrote (h : (m.keepBytes id x.got).runEffect id r x.j x.got (x.body x.got lo hi) = .wrote t) :
    m.runRows id x lo hi = .wrote (t.updRunning id.lane fun r => { r with segs := r.segs + 1, formed := [], took := [] }) := by
  simp only [Mod.runRows, Mod.vexprNodes_other hop, hr, h]

theorem Mod.runRows_failed {st : Status} {d : Nat} {p : Bytes}
    (h : (m.keepBytes id x.got).runEffect id r x.j x.got (x.body x.got lo hi) = .failed t st d p) :
    let f := t.failure x (x.body x.got lo hi (t.reader x.j x.got)) st d p
    m.runRows id x lo hi = .failed t f.1 f.2.1 f.2.2 := by
  simp only [Mod.runRows, Mod.vexprNodes_other hop, hr, h]

end Rows

theorem Mod.segmentComplete_eq {total done : Nat} (hl : m.running? l = some r) (hw : r.work = .segments total done false)
    (hx : m.dataAt? (r.cmd.id l) = some (r, x)) (hi : m.isolations = []) :
    m.segmentComplete l = m.runSegment (r.cmd.id l) r x := by
  have hstopped (e : Engine) : m.stoppedAt e = false := by simp [Mod.stoppedAt, hi]
  have hback (j : Job) : m.heldBack j r.cmd = false := by
    rw [Mod.heldBack, List.any_eq_false]
    intro p _
    split <;> simp [hstopped]
  have hguard : ((m.job? r.cmd.job).map fun j => m.heldBack j r.cmd).getD false = false := by
    cases m.job? r.cmd.job <;> simp [hback]
  simp only [Mod.segmentComplete, hl, hguard, hw, hx, Bool.false_eq_true, if_false]

/-- The module once a segment of a command of `n` segments has raised SIG0 under SEG_SIGNAL (R216), unless it is `bad` (R525). -/
def Mod.signalled (m : Mod) (c : Cmd) (n : Nat) (bad : Bool) : Mod :=
  if n ≤ 1 ∨ c.pkt.segSignal = false ∨ bad = true then m else m.signalTie c.pkt.sig0.toNat 1

theorem Mod.signalled_eq (c : Cmd) (n : Nat) (bad : Bool) :
    (if (decide (1 < n) && c.pkt.segSignal) = true then m.segmentSignal c bad else m) = m.signalled c n bad := by
  by_cases hn : 1 < n
  · cases hs : c.pkt.segSignal <;> cases bad <;> simp [Mod.signalled, Mod.segmentSignal, hn, hs]
  · simp [Mod.signalled, hn, Nat.not_lt.mp hn]

theorem Mod.endSegment_eq {id : CmdId} (hr : m.cmd? id = some r) (hacked : r.cmd.namesSignal = false ∨ m.acked id r.cmd.job = true) :
    m.endSegment id x =
      let n := x.segmentCount
      let bad := r.cmd.pkt.nfFail && r.sum.nonfinite != 0
      let t := m.signalled r.cmd n bad
      if r.segs < n then t.nextSegment id x bad
      else
        let u := if 1 < n then t.setWork id.lane (.segments n n bad) else t
        (u.leaves x).complete id r.ending.1 r.ending.2 (x.payload (u.reader x.j r.fetched)) := by
  have hgo : (r.cmd.namesSignal && !m.acked id r.cmd.job) = false := by rcases hacked with h | h <;> simp [h]
  simp only [Mod.endSegment, hr, hgo, Mod.signalled_eq, Bool.false_eq_true, if_false]

end Segment

/-- Leaves O33 open: it holds if failed lanes never show in a word of +0. -/
theorem segmentCompletes_of_failedLanesReadZero (hlanes : FailedLanesReadZero) : Obligations.SegmentCompletes := by
  refine ⟨fun s l r x total done hl hw hx hop hi => ?_, fun m id x r hr hacked => ⟨fun hs => ?_, fun hs hn => ?_⟩⟩
  case refine_2 => exact (Mod.endSegment_eq hr hacked).trans (if_pos hs)
  case refine_3 =>
    refine (Mod.endSegment_eq hr hacked).trans ((if_neg (Nat.not_lt.mpr hs)).trans ?_)
    rw [if_neg (by omega)]
    rfl
  intro rg e m ran
  refine ⟨becomes_of_lift (f := fun m => m.segmentComplete l) rfl ?_, fun locs hn => Mod.runEffect_waits hn, fun hn hf ha =>
    Mod.runEffect_writes hn hf ha⟩
  have hr := Mod.cmd_of_dataAt hx
  dsimp only
  rw [Mod.segmentComplete_eq hl hw hx hi, Mod.runSegment]
  cases hran : ran with
  | waits t => rw [Mod.runRows_waits hr hop hran]
  | wrote t => rw [Mod.runRows_wrote hr hop hran]; rfl
  | failed t st d p => rw [Mod.runRows_failed hr hop hran, Mod.reader_of_byte (Mod.runEffect_failed_byte hlanes hran)]; rfl

end Sys2Proof.Machine
end

section
/-!
PROOFS. The rows of a job (R71, R73, R437, R463). All of O36 holds but that the memory of a lapsed entry reads as +0, which is
`FailedLanesReadZero`.
-/

namespace Sys2Proof.Machine

/-! ### DRAIN_COMPLETE (R71) -/

/-- How the end of a job's drain, in which `n` deadlines have passed, answers the command at the head of a lane: a QUIESCE of the job that
waits for it completes, and any other goes on. -/
def Mod.answerDrain (job n : Nat) (m : Mod) (x : Lane × Running) : Mod :=
  match x.2.work with
  | .drain before =>
    if x.2.cmd.job != job then m
    else
      let d := n - before
      let id := x.2.cmd.id x.1
      if d = 0 then m.complete id .ok 0
      else (m.updSum x.1 fun s => { s with degraded := true }).complete id .okDegraded d
  | _ => m

section Drain
variable {m : Mod} {job n : Nat} {l : Lane} {r : Running} {before : Nat}

theorem Mod.answerDrain_other {x : Lane × Running} (h : x.2.cmd.job ≠ job ∨ ∀ d, x.2.work ≠ .drain d) : m.answerDrain job n x = m := by
  unfold Mod.answerDrain
  split
  · next d hd =>
    rcases h with h | h
    · exact if_pos (bne_iff_ne.mpr h)
    · exact absurd hd (h d)
  · rfl

theorem foldl_answerDrain_others {xs : List (Lane × Running)} (h : ∀ x ∈ xs, x.2.cmd.job ≠ job ∨ ∀ d, x.2.work ≠ .drain d) (m : Mod) :
    xs.foldl (Mod.answerDrain job n) m = m := by
  induction xs with
  | nil => rfl
  | cons x xs ih =>
    rw [List.foldl_cons, Mod.answerDrain_other (h x List.mem_cons_self)]
    exact ih fun y hy => h y (List.mem_cons_of_mem x hy)

/-- Of the commands that run, the drain answers the one QUIESCE of the job. -/
theorem foldl_answerDrain_middle {others rest : List (Lane × Running)} {x : Lane × Running}
    (h : ∀ y ∈ others ++ rest, y.2.cmd.job ≠ job ∨ ∀ d, y.2.work ≠ .drain d) (m : Mod) :
    (others ++ x :: rest).foldl (Mod.answerDrain job n) m = m.answerDrain job n x := by
  rw [List.foldl_append, foldl_answerDrain_others (fun y hy => h y (List.mem_append_left _ hy)), List.foldl_cons,
    foldl_answerDrain_others fun y hy => h y (List.mem_append_right _ hy)]

theorem Mod.answerDrain_ok (hw : r.work = .drain before) (hj : r.cmd.job = job) (hn : n ≤ before) :
    m.answerDrain job n (l, r) = m.complete (r.cmd.id l) .ok 0 := by
  simp [Mod.answerDrain, hw, hj, Nat.sub_eq_zero_of_le hn]

theorem Mod.answerDrain_degraded (hw : r.work = .drain before) (hj : r.cmd.job = job) (hn : before < n) :
    m.answerDrain job n (l, r) = (m.updSum l fun s => { s with degraded := true }).complete (r.cmd.id l) .okDegraded (n - before) := by
  simp [Mod.answerDrain, hw, hj, show ¬ n ≤ before by omega, Nat.sub_eq_zero_iff_le]

variable {j : Job}

theorem Mod.drainComplete_drained (h : m.job? job = some j) (hp : j.phase = .quiescing) (hd : m.drained j = true) :
    m.drainComplete job = m.runnings.foldl (Mod.answerDrain job j.deadlines) (m.updJob job fun j => { j with phase := .quiesced }) := by
  simp only [Mod.drainComplete, h, hp, hd]
  rfl

theorem Mod.drainComplete_busy (h : m.job? job = some j) (hd : m.drained j = false) : m.drainComplete job = m := by
  simp [Mod.drainComplete, h, hd]

end Drain

/-! ### RETAIN_EXPIRY (R73) -/

/-- The module once some extents hold +0. -/
def Mod.zeroAll (m : Mod) (es : List (Nat × Nat)) : Mod := es.foldl (fun m e => m.zeroFill e.1 e.2) m

/-- A byte that no cell names reads as +0. -/
theorem Memory.get_of_unlisted {m : Memory} {a : Nat} (h : ∀ c ∈ m, c.1 ≠ a) : m.get a = 0#8 := by
  induction m with
  | nil => rfl
  | cons c m ih =>
    rw [Memory.get, if_neg (h c List.mem_cons_self), ih fun d hd => h d (List.mem_cons_of_mem c hd), ite_self]

section Fill
variable (m : Mod) (es : List (Nat × Nat))

theorem foldl_fillPlace_eq (rs : List Retained) (m : Mod) :
    rs.foldl (fun m r => m.fillPlace r.place) m = m.zeroAll (rs.flatMap fun r => r.place.extents) := by
  induction rs generalizing m with
  | nil => rfl
  | cons r rs ih =>
    rw [List.foldl_cons, ih, List.flatMap_cons, Mod.zeroAll, Mod.zeroAll, List.foldl_append]
    rfl

/-- Filling extents keeps what each of them does not cover of memory and of its errors, and changes nothing else. -/
theorem Mod.zeroAll_eq : m.zeroAll es = { m with
    mem := m.mem.filter fun c => es.all fun e => c.1 < e.1 || e.1 + e.2 ≤ c.1
    memErrors := m.memErrors.filter fun p => es.all fun e => 16 * p.1 + 16 ≤ e.1 || e.1 + e.2 ≤ 16 * p.1 } := by
  induction es generalizing m with
  | nil => simp [Mod.zeroAll]
  | cons e es ih =>
    rw [show m.zeroAll (e :: es) = (m.zeroFill e.1 e.2).zeroAll es from rfl, ih]
    simp [Mod.zeroFill, Memory.clear, List.filter_filter, Bool.and_comm]

theorem Mod.zeroAll_get_covered {a : Nat} {e : Nat × Nat} (he : e ∈ es) (h1 : e.1 ≤ a) (h2 : a < e.1 + e.2) :
    (m.zeroAll es).mem.get a = 0#8 := by
  rw [Mod.zeroAll_eq]
  refine Memory.get_of_unlisted fun c hc hca => ?_
  have := List.all_eq_true.mp (List.mem_filter.mp hc).2 e he
  simp only [hca, Bool.or_eq_true, decide_eq_true_eq] at this
  omega

theorem Mod.zeroAll_get_apart (hwf : m.mem.wf) {a : Nat} (h : ∀ e ∈ es, a < e.1 ∨ e.1 + e.2 ≤ a) :
    (m.zeroAll es).mem.get a = m.mem.get a := by
  rw [Mod.zeroAll_eq]
  exact Memory.get_filter hwf fun _ => by simpa using fun x y hxy => h (x, y) hxy

/-- The word of a byte that is filled keeps no error but those of the lanes. -/
theorem Mod.zeroAll_errorAt {a : Nat} {e : Nat × Nat} (he : e ∈ es) (h1 : e.1 ≤ a) (h2 : a < e.1 + e.2) :
    (m.zeroAll es).errorAt (granuleOf a) = m.laneErrorsAt (granuleOf a) := by
  have hnone : ((m.zeroAll es).memErrors.find? fun p => p.1 == granuleOf a) = none := by
    rw [Mod.zeroAll_eq, List.find?_eq_none]
    intro p hp hpa
    have := List.all_eq_true.mp (List.mem_filter.mp hp).2 e he
    simp only [beq_iff_eq, granuleOf, Bool.or_eq_true, decide_eq_true_eq] at hpa this
    omega
  rw [Mod.errorAt, hnone]
  simp [Mod.laneErrorsAt, Mod.zeroAll_eq]

/-- A byte that is filled reads as one of an empty memory does over the same lanes. -/
theorem Mod.zeroAll_byte {a : Nat} {e : Nat × Nat} (he : e ∈ es) (h1 : e.1 ≤ a) (h2 : a < e.1 + e.2) :
    (m.zeroAll es).byte a = ({ hbmBadLanes := m.hbmBadLanes } : Mod).byte a := by
  rw [Mod.byte_eq, m.zeroAll_get_covered es he h1 h2, m.zeroAll_errorAt es he h1 h2, Mod.byte_of_lanes]
  exact BitVec.zero_xor

end Fill

section Expiry
variable (m : Mod) (job t : Nat)

/-- The retained entries of a job's tensor whose 60 s have passed. -/
def Mod.lapsed (r : Retained) : Bool := r.job == job && r.place.decl.id == t && r.since + 6000000000 ≤ m.now

theorem Mod.lapsed_iff {r : Retained} : m.lapsed job t r = true ↔ r.job = job ∧ r.place.decl.id = t ∧ r.since + 6000000000 ≤ m.now := by
  simp [Mod.lapsed, and_assoc]

/-- The extents of the retained entries that lapse. -/
def Mod.lapsedExtents : List (Nat × Nat) := (m.retained.filter (m.lapsed job t)).flatMap fun r => r.place.extents

theorem Mod.mem_lapsedExtents {e : Nat × Nat} : e ∈ m.lapsedExtents job t ↔
    ∃ r ∈ m.retained, r.job = job ∧ r.place.decl.id = t ∧ r.since + 6000000000 ≤ m.now ∧ e ∈ r.place.extents := by
  simp [Mod.lapsedExtents, Mod.lapsed_iff, and_assoc]

/-- The module once some retained entries are gone. -/
def Mod.releaseRetained (m : Mod) (due : List Retained) : Mod := { m with retained := m.retained.filter fun r => !due.contains r }

theorem Mod.releaseRetained_filter {u : Mod} (p : Retained → Bool) (h : u.retained = m.retained) :
    u.releaseRetained (m.retained.filter p) = { u with retained := m.retained.filter fun r => !p r } := by
  have hkeep : m.retained.filter (fun r => !(m.retained.filter p).contains r) = m.retained.filter fun r => !p r :=
    List.filter_congr fun r hr => by
      have hdue : (m.retained.filter p).contains r = p r := by
        rw [Bool.eq_iff_iff, List.contains_iff_mem, List.mem_filter]
        exact and_iff_right hr
      rw [hdue]
  rw [Mod.releaseRetained, h, hkeep]

theorem Mod.retainExpiry_eq :
    m.retainExpiry job t = { m.zeroAll (m.lapsedExtents job t) with retained := m.retained.filter fun r => !m.lapsed job t r } := by
  have hfold := foldl_fillPlace_eq (m.retained.filter (m.lapsed job t)) m
  exact (congrArg (Mod.releaseRetained · (m.retained.filter (m.lapsed job t))) hfold).trans
    (m.releaseRetained_filter _ (by rw [Mod.zeroAll_eq]))

theorem Mod.retainExpiry_mem : (m.retainExpiry job t).mem = (m.zeroAll (m.lapsedExtents job t)).mem := by rw [Mod.retainExpiry_eq]

theorem Mod.retainExpiry_byte {a : Nat} {e : Nat × Nat} (he : e ∈ m.lapsedExtents job t) (h1 : e.1 ≤ a) (h2 : a < e.1 + e.2) :
    (m.retainExpiry job t).byte a = ({ hbmBadLanes := m.hbmBadLanes } : Mod).byte a := by
  rw [Mod.retainExpiry_eq]
  exact m.zeroAll_byte _ he h1 h2

end Expiry

/-! ### Notices (R437, R463) -/

section Notices
variable {m : Mod} {n : NoticeRec}

theorem Mod.applyNotice_again (h : m.noticeIds.contains n.noticeId = true) : m.applyNotice n = m := if_pos h

theorem Mod.applyNotice_stale (h : m.noticeIds.contains n.noticeId = false) (hj : m.current? n.job n.inc = none) :
    m.applyNotice n = { m with noticeIds := n.noticeId :: m.noticeIds } := by
  have hj' : ({ m with noticeIds := n.noticeId :: m.noticeIds } : Mod).current? n.job n.inc = none := hj
  simp only [Mod.applyNotice, h, hj']
  rfl

theorem Mod.applyNotice_resets {j : Job} (h : m.noticeIds.contains n.noticeId = false) (hj : m.current? n.job n.inc = some j)
    (hs : m.isSteward = false) (hk : n.kind = 1 ∨ n.kind = 2 ∨ n.kind = 4) :
    m.applyNotice n = ({ m with noticeIds := n.noticeId :: m.noticeIds } : Mod).rankReset n.job n.rank := by
  have hj' : ({ m with noticeIds := n.noticeId :: m.noticeIds } : Mod).current? n.job n.inc = some j := hj
  have hkind : (n.kind == 1 || n.kind == 2 || n.kind == 4) = true := by simpa [or_assoc] using hk
  refine (if_neg (Bool.eq_false_iff.mp h)).trans ?_
  dsimp only
  rw [hj']
  dsimp only
  rw [if_pos hkind, if_neg (by simp [hs])]

/-- Whether a member may hold a job, as far as a module knows the job's ranks. -/
def Mod.mayHold (m : Mod) (job a : Nat) : Bool :=
  match m.job? job with
  | some j => (List.range j.plan.ranks).any fun r => j.plan.addrOf r == a
  | none => true

theorem Mod.relay_steward (h : m.isSteward = true) :
    m.relay n = ({ m with
      out := ((m.members.filter (m.mayHold n.job)).reverse.map fun a => Out.notice a n) ++ m.out } : Mod).applyNotice n := by
  have hsent := emitAll_eq ((m.members.filter (m.mayHold n.job)).map fun a => (a, Out.notice a n)) m
  rw [List.foldl_map, List.map_map] at hsent
  rw [Mod.relay, if_neg (by simp [h]), List.map_reverse]
  exact congrArg (Mod.applyNotice · n) hsent

theorem Mod.relay_member (h : m.isSteward = false) : m.relay n = m := by
  simp [Mod.relay, h]

end Notices

/-- A retained entry of one byte that has stood for 60 s. -/
def lapsedAt (lanes : List (Nat × Nat)) (a : Nat) : State :=
  { m := { hbmBadLanes := lanes, timer := 6000000000
           retained := [{ job := 0, place := ⟨{ id := 0, tier := .a, bytes := 1 }, .flat a⟩, since := 0 }] }
    pending := [] }

theorem lapsedAt_holds (lanes : List (Nat × Nat)) (a : Nat) : ∃ r ∈ (lapsedAt lanes a).m.retained,
    r.job = 0 ∧ r.place.decl.id = 0 ∧ r.since + 6000000000 ≤ (lapsedAt lanes a).m.now ∧ (a, 1) ∈ r.place.extents := by
  simp [lapsedAt, Mod.now, TensorPlace.extents, Placement.extents]

/-- Leaves O36 open: it says no less and no more than that failed lanes never show in a word of +0, since its other clauses hold. -/
theorem jobRows_iff : Obligations.JobRows ↔ FailedLanesReadZero := by
  constructor
  · intro h lanes a
    obtain ⟨-, -, hexpiry, -⟩ := h (lapsedAt lanes a) 0
    obtain ⟨u, hu, -, -, -, hzero, -⟩ := hexpiry 0
    obtain rfl : { lapsedAt lanes a with m := (lapsedAt lanes a).m.retainExpiry 0 0 } = u := Host.Outcome.next.inj hu
    obtain ⟨r, hr, hjob, htensor, hold, hin⟩ := lapsedAt_holds lanes a
    have hread := (lapsedAt lanes a).m.retainExpiry_byte 0 0
      ((Mod.mem_lapsedExtents _ 0 0).mpr ⟨r, hr, hjob, htensor, hold, hin⟩) le_rfl a.lt_succ_self
    exact hread.symm.trans (hzero r hr hjob htensor hold _ hin a le_rfl a.lt_succ_self)
  · intro hzero s job
    refine ⟨fun j hj hp hd => ⟨fun hr => ?_, fun l r before others rest hr hw hrj hothers => ⟨fun hn => ?_, fun hn => ?_⟩⟩,
      fun j hj hd => ?_, fun t => next_of_lift (f := fun m => m.retainExpiry job t) rfl ⟨?_, ?_, ?_, ?_, ?_⟩, fun n hn => ?_,
      fun n hn hj => ?_, fun n j hn hj hs hk => ?_, fun n hs => ⟨_, rfl, ?_⟩, fun n hs => ?_⟩
    · exact becomes_of_lift (f := fun m => m.drainComplete job) rfl (by rw [Mod.drainComplete_drained hj hp hd, hr]; rfl)
    · refine becomes_of_lift (f := fun m => m.drainComplete job) rfl ?_
      rw [Mod.drainComplete_drained hj hp hd, hr, foldl_answerDrain_middle hothers, Mod.answerDrain_ok hw hrj hn]
    · refine becomes_of_lift (f := fun m => m.drainComplete job) rfl ?_
      rw [Mod.drainComplete_drained hj hp hd, hr, foldl_answerDrain_middle hothers, Mod.answerDrain_degraded hw hrj hn]
    · exact becomes_of_lift (f := fun m => m.drainComplete job) rfl (Mod.drainComplete_busy hj hd)
    · exact congrArg Mod.retained (s.m.retainExpiry_eq job t)
    · dsimp only
      rw [Mod.retainExpiry_eq, Mod.zeroAll_eq]
    · dsimp only
      rw [Mod.retainExpiry_eq, Mod.zeroAll_eq]
    · intro r hr hj ht hold e he a h1 h2
      exact (s.m.retainExpiry_byte job t ((s.m.mem_lapsedExtents job t).mpr ⟨r, hr, hj, ht, hold, he⟩) h1 h2).trans (hzero _ a)
    · intro hwf a ha
      dsimp only
      rw [Mod.retainExpiry_mem]
      refine s.m.zeroAll_get_apart _ hwf fun e he => ?_
      obtain ⟨r, hr, hj, ht, hold, hin⟩ := (s.m.mem_lapsedExtents job t).mp he
      exact ha r hr hj ht hold e hin
    · exact becomes_of_lift (f := fun m => m.applyNotice n) rfl (Mod.applyNotice_again hn)
    · exact becomes_of_lift (f := fun m => m.applyNotice n) rfl (Mod.applyNotice_stale hn hj)
    · exact becomes_of_lift (f := fun m => m.applyNotice n) rfl (Mod.applyNotice_resets hn hj hs hk)
    · exact becomes_of_lift (f := fun m => m.relay n) rfl (Mod.relay_steward hs)
    · exact becomes_of_lift (f := fun m => m.relay n) rfl (Mod.relay_member hs)

end Sys2Proof.Machine
end
